-- ==== Sys2Proof/Word.lean ====
section
/-! DEFINITION. The word types of the machine and their plainest arithmetic (R5, R39, R43, R77). -/

namespace Sys2Proof

/-- A 64-bit scalar register, control register or virtual address (R29, R39). -/
abbrev Word := BitVec 64

/-- One lane of a vector register, or one instruction word (R32, R43). -/
abbrev Lane := BitVec 32

/-- One byte of memory or LM. -/
abbrev Byte := BitVec 8

/-- The 96 lanes of one physical vector register (R32). -/
abbrev Lanes := Vector Lane 96

/-- A scalar, vector or other register number of a word: seven bits (R44). -/
abbrev Reg := BitVec 7

/-- `b` as 0 or 1, zero-extended (R99: compare results are 1 or 0). -/
def ofBool64 (b : Bool) : Word := if b then 1#64 else 0#64

end Sys2Proof
end

