-- ==== Sys2Proof/Machine/Types.lean ====
section
/-! DEFINITION. Plain-data types that both the syntax of a step and the machine's state mention: trap causes, requests,
packets and notices. -/

namespace Sys2Proof

/-- The trap causes of R351, in the order of their codes 0x01 to 0x15. -/
inductive Cause where
  | illegal | operand | align | xlateLd | xlateSt | protLd | protSt | stale | lmfull | poison
  | tinteg | mremote | barto | watchdog | swtrap | brk | preempt | halt | peerlost | format | queue
  deriving DecidableEq, Repr

/-- A port of the router: an electrical port 0 to 30 or a global port 0 to 47 (R13, R374). -/
inductive Port where
  | electrical (e : Nat)
  | global (p : Nat)
  deriving DecidableEq, Repr

/-- A host access: over the Iasil link (R344) a read of `len` bytes, a write of `data` at a host-visible address, where `poisoned` is the
poison mark that the link carries with a write (R365), and the taking of a line of this device into the host's caches (R194); at host memory,
whose home the host shares with this device's link (R194, R195), a read, a write, and the taking of a line. -/
inductive HostReq where
  | read (addr len : Nat)
  | write (addr : Nat) (data : List Byte) (poisoned : Bool)
  | take (addr : Nat)
  | ownRead (off len : Nat)
  | ownWrite (off : Nat) (data : List Byte)
  | ownTake (off : Nat)
  deriving DecidableEq, Repr

/-- Where the on-die code of R370 finds an error. -/
inductive SoftSite where
  /-- A single-bit error of a core's storage: corrected on read. -/
  | correctable (core : Nat)
  /-- An uncorrectable error in a clean line of L1 or L2 of a core's die: the line is dropped. -/
  | cleanLine (core line : Nat)
  /-- An uncorrectable error in a dirty L1 or L2 line: the sector of that memory address is poisoned. -/
  | dirtySector (core addr : Nat)
  /-- An uncorrectable error in an LM sector of a core. -/
  | lmSector (core off : Nat)
  /-- An uncorrectable error in a register, accumulator, queue entry or store-fault record of a crew. -/
  | crewState (core crew : Nat)
  deriving DecidableEq, Repr

/-- The 64-bit atomics of R204, in the order of their opcodes. -/
inductive AtomOp where
  | add | min | max | minn | maxn | and | or | xor | xchg | cas (expected : Word) | fadd
  deriving DecidableEq, Repr

/-- One rank's contribution to a collective, as it reaches this device (R256, R259, R261, R262); `bad` lists the words of `data` that come
from a poisoned sector (R366). -/
structure CollPacket where
  comm : Nat
  gen : BitVec 16
  nth : Nat
  rank : Nat
  op : Nat
  count : Nat
  root : Nat
  data : List Byte
  bad : List Nat
  deriving DecidableEq, Repr

/-- Exchange data from source rank `src`, at byte offset `off` of its send queue for this device (R314, R318); `bad` lists the words of
`data` that come from a poisoned sector (R366). -/
structure XData where
  comm : Nat
  round : Nat
  gen : BitVec 16
  src : Nat
  off : Nat
  data : List Byte
  bad : List Nat
  deriving DecidableEq, Repr

/-- An end marker of source rank `src`: the bytes its queue held, and the fault flag of R322. -/
structure XEnd where
  comm : Nat
  round : Nat
  gen : BitVec 16
  src : Nat
  len : Nat
  fault : Bool
  deriving DecidableEq, Repr

/-- One device's part of a calendar (R317): from slot `start`, one destination rank and budget a slot, or none. -/
structure GrantMsg where
  comm : Nat
  round : Nat
  gen : BitVec 16
  arbGen : BitVec 16
  start : Nat
  slots : List (Option (Nat × Nat))
  residual : Bool
  receives : Bool
  deriving DecidableEq, Repr

/-- A residual report of rank `rank` to Anvil: quanta left for each destination rank (R319). -/
structure XReport where
  comm : Nat
  round : Nat
  gen : BitVec 16
  rank : Nat
  left : List Nat
  deriving DecidableEq, Repr

/-- A demand post as it reaches an arbiter: the capped entries of rank `rank` (R316, R326). -/
structure XPost where
  comm : Nat
  round : Nat
  rank : Nat
  entries : List Nat
  deriving DecidableEq, Repr

/-- A generation notice (R384): the member set, the spare set, the slot binding of every communicator (0xFFFF marks a
vacant slot), the leaders, the port split, the arbiter generation, the retiring device and the spares assigned to lost
or retiring devices. With it travel the leader's directions for the clones of R391 to R393: the plan pages of those devices. -/
structure Notice where
  gen : BitVec 16
  members : List Nat
  spares : List Nat
  slots : List (Nat × List (BitVec 16))
  leader : BitVec 16
  standby : BitVec 16
  split : Nat
  arbGen : BitVec 16
  retiring : List Nat
  assigned : List (Nat × Nat)
  plans : List (Nat × List Byte)
  deriving DecidableEq, Repr

/-- What an end-to-end packet asks of the receiver (R252, R373). -/
inductive Payload where
  /-- A peer's store of `data` at an HBM offset of this device, by an agent with clock `pts` (R181, R254). -/
  | store (off : Nat) (data : List Byte) (pts : Nat)
  /-- A peer's load of `len` bytes at an HBM offset of this device (R180, R254). -/
  | load (off len : Nat) (pts : Nat)
  /-- A peer's scalar atomic at an HBM offset of this device (R204, R254). -/
  | atomic (off : Nat) (op : AtomOp) (value : Word) (pts : Nat)
  /-- One lane of a peer's vector atomic, of binary32 with `float` (R206, R254). -/
  | laneAtomic (off : Nat) (float : Bool) (value : Lane) (pts : Nat)
  /-- A peer of the group takes a line of this device exclusively (R181, R194). -/
  | own (off : Nat) (pts : Nat)
  /-- It gives the line back, with its bytes and the stamp of its last store (R181). -/
  | back (off : Nat) (data : List Byte) (wts : Nat)
  | coll (p : CollPacket)
  | xdata (p : XData)
  | xend (p : XEnd)
  /-- A demand post on its way to an arbiter of this device (R323, R326). -/
  | post (p : XPost)
  /-- The cancellation of a round on its way to Anvil (R328). -/
  | stop (comm round : Nat)
  /-- A spare's report to the leader: every stripe of the clone of `lost` has landed, or the clone has failed (R395, R396). -/
  | cloned (lost : Nat) (ok : Bool)
  /-- The acknowledgement of this device's packet `seq`. -/
  | ack (seq : Nat)
  /-- This device's packet `seq` has failed its tag 4 times at the sender of this one (R341). -/
  | tagLost (seq : Nat)
  deriving DecidableEq, Repr

/-- An end-to-end packet from device `src` (R256, R341, R373). -/
structure E2EPacket where
  src : Nat
  gen : BitVec 16
  seq : Nat
  encrypted : Bool
  tagOk : Bool
  payload : Payload
  deriving DecidableEq, Repr

/-- What the boot ROM finds of a firmware image (R407, R408, R414): the checks' answers and the image's version and bytes'
hash. The cryptography itself (SHA-256, ECDSA P-256) is named by the spec and not defined in it. -/
structure BootImage where
  found : Bool
  wellFormed : Bool
  signatureOk : Bool
  version : BitVec 32
  deriving DecidableEq, Repr

/-- What the ageing monitor finds short (R377, R378). -/
inductive Shortfall where
  /-- A region's delay margin is below 5 percent, or its replays exceed 1,000 a second. -/
  | delay (core : Nat)
  /-- Test rows of a core measure this retention in microseconds. -/
  | retention (core us : Nat)
  /-- The laser bias of a wavelength of a global port reaches 65,535. -/
  | bias (port wl : Nat)
  deriving DecidableEq, Repr

/-- How an in-field test of a quad ends (R289, R377). -/
inductive TestResult where
  | pass
  /-- The test names a processing-element row of a core. -/
  | row (core : Nat)
  /-- The test fails a core. -/
  | core (core : Nat)
  deriving DecidableEq, Repr

end Sys2Proof
end

