-- ==== Sys2Proof/Syntax.lean ====
section
/-! DEFINITION. The syntax: one constructor for every row of spec/opcode_table.json, first the 320 instruction words of R9 with
their encoded fields (y: the yield bit of R51, d, a, b: register fields of R44, la, lb: the last-use bits of R49, i: an immediate),
then the 115 steps of engines, fabric and host, with the operands that say which agent, crew or object a step is about. -/

namespace Sys2Proof

/-- One step of the machine (R58 to R61 for the words; the opcode table for the steps without an encoding). -/
inductive Instr where
  /-- `nop` (R102). Does nothing; with Y set it waits for every outstanding register result of the wave. -/
  | nop (y : Bool)
  /-- `add` (R99). Sets S[D] to S[A] + S[B] modulo 2^64. -/
  | add (y : Bool) (d : Reg) (a : Reg) (b : Reg)
  /-- `sub` (R99). Sets S[D] to S[A] - S[B] modulo 2^64. -/
  | sub (y : Bool) (d : Reg) (a : Reg) (b : Reg)
  /-- `addi` (R103). Adds the sign-extended IMM9 to S[A] into S[D]. -/
  | addi (y : Bool) (d : Reg) (a : Reg) (i : BitVec 9)
  /-- `mul` (R99). Sets S[D] to the low 64 bits of S[A] x S[B]. -/
  | mul (y : Bool) (d : Reg) (a : Reg) (b : Reg)
  /-- `mulh` (R99). Sets S[D] to the high 64 bits of the signed 128-bit product. -/
  | mulh (y : Bool) (d : Reg) (a : Reg) (b : Reg)
  /-- `mulhn` (R99). Sets S[D] to the high 64 bits of the unsigned product. -/
  | mulhn (y : Bool) (d : Reg) (a : Reg) (b : Reg)
  /-- `div` (R99). Signed division truncated towards zero, never trapping (R100 corner cases). -/
  | div (y : Bool) (d : Reg) (a : Reg) (b : Reg)
  /-- `divn` (R99). Unsigned division truncated, never trapping. -/
  | divn (y : Bool) (d : Reg) (a : Reg) (b : Reg)
  /-- `rem` (R99). Signed remainder with the dividend's sign. -/
  | rem (y : Bool) (d : Reg) (a : Reg) (b : Reg)
  /-- `remn` (R99). Unsigned remainder. -/
  | remn (y : Bool) (d : Reg) (a : Reg) (b : Reg)
  /-- `and` (R99). Bitwise AND of S[A] and S[B]. -/
  | and (y : Bool) (d : Reg) (a : Reg) (b : Reg)
  /-- `or` (R99). Bitwise OR of S[A] and S[B]. -/
  | or (y : Bool) (d : Reg) (a : Reg) (b : Reg)
  /-- `xor` (R99). Bitwise XOR of S[A] and S[B]. -/
  | xor (y : Bool) (d : Reg) (a : Reg) (b : Reg)
  /-- `andn` (R99). S[A] AND NOT S[B]. -/
  | andn (y : Bool) (d : Reg) (a : Reg) (b : Reg)
  /-- `andi` (R103). S[A] AND the sign-extended IMM9. -/
  | andi (y : Bool) (d : Reg) (a : Reg) (i : BitVec 9)
  /-- `ori` (R103). S[A] OR the sign-extended IMM9. -/
  | ori (y : Bool) (d : Reg) (a : Reg) (i : BitVec 9)
  /-- `xori` (R103). S[A] XOR the sign-extended IMM9. -/
  | xori (y : Bool) (d : Reg) (a : Reg) (i : BitVec 9)
  /-- `shl` (R99). Shifts S[A] left by S[B][5:0]. -/
  | shl (y : Bool) (d : Reg) (a : Reg) (b : Reg)
  /-- `shr` (R99). Logical right shift of S[A] by S[B][5:0]. -/
  | shr (y : Bool) (d : Reg) (a : Reg) (b : Reg)
  /-- `sha` (R99). Arithmetic right shift of S[A] by S[B][5:0]. -/
  | sha (y : Bool) (d : Reg) (a : Reg) (b : Reg)
  /-- `shli` (R103). Shifts S[A] left by the unsigned IMM9[5:0]. -/
  | shli (y : Bool) (d : Reg) (a : Reg) (i : BitVec 6)
  /-- `shri` (R103). Logical right shift of S[A] by IMM9[5:0]. -/
  | shri (y : Bool) (d : Reg) (a : Reg) (i : BitVec 6)
  /-- `shai` (R103). Arithmetic right shift of S[A] by IMM9[5:0]. -/
  | shai (y : Bool) (d : Reg) (a : Reg) (i : BitVec 6)
  /-- `min` (R99). Signed minimum of S[A] and S[B]. -/
  | min (y : Bool) (d : Reg) (a : Reg) (b : Reg)
  /-- `max` (R99). Signed maximum of S[A] and S[B]. -/
  | max (y : Bool) (d : Reg) (a : Reg) (b : Reg)
  /-- `minn` (R99). Unsigned minimum of S[A] and S[B]. -/
  | minn (y : Bool) (d : Reg) (a : Reg) (b : Reg)
  /-- `maxn` (R99). Unsigned maximum of S[A] and S[B]. -/
  | maxn (y : Bool) (d : Reg) (a : Reg) (b : Reg)
  /-- `seq` (R99). Sets S[D] to 1 if S[A] = S[B], else 0. -/
  | seq (y : Bool) (d : Reg) (a : Reg) (b : Reg)
  /-- `slt` (R99). Sets S[D] to 1 if S[A] < S[B] signed. -/
  | slt (y : Bool) (d : Reg) (a : Reg) (b : Reg)
  /-- `sltn` (R99). Sets S[D] to 1 if S[A] < S[B] unsigned. -/
  | sltn (y : Bool) (d : Reg) (a : Reg) (b : Reg)
  /-- `clz` (R104). Counts leading zero bits of S[A]. -/
  | clz (y : Bool) (d : Reg) (a : Reg)
  /-- `ctz` (R104). Counts trailing zero bits of S[A]. -/
  | ctz (y : Bool) (d : Reg) (a : Reg)
  /-- `popc` (R104). Counts set bits of S[A]. -/
  | popc (y : Bool) (d : Reg) (a : Reg)
  /-- `brev` (R104). Reverses the bits of S[A]. -/
  | brev (y : Bool) (d : Reg) (a : Reg)
  /-- `bswap` (R104). Reverses the bytes of S[A]. -/
  | bswap (y : Bool) (d : Reg) (a : Reg)
  /-- `sext8` (R104). Sign-extends the low 8 bits of S[A]. -/
  | sext8 (y : Bool) (d : Reg) (a : Reg)
  /-- `sext16` (R104). Sign-extends the low 16 bits of S[A]. -/
  | sext16 (y : Bool) (d : Reg) (a : Reg)
  /-- `sext32` (R104). Sign-extends the low 32 bits of S[A]. -/
  | sext32 (y : Bool) (d : Reg) (a : Reg)
  /-- `zext8` (R104). Zero-extends the low 8 bits of S[A]. -/
  | zext8 (y : Bool) (d : Reg) (a : Reg)
  /-- `zext16` (R104). Zero-extends the low 16 bits of S[A]. -/
  | zext16 (y : Bool) (d : Reg) (a : Reg)
  /-- `zext32` (R104). Zero-extends the low 32 bits of S[A]. -/
  | zext32 (y : Bool) (d : Reg) (a : Reg)
  /-- `abs` (R104). Absolute value of signed S[A] modulo 2^64. -/
  | abs (y : Bool) (d : Reg) (a : Reg)
  /-- `neg` (R104). Sets S[D] to 0 - S[A]. -/
  | neg (y : Bool) (d : Reg) (a : Reg)
  /-- `not` (R104). Sets S[D] to NOT S[A]. -/
  | not (y : Bool) (d : Reg) (a : Reg)
  /-- `sel` (R101). Selects S[A] if S[D] is nonzero, else S[B], into S[D]. -/
  | sel (y : Bool) (d : Reg) (a : Reg) (b : Reg)
  /-- `set0` (R105). Sets S[D] to the sign-extended IMM16. -/
  | set0 (y : Bool) (d : Reg) (i : BitVec 16)
  /-- `set16` (R105). Replaces bits [31:16] of S[D] with IMM16. -/
  | set16 (y : Bool) (d : Reg) (i : BitVec 16)
  /-- `set32` (R105). Replaces bits [47:32] of S[D] with IMM16. -/
  | set32 (y : Bool) (d : Reg) (i : BitVec 16)
  /-- `set48` (R105). Replaces bits [63:48] of S[D] with IMM16. -/
  | set48 (y : Bool) (d : Reg) (i : BitVec 16)
  /-- `adpc` (R106). Sets S[D] to the word's own address plus 4 x IMM16. -/
  | adpc (y : Bool) (d : Reg) (i : BitVec 16)
  /-- `slti` (R103). Sets S[D] to 1 if S[A] < sign-extended IMM9, signed. -/
  | slti (y : Bool) (d : Reg) (a : Reg) (i : BitVec 9)
  /-- `fadd` (R122). binary64 addition rounded by rnd. -/
  | fadd (y : Bool) (d : Reg) (a : Reg) (b : Reg)
  /-- `fsub` (R122). binary64 subtraction rounded by rnd. -/
  | fsub (y : Bool) (d : Reg) (a : Reg) (b : Reg)
  /-- `fmul` (R122). binary64 multiplication rounded by rnd. -/
  | fmul (y : Bool) (d : Reg) (a : Reg) (b : Reg)
  /-- `ffma` (R122). Fused binary64 a x b + S[D] with one rounding. -/
  | ffma (y : Bool) (d : Reg) (a : Reg) (b : Reg)
  /-- `fdiv` (R122). Correctly rounded binary64 division. -/
  | fdiv (y : Bool) (d : Reg) (a : Reg) (b : Reg)
  /-- `fmin` (R123). binary64 minimum passing over NaNs. -/
  | fmin (y : Bool) (d : Reg) (a : Reg) (b : Reg)
  /-- `fmax` (R123). binary64 maximum passing over NaNs. -/
  | fmax (y : Bool) (d : Reg) (a : Reg) (b : Reg)
  /-- `fsqrt` (R125). binary64 square root rounded by rnd. -/
  | fsqrt (y : Bool) (d : Reg) (a : Reg)
  /-- `fabs` (R125). Clears bit 63 of S[A]. -/
  | fabs (y : Bool) (d : Reg) (a : Reg)
  /-- `fneg` (R125). Inverts bit 63 of S[A]. -/
  | fneg (y : Bool) (d : Reg) (a : Reg)
  /-- `fclass` (R126). Writes the one-hot class mask of a binary64 value. -/
  | fclass (y : Bool) (d : Reg) (a : Reg)
  /-- `cvt.f64.i64` (R125). Converts signed 64-bit integer to binary64. -/
  | cvtF64I64 (y : Bool) (d : Reg) (a : Reg)
  /-- `cvt.f64.n64` (R125). Converts unsigned 64-bit integer to binary64. -/
  | cvtF64N64 (y : Bool) (d : Reg) (a : Reg)
  /-- `cvt.i64.f64` (R125). Converts binary64 to i64 under R84. -/
  | cvtI64F64 (y : Bool) (d : Reg) (a : Reg)
  /-- `cvt.n64.f64` (R125). Converts binary64 to n64 under R84. -/
  | cvtN64F64 (y : Bool) (d : Reg) (a : Reg)
  /-- `cvt.f32.f64` (R125). Rounds binary64 to binary32, zero-extended. -/
  | cvtF32F64 (y : Bool) (d : Reg) (a : Reg)
  /-- `cvt.f64.f32` (R125). Widens binary32 in S[A][31:0] to binary64 exactly. -/
  | cvtF64F32 (y : Bool) (d : Reg) (a : Reg)
  /-- `feq` (R124). binary64 equality compare into S[D]. -/
  | feq (y : Bool) (d : Reg) (a : Reg) (b : Reg)
  /-- `flt` (R124). binary64 less-than compare into S[D]. -/
  | flt (y : Bool) (d : Reg) (a : Reg) (b : Reg)
  /-- `fle` (R124). binary64 less-or-equal compare into S[D]. -/
  | fle (y : Bool) (d : Reg) (a : Reg) (b : Reg)
  /-- `br` (R291). Branches by IMM16 words if S[D] is nonzero. -/
  | br (y : Bool) (d : Reg) (i : BitVec 16)
  /-- `brz` (R291). Branches by IMM16 words if S[D] is zero. -/
  | brz (y : Bool) (d : Reg) (i : BitVec 16)
  /-- `jmp` (R291). Jumps by IMM23 words. -/
  | jmp (y : Bool) (i : BitVec 23)
  /-- `call` (R291). Writes pc + 4 to s1 and jumps by IMM23 words. -/
  | call (y : Bool) (i : BitVec 23)
  /-- `jr` (R291). Jumps to S[A], raising ALIGN if it is not a multiple of 4. -/
  | jr (y : Bool) (a : Reg)
  /-- `loop` (R291). Decrements S[D] and branches while the result is nonzero. -/
  | loop (y : Bool) (d : Reg) (i : BitVec 16)
  /-- `exit` (R292). Drains stores, aborts an open region and ends the wave, ending the crew if none remains live. -/
  | exit (y : Bool)
  /-- `bany` (R291). Branches if any bit of the scalar triple at D is set. -/
  | bany (y : Bool) (d : Reg) (i : BitVec 16)
  /-- `bnone` (R291). Branches if no bit of the scalar triple at D is set. -/
  | bnone (y : Bool) (d : Reg) (i : BitVec 16)
  /-- `sltni` (R103). Sets S[D] to 1 if S[A] < sign-extended IMM9, unsigned. -/
  | sltni (y : Bool) (d : Reg) (a : Reg) (i : BitVec 9)
  /-- `seqi` (R103). Sets S[D] to 1 if S[A] equals sign-extended IMM9. -/
  | seqi (y : Bool) (d : Reg) (a : Reg) (i : BitVec 9)
  /-- `vadd` (R107). Lane-wise 32-bit addition. -/
  | vadd (y : Bool) (d : Reg) (a : Reg) (b : Reg) (la : Bool) (lb : Bool)
  /-- `vsub` (R107). Lane-wise 32-bit subtraction. -/
  | vsub (y : Bool) (d : Reg) (a : Reg) (b : Reg) (la : Bool) (lb : Bool)
  /-- `vmul` (R107). Lane-wise low 32 bits of the product. -/
  | vmul (y : Bool) (d : Reg) (a : Reg) (b : Reg) (la : Bool) (lb : Bool)
  /-- `vmulh` (R107). Lane-wise signed high product. -/
  | vmulh (y : Bool) (d : Reg) (a : Reg) (b : Reg) (la : Bool) (lb : Bool)
  /-- `vmulhn` (R107). Lane-wise unsigned high product. -/
  | vmulhn (y : Bool) (d : Reg) (a : Reg) (b : Reg) (la : Bool) (lb : Bool)
  /-- `vmad` (R107). Lane-wise a x b + d into D. -/
  | vmad (y : Bool) (d : Reg) (a : Reg) (b : Reg) (la : Bool) (lb : Bool)
  /-- `vand` (R107). Lane-wise AND. -/
  | vand (y : Bool) (d : Reg) (a : Reg) (b : Reg) (la : Bool) (lb : Bool)
  /-- `vor` (R107). Lane-wise OR. -/
  | vor (y : Bool) (d : Reg) (a : Reg) (b : Reg) (la : Bool) (lb : Bool)
  /-- `vxor` (R107). Lane-wise XOR. -/
  | vxor (y : Bool) (d : Reg) (a : Reg) (b : Reg) (la : Bool) (lb : Bool)
  /-- `vshl` (R107). Lane-wise left shift by b[4:0]. -/
  | vshl (y : Bool) (d : Reg) (a : Reg) (b : Reg) (la : Bool) (lb : Bool)
  /-- `vshr` (R107). Lane-wise logical right shift. -/
  | vshr (y : Bool) (d : Reg) (a : Reg) (b : Reg) (la : Bool) (lb : Bool)
  /-- `vsha` (R107). Lane-wise arithmetic right shift. -/
  | vsha (y : Bool) (d : Reg) (a : Reg) (b : Reg) (la : Bool) (lb : Bool)
  /-- `vmin` (R107). Lane-wise signed minimum. -/
  | vmin (y : Bool) (d : Reg) (a : Reg) (b : Reg) (la : Bool) (lb : Bool)
  /-- `vmax` (R107). Lane-wise signed maximum. -/
  | vmax (y : Bool) (d : Reg) (a : Reg) (b : Reg) (la : Bool) (lb : Bool)
  /-- `vminn` (R107). Lane-wise unsigned minimum. -/
  | vminn (y : Bool) (d : Reg) (a : Reg) (b : Reg) (la : Bool) (lb : Bool)
  /-- `vmaxn` (R107). Lane-wise unsigned maximum. -/
  | vmaxn (y : Bool) (d : Reg) (a : Reg) (b : Reg) (la : Bool) (lb : Bool)
  /-- `vaddi` (R107). Lane-wise addition of the sign-extended IMM9. -/
  | vaddi (y : Bool) (d : Reg) (a : Reg) (i : BitVec 9)
  /-- `vabs` (R108). Lane-wise absolute value. -/
  | vabs (y : Bool) (d : Reg) (a : Reg) (la : Bool)
  /-- `vneg` (R108). Lane-wise negation. -/
  | vneg (y : Bool) (d : Reg) (a : Reg) (la : Bool)
  /-- `vnot` (R108). Lane-wise NOT. -/
  | vnot (y : Bool) (d : Reg) (a : Reg) (la : Bool)
  /-- `vclz` (R108). Lane-wise leading zero count. -/
  | vclz (y : Bool) (d : Reg) (a : Reg) (la : Bool)
  /-- `vpopc` (R108). Lane-wise population count. -/
  | vpopc (y : Bool) (d : Reg) (a : Reg) (la : Bool)
  /-- `vbrev` (R108). Lane-wise bit reversal. -/
  | vbrev (y : Bool) (d : Reg) (a : Reg) (la : Bool)
  /-- `vmov` (R108). Lane-wise move. -/
  | vmov (y : Bool) (d : Reg) (a : Reg) (la : Bool)
  /-- `vsext16` (R108). Lane-wise sign extension of the low 16 bits. -/
  | vsext16 (y : Bool) (d : Reg) (a : Reg) (la : Bool)
  /-- `vbcast` (R109). Writes S[A][31:0] into every active lane of V[D]. -/
  | vbcast (y : Bool) (d : Reg) (a : Reg)
  /-- `vlaneid` (R109). Writes each active lane's number into it. -/
  | vlaneid (y : Bool) (d : Reg)
  /-- `vseq` (R110). Lane-wise equality compare into a scalar triple. -/
  | vseq (y : Bool) (d : Reg) (a : Reg) (b : Reg) (la : Bool) (lb : Bool)
  /-- `vsne` (R110). Lane-wise inequality compare into a scalar triple. -/
  | vsne (y : Bool) (d : Reg) (a : Reg) (b : Reg) (la : Bool) (lb : Bool)
  /-- `vslt` (R110). Lane-wise signed less-than into a scalar triple. -/
  | vslt (y : Bool) (d : Reg) (a : Reg) (b : Reg) (la : Bool) (lb : Bool)
  /-- `vsle` (R110). Lane-wise signed less-or-equal into a scalar triple. -/
  | vsle (y : Bool) (d : Reg) (a : Reg) (b : Reg) (la : Bool) (lb : Bool)
  /-- `vsltn` (R110). Lane-wise unsigned less-than into a scalar triple. -/
  | vsltn (y : Bool) (d : Reg) (a : Reg) (b : Reg) (la : Bool) (lb : Bool)
  /-- `vslen` (R110). Lane-wise unsigned less-or-equal into a scalar triple. -/
  | vslen (y : Bool) (d : Reg) (a : Reg) (b : Reg) (la : Bool) (lb : Bool)
  /-- `vperm` (R111). Gathers lanes of V[A] by the indices in V[B]. -/
  | vperm (y : Bool) (d : Reg) (a : Reg) (b : Reg) (la : Bool) (lb : Bool)
  /-- `vxshf` (R112). Each lane receives lane i XOR amt. -/
  | vxshf (y : Bool) (d : Reg) (a : Reg) (i : BitVec 7)
  /-- `vrotu` (R112). Rotates lanes towards higher lanes by amt. -/
  | vrotu (y : Bool) (d : Reg) (a : Reg) (i : BitVec 7)
  /-- `vrotd` (R112). Rotates lanes towards lower lanes by amt. -/
  | vrotd (y : Bool) (d : Reg) (a : Reg) (i : BitVec 7)
  /-- `vblane` (R112). Broadcasts lane amt to every active lane. -/
  | vblane (y : Bool) (d : Reg) (a : Reg) (i : BitVec 7)
  /-- `vred.add` (R113). Exact signed sum of active lanes into S[D]. -/
  | vredAdd (y : Bool) (d : Reg) (a : Reg) (la : Bool)
  /-- `vred.min` (R113). Signed minimum of active lanes. -/
  | vredMin (y : Bool) (d : Reg) (a : Reg) (la : Bool)
  /-- `vred.max` (R113). Signed maximum of active lanes. -/
  | vredMax (y : Bool) (d : Reg) (a : Reg) (la : Bool)
  /-- `vred.minn` (R113). Unsigned minimum of active lanes. -/
  | vredMinn (y : Bool) (d : Reg) (a : Reg) (la : Bool)
  /-- `vred.maxn` (R113). Unsigned maximum of active lanes. -/
  | vredMaxn (y : Bool) (d : Reg) (a : Reg) (la : Bool)
  /-- `vred.and` (R113). AND of active lanes. -/
  | vredAnd (y : Bool) (d : Reg) (a : Reg) (la : Bool)
  /-- `vred.or` (R113). OR of active lanes. -/
  | vredOr (y : Bool) (d : Reg) (a : Reg) (la : Bool)
  /-- `vred.xor` (R113). XOR of active lanes. -/
  | vredXor (y : Bool) (d : Reg) (a : Reg) (la : Bool)
  /-- `vred.fadd` (R114). binary32 sum of lanes along a fixed tree. -/
  | vredFadd (y : Bool) (d : Reg) (a : Reg) (la : Bool)
  /-- `vred.fmin` (R114). binary32 minimum of active lanes. -/
  | vredFmin (y : Bool) (d : Reg) (a : Reg) (la : Bool)
  /-- `vred.fmax` (R114). binary32 maximum of active lanes. -/
  | vredFmax (y : Bool) (d : Reg) (a : Reg) (la : Bool)
  /-- `vext` (R115). Copies lane S[B] of V[A] into S[D]. -/
  | vext (y : Bool) (d : Reg) (a : Reg) (b : Reg) (la : Bool)
  /-- `vins` (R115). Writes S[A][31:0] into lane S[B] of V[D] if active. -/
  | vins (y : Bool) (d : Reg) (a : Reg) (b : Reg)
  /-- `vcvt.f32.i32` (R116). Converts i32 lanes to binary32. -/
  | vcvtF32I32 (y : Bool) (d : Reg) (a : Reg) (la : Bool)
  /-- `vcvt.f32.n32` (R116). Converts n32 lanes to binary32. -/
  | vcvtF32N32 (y : Bool) (d : Reg) (a : Reg) (la : Bool)
  /-- `vcvt.i32.f32` (R116). Converts binary32 lanes to i32. -/
  | vcvtI32F32 (y : Bool) (d : Reg) (a : Reg) (la : Bool)
  /-- `vcvt.n32.f32` (R116). Converts binary32 lanes to n32. -/
  | vcvtN32F32 (y : Bool) (d : Reg) (a : Reg) (la : Bool)
  /-- `vcvt.h.f32.lo` (R116). Rounds binary32 to binary16 into the low half. -/
  | vcvtHF32Lo (y : Bool) (d : Reg) (a : Reg) (la : Bool)
  /-- `vcvt.h.f32.hi` (R116). Rounds binary32 to binary16 into the high half. -/
  | vcvtHF32Hi (y : Bool) (d : Reg) (a : Reg) (la : Bool)
  /-- `vcvt.f32.h.lo` (R116). Widens the low binary16 half to binary32. -/
  | vcvtF32HLo (y : Bool) (d : Reg) (a : Reg) (la : Bool)
  /-- `vcvt.f32.h.hi` (R116). Widens the high binary16 half to binary32. -/
  | vcvtF32HHi (y : Bool) (d : Reg) (a : Reg) (la : Bool)
  /-- `vcvt.bf.f32.lo` (R116). Rounds binary32 to bfloat16 into the low half. -/
  | vcvtBfF32Lo (y : Bool) (d : Reg) (a : Reg) (la : Bool)
  /-- `vcvt.bf.f32.hi` (R116). Rounds binary32 to bfloat16 into the high half. -/
  | vcvtBfF32Hi (y : Bool) (d : Reg) (a : Reg) (la : Bool)
  /-- `vcvt.f32.bf.lo` (R116). Widens the low bfloat16 half to binary32. -/
  | vcvtF32BfLo (y : Bool) (d : Reg) (a : Reg) (la : Bool)
  /-- `vcvt.f32.bf.hi` (R116). Widens the high bfloat16 half to binary32. -/
  | vcvtF32BfHi (y : Bool) (d : Reg) (a : Reg) (la : Bool)
  /-- `vcvt.i16.i32.lo` (R116). Saturates i32 to i16 into the low half. -/
  | vcvtI16I32Lo (y : Bool) (d : Reg) (a : Reg) (la : Bool)
  /-- `vcvt.i16.i32.hi` (R116). Saturates i32 to i16 into the high half. -/
  | vcvtI16I32Hi (y : Bool) (d : Reg) (a : Reg) (la : Bool)
  /-- `vcvt.i32.i16.lo` (R116). Sign-extends the low i16 half to i32. -/
  | vcvtI32I16Lo (y : Bool) (d : Reg) (a : Reg) (la : Bool)
  /-- `vcvt.i32.i16.hi` (R116). Sign-extends the high i16 half to i32. -/
  | vcvtI32I16Hi (y : Bool) (d : Reg) (a : Reg) (la : Bool)
  /-- `vfadd` (R127). Lane-wise binary32 addition. -/
  | vfadd (y : Bool) (d : Reg) (a : Reg) (b : Reg) (la : Bool) (lb : Bool)
  /-- `vfsub` (R127). Lane-wise binary32 subtraction. -/
  | vfsub (y : Bool) (d : Reg) (a : Reg) (b : Reg) (la : Bool) (lb : Bool)
  /-- `vfmul` (R127). Lane-wise binary32 multiplication. -/
  | vfmul (y : Bool) (d : Reg) (a : Reg) (b : Reg) (la : Bool) (lb : Bool)
  /-- `vfma` (R127). Lane-wise fused binary32 a x b + d. -/
  | vfma (y : Bool) (d : Reg) (a : Reg) (b : Reg) (la : Bool) (lb : Bool)
  /-- `vfmin` (R123). Lane-wise binary32 minimum. -/
  | vfmin (y : Bool) (d : Reg) (a : Reg) (b : Reg) (la : Bool) (lb : Bool)
  /-- `vfmax` (R123). Lane-wise binary32 maximum. -/
  | vfmax (y : Bool) (d : Reg) (a : Reg) (b : Reg) (la : Bool) (lb : Bool)
  /-- `vfeq` (R128). Lane-wise binary32 equality into a scalar triple. -/
  | vfeq (y : Bool) (d : Reg) (a : Reg) (b : Reg) (la : Bool) (lb : Bool)
  /-- `vflt` (R128). Lane-wise binary32 less-than into a scalar triple. -/
  | vflt (y : Bool) (d : Reg) (a : Reg) (b : Reg) (la : Bool) (lb : Bool)
  /-- `vfle` (R128). Lane-wise binary32 less-or-equal into a scalar triple. -/
  | vfle (y : Bool) (d : Reg) (a : Reg) (b : Reg) (la : Bool) (lb : Bool)
  /-- `vfadd.h2` (R129). Packed binary16 addition. -/
  | vfaddH2 (y : Bool) (d : Reg) (a : Reg) (b : Reg) (la : Bool) (lb : Bool)
  /-- `vfmul.h2` (R129). Packed binary16 multiplication. -/
  | vfmulH2 (y : Bool) (d : Reg) (a : Reg) (b : Reg) (la : Bool) (lb : Bool)
  /-- `vfma.h2` (R129). Packed binary16 fused multiply-add. -/
  | vfmaH2 (y : Bool) (d : Reg) (a : Reg) (b : Reg) (la : Bool) (lb : Bool)
  /-- `vfadd.bf2` (R129). Packed bfloat16 addition. -/
  | vfaddBf2 (y : Bool) (d : Reg) (a : Reg) (b : Reg) (la : Bool) (lb : Bool)
  /-- `vfmul.bf2` (R129). Packed bfloat16 multiplication. -/
  | vfmulBf2 (y : Bool) (d : Reg) (a : Reg) (b : Reg) (la : Bool) (lb : Bool)
  /-- `vfma.bf2` (R129). Packed bfloat16 fused multiply-add. -/
  | vfmaBf2 (y : Bool) (d : Reg) (a : Reg) (b : Reg) (la : Bool) (lb : Bool)
  /-- `vfabs` (R130). Clears the sign bit of each lane. -/
  | vfabs (y : Bool) (d : Reg) (a : Reg) (la : Bool)
  /-- `vfneg` (R130). Inverts the sign bit of each lane. -/
  | vfneg (y : Bool) (d : Reg) (a : Reg) (la : Bool)
  /-- `vfclass` (R126). Writes the binary32 class mask of each lane. -/
  | vfclass (y : Bool) (d : Reg) (a : Reg) (la : Bool)
  /-- `vfrint` (R130). Rounds each lane to an integer by rnd. -/
  | vfrint (y : Bool) (d : Reg) (a : Reg) (la : Bool)
  /-- `vffloor` (R130). Rounds each lane towards minus infinity. -/
  | vffloor (y : Bool) (d : Reg) (a : Reg) (la : Bool)
  /-- `vfceil` (R130). Rounds each lane towards plus infinity. -/
  | vfceil (y : Bool) (d : Reg) (a : Reg) (la : Bool)
  /-- `vftrunc` (R130). Rounds each lane towards zero. -/
  | vftrunc (y : Bool) (d : Reg) (a : Reg) (la : Bool)
  /-- `vrcp` (R132). Correctly rounded reciprocal on the special-function unit. -/
  | vrcp (y : Bool) (d : Reg) (a : Reg) (la : Bool)
  /-- `vrsq` (R132). Correctly rounded reciprocal square root. -/
  | vrsq (y : Bool) (d : Reg) (a : Reg) (la : Bool)
  /-- `vsqrt` (R132). Correctly rounded square root. -/
  | vsqrt (y : Bool) (d : Reg) (a : Reg) (la : Bool)
  /-- `vexp2` (R132). 2^a within 1 ulp. -/
  | vexp2 (y : Bool) (d : Reg) (a : Reg) (la : Bool)
  /-- `vlog2` (R132). log2 a within 1 ulp. -/
  | vlog2 (y : Bool) (d : Reg) (a : Reg) (la : Bool)
  /-- `vexp` (R132). e^a within 1 ulp. -/
  | vexp (y : Bool) (d : Reg) (a : Reg) (la : Bool)
  /-- `vlog` (R132). ln a within 1 ulp. -/
  | vlog (y : Bool) (d : Reg) (a : Reg) (la : Bool)
  /-- `vsin` (R132). sin a within 2 ulp. -/
  | vsin (y : Bool) (d : Reg) (a : Reg) (la : Bool)
  /-- `vcos` (R132). cos a within 2 ulp. -/
  | vcos (y : Bool) (d : Reg) (a : Reg) (la : Bool)
  /-- `vtanh` (R132). tanh a within 2 ulp. -/
  | vtanh (y : Bool) (d : Reg) (a : Reg) (la : Bool)
  /-- `vsigm` (R132). Logistic sigmoid within 2 ulp. -/
  | vsigm (y : Bool) (d : Reg) (a : Reg) (la : Bool)
  /-- `verf` (R132). erf a within 2 ulp. -/
  | verf (y : Bool) (d : Reg) (a : Reg) (la : Bool)
  /-- `vfdiv` (R134). Correctly rounded binary32 division on the special-function unit. -/
  | vfdiv (y : Bool) (d : Reg) (a : Reg) (b : Reg) (la : Bool) (lb : Bool)
  /-- `vfdot.h2` (R135). Exact dot of two binary16 pairs added to the binary32 lane, rounded once. -/
  | vfdotH2 (y : Bool) (d : Reg) (a : Reg) (b : Reg) (la : Bool) (lb : Bool)
  /-- `vfdot.bf2` (R135). Exact dot of two bfloat16 pairs added to the binary32 lane, rounded once. -/
  | vfdotBf2 (y : Bool) (d : Reg) (a : Reg) (b : Reg) (la : Bool) (lb : Bool)
  /-- `vcbx` (R136). Expands 4-bit code j of each lane through codebook T into binary32. -/
  | vcbx (y : Bool) (d : Reg) (a : Reg) (j : BitVec 3) (t : BitVec 2)
  /-- `vhadd` (R117). Packed 16-bit addition. -/
  | vhadd (y : Bool) (d : Reg) (a : Reg) (b : Reg) (la : Bool) (lb : Bool)
  /-- `vhsub` (R117). Packed 16-bit subtraction. -/
  | vhsub (y : Bool) (d : Reg) (a : Reg) (b : Reg) (la : Bool) (lb : Bool)
  /-- `vhmul` (R117). Packed 16-bit low product. -/
  | vhmul (y : Bool) (d : Reg) (a : Reg) (b : Reg) (la : Bool) (lb : Bool)
  /-- `vhmin` (R117). Packed signed 16-bit minimum. -/
  | vhmin (y : Bool) (d : Reg) (a : Reg) (b : Reg) (la : Bool) (lb : Bool)
  /-- `vhmax` (R117). Packed signed 16-bit maximum. -/
  | vhmax (y : Bool) (d : Reg) (a : Reg) (b : Reg) (la : Bool) (lb : Bool)
  /-- `vhminn` (R117). Packed unsigned 16-bit minimum. -/
  | vhminn (y : Bool) (d : Reg) (a : Reg) (b : Reg) (la : Bool) (lb : Bool)
  /-- `vhmaxn` (R117). Packed unsigned 16-bit maximum. -/
  | vhmaxn (y : Bool) (d : Reg) (a : Reg) (b : Reg) (la : Bool) (lb : Bool)
  /-- `vbadd` (R117). Packed 8-bit addition. -/
  | vbadd (y : Bool) (d : Reg) (a : Reg) (b : Reg) (la : Bool) (lb : Bool)
  /-- `vbsub` (R117). Packed 8-bit subtraction. -/
  | vbsub (y : Bool) (d : Reg) (a : Reg) (b : Reg) (la : Bool) (lb : Bool)
  /-- `vbmin` (R117). Packed signed 8-bit minimum. -/
  | vbmin (y : Bool) (d : Reg) (a : Reg) (b : Reg) (la : Bool) (lb : Bool)
  /-- `vbmax` (R117). Packed signed 8-bit maximum. -/
  | vbmax (y : Bool) (d : Reg) (a : Reg) (b : Reg) (la : Bool) (lb : Bool)
  /-- `vnadd.nf0` (R138). Element-wise addition in the nf0 format. -/
  | vnaddNf0 (y : Bool) (d : Reg) (a : Reg) (b : Reg) (la : Bool) (lb : Bool)
  /-- `vnadd.nf1` (R138). Element-wise addition in the nf1 format. -/
  | vnaddNf1 (y : Bool) (d : Reg) (a : Reg) (b : Reg) (la : Bool) (lb : Bool)
  /-- `vnadd.nf2` (R138). Element-wise addition in the nf2 format. -/
  | vnaddNf2 (y : Bool) (d : Reg) (a : Reg) (b : Reg) (la : Bool) (lb : Bool)
  /-- `vnadd.nf3` (R138). Element-wise addition in the nf3 format. -/
  | vnaddNf3 (y : Bool) (d : Reg) (a : Reg) (b : Reg) (la : Bool) (lb : Bool)
  /-- `vnmul.nf0` (R138). Element-wise multiplication in the nf0 format. -/
  | vnmulNf0 (y : Bool) (d : Reg) (a : Reg) (b : Reg) (la : Bool) (lb : Bool)
  /-- `vnmul.nf1` (R138). Element-wise multiplication in the nf1 format. -/
  | vnmulNf1 (y : Bool) (d : Reg) (a : Reg) (b : Reg) (la : Bool) (lb : Bool)
  /-- `vnmul.nf2` (R138). Element-wise multiplication in the nf2 format. -/
  | vnmulNf2 (y : Bool) (d : Reg) (a : Reg) (b : Reg) (la : Bool) (lb : Bool)
  /-- `vnmul.nf3` (R138). Element-wise multiplication in the nf3 format. -/
  | vnmulNf3 (y : Bool) (d : Reg) (a : Reg) (b : Reg) (la : Bool) (lb : Bool)
  /-- `vndot.nf0` (R139). Exact dot of nf0 elements added to the binary32 lane, rounded once. -/
  | vndotNf0 (y : Bool) (d : Reg) (a : Reg) (b : Reg) (la : Bool) (lb : Bool)
  /-- `vndot.nf1` (R139). Exact dot of nf1 elements added to the binary32 lane, rounded once. -/
  | vndotNf1 (y : Bool) (d : Reg) (a : Reg) (b : Reg) (la : Bool) (lb : Bool)
  /-- `vndot.nf2` (R139). Exact dot of nf2 elements added to the binary32 lane, rounded once. -/
  | vndotNf2 (y : Bool) (d : Reg) (a : Reg) (b : Reg) (la : Bool) (lb : Bool)
  /-- `vndot.nf3` (R139). Exact dot of nf3 elements added to the binary32 lane, rounded once. -/
  | vndotNf3 (y : Bool) (d : Reg) (a : Reg) (b : Reg) (la : Bool) (lb : Bool)
  /-- `vncvt.nf0` (R140). Widens or narrows element j between nf0 and binary32. -/
  | vncvtNf0 (y : Bool) (d : Reg) (a : Reg) (e : Bool) (j : BitVec 3)
  /-- `vncvt.nf1` (R140). Widens or narrows element j between nf1 and binary32. -/
  | vncvtNf1 (y : Bool) (d : Reg) (a : Reg) (e : Bool) (j : BitVec 3)
  /-- `vncvt.nf2` (R140). Widens or narrows element j between nf2 and binary32. -/
  | vncvtNf2 (y : Bool) (d : Reg) (a : Reg) (e : Bool) (j : BitVec 3)
  /-- `vncvt.nf3` (R140). Widens or narrows element j between nf3 and binary32. -/
  | vncvtNf3 (y : Bool) (d : Reg) (a : Reg) (e : Bool) (j : BitVec 3)
  /-- `ldw` (R200). Loads 4 bytes sign-extended into S[D]. -/
  | ldw (y : Bool) (d : Reg) (a : Reg) (i : BitVec 9)
  /-- `ldwn` (R200). Loads 4 bytes zero-extended into S[D]. -/
  | ldwn (y : Bool) (d : Reg) (a : Reg) (i : BitVec 9)
  /-- `ldd` (R200). Loads 8 bytes into S[D]. -/
  | ldd (y : Bool) (d : Reg) (a : Reg) (i : BitVec 9)
  /-- `ldbn` (R200). Loads 1 byte zero-extended into S[D]. -/
  | ldbn (y : Bool) (d : Reg) (a : Reg) (i : BitVec 9)
  /-- `stw` (R200). Stores S[V][31:0] to memory. -/
  | stw (y : Bool) (d : Reg) (a : Reg) (i : BitVec 9)
  /-- `std` (R200). Stores S[V] as 8 bytes. -/
  | std (y : Bool) (d : Reg) (a : Reg) (i : BitVec 9)
  /-- `stb` (R200). Stores S[V][7:0]. -/
  | stb (y : Bool) (d : Reg) (a : Reg) (i : BitVec 9)
  /-- `vld` (R201). Gathers 32-bit values at S[A] + V[B][i]. -/
  | vld (y : Bool) (d : Reg) (a : Reg) (b : Reg) (lb : Bool)
  /-- `vst` (R201). Scatters 32-bit values to S[A] + V[B][i]. -/
  | vst (y : Bool) (d : Reg) (a : Reg) (b : Reg) (lb : Bool)
  /-- `vldc` (R202). Strided vector load, ordinary or streaming. -/
  | vldc (y : Bool) (d : Reg) (a : Reg) (s : Bool) (i : BitVec 8)
  /-- `vstc` (R202). Strided vector store, ordinary or streaming. -/
  | vstc (y : Bool) (d : Reg) (a : Reg) (s : Bool) (i : BitVec 8)
  /-- `vlld` (R203). Gathers lanes from LM offsets. -/
  | vlld (y : Bool) (d : Reg) (a : Reg) (b : Reg) (lb : Bool)
  /-- `vlst` (R203). Scatters lanes to LM offsets. -/
  | vlst (y : Bool) (d : Reg) (a : Reg) (b : Reg) (lb : Bool)
  /-- `vlldc` (R203). Strided LM load in plain, wait-full or wait-and-clear mode. -/
  | vlldc (y : Bool) (d : Reg) (a : Reg) (e : BitVec 2) (i : BitVec 7)
  /-- `vlstc` (R203). Strided LM store in plain, set-full or set-empty mode. -/
  | vlstc (y : Bool) (d : Reg) (a : Reg) (e : BitVec 2) (i : BitVec 7)
  /-- `aadd` (R204). Atomic 64-bit add returning the old value. -/
  | aadd (y : Bool) (d : Reg) (a : Reg) (b : Reg)
  /-- `amin` (R204). Atomic signed minimum. -/
  | amin (y : Bool) (d : Reg) (a : Reg) (b : Reg)
  /-- `amax` (R204). Atomic signed maximum. -/
  | amax (y : Bool) (d : Reg) (a : Reg) (b : Reg)
  /-- `aminn` (R204). Atomic unsigned minimum. -/
  | aminn (y : Bool) (d : Reg) (a : Reg) (b : Reg)
  /-- `amaxn` (R204). Atomic unsigned maximum. -/
  | amaxn (y : Bool) (d : Reg) (a : Reg) (b : Reg)
  /-- `aand` (R204). Atomic AND. -/
  | aand (y : Bool) (d : Reg) (a : Reg) (b : Reg)
  /-- `aor` (R204). Atomic OR. -/
  | aor (y : Bool) (d : Reg) (a : Reg) (b : Reg)
  /-- `axor` (R204). Atomic XOR. -/
  | axor (y : Bool) (d : Reg) (a : Reg) (b : Reg)
  /-- `axchg` (R204). Atomic exchange. -/
  | axchg (y : Bool) (d : Reg) (a : Reg) (b : Reg)
  /-- `acas` (R204). Atomic compare-and-swap against S[D]. -/
  | acas (y : Bool) (d : Reg) (a : Reg) (b : Reg)
  /-- `afadd` (R204). Atomic binary32 add rounded to nearest-even. -/
  | afadd (y : Bool) (d : Reg) (a : Reg) (b : Reg)
  /-- `vaadd` (R206). Per-lane 32-bit atomic add in ascending lane order. -/
  | vaadd (y : Bool) (d : Reg) (a : Reg) (b : Reg) (lb : Bool)
  /-- `fence.all` (R186). Waits for everything in every fence row. -/
  | fenceAll (y : Bool)
  /-- `fence.st` (R186). Waits until earlier streaming accesses have taken their places. -/
  | fenceSt (y : Bool)
  /-- `fence.engine` (R186). Waits for earlier copies, packing commands, mst and mld of the wave. -/
  | fenceEngine (y : Bool)
  /-- `fence.lm` (R186). Waits for earlier LM accesses and ordinary stores. -/
  | fenceLm (y : Bool)
  /-- `fence.host` (R186). Waits until earlier host-memory stores are visible at the host. -/
  | fenceHost (y : Bool)
  /-- `fence.gen` (R186). Waits until no access to another device remains in flight. -/
  | fenceGen (y : Bool)
  /-- `drainst` (R208). Waits until earlier stores are performed or recorded. -/
  | drainst (y : Bool)
  /-- `pref.l2` (R209). Hints a leased fetch of the line into L2. -/
  | prefL2 (y : Bool) (a : Reg)
  /-- `pref.l1` (R209). Hints a fetch of the line into L2 and L1. -/
  | prefL1 (y : Bool) (a : Reg)
  /-- `pref.evict` (R209). Drops the line from L1 and L2, writing a dirty copy home. -/
  | prefEvict (y : Bool) (a : Reg)
  /-- `pref.pin` (R209). Fetches the line and pins it in L2. -/
  | prefPin (y : Bool) (a : Reg)
  /-- `pref.unpin` (R209). Ends a pin of the line. -/
  | prefUnpin (y : Bool) (a : Reg)
  /-- `vafadd` (R206). Per-lane binary32 atomic add in ascending lane order. -/
  | vafadd (y : Bool) (d : Reg) (a : Reg) (b : Reg) (lb : Bool)
  /-- `lmalloc.t` (R213). Carves a zeroed transient LM segment. -/
  | lmallocT (y : Bool) (d : Reg) (a : Reg)
  /-- `lmalloc.h` (R213). Carves a zeroed held LM segment. -/
  | lmallocH (y : Bool) (d : Reg) (a : Reg)
  /-- `lmfree` (R215). Ends a segment, leaving its bytes transient. -/
  | lmfree (y : Bool) (a : Reg)
  /-- `lmrenew` (R216). Renews every LM line of a range. -/
  | lmrenew (y : Bool) (a : Reg) (b : Reg)
  /-- `lmage` (R217). Returns the age and state of an LM line. -/
  | lmage (y : Bool) (d : Reg) (a : Reg)
  /-- `fefill.empty` (R218). Sets every granule of a range empty. -/
  | fefillEmpty (y : Bool) (d : Reg) (a : Reg)
  /-- `fefill.full` (R218). Sets every granule of a range full after checking expiry. -/
  | fefillFull (y : Bool) (d : Reg) (a : Reg)
  /-- `xcopy` (R222). Starts a copy-engine copy of LEN bytes. -/
  | xcopy (y : Bool) (d : Reg) (a : Reg) (b : Reg)
  /-- `xpack` (R172). Starts conversion of a matrix into an A tile in planes format. -/
  | xpack (y : Bool) (d : Reg) (a : Reg) (b : Reg)
  /-- `xgath` (R223). Starts a gather of rows through an LM address list. -/
  | xgath (y : Bool) (d : Reg) (a : Reg) (b : Reg)
  /-- `xscat` (R223). Starts a scatter of rows through an LM address list. -/
  | xscat (y : Bool) (d : Reg) (a : Reg) (b : Reg)
  /-- `xback` (R223). Starts binary32 add-back of rows through an address list. -/
  | xback (y : Bool) (d : Reg) (a : Reg) (b : Reg)
  /-- `xwait` (R225). Waits until masked copy tags are not BUSY and returns the ERR mask. -/
  | xwait (y : Bool) (d : Reg) (a : Reg)
  /-- `xstat` (R226). Returns the status of one copy tag. -/
  | xstat (y : Bool) (d : Reg) (a : Reg)
  /-- `xunpack` (R173). Starts conversion of an A tile back to an element matrix. -/
  | xunpack (y : Bool) (d : Reg) (a : Reg) (b : Reg)
  /-- `xfill` (R224). Starts a fill of LEN bytes with a pattern. -/
  | xfill (y : Bool) (d : Reg) (a : Reg) (b : Reg)
  /-- `xcbexp` (R174). Starts expansion of 4-bit codes into bfloat16. -/
  | xcbexp (y : Bool) (d : Reg) (a : Reg) (b : Reg)
  /-- `mma` (R160). Issues an accumulate of A x B into the accumulator named by the MIW. -/
  | mma (y : Bool) (d : Reg) (a : Reg) (b : Reg)
  /-- `mzero` (R161). Issues a zeroing of an accumulator. -/
  | mzero (y : Bool) (d : Reg)
  /-- `mst` (R163). Issues an epilogue store of an accumulator. -/
  | mst (y : Bool) (d : Reg) (a : Reg) (b : Reg)
  /-- `mld` (R162). Issues a load of a tile into an accumulator. -/
  | mld (y : Bool) (d : Reg) (a : Reg) (b : Reg)
  /-- `mver` (R166). Returns an accumulator's status word. -/
  | mver (y : Bool) (d : Reg) (a : Reg)
  /-- `mwait` (R167). Waits until an accumulator reaches a version. -/
  | mwait (y : Bool) (d : Reg)
  /-- `mchk.force` (R168). Selects the wave's next mma for a check. -/
  | mchkForce (y : Bool)
  /-- `mchk.status` (R168). Returns the core's check status. -/
  | mchkStatus (y : Bool) (d : Reg)
  /-- `mchk.period` (R168). Sets the core's MCHKN. -/
  | mchkPeriod (y : Bool) (a : Reg)
  /-- `cbload` (R170). Loads a codebook table from memory. -/
  | cbload (y : Bool) (d : Reg) (a : Reg)
  /-- `nfset` (R169). Writes an nf register unchecked. -/
  | nfset (y : Bool) (d : Reg) (a : Reg)
  /-- `rgbeg` (R244). Opens a region, new or retried. -/
  | rgbeg (y : Bool) (d : Reg) (a : Reg)
  /-- `rgbind` (R245). Binds a global range to an LM copy in the open region. -/
  | rgbind (y : Bool) (d : Reg) (a : Reg) (b : Reg)
  /-- `rgend` (R246). Waits for predecessors, commits or closes the region and returns its status. -/
  | rgend (y : Bool) (d : Reg)
  /-- `rgabort` (R247). Aborts and closes the open region. -/
  | rgabort (y : Bool)
  /-- `rgstat` (R248). Returns the region status word. -/
  | rgstat (y : Bool) (d : Reg)
  /-- `rgwait` (R249). Waits until the region aborts or has no uncommitted predecessor. -/
  | rgwait (y : Bool) (d : Reg)
  /-- `qpush` (R303). Pushes a record into a queue without waiting. -/
  | qpush (y : Bool) (d : Reg) (a : Reg) (b : Reg)
  /-- `qpushw` (R303). Pushes a record, waiting while the queue is full. -/
  | qpushw (y : Bool) (d : Reg) (a : Reg) (b : Reg)
  /-- `qpop` (R304). Pops a record into LM, waiting while the queue is empty. -/
  | qpop (y : Bool) (d : Reg) (a : Reg) (b : Reg)
  /-- `qfree` (R305). Releases a held record, raising FREE. -/
  | qfree (y : Bool) (d : Reg) (a : Reg)
  /-- `qclose` (R306). Sets CLOSED in a queue header. -/
  | qclose (y : Bool) (a : Reg)
  /-- `flaunch` (R308). Launches a flow from a record and returns the launch status. -/
  | flaunch (y : Bool) (d : Reg) (a : Reg)
  /-- `qpeek` (R307). Samples a queue header. -/
  | qpeek (y : Bool) (d : Reg) (a : Reg)
  /-- `bar` (R295). Arrives at a crew barrier and waits for the phase. -/
  | bar (y : Bool) (i : BitVec 3)
  /-- `barv` (R295). Arrives at a crew barrier and returns the phase. -/
  | barv (y : Bool) (d : Reg) (i : BitVec 3)
  /-- `barw` (R295). Waits until a crew barrier passes a phase. -/
  | barw (y : Bool) (a : Reg) (i : BitVec 3)
  /-- `cleave` (R293). Ends the wave and removes it from every crew barrier. -/
  | cleave (y : Bool)
  /-- `xbar` (R300). Arrives at a cross-crew barrier and waits for the phase. -/
  | xbar (y : Bool) (d : Reg) (a : Reg)
  /-- `xbarv` (R300). Arrives at a cross-crew barrier and returns the phase. -/
  | xbarv (y : Bool) (d : Reg) (a : Reg)
  /-- `coll` (R264). Hands a collective descriptor to the collective engine. -/
  | coll (y : Bool) (a : Reg)
  /-- `cwait` (R265). Waits for a collective to end and returns its STATUS. -/
  | cwait (y : Bool) (d : Reg) (a : Reg)
  /-- `dpost` (R326). Posts an exchange round's demand to the arbiters. -/
  | dpost (y : Bool) (d : Reg) (a : Reg)
  /-- `xchg` (R327). Starts an exchange round's engine and/or waits for its end. -/
  | xchg (y : Bool) (d : Reg) (a : Reg) (b : Reg)
  /-- `gfence` (R266). Waits for a generation and makes its bank of a communicator current. -/
  | gfence (y : Bool) (d : Reg) (a : Reg) (b : Reg)
  /-- `gread` (R267). Reads one rank entry of a communicator's current bank. -/
  | gread (y : Bool) (d : Reg) (a : Reg) (b : Reg)
  /-- `hbstat` (R268). Reads the membership unit's view of a device. -/
  | hbstat (y : Bool) (d : Reg) (a : Reg)
  /-- `xstop` (R328). Cancels an exchange round. -/
  | xstop (y : Bool) (a : Reg)
  /-- `csrr` (R118). Reads a control register into S[D]. -/
  | csrr (y : Bool) (d : Reg) (i : BitVec 9)
  /-- `csrw` (R119). Writes S[A] to a control register. -/
  | csrw (y : Bool) (a : Reg) (i : BitVec 9)
  /-- `vwin` (R120). Sets the vector window base VWB. -/
  | vwin (y : Bool) (i : BitVec 9)
  /-- `trap` (R356). Raises SWTRAP precisely with the immediate code. -/
  | trap (y : Bool) (i : BitVec 9)
  /-- `eret` (R358). Returns from the handler, performing or dropping held accesses and resuming the wait. -/
  | eret (y : Bool) (a : Reg) (b : Reg)
  /-- `npre` (R309). Opens, shortens or ends the no-pre-emption window. -/
  | npre (y : Bool) (a : Reg)
  /-- `sfrpop` (R359). Pops the oldest store-fault record into memory. -/
  | sfrpop (y : Bool) (d : Reg) (a : Reg)
  /-- `ctkill` (R360). Ends the issuing wave's crew. -/
  | ctkill (y : Bool) (a : Reg)
  /-- `brk` (R357). Raises BRK precisely with TPC at the word. -/
  | brk (y : Bool) (i : BitVec 16)
  /-- `wdarm` (R310). Restarts the crew's barrier timers and the context watchdog. -/
  | wdarm (y : Bool)
  /-- ILLEGAL (R62). A fetched word that is not an instruction raises ILLEGAL, or is a no-operation when vector-class with all mask bits clear. -/
  | illegal (word : BitVec 32)
  /-- FETCH_FAULT (R48). An instruction fetch from an unmapped, non-executable or poisoned address raises a precise trap. -/
  | fetchFault (cause : Cause) (addr : Word)
  /-- LOAD_RETURN (R177). An outstanding load or atomic result lands in its destination registers. -/
  | loadReturn (crew : Nat) (wave : Nat) (k : Nat)
  /-- SFU_RESULT (R131). The special-function unit finishes a queued word and its result lands. -/
  | sfuResult (core : Nat)
  /-- LOAD_FAULT_REPORT (R348). A load-class fault found after issue stops the wave at its report point and halts the crew. -/
  | loadFaultReport (crew : Nat) (wave : Nat)
  /-- STORE_FAULT_RECORD (R352). A store faulting after issue enters a store-fault record and raises its cause. -/
  | storeFaultRecord (crew : Nat) (wave : Nat) (k : Nat)
  /-- HANDLER_ENTRY (R354). A stopped wave waits for outstanding results, writes the trap registers and fetches from TVEC or ends the crew. -/
  | handlerEntry (crew : Nat) (wave : Nat)
  /-- TOKEN_REFILL (R283). Every 1 us the power manager refills each die's token pool. -/
  | tokenRefill (die : Nat) (units : Nat)
  /-- TOKEN_GRANT (R283). The oldest token request is granted once the pool holds its cost. -/
  | tokenGrant (die : Nat)
  /-- MATRIX_QUEUE_ENTRY (R148). An accumulator operation enters the matrix queue when its version is due and an entry is free. -/
  | matrixQueueEntry (crew : Nat) (wave : Nat)
  /-- MATRIX_OP_START (R148). The engine starts the oldest queued operation whose accumulator is free. -/
  | matrixOpStart (core : Nat)
  /-- MMA_COMPLETE (R145). An mma adds its last block and bumps the accumulator version. -/
  | mmaComplete (core : Nat) (crew : Nat) (acc : Nat)
  /-- MMA_SUSPEND (R151). An operand fetch fault suspends the mma, parks its accumulator's operations and raises MREMOTE, STALE or POISON. -/
  | mmaSuspend (core : Nat) (crew : Nat) (acc : Nat)
  /-- CHECK_MISMATCH (R155). The second run of a checked operation finds a block partial differing from the first run. -/
  | checkMismatch (core : Nat) (crew : Nat) (acc : Nat)
  /-- CHECK_END (R157). The second run ends; a failing element is located, remapped or the core fenced. -/
  | checkEnd (core : Nat) (crew : Nat) (acc : Nat) (third : Option Bool)
  /-- MZERO_COMPLETE (R161). An mzero finishes, zeroes the tile and bumps VER. -/
  | mzeroComplete (core : Nat) (crew : Nat) (acc : Nat)
  /-- MST_COMPLETE (R163). An mst finishes its stores and pending checks and bumps VER. -/
  | mstComplete (core : Nat) (crew : Nat) (acc : Nat)
  /-- MLD_COMPLETE (R162). An mld replaces the tile, clears SUSPECT and bumps VER. -/
  | mldComplete (core : Nat) (crew : Nat) (acc : Nat)
  /-- MLD_DISCARD (R162). A faulting mld read discards the operation, vacates its version and raises its cause. -/
  | mldDiscard (core : Nat) (crew : Nat) (acc : Nat)
  /-- COPY_LINE_WRITE (R190). An engine write of a destination line lands, setting full bits for FE. -/
  | copyLineWrite (cmd : Nat)
  /-- COPY_COMPLETE (R219). A copy-engine command completes and its tag becomes DONE. -/
  | copyComplete (cmd : Nat)
  /-- COPY_FAULT (R221). A fault stops a copy command and marks its tag ERR. -/
  | copyFault (cmd : Nat)
  /-- LM_LINE_EXPIRE (R210). An LM line's age reaches LMRETN - LMGUARD and the scanner marks it expired. -/
  | lmLineExpire (core : Nat) (line : Nat)
  /-- HELD_LINE_RENEWAL (R214). The core renews held lines in the background. -/
  | heldLineRenewal (core : Nat) (line : Nat)
  /-- FLOOR_TICK (R179). The floor clock advances by one 320 ns tick. -/
  | floorTick
  /-- HOME_LOAD (R180). A load request at a home extends the line's lease and returns data or a renewal. -/
  | homeLoad (crew : Nat) (wave : Nat) (k : Nat)
  /-- HOME_STORE (R181). A store or atomic request at a home asks for ownership and stamps. -/
  | homeStore (crew : Nat) (wave : Nat) (k : Nat)
  /-- STORE_PERFORM (R181). A store waiting at the home until w <= F + LEASE performs with its wts. -/
  | storePerform (crew : Nat) (wave : Nat) (k : Nat)
  /-- RECALL (R181). A home recalls an exclusively held line from its owner. -/
  | recall (line : Nat)
  /-- BACK_INVALIDATION (R195). A back-invalidation of a host line is serialised ahead of the host's colliding request. -/
  | backInvalidation (line : Nat)
  /-- HOST_ACCESS (R344). A host access over the Iasil link is checked against the aperture and performed. -/
  | hostAccess (req : HostReq)
  /-- PAGE_WALK (R331). A translation walk completes, fills the TLBs and sets A and D. -/
  | pageWalk (die : Nat) (ctx : Nat) (va : Nat) (write : Bool)
  /-- VIEW_RELEASE (R338). A snapshot view is released and waiting writes perform in order. -/
  | viewRelease (spare : Nat)
  /-- DRAM_SCRUB (R369). The background scrub reads a stripe and applies correction. -/
  | dramScrub (stripe : Nat) (bad : List Nat)
  /-- SOFT_ERROR (R370). An on-die code error is corrected, dropped, poisoned or ends the holding crew. -/
  | softError (site : SoftSite)
  /-- SHADOW_REPLAY (R371). A flagged late transition replays the cycle at half clock. -/
  | shadowReplay (core : Nat)
  /-- RGN_BIT_REPORT (R233). The first read or dirty setting on a bound word reaches its home, which records edges. -/
  | rgnBitReport (region : Nat)
  /-- RGN_BIND_RESUME (R232). A bind waiting on the depth rule resumes once its would-be source commits or aborts. -/
  | rgnBindResume (crew : Nat) (wave : Nat)
  /-- RGN_COMMIT (R235). With all predecessors settled the region commits its dirty words as one group. -/
  | rgnCommit (region : Nat)
  /-- RGN_DURATION (R236). A region open more than 1 ms aborts with DURATION. -/
  | rgnDuration (region : Nat)
  /-- FLOW_LAUNCH (R273). The flow manager pops a flow record from a launch queue and launches or refuses it. -/
  | flowLaunch (ctx : Nat)
  /-- DEMAND_SAMPLE (R277). Every 10 us, and at launch or flow end, stage demands are sampled and targets computed. -/
  | demandSample
  /-- CREW_PLACE (R278). The dispatcher forms and places a crew once resources and a hold are available. -/
  | crewPlace (die : Nat)
  /-- PREEMPT_REQUEST (R286). A pre-emption request sets PREQ and moves the crew to TAKING. -/
  | preemptRequest (crew : Nat)
  /-- PREEMPT_WITHDRAW (R286). A withdrawn request clears PREQ and resumes stopped waves. -/
  | preemptWithdraw (crew : Nat)
  /-- PEDL_DEADLINE (R284). The request passes PEDL, making Y-marked words blocking points. -/
  | pedlDeadline (crew : Nat)
  /-- NPRE_WINDOW_END (R309). A no-pre-emption window reaches its end. -/
  | npreWindowEnd (crew : Nat) (wave : Nat)
  /-- PREEMPT_REPORT (R286). A request not taken within PEDL + 10 ms is reported to the host. -/
  | preemptReport (crew : Nat)
  /-- CREW_TAKE (R362). With every wave stopped the crew is drained, renewed, saved and entered with PREEMPT. -/
  | crewTake (crew : Nat)
  /-- CREW_RESTORE (R364). A SAVED crew is placed, its state restored and its waves entered with RESTORE. -/
  | crewRestore (crew : Nat)
  /-- RESTORE_FINISH (R364). After the handler's commands complete, VER, SUSPECT and tags are set and the crew runs. -/
  | restoreFinish (crew : Nat)
  /-- BARTO (R297). A barrier timer reaches BARTO: record written, event posted, BARTO raised. -/
  | barto (crew : Nat) (bar : Nat)
  /-- WATCHDOG (R288). The context watchdog reaches WDTIME and raises WATCHDOG. -/
  | watchdog (ctx : Nat)
  /-- EXTERNAL_STALL (R288). After 10 x WDTIME on external waits an external-stall event is posted. -/
  | externalStall (ctx : Nat)
  /-- INFIELD_TEST_DUE (R289). A quad's 8-hour in-field test falls due and placement on it stops. -/
  | infieldTestDue (quad : Nat)
  /-- TEST_POSTPONE (R289). The 10 ms wait for crews expires and the test is postponed. -/
  | testPostpone (quad : Nat)
  /-- COLL_PACKET (R256). A collective packet arrives and is combined or discarded for a wrong generation. -/
  | collPacket (p : CollPacket)
  /-- COLL_COMPLETE (R261). A collective ends and its engine writes DST and STATUS. -/
  | collComplete (coll : Nat)
  /-- E2E_PACKET (R373). An end-to-end packet arrives and is performed in sequence or discarded as duplicate. -/
  | e2ePacket (p : E2EPacket)
  /-- E2E_TIMEOUT (R373). An unacknowledged packet is retransmitted after E2ETO. -/
  | e2eTimeout (dst : Nat) (seq : Nat)
  /-- KEY_EXCHANGE (R340). A signed ephemeral key arrives and a pairwise confidentiality key is derived. -/
  | keyExchange (peer : Nat) (gen : BitVec 16) (sigOk : Bool)
  /-- LINK_REPLAY (R372). A flit failing its CRC is discarded and resent with its successors. -/
  | linkReplay (port : Port)
  /-- LINK_DOWN (R372). A replay exceeding its bound declares the link down and retrains it. -/
  | linkDown (port : Port)
  /-- BER_WINDOW (R374). A 100 us error window ends, updating ERRW and ABOVE. -/
  | berWindow (port : Nat) (wl : Nat) (errs : Nat)
  /-- RETRAIN_START (R375). At the agreed flit boundary the wavelength enters RETRAIN. -/
  | retrainStart (port : Nat) (wl : Nat)
  /-- TRAINING_WINDOW (R375). A training window with few errors returns the wavelength to ACTIVE. -/
  | trainingWindow (port : Nat) (wl : Nat) (errs : Nat)
  /-- RETRAIN_TIMEOUT (R375). 500 us pass without success: retry or spare the wavelength. -/
  | retrainTimeout (port : Nat) (wl : Nat)
  /-- RETRAIN_STABLE (R375). A wavelength ACTIVE for 100 ms has ATTEMPT and FAILS reset. -/
  | retrainStable (port : Nat) (wl : Nat)
  /-- HEARTBEAT_PERIOD (R382). Each 20 us period a member sends heartbeats and counts misses, reporting suspicion. -/
  | heartbeatPeriod
  /-- HEARTBEAT (R381). A heartbeat arrives, clearing misses and aligning clocks. -/
  | heartbeat (dev : Nat) (gen : BitVec 16) (svc : Nat) (floor : Nat) (slotClock : Nat)
  /-- BEACON_PERIOD (R380). Each 1 ms a member sends a beacon and the leader reassesses quorum. -/
  | beaconPeriod
  /-- BEACON (R380). A membership beacon reaches the leader or standby. -/
  | beacon (dev : Nat) (svc : Nat) (suspects : List Nat)
  /-- SUSPICION_REPORT (R383). A suspicion report or withdrawal reaches the leader, which may probe. -/
  | suspicionReport (reporter : Nat) (target : Nat) (withdraw : Bool)
  /-- PROBE_TIMEOUT (R383). An unanswered 20 us probe confirms the expulsion. -/
  | probeTimeout (target : Nat)
  /-- GENERATION_ISSUE (R384). The leader issues the next generation notice. -/
  | generationIssue
  /-- GENERATION_NOTICE (R385). A member adopts a notice: banks, member set, GEN, acknowledgement. -/
  | generationNotice (n : Notice)
  /-- REMOVAL (R388). A device learns it was removed and ends its fabric operations with PEERLOST. -/
  | removal (notice : Bool)
  /-- LEADER_TAKEOVER (R386). The standby leader confirms the leader's expulsion and takes over. -/
  | leaderTakeover
  /-- STRIPE_LAND (R394). A cloned stripe lands in the spare's HBM. -/
  | stripeLand (stripe : Nat) (data : List Byte) (poison : List Nat)
  /-- CLONE_TIMEOUT (R393). 5 s after the first view opens the clone fails and views are released. -/
  | cloneTimeout
  /-- REPLACE_RESEND (R398). REPLACE is sent again every 10 s until RETIRING begins. -/
  | replaceResend
  /-- STEPMARK (R374). A write marks a step boundary, opening clone views and taking pending wear actions. -/
  | stepmark
  /-- WEAR_TIMEOUT (R377). No step mark within 60 s: a pending wear action is taken at once. -/
  | wearTimeout
  /-- RETIRE_FORCE (R390). A RETIREREQ write with FORCE expels the device at once. -/
  | retireForce (dev : Nat)
  /-- RETIRE_HANDOFF (R399). A RETIREREQ write without FORCE starts a planned handoff. -/
  | retireHandoff (dev : Nat)
  /-- ANVIL_SCHEDULE (R316). With all posts in, Anvil decomposes the demand and places a calendar. -/
  | anvilSchedule (comm : Nat) (round : Nat)
  /-- GRANT (R317). A device receives its calendar grants from Anvil. -/
  | grant (g : GrantMsg)
  /-- SLOT_BOUNDARY (R318). A slot begins and the engine sends its budget to the granted destination. -/
  | slotBoundary
  /-- EXCHANGE_DATA (R321). Exchange data lands in a receive buffer. -/
  | exchangeData (p : XData)
  /-- END_MARKER (R321). An end marker arrives; the round may end and STATUS be written. -/
  | endMarker (p : XEnd)
  /-- RESIDUAL_REPORT (R319). At a calendar's end engines report leftovers and Anvil places a residual calendar. -/
  | residualReport (p : XReport)
  /-- ARBITER_TAKEOVER (R323). The standby arbiter announces a new arbiter generation and takes over. -/
  | arbiterTakeover
  /-- DEVICE_RESET (R407). A reset runs boot, verification, clearing and link training. -/
  | deviceReset (img : BootImage)
  /-- BOOTCMD_RESTART (R414). BOOTCMD 1 restarts boot at step 2 while failed. -/
  | bootcmdRestart (img : BootImage)
  /-- BOOTCMD_RAISE_MIN (R414). BOOTCMD 2 raises the fused minimum firmware version. -/
  | bootcmdRaiseMin (version : BitVec 32)
  /-- BOOTCMD_RESET (R414). BOOTCMD 3 resets the device. -/
  | bootcmdReset (img : BootImage)
  /-- ATTREQ (R411). A write of a nonce address starts an attestation report. -/
  | attreq (addr : Word)
  /-- ATTESTATION_DONE (R411). Glirex writes the signed report to ATTBUF and sets ATTSTAT to 2. -/
  | attestationDone
  /-- CONTEXT_CREATE (R416). A write of ROOT.ENABLE = 1 creates a context. -/
  | contextCreate (ctx : Nat) (value : Word)
  /-- CONTEXT_TERMINATE (R330). A write of ROOT.ENABLE = 0 terminates a context. -/
  | contextTerminate (ctx : Nat)
  /-- INVALIDATE (R334). A write of INVCTL removes matching translations and aborts bound regions. -/
  | invalidate (ctx : Nat) (value : Word)
  /-- INVALIDATE_DONE (R334). Accesses through removed entries finish and DONE is set. -/
  | invalidateDone (ctx : Nat)
  /-- DIAGOCC_FREE (R416). A W1C write frees diagnostic ring slots. -/
  | diagoccFree (ctx : Nat) (mask : Word)
  /-- COMM_CONFIGURE (R417). Setting CONFIGURED fills bank 0 from the slot list and makes it current. -/
  | commConfigure (comm : Nat) (value : Word)
  /-- THERMAL_SAMPLE (R406). Each 1 us the power manager reads sensors, throttles or shuts down. -/
  | thermalSample (celsius : Nat)
  /-- REGISTER_WRITE (R412). A write to a device register with no behaviour of its own sets its fields. -/
  | registerWrite (off : Nat) (size : Nat) (value : Word)
  /-- REMOTE_LOAD_BLOCKING_POINT (R254). A remote load outstanding for more than 1 us makes its wave stand at a blocking point, where a pending pre-emption can stop it. -/
  | remoteLoadBlockingPoint (crew : Nat) (wave : Nat)
  /-- LINK_RETRAINED (R372). A link declared down finishes retraining and returns to service. -/
  | linkRetrained (port : Port)
  /-- PROBE_ANSWER (R383). A probed device answers the leader, which discards the reports, posts a link event and expels the device at the third such answer within 10 ms. -/
  | probeAnswer (target : Nat)
  /-- NOTICE_ACKNOWLEDGEMENT (R384). A member's acknowledgement of a generation notice reaches the leader, which may then issue the next generation. -/
  | noticeAcknowledgement (dev : Nat) (gen : BitVec 16)
  /-- FAILURE_DECLARATION (R383). A device declares its own failure to the leader, which expels it without reports. -/
  | failureDeclaration (dev : Nat)
  /-- INFIELD_TEST_END (R289). A quad's in-field test ends, returning its cores to service or failing a core or row into remap or replacement. -/
  | infieldTestEnd (quad : Nat) (result : TestResult)
  /-- MARGIN_SHORTFALL (R377). The ageing monitor finds a margin short, starting the wait for a step mark, sparing a wavelength at once when BIAS saturates, or entering WORN. -/
  | marginShortfall (what : Shortfall)
  /-- POST_ACKNOWLEDGEMENT (R326). An arbiter's acknowledgement of a demand post arrives, and a dpost that has both acknowledgements completes. -/
  | postAcknowledgement (comm : Nat) (round : Nat) (standby : Bool)
  /-- ROUND_STOP_NOTICE (R328). Anvil's notice that a round was cancelled by xstop reaches a rank, whose round ends with STOPPED. -/
  | roundStopNotice (comm : Nat) (round : Nat)
  deriving DecidableEq, Repr

end Sys2Proof
end

