-- ==== Sys2Proof/Decode.lean ====
section
/-! DEFINITION. Decoding and encoding of instruction words: the formats of R43, the fields of R44, the opcode grid of R58, the
subfunctions of R60, the kinds of R61 and the order of checks of R62. `decode` is total: what is no instruction is rejected by
the name of the check of R46 that it fails. -/

namespace Sys2Proof

/-- Why a word is no instruction (R46), in the order of R62; each of them makes the word the step ILLEGAL. -/
inductive Reject where
  /-- Fewer than four bytes. -/
  | short
  /-- The all-zero word or a reserved major opcode (R58). -/
  | reservedOpcode
  /-- Bit 0 of an FS word is set. -/
  | fsBitZero
  /-- A reserved subfunction (R60). -/
  | reservedSub
  /-- A reserved kind (R61). -/
  | reservedKind
  /-- A reserved field that is not zero (R44). -/
  | reservedField
  /-- A last-use bit on a scalar or unused field (R46). -/
  | lastUse
  deriving DecidableEq, Repr

/-- Bit `k` of a word. -/
def wordBit (w : Lane) (k : Nat) : Bool := w.getLsbD k

/-- The `n` bits of a word from bit `lo` up. -/
def wordField (w : Lane) (lo n : Nat) : BitVec n := w.extractLsb' lo n

/-- Y, bit 31 (R43). -/
def wordY (w : Lane) : Bool := wordBit w 31
/-- OP, bits [30:23] (R43). -/
def opcode (w : Lane) : Nat := (wordField w 23 8).toNat
/-- D, bits [22:16]. -/
def fieldD (w : Lane) : Reg := wordField w 16 7
/-- A, bits [15:9]. -/
def fieldA (w : Lane) : Reg := wordField w 9 7
/-- B of F3, SUB of FS: bits [8:2]. -/
def fieldB (w : Lane) : Reg := wordField w 2 7
/-- LA, bit 1 (R49). -/
def bitLA (w : Lane) : Bool := wordBit w 1
/-- LB, bit 0 (R49). -/
def bitLB (w : Lane) : Bool := wordBit w 0
/-- IMM9, bits [8:0]. -/
def imm9 (w : Lane) : BitVec 9 := wordField w 0 9
/-- IMM16, bits [15:0]. -/
def imm16 (w : Lane) : BitVec 16 := wordField w 0 16
/-- IMM23, bits [22:0]. -/
def imm23 (w : Lane) : BitVec 23 := wordField w 0 23

def zeroD (w : Lane) : Bool := fieldD w == 0#7
def zeroA (w : Lane) : Bool := fieldA w == 0#7
def zeroB (w : Lane) : Bool := fieldB w == 0#7

/-- Go on with `k` if the check holds, else reject with `e`. -/
def need (c : Bool) (e : Reject) (k : Except Reject Instr) : Except Reject Instr := if c then k else .error e

/-- Opcodes 0x00 to 0x0F of the grid of R58, by OP[3:0]; a number without an arm is reserved. -/
def decodeRow0 (w : Lane) (lo : Nat) : Except Reject Instr :=
  match lo with
  | 1 => need (zeroD w && zeroA w && zeroB w) .reservedField (need (!bitLA w && !bitLB w) .lastUse (.ok (.nop (wordY w))))
  | 2 => need (!bitLA w && !bitLB w) .lastUse (.ok (.add (wordY w) (fieldD w) (fieldA w) (fieldB w)))
  | 3 => need (!bitLA w && !bitLB w) .lastUse (.ok (.sub (wordY w) (fieldD w) (fieldA w) (fieldB w)))
  | 4 => .ok (.addi (wordY w) (fieldD w) (fieldA w) (imm9 w))
  | 5 => need (!bitLA w && !bitLB w) .lastUse (.ok (.mul (wordY w) (fieldD w) (fieldA w) (fieldB w)))
  | 6 => need (!bitLA w && !bitLB w) .lastUse (.ok (.mulh (wordY w) (fieldD w) (fieldA w) (fieldB w)))
  | 7 => need (!bitLA w && !bitLB w) .lastUse (.ok (.mulhn (wordY w) (fieldD w) (fieldA w) (fieldB w)))
  | 8 => need (!bitLA w && !bitLB w) .lastUse (.ok (.div (wordY w) (fieldD w) (fieldA w) (fieldB w)))
  | 9 => need (!bitLA w && !bitLB w) .lastUse (.ok (.divn (wordY w) (fieldD w) (fieldA w) (fieldB w)))
  | 10 => need (!bitLA w && !bitLB w) .lastUse (.ok (.rem (wordY w) (fieldD w) (fieldA w) (fieldB w)))
  | 11 => need (!bitLA w && !bitLB w) .lastUse (.ok (.remn (wordY w) (fieldD w) (fieldA w) (fieldB w)))
  | 12 => need (!bitLA w && !bitLB w) .lastUse (.ok (.and (wordY w) (fieldD w) (fieldA w) (fieldB w)))
  | 13 => need (!bitLA w && !bitLB w) .lastUse (.ok (.or (wordY w) (fieldD w) (fieldA w) (fieldB w)))
  | 14 => need (!bitLA w && !bitLB w) .lastUse (.ok (.xor (wordY w) (fieldD w) (fieldA w) (fieldB w)))
  | 15 => need (!bitLA w && !bitLB w) .lastUse (.ok (.andn (wordY w) (fieldD w) (fieldA w) (fieldB w)))
  | _ => .error .reservedOpcode

/-- Opcodes 0x10 to 0x1F of the grid of R58, by OP[3:0]; a number without an arm is reserved. -/
def decodeRow1 (w : Lane) (lo : Nat) : Except Reject Instr :=
  match lo with
  | 0 => .ok (.andi (wordY w) (fieldD w) (fieldA w) (imm9 w))
  | 1 => .ok (.ori (wordY w) (fieldD w) (fieldA w) (imm9 w))
  | 2 => .ok (.xori (wordY w) (fieldD w) (fieldA w) (imm9 w))
  | 3 => need (!bitLA w && !bitLB w) .lastUse (.ok (.shl (wordY w) (fieldD w) (fieldA w) (fieldB w)))
  | 4 => need (!bitLA w && !bitLB w) .lastUse (.ok (.shr (wordY w) (fieldD w) (fieldA w) (fieldB w)))
  | 5 => need (!bitLA w && !bitLB w) .lastUse (.ok (.sha (wordY w) (fieldD w) (fieldA w) (fieldB w)))
  | 6 => need (wordField w 6 3 == 0#3) .reservedField (.ok (.shli (wordY w) (fieldD w) (fieldA w) (wordField w 0 6)))
  | 7 => need (wordField w 6 3 == 0#3) .reservedField (.ok (.shri (wordY w) (fieldD w) (fieldA w) (wordField w 0 6)))
  | 8 => need (wordField w 6 3 == 0#3) .reservedField (.ok (.shai (wordY w) (fieldD w) (fieldA w) (wordField w 0 6)))
  | 9 => need (!bitLA w && !bitLB w) .lastUse (.ok (.min (wordY w) (fieldD w) (fieldA w) (fieldB w)))
  | 10 => need (!bitLA w && !bitLB w) .lastUse (.ok (.max (wordY w) (fieldD w) (fieldA w) (fieldB w)))
  | 11 => need (!bitLA w && !bitLB w) .lastUse (.ok (.minn (wordY w) (fieldD w) (fieldA w) (fieldB w)))
  | 12 => need (!bitLA w && !bitLB w) .lastUse (.ok (.maxn (wordY w) (fieldD w) (fieldA w) (fieldB w)))
  | 13 => need (!bitLA w && !bitLB w) .lastUse (.ok (.seq (wordY w) (fieldD w) (fieldA w) (fieldB w)))
  | 14 => need (!bitLA w && !bitLB w) .lastUse (.ok (.slt (wordY w) (fieldD w) (fieldA w) (fieldB w)))
  | _ => need (!bitLA w && !bitLB w) .lastUse (.ok (.sltn (wordY w) (fieldD w) (fieldA w) (fieldB w)))

/-- Opcodes 0x20 to 0x2F of the grid of R58, by OP[3:0]; a number without an arm is reserved. -/
def decodeRow2 (w : Lane) (lo : Nat) : Except Reject Instr :=
  match lo with
  | 0 => need (!bitLB w) .fsBitZero (match (fieldB w).toNat with
    | 0 => need (!bitLA w) .lastUse (.ok (.clz (wordY w) (fieldD w) (fieldA w)))
    | 1 => need (!bitLA w) .lastUse (.ok (.ctz (wordY w) (fieldD w) (fieldA w)))
    | 2 => need (!bitLA w) .lastUse (.ok (.popc (wordY w) (fieldD w) (fieldA w)))
    | 3 => need (!bitLA w) .lastUse (.ok (.brev (wordY w) (fieldD w) (fieldA w)))
    | 4 => need (!bitLA w) .lastUse (.ok (.bswap (wordY w) (fieldD w) (fieldA w)))
    | 5 => need (!bitLA w) .lastUse (.ok (.sext8 (wordY w) (fieldD w) (fieldA w)))
    | 6 => need (!bitLA w) .lastUse (.ok (.sext16 (wordY w) (fieldD w) (fieldA w)))
    | 7 => need (!bitLA w) .lastUse (.ok (.sext32 (wordY w) (fieldD w) (fieldA w)))
    | 8 => need (!bitLA w) .lastUse (.ok (.zext8 (wordY w) (fieldD w) (fieldA w)))
    | 9 => need (!bitLA w) .lastUse (.ok (.zext16 (wordY w) (fieldD w) (fieldA w)))
    | 10 => need (!bitLA w) .lastUse (.ok (.zext32 (wordY w) (fieldD w) (fieldA w)))
    | 11 => need (!bitLA w) .lastUse (.ok (.abs (wordY w) (fieldD w) (fieldA w)))
    | 12 => need (!bitLA w) .lastUse (.ok (.neg (wordY w) (fieldD w) (fieldA w)))
    | 13 => need (!bitLA w) .lastUse (.ok (.not (wordY w) (fieldD w) (fieldA w)))
    | _ => .error .reservedSub)
  | 1 => need (!bitLA w && !bitLB w) .lastUse (.ok (.sel (wordY w) (fieldD w) (fieldA w) (fieldB w)))
  | 2 => .ok (.set0 (wordY w) (fieldD w) (imm16 w))
  | 3 => .ok (.set16 (wordY w) (fieldD w) (imm16 w))
  | 4 => .ok (.set32 (wordY w) (fieldD w) (imm16 w))
  | 5 => .ok (.set48 (wordY w) (fieldD w) (imm16 w))
  | 6 => .ok (.adpc (wordY w) (fieldD w) (imm16 w))
  | 7 => .ok (.slti (wordY w) (fieldD w) (fieldA w) (imm9 w))
  | 8 => need (!bitLA w && !bitLB w) .lastUse (.ok (.fadd (wordY w) (fieldD w) (fieldA w) (fieldB w)))
  | 9 => need (!bitLA w && !bitLB w) .lastUse (.ok (.fsub (wordY w) (fieldD w) (fieldA w) (fieldB w)))
  | 10 => need (!bitLA w && !bitLB w) .lastUse (.ok (.fmul (wordY w) (fieldD w) (fieldA w) (fieldB w)))
  | 11 => need (!bitLA w && !bitLB w) .lastUse (.ok (.ffma (wordY w) (fieldD w) (fieldA w) (fieldB w)))
  | 12 => need (!bitLA w && !bitLB w) .lastUse (.ok (.fdiv (wordY w) (fieldD w) (fieldA w) (fieldB w)))
  | 13 => need (!bitLA w && !bitLB w) .lastUse (.ok (.fmin (wordY w) (fieldD w) (fieldA w) (fieldB w)))
  | 14 => need (!bitLA w && !bitLB w) .lastUse (.ok (.fmax (wordY w) (fieldD w) (fieldA w) (fieldB w)))
  | _ => need (!bitLB w) .fsBitZero (match (fieldB w).toNat with
    | 0 => need (!bitLA w) .lastUse (.ok (.fsqrt (wordY w) (fieldD w) (fieldA w)))
    | 1 => need (!bitLA w) .lastUse (.ok (.fabs (wordY w) (fieldD w) (fieldA w)))
    | 2 => need (!bitLA w) .lastUse (.ok (.fneg (wordY w) (fieldD w) (fieldA w)))
    | 3 => need (!bitLA w) .lastUse (.ok (.fclass (wordY w) (fieldD w) (fieldA w)))
    | 4 => need (!bitLA w) .lastUse (.ok (.cvtF64I64 (wordY w) (fieldD w) (fieldA w)))
    | 5 => need (!bitLA w) .lastUse (.ok (.cvtF64N64 (wordY w) (fieldD w) (fieldA w)))
    | 6 => need (!bitLA w) .lastUse (.ok (.cvtI64F64 (wordY w) (fieldD w) (fieldA w)))
    | 7 => need (!bitLA w) .lastUse (.ok (.cvtN64F64 (wordY w) (fieldD w) (fieldA w)))
    | 8 => need (!bitLA w) .lastUse (.ok (.cvtF32F64 (wordY w) (fieldD w) (fieldA w)))
    | 9 => need (!bitLA w) .lastUse (.ok (.cvtF64F32 (wordY w) (fieldD w) (fieldA w)))
    | _ => .error .reservedSub)

/-- Opcodes 0x30 to 0x3F of the grid of R58, by OP[3:0]; a number without an arm is reserved. -/
def decodeRow3 (w : Lane) (lo : Nat) : Except Reject Instr :=
  match lo with
  | 0 => need (!bitLA w && !bitLB w) .lastUse (.ok (.feq (wordY w) (fieldD w) (fieldA w) (fieldB w)))
  | 1 => need (!bitLA w && !bitLB w) .lastUse (.ok (.flt (wordY w) (fieldD w) (fieldA w) (fieldB w)))
  | 2 => need (!bitLA w && !bitLB w) .lastUse (.ok (.fle (wordY w) (fieldD w) (fieldA w) (fieldB w)))
  | 3 => .ok (.br (wordY w) (fieldD w) (imm16 w))
  | 4 => .ok (.brz (wordY w) (fieldD w) (imm16 w))
  | 5 => .ok (.jmp (wordY w) (imm23 w))
  | 6 => .ok (.call (wordY w) (imm23 w))
  | 7 => need (zeroD w && zeroB w) .reservedField (need (!bitLA w && !bitLB w) .lastUse (.ok (.jr (wordY w) (fieldA w))))
  | 8 => .ok (.loop (wordY w) (fieldD w) (imm16 w))
  | 9 => need (zeroD w && zeroA w && zeroB w) .reservedField (need (!bitLA w && !bitLB w) .lastUse (.ok (.exit (wordY w))))
  | 10 => .ok (.bany (wordY w) (fieldD w) (imm16 w))
  | 11 => .ok (.bnone (wordY w) (fieldD w) (imm16 w))
  | 12 => .ok (.sltni (wordY w) (fieldD w) (fieldA w) (imm9 w))
  | 13 => .ok (.seqi (wordY w) (fieldD w) (fieldA w) (imm9 w))
  | _ => .error .reservedOpcode

/-- Opcodes 0x40 to 0x4F of the grid of R58, by OP[3:0]; a number without an arm is reserved. -/
def decodeRow4 (w : Lane) (lo : Nat) : Except Reject Instr :=
  match lo with
  | 0 => .ok (.vadd (wordY w) (fieldD w) (fieldA w) (fieldB w) (bitLA w) (bitLB w))
  | 1 => .ok (.vsub (wordY w) (fieldD w) (fieldA w) (fieldB w) (bitLA w) (bitLB w))
  | 2 => .ok (.vmul (wordY w) (fieldD w) (fieldA w) (fieldB w) (bitLA w) (bitLB w))
  | 3 => .ok (.vmulh (wordY w) (fieldD w) (fieldA w) (fieldB w) (bitLA w) (bitLB w))
  | 4 => .ok (.vmulhn (wordY w) (fieldD w) (fieldA w) (fieldB w) (bitLA w) (bitLB w))
  | 5 => .ok (.vmad (wordY w) (fieldD w) (fieldA w) (fieldB w) (bitLA w) (bitLB w))
  | 6 => .ok (.vand (wordY w) (fieldD w) (fieldA w) (fieldB w) (bitLA w) (bitLB w))
  | 7 => .ok (.vor (wordY w) (fieldD w) (fieldA w) (fieldB w) (bitLA w) (bitLB w))
  | 8 => .ok (.vxor (wordY w) (fieldD w) (fieldA w) (fieldB w) (bitLA w) (bitLB w))
  | 9 => .ok (.vshl (wordY w) (fieldD w) (fieldA w) (fieldB w) (bitLA w) (bitLB w))
  | 10 => .ok (.vshr (wordY w) (fieldD w) (fieldA w) (fieldB w) (bitLA w) (bitLB w))
  | 11 => .ok (.vsha (wordY w) (fieldD w) (fieldA w) (fieldB w) (bitLA w) (bitLB w))
  | 12 => .ok (.vmin (wordY w) (fieldD w) (fieldA w) (fieldB w) (bitLA w) (bitLB w))
  | 13 => .ok (.vmax (wordY w) (fieldD w) (fieldA w) (fieldB w) (bitLA w) (bitLB w))
  | 14 => .ok (.vminn (wordY w) (fieldD w) (fieldA w) (fieldB w) (bitLA w) (bitLB w))
  | _ => .ok (.vmaxn (wordY w) (fieldD w) (fieldA w) (fieldB w) (bitLA w) (bitLB w))

/-- Opcodes 0x50 to 0x5F of the grid of R58, by OP[3:0]; a number without an arm is reserved. -/
def decodeRow5 (w : Lane) (lo : Nat) : Except Reject Instr :=
  match lo with
  | 0 => .ok (.vaddi (wordY w) (fieldD w) (fieldA w) (imm9 w))
  | 1 => need (!bitLB w) .fsBitZero (match (fieldB w).toNat with
    | 0 => .ok (.vabs (wordY w) (fieldD w) (fieldA w) (bitLA w))
    | 1 => .ok (.vneg (wordY w) (fieldD w) (fieldA w) (bitLA w))
    | 2 => .ok (.vnot (wordY w) (fieldD w) (fieldA w) (bitLA w))
    | 3 => .ok (.vclz (wordY w) (fieldD w) (fieldA w) (bitLA w))
    | 4 => .ok (.vpopc (wordY w) (fieldD w) (fieldA w) (bitLA w))
    | 5 => .ok (.vbrev (wordY w) (fieldD w) (fieldA w) (bitLA w))
    | 6 => .ok (.vmov (wordY w) (fieldD w) (fieldA w) (bitLA w))
    | 7 => .ok (.vsext16 (wordY w) (fieldD w) (fieldA w) (bitLA w))
    | _ => .error .reservedSub)
  | 2 => need (zeroB w) .reservedField (need (!bitLA w && !bitLB w) .lastUse (.ok (.vbcast (wordY w) (fieldD w) (fieldA w))))
  | 3 => need (zeroA w && zeroB w) .reservedField (need (!bitLA w && !bitLB w) .lastUse (.ok (.vlaneid (wordY w) (fieldD w))))
  | 4 => .ok (.vseq (wordY w) (fieldD w) (fieldA w) (fieldB w) (bitLA w) (bitLB w))
  | 5 => .ok (.vsne (wordY w) (fieldD w) (fieldA w) (fieldB w) (bitLA w) (bitLB w))
  | 6 => .ok (.vslt (wordY w) (fieldD w) (fieldA w) (fieldB w) (bitLA w) (bitLB w))
  | 7 => .ok (.vsle (wordY w) (fieldD w) (fieldA w) (fieldB w) (bitLA w) (bitLB w))
  | 8 => .ok (.vsltn (wordY w) (fieldD w) (fieldA w) (fieldB w) (bitLA w) (bitLB w))
  | 9 => .ok (.vslen (wordY w) (fieldD w) (fieldA w) (fieldB w) (bitLA w) (bitLB w))
  | 10 => .ok (.vperm (wordY w) (fieldD w) (fieldA w) (fieldB w) (bitLA w) (bitLB w))
  | 11 => match (wordField w 7 2).toNat with
    | 0 => .ok (.vxshf (wordY w) (fieldD w) (fieldA w) (wordField w 0 7))
    | 1 => .ok (.vrotu (wordY w) (fieldD w) (fieldA w) (wordField w 0 7))
    | 2 => .ok (.vrotd (wordY w) (fieldD w) (fieldA w) (wordField w 0 7))
    | _ => .ok (.vblane (wordY w) (fieldD w) (fieldA w) (wordField w 0 7))
  | 12 => need (!bitLB w) .fsBitZero (match (fieldB w).toNat with
    | 0 => .ok (.vredAdd (wordY w) (fieldD w) (fieldA w) (bitLA w))
    | 1 => .ok (.vredMin (wordY w) (fieldD w) (fieldA w) (bitLA w))
    | 2 => .ok (.vredMax (wordY w) (fieldD w) (fieldA w) (bitLA w))
    | 3 => .ok (.vredMinn (wordY w) (fieldD w) (fieldA w) (bitLA w))
    | 4 => .ok (.vredMaxn (wordY w) (fieldD w) (fieldA w) (bitLA w))
    | 5 => .ok (.vredAnd (wordY w) (fieldD w) (fieldA w) (bitLA w))
    | 6 => .ok (.vredOr (wordY w) (fieldD w) (fieldA w) (bitLA w))
    | 7 => .ok (.vredXor (wordY w) (fieldD w) (fieldA w) (bitLA w))
    | 8 => .ok (.vredFadd (wordY w) (fieldD w) (fieldA w) (bitLA w))
    | 9 => .ok (.vredFmin (wordY w) (fieldD w) (fieldA w) (bitLA w))
    | 10 => .ok (.vredFmax (wordY w) (fieldD w) (fieldA w) (bitLA w))
    | _ => .error .reservedSub)
  | 13 => need (!bitLB w) .lastUse (.ok (.vext (wordY w) (fieldD w) (fieldA w) (fieldB w) (bitLA w)))
  | 14 => need (!bitLA w && !bitLB w) .lastUse (.ok (.vins (wordY w) (fieldD w) (fieldA w) (fieldB w)))
  | _ => need (!bitLB w) .fsBitZero (match (fieldB w).toNat with
    | 0 => .ok (.vcvtF32I32 (wordY w) (fieldD w) (fieldA w) (bitLA w))
    | 1 => .ok (.vcvtF32N32 (wordY w) (fieldD w) (fieldA w) (bitLA w))
    | 2 => .ok (.vcvtI32F32 (wordY w) (fieldD w) (fieldA w) (bitLA w))
    | 3 => .ok (.vcvtN32F32 (wordY w) (fieldD w) (fieldA w) (bitLA w))
    | 4 => .ok (.vcvtHF32Lo (wordY w) (fieldD w) (fieldA w) (bitLA w))
    | 5 => .ok (.vcvtHF32Hi (wordY w) (fieldD w) (fieldA w) (bitLA w))
    | 6 => .ok (.vcvtF32HLo (wordY w) (fieldD w) (fieldA w) (bitLA w))
    | 7 => .ok (.vcvtF32HHi (wordY w) (fieldD w) (fieldA w) (bitLA w))
    | 8 => .ok (.vcvtBfF32Lo (wordY w) (fieldD w) (fieldA w) (bitLA w))
    | 9 => .ok (.vcvtBfF32Hi (wordY w) (fieldD w) (fieldA w) (bitLA w))
    | 10 => .ok (.vcvtF32BfLo (wordY w) (fieldD w) (fieldA w) (bitLA w))
    | 11 => .ok (.vcvtF32BfHi (wordY w) (fieldD w) (fieldA w) (bitLA w))
    | 12 => .ok (.vcvtI16I32Lo (wordY w) (fieldD w) (fieldA w) (bitLA w))
    | 13 => .ok (.vcvtI16I32Hi (wordY w) (fieldD w) (fieldA w) (bitLA w))
    | 14 => .ok (.vcvtI32I16Lo (wordY w) (fieldD w) (fieldA w) (bitLA w))
    | 15 => .ok (.vcvtI32I16Hi (wordY w) (fieldD w) (fieldA w) (bitLA w))
    | _ => .error .reservedSub)

/-- Opcodes 0x60 to 0x6F of the grid of R58, by OP[3:0]; a number without an arm is reserved. -/
def decodeRow6 (w : Lane) (lo : Nat) : Except Reject Instr :=
  match lo with
  | 0 => .ok (.vfadd (wordY w) (fieldD w) (fieldA w) (fieldB w) (bitLA w) (bitLB w))
  | 1 => .ok (.vfsub (wordY w) (fieldD w) (fieldA w) (fieldB w) (bitLA w) (bitLB w))
  | 2 => .ok (.vfmul (wordY w) (fieldD w) (fieldA w) (fieldB w) (bitLA w) (bitLB w))
  | 3 => .ok (.vfma (wordY w) (fieldD w) (fieldA w) (fieldB w) (bitLA w) (bitLB w))
  | 4 => .ok (.vfmin (wordY w) (fieldD w) (fieldA w) (fieldB w) (bitLA w) (bitLB w))
  | 5 => .ok (.vfmax (wordY w) (fieldD w) (fieldA w) (fieldB w) (bitLA w) (bitLB w))
  | 6 => .ok (.vfeq (wordY w) (fieldD w) (fieldA w) (fieldB w) (bitLA w) (bitLB w))
  | 7 => .ok (.vflt (wordY w) (fieldD w) (fieldA w) (fieldB w) (bitLA w) (bitLB w))
  | 8 => .ok (.vfle (wordY w) (fieldD w) (fieldA w) (fieldB w) (bitLA w) (bitLB w))
  | 9 => .ok (.vfaddH2 (wordY w) (fieldD w) (fieldA w) (fieldB w) (bitLA w) (bitLB w))
  | 10 => .ok (.vfmulH2 (wordY w) (fieldD w) (fieldA w) (fieldB w) (bitLA w) (bitLB w))
  | 11 => .ok (.vfmaH2 (wordY w) (fieldD w) (fieldA w) (fieldB w) (bitLA w) (bitLB w))
  | 12 => .ok (.vfaddBf2 (wordY w) (fieldD w) (fieldA w) (fieldB w) (bitLA w) (bitLB w))
  | 13 => .ok (.vfmulBf2 (wordY w) (fieldD w) (fieldA w) (fieldB w) (bitLA w) (bitLB w))
  | 14 => .ok (.vfmaBf2 (wordY w) (fieldD w) (fieldA w) (fieldB w) (bitLA w) (bitLB w))
  | _ => need (!bitLB w) .fsBitZero (match (fieldB w).toNat with
    | 0 => .ok (.vfabs (wordY w) (fieldD w) (fieldA w) (bitLA w))
    | 1 => .ok (.vfneg (wordY w) (fieldD w) (fieldA w) (bitLA w))
    | 2 => .ok (.vfclass (wordY w) (fieldD w) (fieldA w) (bitLA w))
    | 3 => .ok (.vfrint (wordY w) (fieldD w) (fieldA w) (bitLA w))
    | 4 => .ok (.vffloor (wordY w) (fieldD w) (fieldA w) (bitLA w))
    | 5 => .ok (.vfceil (wordY w) (fieldD w) (fieldA w) (bitLA w))
    | 6 => .ok (.vftrunc (wordY w) (fieldD w) (fieldA w) (bitLA w))
    | _ => .error .reservedSub)

/-- Opcodes 0x70 to 0x7F of the grid of R58, by OP[3:0]; a number without an arm is reserved. -/
def decodeRow7 (w : Lane) (lo : Nat) : Except Reject Instr :=
  match lo with
  | 0 => need (!bitLB w) .fsBitZero (match (fieldB w).toNat with
    | 0 => .ok (.vrcp (wordY w) (fieldD w) (fieldA w) (bitLA w))
    | 1 => .ok (.vrsq (wordY w) (fieldD w) (fieldA w) (bitLA w))
    | 2 => .ok (.vsqrt (wordY w) (fieldD w) (fieldA w) (bitLA w))
    | 3 => .ok (.vexp2 (wordY w) (fieldD w) (fieldA w) (bitLA w))
    | 4 => .ok (.vlog2 (wordY w) (fieldD w) (fieldA w) (bitLA w))
    | 5 => .ok (.vexp (wordY w) (fieldD w) (fieldA w) (bitLA w))
    | 6 => .ok (.vlog (wordY w) (fieldD w) (fieldA w) (bitLA w))
    | 7 => .ok (.vsin (wordY w) (fieldD w) (fieldA w) (bitLA w))
    | 8 => .ok (.vcos (wordY w) (fieldD w) (fieldA w) (bitLA w))
    | 9 => .ok (.vtanh (wordY w) (fieldD w) (fieldA w) (bitLA w))
    | 10 => .ok (.vsigm (wordY w) (fieldD w) (fieldA w) (bitLA w))
    | 11 => .ok (.verf (wordY w) (fieldD w) (fieldA w) (bitLA w))
    | _ => .error .reservedSub)
  | 1 => .ok (.vfdiv (wordY w) (fieldD w) (fieldA w) (fieldB w) (bitLA w) (bitLB w))
  | 2 => .ok (.vfdotH2 (wordY w) (fieldD w) (fieldA w) (fieldB w) (bitLA w) (bitLB w))
  | 3 => .ok (.vfdotBf2 (wordY w) (fieldD w) (fieldA w) (fieldB w) (bitLA w) (bitLB w))
  | 4 => need (wordField w 8 1 == 0#1 && wordField w 0 3 == 0#3) .reservedField (.ok (.vcbx (wordY w) (fieldD w) (fieldA w) (wordField w 5 3) (wordField w 3 2)))
  | 5 => .ok (.vhadd (wordY w) (fieldD w) (fieldA w) (fieldB w) (bitLA w) (bitLB w))
  | 6 => .ok (.vhsub (wordY w) (fieldD w) (fieldA w) (fieldB w) (bitLA w) (bitLB w))
  | 7 => .ok (.vhmul (wordY w) (fieldD w) (fieldA w) (fieldB w) (bitLA w) (bitLB w))
  | 8 => .ok (.vhmin (wordY w) (fieldD w) (fieldA w) (fieldB w) (bitLA w) (bitLB w))
  | 9 => .ok (.vhmax (wordY w) (fieldD w) (fieldA w) (fieldB w) (bitLA w) (bitLB w))
  | 10 => .ok (.vhminn (wordY w) (fieldD w) (fieldA w) (fieldB w) (bitLA w) (bitLB w))
  | 11 => .ok (.vhmaxn (wordY w) (fieldD w) (fieldA w) (fieldB w) (bitLA w) (bitLB w))
  | 12 => .ok (.vbadd (wordY w) (fieldD w) (fieldA w) (fieldB w) (bitLA w) (bitLB w))
  | 13 => .ok (.vbsub (wordY w) (fieldD w) (fieldA w) (fieldB w) (bitLA w) (bitLB w))
  | 14 => .ok (.vbmin (wordY w) (fieldD w) (fieldA w) (fieldB w) (bitLA w) (bitLB w))
  | _ => .ok (.vbmax (wordY w) (fieldD w) (fieldA w) (fieldB w) (bitLA w) (bitLB w))

/-- Opcodes 0x80 to 0x8F of the grid of R58, by OP[3:0]; a number without an arm is reserved. -/
def decodeRow8 (w : Lane) (lo : Nat) : Except Reject Instr :=
  match lo with
  | 0 => .ok (.vnaddNf0 (wordY w) (fieldD w) (fieldA w) (fieldB w) (bitLA w) (bitLB w))
  | 1 => .ok (.vnaddNf1 (wordY w) (fieldD w) (fieldA w) (fieldB w) (bitLA w) (bitLB w))
  | 2 => .ok (.vnaddNf2 (wordY w) (fieldD w) (fieldA w) (fieldB w) (bitLA w) (bitLB w))
  | 3 => .ok (.vnaddNf3 (wordY w) (fieldD w) (fieldA w) (fieldB w) (bitLA w) (bitLB w))
  | 4 => .ok (.vnmulNf0 (wordY w) (fieldD w) (fieldA w) (fieldB w) (bitLA w) (bitLB w))
  | 5 => .ok (.vnmulNf1 (wordY w) (fieldD w) (fieldA w) (fieldB w) (bitLA w) (bitLB w))
  | 6 => .ok (.vnmulNf2 (wordY w) (fieldD w) (fieldA w) (fieldB w) (bitLA w) (bitLB w))
  | 7 => .ok (.vnmulNf3 (wordY w) (fieldD w) (fieldA w) (fieldB w) (bitLA w) (bitLB w))
  | 8 => .ok (.vndotNf0 (wordY w) (fieldD w) (fieldA w) (fieldB w) (bitLA w) (bitLB w))
  | 9 => .ok (.vndotNf1 (wordY w) (fieldD w) (fieldA w) (fieldB w) (bitLA w) (bitLB w))
  | 10 => .ok (.vndotNf2 (wordY w) (fieldD w) (fieldA w) (fieldB w) (bitLA w) (bitLB w))
  | 11 => .ok (.vndotNf3 (wordY w) (fieldD w) (fieldA w) (fieldB w) (bitLA w) (bitLB w))
  | 12 => need (wordField w 5 4 == 0#4 && wordField w 3 1 == 0#1) .reservedField (.ok (.vncvtNf0 (wordY w) (fieldD w) (fieldA w) (wordBit w 4) (wordField w 0 3)))
  | 13 => need (wordField w 5 4 == 0#4 && wordField w 3 1 == 0#1) .reservedField (.ok (.vncvtNf1 (wordY w) (fieldD w) (fieldA w) (wordBit w 4) (wordField w 0 3)))
  | 14 => need (wordField w 5 4 == 0#4 && wordField w 3 1 == 0#1) .reservedField (.ok (.vncvtNf2 (wordY w) (fieldD w) (fieldA w) (wordBit w 4) (wordField w 0 3)))
  | _ => need (wordField w 5 4 == 0#4 && wordField w 3 1 == 0#1) .reservedField (.ok (.vncvtNf3 (wordY w) (fieldD w) (fieldA w) (wordBit w 4) (wordField w 0 3)))

/-- Opcodes 0x90 to 0x9F of the grid of R58, by OP[3:0]; a number without an arm is reserved. -/
def decodeRow9 (w : Lane) (lo : Nat) : Except Reject Instr :=
  match lo with
  | 0 => .ok (.ldw (wordY w) (fieldD w) (fieldA w) (imm9 w))
  | 1 => .ok (.ldwn (wordY w) (fieldD w) (fieldA w) (imm9 w))
  | 2 => .ok (.ldd (wordY w) (fieldD w) (fieldA w) (imm9 w))
  | 3 => .ok (.ldbn (wordY w) (fieldD w) (fieldA w) (imm9 w))
  | 4 => .ok (.stw (wordY w) (fieldD w) (fieldA w) (imm9 w))
  | 5 => .ok (.std (wordY w) (fieldD w) (fieldA w) (imm9 w))
  | 6 => .ok (.stb (wordY w) (fieldD w) (fieldA w) (imm9 w))
  | 7 => need (!bitLA w) .lastUse (.ok (.vld (wordY w) (fieldD w) (fieldA w) (fieldB w) (bitLB w)))
  | 8 => need (!bitLA w) .lastUse (.ok (.vst (wordY w) (fieldD w) (fieldA w) (fieldB w) (bitLB w)))
  | 9 => .ok (.vldc (wordY w) (fieldD w) (fieldA w) (wordBit w 8) (wordField w 0 8))
  | 10 => .ok (.vstc (wordY w) (fieldD w) (fieldA w) (wordBit w 8) (wordField w 0 8))
  | 11 => need (!bitLA w) .lastUse (.ok (.vlld (wordY w) (fieldD w) (fieldA w) (fieldB w) (bitLB w)))
  | 12 => need (!bitLA w) .lastUse (.ok (.vlst (wordY w) (fieldD w) (fieldA w) (fieldB w) (bitLB w)))
  | 13 => need (wordField w 7 2 != 3#2) .reservedKind (.ok (.vlldc (wordY w) (fieldD w) (fieldA w) (wordField w 7 2) (wordField w 0 7)))
  | 14 => need (wordField w 7 2 != 3#2) .reservedKind (.ok (.vlstc (wordY w) (fieldD w) (fieldA w) (wordField w 7 2) (wordField w 0 7)))
  | _ => .error .reservedOpcode

/-- Opcodes 0xA0 to 0xAF of the grid of R58, by OP[3:0]; a number without an arm is reserved. -/
noncomputable def decodeRowA (w : Lane) (lo : Nat) : Except Reject Instr :=
  match lo with
  | 0 => need (!bitLA w && !bitLB w) .lastUse (.ok (.aadd (wordY w) (fieldD w) (fieldA w) (fieldB w)))
  | 1 => need (!bitLA w && !bitLB w) .lastUse (.ok (.amin (wordY w) (fieldD w) (fieldA w) (fieldB w)))
  | 2 => need (!bitLA w && !bitLB w) .lastUse (.ok (.amax (wordY w) (fieldD w) (fieldA w) (fieldB w)))
  | 3 => need (!bitLA w && !bitLB w) .lastUse (.ok (.aminn (wordY w) (fieldD w) (fieldA w) (fieldB w)))
  | 4 => need (!bitLA w && !bitLB w) .lastUse (.ok (.amaxn (wordY w) (fieldD w) (fieldA w) (fieldB w)))
  | 5 => need (!bitLA w && !bitLB w) .lastUse (.ok (.aand (wordY w) (fieldD w) (fieldA w) (fieldB w)))
  | 6 => need (!bitLA w && !bitLB w) .lastUse (.ok (.aor (wordY w) (fieldD w) (fieldA w) (fieldB w)))
  | 7 => need (!bitLA w && !bitLB w) .lastUse (.ok (.axor (wordY w) (fieldD w) (fieldA w) (fieldB w)))
  | 8 => need (!bitLA w && !bitLB w) .lastUse (.ok (.axchg (wordY w) (fieldD w) (fieldA w) (fieldB w)))
  | 9 => need (!bitLA w && !bitLB w) .lastUse (.ok (.acas (wordY w) (fieldD w) (fieldA w) (fieldB w)))
  | 10 => need (!bitLA w && !bitLB w) .lastUse (.ok (.afadd (wordY w) (fieldD w) (fieldA w) (fieldB w)))
  | 11 => need (!bitLA w) .lastUse (.ok (.vaadd (wordY w) (fieldD w) (fieldA w) (fieldB w) (bitLB w)))
  | 12 => need (!bitLB w) .fsBitZero (match (fieldB w).toNat with
    | 0 => need (zeroD w && zeroA w) .reservedField (need (!bitLA w) .lastUse (.ok (.fenceAll (wordY w))))
    | 1 => need (zeroD w && zeroA w) .reservedField (need (!bitLA w) .lastUse (.ok (.fenceSt (wordY w))))
    | 2 => need (zeroD w && zeroA w) .reservedField (need (!bitLA w) .lastUse (.ok (.fenceEngine (wordY w))))
    | 3 => need (zeroD w && zeroA w) .reservedField (need (!bitLA w) .lastUse (.ok (.fenceLm (wordY w))))
    | 4 => need (zeroD w && zeroA w) .reservedField (need (!bitLA w) .lastUse (.ok (.fenceHost (wordY w))))
    | 5 => need (zeroD w && zeroA w) .reservedField (need (!bitLA w) .lastUse (.ok (.fenceGen (wordY w))))
    | _ => .error .reservedSub)
  | 13 => need (zeroD w && zeroA w && zeroB w) .reservedField (need (!bitLA w && !bitLB w) .lastUse (.ok (.drainst (wordY w))))
  | 14 => need (!bitLB w) .fsBitZero (match (fieldB w).toNat with
    | 0 => need (zeroD w) .reservedField (need (!bitLA w) .lastUse (.ok (.prefL2 (wordY w) (fieldA w))))
    | 1 => need (zeroD w) .reservedField (need (!bitLA w) .lastUse (.ok (.prefL1 (wordY w) (fieldA w))))
    | 2 => need (zeroD w) .reservedField (need (!bitLA w) .lastUse (.ok (.prefEvict (wordY w) (fieldA w))))
    | 3 => need (zeroD w) .reservedField (need (!bitLA w) .lastUse (.ok (.prefPin (wordY w) (fieldA w))))
    | 4 => need (zeroD w) .reservedField (need (!bitLA w) .lastUse (.ok (.prefUnpin (wordY w) (fieldA w))))
    | _ => .error .reservedSub)
  | _ => need (!bitLA w) .lastUse (.ok (.vafadd (wordY w) (fieldD w) (fieldA w) (fieldB w) (bitLB w)))

/-- Opcodes 0xB0 to 0xBF of the grid of R58, by OP[3:0]; a number without an arm is reserved. -/
noncomputable def decodeRowB (w : Lane) (lo : Nat) : Except Reject Instr :=
  match lo with
  | 0 => match (imm9 w).toNat with
    | 0 => .ok (.lmallocT (wordY w) (fieldD w) (fieldA w))
    | 1 => .ok (.lmallocH (wordY w) (fieldD w) (fieldA w))
    | _ => .error .reservedKind
  | 1 => need (zeroD w && zeroB w) .reservedField (need (!bitLA w && !bitLB w) .lastUse (.ok (.lmfree (wordY w) (fieldA w))))
  | 2 => need (zeroD w) .reservedField (need (!bitLA w && !bitLB w) .lastUse (.ok (.lmrenew (wordY w) (fieldA w) (fieldB w))))
  | 3 => need (zeroB w) .reservedField (need (!bitLA w && !bitLB w) .lastUse (.ok (.lmage (wordY w) (fieldD w) (fieldA w))))
  | 4 => need (!bitLB w) .fsBitZero (match (fieldB w).toNat with
    | 0 => need (!bitLA w) .lastUse (.ok (.fefillEmpty (wordY w) (fieldD w) (fieldA w)))
    | 1 => need (!bitLA w) .lastUse (.ok (.fefillFull (wordY w) (fieldD w) (fieldA w)))
    | _ => .error .reservedSub)
  | 5 => need (!bitLA w && !bitLB w) .lastUse (.ok (.xcopy (wordY w) (fieldD w) (fieldA w) (fieldB w)))
  | 6 => need (!bitLA w && !bitLB w) .lastUse (.ok (.xpack (wordY w) (fieldD w) (fieldA w) (fieldB w)))
  | 7 => need (!bitLA w && !bitLB w) .lastUse (.ok (.xgath (wordY w) (fieldD w) (fieldA w) (fieldB w)))
  | 8 => need (!bitLA w && !bitLB w) .lastUse (.ok (.xscat (wordY w) (fieldD w) (fieldA w) (fieldB w)))
  | 9 => need (!bitLA w && !bitLB w) .lastUse (.ok (.xback (wordY w) (fieldD w) (fieldA w) (fieldB w)))
  | 10 => need (zeroB w) .reservedField (need (!bitLA w && !bitLB w) .lastUse (.ok (.xwait (wordY w) (fieldD w) (fieldA w))))
  | 11 => need (zeroB w) .reservedField (need (!bitLA w && !bitLB w) .lastUse (.ok (.xstat (wordY w) (fieldD w) (fieldA w))))
  | 12 => need (!bitLA w && !bitLB w) .lastUse (.ok (.xunpack (wordY w) (fieldD w) (fieldA w) (fieldB w)))
  | 13 => need (!bitLA w && !bitLB w) .lastUse (.ok (.xfill (wordY w) (fieldD w) (fieldA w) (fieldB w)))
  | 14 => need (!bitLA w && !bitLB w) .lastUse (.ok (.xcbexp (wordY w) (fieldD w) (fieldA w) (fieldB w)))
  | _ => .error .reservedOpcode

/-- Opcodes 0xC0 to 0xCF of the grid of R58, by OP[3:0]; a number without an arm is reserved. -/
noncomputable def decodeRowC (w : Lane) (lo : Nat) : Except Reject Instr :=
  match lo with
  | 0 => need (!bitLA w && !bitLB w) .lastUse (.ok (.mma (wordY w) (fieldD w) (fieldA w) (fieldB w)))
  | 1 => need (zeroA w && zeroB w) .reservedField (need (!bitLA w && !bitLB w) .lastUse (.ok (.mzero (wordY w) (fieldD w))))
  | 2 => need (!bitLA w && !bitLB w) .lastUse (.ok (.mst (wordY w) (fieldD w) (fieldA w) (fieldB w)))
  | 3 => need (!bitLA w && !bitLB w) .lastUse (.ok (.mld (wordY w) (fieldD w) (fieldA w) (fieldB w)))
  | 4 => need (zeroB w) .reservedField (need (!bitLA w && !bitLB w) .lastUse (.ok (.mver (wordY w) (fieldD w) (fieldA w))))
  | 5 => need (zeroA w && zeroB w) .reservedField (need (!bitLA w && !bitLB w) .lastUse (.ok (.mwait (wordY w) (fieldD w))))
  | 6 => need (!bitLB w) .fsBitZero (match (fieldB w).toNat with
    | 0 => need (zeroD w && zeroA w) .reservedField (need (!bitLA w) .lastUse (.ok (.mchkForce (wordY w))))
    | 1 => need (zeroA w) .reservedField (need (!bitLA w) .lastUse (.ok (.mchkStatus (wordY w) (fieldD w))))
    | 2 => need (zeroD w) .reservedField (need (!bitLA w) .lastUse (.ok (.mchkPeriod (wordY w) (fieldA w))))
    | _ => .error .reservedSub)
  | 8 => need (zeroB w) .reservedField (need (!bitLA w && !bitLB w) .lastUse (.ok (.cbload (wordY w) (fieldD w) (fieldA w))))
  | 9 => need (zeroB w) .reservedField (need (!bitLA w && !bitLB w) .lastUse (.ok (.nfset (wordY w) (fieldD w) (fieldA w))))
  | _ => .error .reservedOpcode

/-- Opcodes 0xD0 to 0xDF of the grid of R58, by OP[3:0]; a number without an arm is reserved. -/
noncomputable def decodeRowD (w : Lane) (lo : Nat) : Except Reject Instr :=
  match lo with
  | 0 => need (zeroB w) .reservedField (need (!bitLA w && !bitLB w) .lastUse (.ok (.rgbeg (wordY w) (fieldD w) (fieldA w))))
  | 1 => need (!bitLA w && !bitLB w) .lastUse (.ok (.rgbind (wordY w) (fieldD w) (fieldA w) (fieldB w)))
  | 2 => need (zeroA w && zeroB w) .reservedField (need (!bitLA w && !bitLB w) .lastUse (.ok (.rgend (wordY w) (fieldD w))))
  | 3 => need (zeroD w && zeroA w && zeroB w) .reservedField (need (!bitLA w && !bitLB w) .lastUse (.ok (.rgabort (wordY w))))
  | 4 => need (zeroA w && zeroB w) .reservedField (need (!bitLA w && !bitLB w) .lastUse (.ok (.rgstat (wordY w) (fieldD w))))
  | 5 => need (zeroA w && zeroB w) .reservedField (need (!bitLA w && !bitLB w) .lastUse (.ok (.rgwait (wordY w) (fieldD w))))
  | 8 => need (!bitLA w && !bitLB w) .lastUse (.ok (.qpush (wordY w) (fieldD w) (fieldA w) (fieldB w)))
  | 9 => need (!bitLA w && !bitLB w) .lastUse (.ok (.qpushw (wordY w) (fieldD w) (fieldA w) (fieldB w)))
  | 10 => need (!bitLA w && !bitLB w) .lastUse (.ok (.qpop (wordY w) (fieldD w) (fieldA w) (fieldB w)))
  | 11 => need (zeroB w) .reservedField (need (!bitLA w && !bitLB w) .lastUse (.ok (.qfree (wordY w) (fieldD w) (fieldA w))))
  | 12 => need (zeroD w && zeroB w) .reservedField (need (!bitLA w && !bitLB w) .lastUse (.ok (.qclose (wordY w) (fieldA w))))
  | 13 => need (zeroB w) .reservedField (need (!bitLA w && !bitLB w) .lastUse (.ok (.flaunch (wordY w) (fieldD w) (fieldA w))))
  | 14 => need (zeroB w) .reservedField (need (!bitLA w && !bitLB w) .lastUse (.ok (.qpeek (wordY w) (fieldD w) (fieldA w))))
  | _ => .error .reservedOpcode

/-- Opcodes 0xE0 to 0xEF of the grid of R58, by OP[3:0]; a number without an arm is reserved. -/
noncomputable def decodeRowE (w : Lane) (lo : Nat) : Except Reject Instr :=
  match lo with
  | 0 => need (zeroD w && zeroA w && wordField w 3 6 == 0#6) .reservedField (.ok (.bar (wordY w) (wordField w 0 3)))
  | 1 => need (zeroA w && wordField w 3 6 == 0#6) .reservedField (.ok (.barv (wordY w) (fieldD w) (wordField w 0 3)))
  | 2 => need (zeroD w && wordField w 3 6 == 0#6) .reservedField (.ok (.barw (wordY w) (fieldA w) (wordField w 0 3)))
  | 3 => need (zeroD w && zeroA w && zeroB w) .reservedField (need (!bitLA w && !bitLB w) .lastUse (.ok (.cleave (wordY w))))
  | 4 => need (zeroB w) .reservedField (need (!bitLA w && !bitLB w) .lastUse (.ok (.xbar (wordY w) (fieldD w) (fieldA w))))
  | 5 => need (zeroB w) .reservedField (need (!bitLA w && !bitLB w) .lastUse (.ok (.xbarv (wordY w) (fieldD w) (fieldA w))))
  | 8 => need (zeroD w && zeroB w) .reservedField (need (!bitLA w && !bitLB w) .lastUse (.ok (.coll (wordY w) (fieldA w))))
  | 9 => need (zeroB w) .reservedField (need (!bitLA w && !bitLB w) .lastUse (.ok (.cwait (wordY w) (fieldD w) (fieldA w))))
  | 10 => need (zeroB w) .reservedField (need (!bitLA w && !bitLB w) .lastUse (.ok (.dpost (wordY w) (fieldD w) (fieldA w))))
  | 11 => need (!bitLA w && !bitLB w) .lastUse (.ok (.xchg (wordY w) (fieldD w) (fieldA w) (fieldB w)))
  | 12 => need (!bitLA w && !bitLB w) .lastUse (.ok (.gfence (wordY w) (fieldD w) (fieldA w) (fieldB w)))
  | 13 => need (!bitLA w && !bitLB w) .lastUse (.ok (.gread (wordY w) (fieldD w) (fieldA w) (fieldB w)))
  | 14 => need (zeroB w) .reservedField (need (!bitLA w && !bitLB w) .lastUse (.ok (.hbstat (wordY w) (fieldD w) (fieldA w))))
  | 15 => need (zeroD w && zeroB w) .reservedField (need (!bitLA w && !bitLB w) .lastUse (.ok (.xstop (wordY w) (fieldA w))))
  | _ => .error .reservedOpcode

/-- Opcodes 0xF0 to 0xFF of the grid of R58, by OP[3:0]; a number without an arm is reserved. -/
noncomputable def decodeRowF (w : Lane) (lo : Nat) : Except Reject Instr :=
  match lo with
  | 0 => need (zeroA w) .reservedField (.ok (.csrr (wordY w) (fieldD w) (imm9 w)))
  | 1 => need (zeroD w) .reservedField (.ok (.csrw (wordY w) (fieldA w) (imm9 w)))
  | 2 => need (zeroD w && zeroA w) .reservedField (.ok (.vwin (wordY w) (imm9 w)))
  | 3 => need (zeroD w && zeroA w) .reservedField (.ok (.trap (wordY w) (imm9 w)))
  | 4 => need (zeroD w) .reservedField (need (!bitLA w && !bitLB w) .lastUse (.ok (.eret (wordY w) (fieldA w) (fieldB w))))
  | 5 => need (zeroD w && zeroB w) .reservedField (need (!bitLA w && !bitLB w) .lastUse (.ok (.npre (wordY w) (fieldA w))))
  | 6 => need (zeroB w) .reservedField (need (!bitLA w && !bitLB w) .lastUse (.ok (.sfrpop (wordY w) (fieldD w) (fieldA w))))
  | 7 => need (zeroD w && zeroB w) .reservedField (need (!bitLA w && !bitLB w) .lastUse (.ok (.ctkill (wordY w) (fieldA w))))
  | 8 => need (zeroD w) .reservedField (.ok (.brk (wordY w) (imm16 w)))
  | 9 => need (zeroD w && zeroA w && zeroB w) .reservedField (need (!bitLA w && !bitLB w) .lastUse (.ok (.wdarm (wordY w))))
  | _ => .error .reservedOpcode

/-- The instruction a word is (R62), or the check of R46 it fails. The all-zero word has the reserved opcode 0x00. -/
noncomputable def decode (w : Lane) : Except Reject Instr :=
  let lo := opcode w % 16
  match opcode w / 16 with
  | 0 => decodeRow0 w lo
  | 1 => decodeRow1 w lo
  | 2 => decodeRow2 w lo
  | 3 => decodeRow3 w lo
  | 4 => decodeRow4 w lo
  | 5 => decodeRow5 w lo
  | 6 => decodeRow6 w lo
  | 7 => decodeRow7 w lo
  | 8 => decodeRow8 w lo
  | 9 => decodeRow9 w lo
  | 10 => decodeRowA w lo
  | 11 => decodeRowB w lo
  | 12 => decodeRowC w lo
  | 13 => decodeRowD w lo
  | 14 => decodeRowE w lo
  | _ => decodeRowF w lo

/-- The little-endian word of four bytes, the first at the lowest address (R5, R43). -/
def wordOfBytes (b0 b1 b2 b3 : Byte) : Lane := b3 ++ b2 ++ b1 ++ b0

/-- Decode the first word of a byte sequence and give the rest of the bytes. -/
noncomputable def decodeBytes (bs : List Byte) : Except Reject (Instr × List Byte) :=
  match bs with
  | b0 :: b1 :: b2 :: b3 :: rest => (decode (wordOfBytes b0 b1 b2 b3)).map (fun i => (i, rest))
  | _ => .error .short

/-- The four bytes of a word as memory holds them (R43). -/
def bytesOfWord (w : Lane) : List Byte :=
  [w.extractLsb' 0 8, w.extractLsb' 8 8, w.extractLsb' 16 8, w.extractLsb' 24 8]

/-- The opcodes of the vector class (R45). -/
def vectorOpcode (op : Nat) : Bool :=
  (0x40 ≤ op && op ≤ 0x8F) || (0x97 ≤ op && op ≤ 0x9E) || op == 0xAB || op == 0xAF

/-- A word is vector-class by its opcode alone (R45). -/
def vectorClass (w : Lane) : Bool := vectorOpcode (opcode w)

/-- The word of format F3 (R43). -/
def encF3 (y : Bool) (op : BitVec 8) (d a b : Reg) (la lb : Bool) : Lane :=
  BitVec.ofBool y ++ op ++ d ++ a ++ b ++ BitVec.ofBool la ++ BitVec.ofBool lb
/-- The word of format FS (R43): bit 0 is 0. -/
def encFS (y : Bool) (op : BitVec 8) (d a sub : Reg) (la : Bool) : Lane := encF3 y op d a sub la false
/-- The word of format FI (R43). -/
def encFI (y : Bool) (op : BitVec 8) (d a : Reg) (i : BitVec 9) : Lane :=
  BitVec.ofBool y ++ op ++ d ++ a ++ i
/-- The word of format FL (R43). -/
def encFL (y : Bool) (op : BitVec 8) (d : Reg) (i : BitVec 16) : Lane :=
  BitVec.ofBool y ++ op ++ d ++ i
/-- The word of format FJ (R43). -/
def encFJ (y : Bool) (op : BitVec 8) (i : BitVec 23) : Lane := BitVec.ofBool y ++ op ++ i

/-- The word of an instruction by the formats of R43, the opcodes of R58 and the subfunctions and kinds of R60 and R61; a step
that no word encodes has none. -/
def encode (i : Instr) : Option Lane :=
  match i with
  | .nop y => some (encF3 y 0x01#8 0#7 0#7 0#7 false false)
  | .add y d a b => some (encF3 y 0x02#8 d a b false false)
  | .sub y d a b => some (encF3 y 0x03#8 d a b false false)
  | .addi y d a i => some (encFI y 0x04#8 d a i)
  | .mul y d a b => some (encF3 y 0x05#8 d a b false false)
  | .mulh y d a b => some (encF3 y 0x06#8 d a b false false)
  | .mulhn y d a b => some (encF3 y 0x07#8 d a b false false)
  | .div y d a b => some (encF3 y 0x08#8 d a b false false)
  | .divn y d a b => some (encF3 y 0x09#8 d a b false false)
  | .rem y d a b => some (encF3 y 0x0A#8 d a b false false)
  | .remn y d a b => some (encF3 y 0x0B#8 d a b false false)
  | .and y d a b => some (encF3 y 0x0C#8 d a b false false)
  | .or y d a b => some (encF3 y 0x0D#8 d a b false false)
  | .xor y d a b => some (encF3 y 0x0E#8 d a b false false)
  | .andn y d a b => some (encF3 y 0x0F#8 d a b false false)
  | .andi y d a i => some (encFI y 0x10#8 d a i)
  | .ori y d a i => some (encFI y 0x11#8 d a i)
  | .xori y d a i => some (encFI y 0x12#8 d a i)
  | .shl y d a b => some (encF3 y 0x13#8 d a b false false)
  | .shr y d a b => some (encF3 y 0x14#8 d a b false false)
  | .sha y d a b => some (encF3 y 0x15#8 d a b false false)
  | .shli y d a i => some (encFI y 0x16#8 d a (0#3 ++ i))
  | .shri y d a i => some (encFI y 0x17#8 d a (0#3 ++ i))
  | .shai y d a i => some (encFI y 0x18#8 d a (0#3 ++ i))
  | .min y d a b => some (encF3 y 0x19#8 d a b false false)
  | .max y d a b => some (encF3 y 0x1A#8 d a b false false)
  | .minn y d a b => some (encF3 y 0x1B#8 d a b false false)
  | .maxn y d a b => some (encF3 y 0x1C#8 d a b false false)
  | .seq y d a b => some (encF3 y 0x1D#8 d a b false false)
  | .slt y d a b => some (encF3 y 0x1E#8 d a b false false)
  | .sltn y d a b => some (encF3 y 0x1F#8 d a b false false)
  | .clz y d a => some (encFS y 0x20#8 d a 0#7 false)
  | .ctz y d a => some (encFS y 0x20#8 d a 1#7 false)
  | .popc y d a => some (encFS y 0x20#8 d a 2#7 false)
  | .brev y d a => some (encFS y 0x20#8 d a 3#7 false)
  | .bswap y d a => some (encFS y 0x20#8 d a 4#7 false)
  | .sext8 y d a => some (encFS y 0x20#8 d a 5#7 false)
  | .sext16 y d a => some (encFS y 0x20#8 d a 6#7 false)
  | .sext32 y d a => some (encFS y 0x20#8 d a 7#7 false)
  | .zext8 y d a => some (encFS y 0x20#8 d a 8#7 false)
  | .zext16 y d a => some (encFS y 0x20#8 d a 9#7 false)
  | .zext32 y d a => some (encFS y 0x20#8 d a 10#7 false)
  | .abs y d a => some (encFS y 0x20#8 d a 11#7 false)
  | .neg y d a => some (encFS y 0x20#8 d a 12#7 false)
  | .not y d a => some (encFS y 0x20#8 d a 13#7 false)
  | .sel y d a b => some (encF3 y 0x21#8 d a b false false)
  | .set0 y d i => some (encFL y 0x22#8 d i)
  | .set16 y d i => some (encFL y 0x23#8 d i)
  | .set32 y d i => some (encFL y 0x24#8 d i)
  | .set48 y d i => some (encFL y 0x25#8 d i)
  | .adpc y d i => some (encFL y 0x26#8 d i)
  | .slti y d a i => some (encFI y 0x27#8 d a i)
  | .fadd y d a b => some (encF3 y 0x28#8 d a b false false)
  | .fsub y d a b => some (encF3 y 0x29#8 d a b false false)
  | .fmul y d a b => some (encF3 y 0x2A#8 d a b false false)
  | .ffma y d a b => some (encF3 y 0x2B#8 d a b false false)
  | .fdiv y d a b => some (encF3 y 0x2C#8 d a b false false)
  | .fmin y d a b => some (encF3 y 0x2D#8 d a b false false)
  | .fmax y d a b => some (encF3 y 0x2E#8 d a b false false)
  | .fsqrt y d a => some (encFS y 0x2F#8 d a 0#7 false)
  | .fabs y d a => some (encFS y 0x2F#8 d a 1#7 false)
  | .fneg y d a => some (encFS y 0x2F#8 d a 2#7 false)
  | .fclass y d a => some (encFS y 0x2F#8 d a 3#7 false)
  | .cvtF64I64 y d a => some (encFS y 0x2F#8 d a 4#7 false)
  | .cvtF64N64 y d a => some (encFS y 0x2F#8 d a 5#7 false)
  | .cvtI64F64 y d a => some (encFS y 0x2F#8 d a 6#7 false)
  | .cvtN64F64 y d a => some (encFS y 0x2F#8 d a 7#7 false)
  | .cvtF32F64 y d a => some (encFS y 0x2F#8 d a 8#7 false)
  | .cvtF64F32 y d a => some (encFS y 0x2F#8 d a 9#7 false)
  | .feq y d a b => some (encF3 y 0x30#8 d a b false false)
  | .flt y d a b => some (encF3 y 0x31#8 d a b false false)
  | .fle y d a b => some (encF3 y 0x32#8 d a b false false)
  | .br y d i => some (encFL y 0x33#8 d i)
  | .brz y d i => some (encFL y 0x34#8 d i)
  | .jmp y i => some (encFJ y 0x35#8 i)
  | .call y i => some (encFJ y 0x36#8 i)
  | .jr y a => some (encF3 y 0x37#8 0#7 a 0#7 false false)
  | .loop y d i => some (encFL y 0x38#8 d i)
  | .exit y => some (encF3 y 0x39#8 0#7 0#7 0#7 false false)
  | .bany y d i => some (encFL y 0x3A#8 d i)
  | .bnone y d i => some (encFL y 0x3B#8 d i)
  | .sltni y d a i => some (encFI y 0x3C#8 d a i)
  | .seqi y d a i => some (encFI y 0x3D#8 d a i)
  | .vadd y d a b la lb => some (encF3 y 0x40#8 d a b la lb)
  | .vsub y d a b la lb => some (encF3 y 0x41#8 d a b la lb)
  | .vmul y d a b la lb => some (encF3 y 0x42#8 d a b la lb)
  | .vmulh y d a b la lb => some (encF3 y 0x43#8 d a b la lb)
  | .vmulhn y d a b la lb => some (encF3 y 0x44#8 d a b la lb)
  | .vmad y d a b la lb => some (encF3 y 0x45#8 d a b la lb)
  | .vand y d a b la lb => some (encF3 y 0x46#8 d a b la lb)
  | .vor y d a b la lb => some (encF3 y 0x47#8 d a b la lb)
  | .vxor y d a b la lb => some (encF3 y 0x48#8 d a b la lb)
  | .vshl y d a b la lb => some (encF3 y 0x49#8 d a b la lb)
  | .vshr y d a b la lb => some (encF3 y 0x4A#8 d a b la lb)
  | .vsha y d a b la lb => some (encF3 y 0x4B#8 d a b la lb)
  | .vmin y d a b la lb => some (encF3 y 0x4C#8 d a b la lb)
  | .vmax y d a b la lb => some (encF3 y 0x4D#8 d a b la lb)
  | .vminn y d a b la lb => some (encF3 y 0x4E#8 d a b la lb)
  | .vmaxn y d a b la lb => some (encF3 y 0x4F#8 d a b la lb)
  | .vaddi y d a i => some (encFI y 0x50#8 d a i)
  | .vabs y d a la => some (encFS y 0x51#8 d a 0#7 la)
  | .vneg y d a la => some (encFS y 0x51#8 d a 1#7 la)
  | .vnot y d a la => some (encFS y 0x51#8 d a 2#7 la)
  | .vclz y d a la => some (encFS y 0x51#8 d a 3#7 la)
  | .vpopc y d a la => some (encFS y 0x51#8 d a 4#7 la)
  | .vbrev y d a la => some (encFS y 0x51#8 d a 5#7 la)
  | .vmov y d a la => some (encFS y 0x51#8 d a 6#7 la)
  | .vsext16 y d a la => some (encFS y 0x51#8 d a 7#7 la)
  | .vbcast y d a => some (encF3 y 0x52#8 d a 0#7 false false)
  | .vlaneid y d => some (encF3 y 0x53#8 d 0#7 0#7 false false)
  | .vseq y d a b la lb => some (encF3 y 0x54#8 d a b la lb)
  | .vsne y d a b la lb => some (encF3 y 0x55#8 d a b la lb)
  | .vslt y d a b la lb => some (encF3 y 0x56#8 d a b la lb)
  | .vsle y d a b la lb => some (encF3 y 0x57#8 d a b la lb)
  | .vsltn y d a b la lb => some (encF3 y 0x58#8 d a b la lb)
  | .vslen y d a b la lb => some (encF3 y 0x59#8 d a b la lb)
  | .vperm y d a b la lb => some (encF3 y 0x5A#8 d a b la lb)
  | .vxshf y d a i => some (encFI y 0x5B#8 d a (0#2 ++ i))
  | .vrotu y d a i => some (encFI y 0x5B#8 d a (1#2 ++ i))
  | .vrotd y d a i => some (encFI y 0x5B#8 d a (2#2 ++ i))
  | .vblane y d a i => some (encFI y 0x5B#8 d a (3#2 ++ i))
  | .vredAdd y d a la => some (encFS y 0x5C#8 d a 0#7 la)
  | .vredMin y d a la => some (encFS y 0x5C#8 d a 1#7 la)
  | .vredMax y d a la => some (encFS y 0x5C#8 d a 2#7 la)
  | .vredMinn y d a la => some (encFS y 0x5C#8 d a 3#7 la)
  | .vredMaxn y d a la => some (encFS y 0x5C#8 d a 4#7 la)
  | .vredAnd y d a la => some (encFS y 0x5C#8 d a 5#7 la)
  | .vredOr y d a la => some (encFS y 0x5C#8 d a 6#7 la)
  | .vredXor y d a la => some (encFS y 0x5C#8 d a 7#7 la)
  | .vredFadd y d a la => some (encFS y 0x5C#8 d a 8#7 la)
  | .vredFmin y d a la => some (encFS y 0x5C#8 d a 9#7 la)
  | .vredFmax y d a la => some (encFS y 0x5C#8 d a 10#7 la)
  | .vext y d a b la => some (encF3 y 0x5D#8 d a b la false)
  | .vins y d a b => some (encF3 y 0x5E#8 d a b false false)
  | .vcvtF32I32 y d a la => some (encFS y 0x5F#8 d a 0#7 la)
  | .vcvtF32N32 y d a la => some (encFS y 0x5F#8 d a 1#7 la)
  | .vcvtI32F32 y d a la => some (encFS y 0x5F#8 d a 2#7 la)
  | .vcvtN32F32 y d a la => some (encFS y 0x5F#8 d a 3#7 la)
  | .vcvtHF32Lo y d a la => some (encFS y 0x5F#8 d a 4#7 la)
  | .vcvtHF32Hi y d a la => some (encFS y 0x5F#8 d a 5#7 la)
  | .vcvtF32HLo y d a la => some (encFS y 0x5F#8 d a 6#7 la)
  | .vcvtF32HHi y d a la => some (encFS y 0x5F#8 d a 7#7 la)
  | .vcvtBfF32Lo y d a la => some (encFS y 0x5F#8 d a 8#7 la)
  | .vcvtBfF32Hi y d a la => some (encFS y 0x5F#8 d a 9#7 la)
  | .vcvtF32BfLo y d a la => some (encFS y 0x5F#8 d a 10#7 la)
  | .vcvtF32BfHi y d a la => some (encFS y 0x5F#8 d a 11#7 la)
  | .vcvtI16I32Lo y d a la => some (encFS y 0x5F#8 d a 12#7 la)
  | .vcvtI16I32Hi y d a la => some (encFS y 0x5F#8 d a 13#7 la)
  | .vcvtI32I16Lo y d a la => some (encFS y 0x5F#8 d a 14#7 la)
  | .vcvtI32I16Hi y d a la => some (encFS y 0x5F#8 d a 15#7 la)
  | .vfadd y d a b la lb => some (encF3 y 0x60#8 d a b la lb)
  | .vfsub y d a b la lb => some (encF3 y 0x61#8 d a b la lb)
  | .vfmul y d a b la lb => some (encF3 y 0x62#8 d a b la lb)
  | .vfma y d a b la lb => some (encF3 y 0x63#8 d a b la lb)
  | .vfmin y d a b la lb => some (encF3 y 0x64#8 d a b la lb)
  | .vfmax y d a b la lb => some (encF3 y 0x65#8 d a b la lb)
  | .vfeq y d a b la lb => some (encF3 y 0x66#8 d a b la lb)
  | .vflt y d a b la lb => some (encF3 y 0x67#8 d a b la lb)
  | .vfle y d a b la lb => some (encF3 y 0x68#8 d a b la lb)
  | .vfaddH2 y d a b la lb => some (encF3 y 0x69#8 d a b la lb)
  | .vfmulH2 y d a b la lb => some (encF3 y 0x6A#8 d a b la lb)
  | .vfmaH2 y d a b la lb => some (encF3 y 0x6B#8 d a b la lb)
  | .vfaddBf2 y d a b la lb => some (encF3 y 0x6C#8 d a b la lb)
  | .vfmulBf2 y d a b la lb => some (encF3 y 0x6D#8 d a b la lb)
  | .vfmaBf2 y d a b la lb => some (encF3 y 0x6E#8 d a b la lb)
  | .vfabs y d a la => some (encFS y 0x6F#8 d a 0#7 la)
  | .vfneg y d a la => some (encFS y 0x6F#8 d a 1#7 la)
  | .vfclass y d a la => some (encFS y 0x6F#8 d a 2#7 la)
  | .vfrint y d a la => some (encFS y 0x6F#8 d a 3#7 la)
  | .vffloor y d a la => some (encFS y 0x6F#8 d a 4#7 la)
  | .vfceil y d a la => some (encFS y 0x6F#8 d a 5#7 la)
  | .vftrunc y d a la => some (encFS y 0x6F#8 d a 6#7 la)
  | .vrcp y d a la => some (encFS y 0x70#8 d a 0#7 la)
  | .vrsq y d a la => some (encFS y 0x70#8 d a 1#7 la)
  | .vsqrt y d a la => some (encFS y 0x70#8 d a 2#7 la)
  | .vexp2 y d a la => some (encFS y 0x70#8 d a 3#7 la)
  | .vlog2 y d a la => some (encFS y 0x70#8 d a 4#7 la)
  | .vexp y d a la => some (encFS y 0x70#8 d a 5#7 la)
  | .vlog y d a la => some (encFS y 0x70#8 d a 6#7 la)
  | .vsin y d a la => some (encFS y 0x70#8 d a 7#7 la)
  | .vcos y d a la => some (encFS y 0x70#8 d a 8#7 la)
  | .vtanh y d a la => some (encFS y 0x70#8 d a 9#7 la)
  | .vsigm y d a la => some (encFS y 0x70#8 d a 10#7 la)
  | .verf y d a la => some (encFS y 0x70#8 d a 11#7 la)
  | .vfdiv y d a b la lb => some (encF3 y 0x71#8 d a b la lb)
  | .vfdotH2 y d a b la lb => some (encF3 y 0x72#8 d a b la lb)
  | .vfdotBf2 y d a b la lb => some (encF3 y 0x73#8 d a b la lb)
  | .vcbx y d a j t => some (encFI y 0x74#8 d a (0#1 ++ j ++ t ++ 0#3))
  | .vhadd y d a b la lb => some (encF3 y 0x75#8 d a b la lb)
  | .vhsub y d a b la lb => some (encF3 y 0x76#8 d a b la lb)
  | .vhmul y d a b la lb => some (encF3 y 0x77#8 d a b la lb)
  | .vhmin y d a b la lb => some (encF3 y 0x78#8 d a b la lb)
  | .vhmax y d a b la lb => some (encF3 y 0x79#8 d a b la lb)
  | .vhminn y d a b la lb => some (encF3 y 0x7A#8 d a b la lb)
  | .vhmaxn y d a b la lb => some (encF3 y 0x7B#8 d a b la lb)
  | .vbadd y d a b la lb => some (encF3 y 0x7C#8 d a b la lb)
  | .vbsub y d a b la lb => some (encF3 y 0x7D#8 d a b la lb)
  | .vbmin y d a b la lb => some (encF3 y 0x7E#8 d a b la lb)
  | .vbmax y d a b la lb => some (encF3 y 0x7F#8 d a b la lb)
  | .vnaddNf0 y d a b la lb => some (encF3 y 0x80#8 d a b la lb)
  | .vnaddNf1 y d a b la lb => some (encF3 y 0x81#8 d a b la lb)
  | .vnaddNf2 y d a b la lb => some (encF3 y 0x82#8 d a b la lb)
  | .vnaddNf3 y d a b la lb => some (encF3 y 0x83#8 d a b la lb)
  | .vnmulNf0 y d a b la lb => some (encF3 y 0x84#8 d a b la lb)
  | .vnmulNf1 y d a b la lb => some (encF3 y 0x85#8 d a b la lb)
  | .vnmulNf2 y d a b la lb => some (encF3 y 0x86#8 d a b la lb)
  | .vnmulNf3 y d a b la lb => some (encF3 y 0x87#8 d a b la lb)
  | .vndotNf0 y d a b la lb => some (encF3 y 0x88#8 d a b la lb)
  | .vndotNf1 y d a b la lb => some (encF3 y 0x89#8 d a b la lb)
  | .vndotNf2 y d a b la lb => some (encF3 y 0x8A#8 d a b la lb)
  | .vndotNf3 y d a b la lb => some (encF3 y 0x8B#8 d a b la lb)
  | .vncvtNf0 y d a e j => some (encFI y 0x8C#8 d a (0#4 ++ BitVec.ofBool e ++ 0#1 ++ j))
  | .vncvtNf1 y d a e j => some (encFI y 0x8D#8 d a (0#4 ++ BitVec.ofBool e ++ 0#1 ++ j))
  | .vncvtNf2 y d a e j => some (encFI y 0x8E#8 d a (0#4 ++ BitVec.ofBool e ++ 0#1 ++ j))
  | .vncvtNf3 y d a e j => some (encFI y 0x8F#8 d a (0#4 ++ BitVec.ofBool e ++ 0#1 ++ j))
  | .ldw y d a i => some (encFI y 0x90#8 d a i)
  | .ldwn y d a i => some (encFI y 0x91#8 d a i)
  | .ldd y d a i => some (encFI y 0x92#8 d a i)
  | .ldbn y d a i => some (encFI y 0x93#8 d a i)
  | .stw y d a i => some (encFI y 0x94#8 d a i)
  | .std y d a i => some (encFI y 0x95#8 d a i)
  | .stb y d a i => some (encFI y 0x96#8 d a i)
  | .vld y d a b lb => some (encF3 y 0x97#8 d a b false lb)
  | .vst y d a b lb => some (encF3 y 0x98#8 d a b false lb)
  | .vldc y d a s i => some (encFI y 0x99#8 d a (BitVec.ofBool s ++ i))
  | .vstc y d a s i => some (encFI y 0x9A#8 d a (BitVec.ofBool s ++ i))
  | .vlld y d a b lb => some (encF3 y 0x9B#8 d a b false lb)
  | .vlst y d a b lb => some (encF3 y 0x9C#8 d a b false lb)
  | .vlldc y d a e i => some (encFI y 0x9D#8 d a (e ++ i))
  | .vlstc y d a e i => some (encFI y 0x9E#8 d a (e ++ i))
  | .aadd y d a b => some (encF3 y 0xA0#8 d a b false false)
  | .amin y d a b => some (encF3 y 0xA1#8 d a b false false)
  | .amax y d a b => some (encF3 y 0xA2#8 d a b false false)
  | .aminn y d a b => some (encF3 y 0xA3#8 d a b false false)
  | .amaxn y d a b => some (encF3 y 0xA4#8 d a b false false)
  | .aand y d a b => some (encF3 y 0xA5#8 d a b false false)
  | .aor y d a b => some (encF3 y 0xA6#8 d a b false false)
  | .axor y d a b => some (encF3 y 0xA7#8 d a b false false)
  | .axchg y d a b => some (encF3 y 0xA8#8 d a b false false)
  | .acas y d a b => some (encF3 y 0xA9#8 d a b false false)
  | .afadd y d a b => some (encF3 y 0xAA#8 d a b false false)
  | .vaadd y d a b lb => some (encF3 y 0xAB#8 d a b false lb)
  | .fenceAll y => some (encFS y 0xAC#8 0#7 0#7 0#7 false)
  | .fenceSt y => some (encFS y 0xAC#8 0#7 0#7 1#7 false)
  | .fenceEngine y => some (encFS y 0xAC#8 0#7 0#7 2#7 false)
  | .fenceLm y => some (encFS y 0xAC#8 0#7 0#7 3#7 false)
  | .fenceHost y => some (encFS y 0xAC#8 0#7 0#7 4#7 false)
  | .fenceGen y => some (encFS y 0xAC#8 0#7 0#7 5#7 false)
  | .drainst y => some (encF3 y 0xAD#8 0#7 0#7 0#7 false false)
  | .prefL2 y a => some (encFS y 0xAE#8 0#7 a 0#7 false)
  | .prefL1 y a => some (encFS y 0xAE#8 0#7 a 1#7 false)
  | .prefEvict y a => some (encFS y 0xAE#8 0#7 a 2#7 false)
  | .prefPin y a => some (encFS y 0xAE#8 0#7 a 3#7 false)
  | .prefUnpin y a => some (encFS y 0xAE#8 0#7 a 4#7 false)
  | .vafadd y d a b lb => some (encF3 y 0xAF#8 d a b false lb)
  | .lmallocT y d a => some (encFI y 0xB0#8 d a 0#9)
  | .lmallocH y d a => some (encFI y 0xB0#8 d a 1#9)
  | .lmfree y a => some (encF3 y 0xB1#8 0#7 a 0#7 false false)
  | .lmrenew y a b => some (encF3 y 0xB2#8 0#7 a b false false)
  | .lmage y d a => some (encF3 y 0xB3#8 d a 0#7 false false)
  | .fefillEmpty y d a => some (encFS y 0xB4#8 d a 0#7 false)
  | .fefillFull y d a => some (encFS y 0xB4#8 d a 1#7 false)
  | .xcopy y d a b => some (encF3 y 0xB5#8 d a b false false)
  | .xpack y d a b => some (encF3 y 0xB6#8 d a b false false)
  | .xgath y d a b => some (encF3 y 0xB7#8 d a b false false)
  | .xscat y d a b => some (encF3 y 0xB8#8 d a b false false)
  | .xback y d a b => some (encF3 y 0xB9#8 d a b false false)
  | .xwait y d a => some (encF3 y 0xBA#8 d a 0#7 false false)
  | .xstat y d a => some (encF3 y 0xBB#8 d a 0#7 false false)
  | .xunpack y d a b => some (encF3 y 0xBC#8 d a b false false)
  | .xfill y d a b => some (encF3 y 0xBD#8 d a b false false)
  | .xcbexp y d a b => some (encF3 y 0xBE#8 d a b false false)
  | .mma y d a b => some (encF3 y 0xC0#8 d a b false false)
  | .mzero y d => some (encF3 y 0xC1#8 d 0#7 0#7 false false)
  | .mst y d a b => some (encF3 y 0xC2#8 d a b false false)
  | .mld y d a b => some (encF3 y 0xC3#8 d a b false false)
  | .mver y d a => some (encF3 y 0xC4#8 d a 0#7 false false)
  | .mwait y d => some (encF3 y 0xC5#8 d 0#7 0#7 false false)
  | .mchkForce y => some (encFS y 0xC6#8 0#7 0#7 0#7 false)
  | .mchkStatus y d => some (encFS y 0xC6#8 d 0#7 1#7 false)
  | .mchkPeriod y a => some (encFS y 0xC6#8 0#7 a 2#7 false)
  | .cbload y d a => some (encF3 y 0xC8#8 d a 0#7 false false)
  | .nfset y d a => some (encF3 y 0xC9#8 d a 0#7 false false)
  | .rgbeg y d a => some (encF3 y 0xD0#8 d a 0#7 false false)
  | .rgbind y d a b => some (encF3 y 0xD1#8 d a b false false)
  | .rgend y d => some (encF3 y 0xD2#8 d 0#7 0#7 false false)
  | .rgabort y => some (encF3 y 0xD3#8 0#7 0#7 0#7 false false)
  | .rgstat y d => some (encF3 y 0xD4#8 d 0#7 0#7 false false)
  | .rgwait y d => some (encF3 y 0xD5#8 d 0#7 0#7 false false)
  | .qpush y d a b => some (encF3 y 0xD8#8 d a b false false)
  | .qpushw y d a b => some (encF3 y 0xD9#8 d a b false false)
  | .qpop y d a b => some (encF3 y 0xDA#8 d a b false false)
  | .qfree y d a => some (encF3 y 0xDB#8 d a 0#7 false false)
  | .qclose y a => some (encF3 y 0xDC#8 0#7 a 0#7 false false)
  | .flaunch y d a => some (encF3 y 0xDD#8 d a 0#7 false false)
  | .qpeek y d a => some (encF3 y 0xDE#8 d a 0#7 false false)
  | .bar y i => some (encFI y 0xE0#8 0#7 0#7 (0#6 ++ i))
  | .barv y d i => some (encFI y 0xE1#8 d 0#7 (0#6 ++ i))
  | .barw y a i => some (encFI y 0xE2#8 0#7 a (0#6 ++ i))
  | .cleave y => some (encF3 y 0xE3#8 0#7 0#7 0#7 false false)
  | .xbar y d a => some (encF3 y 0xE4#8 d a 0#7 false false)
  | .xbarv y d a => some (encF3 y 0xE5#8 d a 0#7 false false)
  | .coll y a => some (encF3 y 0xE8#8 0#7 a 0#7 false false)
  | .cwait y d a => some (encF3 y 0xE9#8 d a 0#7 false false)
  | .dpost y d a => some (encF3 y 0xEA#8 d a 0#7 false false)
  | .xchg y d a b => some (encF3 y 0xEB#8 d a b false false)
  | .gfence y d a b => some (encF3 y 0xEC#8 d a b false false)
  | .gread y d a b => some (encF3 y 0xED#8 d a b false false)
  | .hbstat y d a => some (encF3 y 0xEE#8 d a 0#7 false false)
  | .xstop y a => some (encF3 y 0xEF#8 0#7 a 0#7 false false)
  | .csrr y d i => some (encFI y 0xF0#8 d 0#7 i)
  | .csrw y a i => some (encFI y 0xF1#8 0#7 a i)
  | .vwin y i => some (encFI y 0xF2#8 0#7 0#7 i)
  | .trap y i => some (encFI y 0xF3#8 0#7 0#7 i)
  | .eret y a b => some (encF3 y 0xF4#8 0#7 a b false false)
  | .npre y a => some (encF3 y 0xF5#8 0#7 a 0#7 false false)
  | .sfrpop y d a => some (encF3 y 0xF6#8 d a 0#7 false false)
  | .ctkill y a => some (encF3 y 0xF7#8 0#7 a 0#7 false false)
  | .brk y i => some (encFL y 0xF8#8 0#7 i)
  | .wdarm y => some (encF3 y 0xF9#8 0#7 0#7 0#7 false false)
  | .illegal _ => none
  | .fetchFault _ _ => none
  | .loadReturn _ _ _ => none
  | .sfuResult _ => none
  | .loadFaultReport _ _ => none
  | .storeFaultRecord _ _ _ => none
  | .handlerEntry _ _ => none
  | .tokenRefill _ _ => none
  | .tokenGrant _ => none
  | .matrixQueueEntry _ _ => none
  | .matrixOpStart _ => none
  | .mmaComplete _ _ _ => none
  | .mmaSuspend _ _ _ => none
  | .checkMismatch _ _ _ => none
  | .checkEnd _ _ _ _ => none
  | .mzeroComplete _ _ _ => none
  | .mstComplete _ _ _ => none
  | .mldComplete _ _ _ => none
  | .mldDiscard _ _ _ => none
  | .copyLineWrite _ => none
  | .copyComplete _ => none
  | .copyFault _ => none
  | .lmLineExpire _ _ => none
  | .heldLineRenewal _ _ => none
  | .floorTick => none
  | .homeLoad _ _ _ => none
  | .homeStore _ _ _ => none
  | .storePerform _ _ _ => none
  | .recall _ => none
  | .backInvalidation _ => none
  | .hostAccess _ => none
  | .pageWalk _ _ _ _ => none
  | .viewRelease _ => none
  | .dramScrub _ _ => none
  | .softError _ => none
  | .shadowReplay _ => none
  | .rgnBitReport _ => none
  | .rgnBindResume _ _ => none
  | .rgnCommit _ => none
  | .rgnDuration _ => none
  | .flowLaunch _ => none
  | .demandSample => none
  | .crewPlace _ => none
  | .preemptRequest _ => none
  | .preemptWithdraw _ => none
  | .pedlDeadline _ => none
  | .npreWindowEnd _ _ => none
  | .preemptReport _ => none
  | .crewTake _ => none
  | .crewRestore _ => none
  | .restoreFinish _ => none
  | .barto _ _ => none
  | .watchdog _ => none
  | .externalStall _ => none
  | .infieldTestDue _ => none
  | .testPostpone _ => none
  | .collPacket _ => none
  | .collComplete _ => none
  | .e2ePacket _ => none
  | .e2eTimeout _ _ => none
  | .keyExchange _ _ _ => none
  | .linkReplay _ => none
  | .linkDown _ => none
  | .berWindow _ _ _ => none
  | .retrainStart _ _ => none
  | .trainingWindow _ _ _ => none
  | .retrainTimeout _ _ => none
  | .retrainStable _ _ => none
  | .heartbeatPeriod => none
  | .heartbeat _ _ _ _ _ => none
  | .beaconPeriod => none
  | .beacon _ _ _ => none
  | .suspicionReport _ _ _ => none
  | .probeTimeout _ => none
  | .generationIssue => none
  | .generationNotice _ => none
  | .removal _ => none
  | .leaderTakeover => none
  | .stripeLand _ _ _ => none
  | .cloneTimeout => none
  | .replaceResend => none
  | .stepmark => none
  | .wearTimeout => none
  | .retireForce _ => none
  | .retireHandoff _ => none
  | .anvilSchedule _ _ => none
  | .grant _ => none
  | .slotBoundary => none
  | .exchangeData _ => none
  | .endMarker _ => none
  | .residualReport _ => none
  | .arbiterTakeover => none
  | .deviceReset _ => none
  | .bootcmdRestart _ => none
  | .bootcmdRaiseMin _ => none
  | .bootcmdReset _ => none
  | .attreq _ => none
  | .attestationDone => none
  | .contextCreate _ _ => none
  | .contextTerminate _ => none
  | .invalidate _ _ => none
  | .invalidateDone _ => none
  | .diagoccFree _ _ => none
  | .commConfigure _ _ => none
  | .thermalSample _ => none
  | .registerWrite _ _ _ => none
  | .remoteLoadBlockingPoint _ _ => none
  | .linkRetrained _ => none
  | .probeAnswer _ => none
  | .noticeAcknowledgement _ _ => none
  | .failureDeclaration _ => none
  | .infieldTestEnd _ _ => none
  | .marginShortfall _ => none
  | .postAcknowledgement _ _ _ => none
  | .roundStopNotice _ _ => none

/-- The instruction the decoder reads from the bits of a table row: the bytes are laid out little-endian from bit 0 of the first
word (R43), and every bit above `nbits` is 0. -/
noncomputable def decodeTableWord (nbits w : Nat) : Option Instr :=
  match decodeBytes (bytesOfWord (BitVec.ofNat 32 (w % 2 ^ nbits))) with
  | .ok (i, _) => some i
  | .error _ => none

end Sys2Proof
end

