-- ==== Sys2Proof/Config.lean ====
section
/-! DEFINITION. What the spec leaves open: free values, each an opaque constant applied to plain data, so that no proof can see
a value of it. Every constant is named in a log entry under notes/assumptions/. -/

namespace Sys2Proof.Config

/-- A lane of a vector register that a word leaves undefined (R4, R33, R34, R198): `n` is the wave's counter of such words, `pos`
tells the operands of one word apart. DESIGN CHOICE, log entry 9. -/
opaque undefLane (n pos lane : Nat) : BitVec 32

/-- A scalar register that a faulted load leaves undefined (R198). DESIGN CHOICE, log entry 10. -/
opaque undefWord (n : Nat) : BitVec 64

/-- A byte of memory or LM that a failed or overlapping engine command leaves undefined (R221, R222, R260, R322). DESIGN CHOICE, log entry 11. -/
opaque undefByte (n off : Nat) : BitVec 8

/-- Which of the lanes left of an LM word performs next (R187). DESIGN CHOICE, log entry 12. -/
opaque lanePick (n k : Nat) : Nat

/-- The age of a held LM line within its bound (R214, R217). DESIGN CHOICE, log entry 13. -/
opaque heldAge (n line : Nat) : Nat

/-- The bounded special functions of R132 and R133, inside their bounds: function number and input bits. DESIGN CHOICE, log entry 14. -/
opaque special (f : Nat) (x : BitVec 32) : BitVec 32

/-- The gelu and silu activations of R164, inside their bounds. DESIGN CHOICE, log entry 15. -/
opaque activation (f : Nat) (x : BitVec 32) : BitVec 32

/-- Which of the values that a byte has held since an engine operation was issued the engine reads (R143, R191). DESIGN CHOICE, log entry 16. -/
opaque pastByte (n off : Nat) : Nat

/-- The sign of the infinite sum of a block that is marked Infinity and holds no infinite element (R92): a function of the two blocks, as
R146 asks. DESIGN CHOICE, log entry 94. -/
opaque infPartial (a b : List (Bool × Nat)) : BitVec 32

/-- The die whose L2 slice homes a line (R209): the spec does not give the interleave. DESIGN CHOICE, log entry 17. -/
opaque homeDie (line : Nat) : Nat

/-- Symbols that a wavelength's code corrects in a window, of which the spec counts the bit errors (R374). DESIGN CHOICE, log entry 18. -/
opaque symbols (n errs : Nat) : Nat

/-- The HBM stack that holds a stripe, of the 16 of R12: the spec does not give the interleave. DESIGN CHOICE, log entry 19. -/
opaque stackOf (stripe : Nat) : Nat

/-- The capacity of a die's token pool, within the range of R283. DESIGN CHOICE, log entry 20. -/
opaque poolCapacity (die : Nat) : Nat

/-- The units that the power manager adds to a die's pool in a microsecond, above the minimum of R283: the spec gives no budget. DESIGN CHOICE,
log entry 105. -/
opaque refillUnits (micros die : Nat) : Nat

/-- The output column (`k` = 0) and row (`k` = 1) at which the two runs of a self-check differ (R155): a fault of the array, which no rule
places. DESIGN CHOICE, log entry 109. -/
opaque mismatchAt (n k : Nat) : Nat

/-- Cryptography that the spec names by other standards (R339 to R341, R407, R410): a digest or signature byte of the input. DESIGN CHOICE, log entry 21. -/
opaque digest (kind : Nat) (input : List (BitVec 8)) (i : Nat) : BitVec 8

/-- What the boot ROM finds of an image that a register write makes it load (R407): check 1 found, 2 well formed, 3 signature. DESIGN CHOICE, log entry 22. -/
opaque imageCheck (n check : Nat) : Bool

/-- The version of that image (R407, R414). DESIGN CHOICE, log entry 22. -/
opaque imageVersion (n : Nat) : BitVec 32

/-- Whether a peer's export windows admit an access of this device (R342): the windows stand in the peer. DESIGN CHOICE, log entry 23. -/
opaque peerExports (fpa : Nat) (write : Bool) : Bool

/-- What a read of another device's register space gives (R250): the register stands in the peer. DESIGN CHOICE, log entry 24. -/
opaque peerReg (n fpa : Nat) : BitVec 64

end Sys2Proof.Config
end

