-- ==== Sys2Proof/Machine/Bits.lean ====
section
/-! DEFINITION. Pure integer results of the scalar, vector and packed words (R98 to R117), and byte order (R5). -/

namespace Sys2Proof.Machine

/-- Leading zero bits; the width for 0 (R104, R108). -/
def clz {w : Nat} (a : BitVec w) : Nat := if a = 0#w then w else w - 1 - Nat.log2 a.toNat

/-- Bit `j` of the result is bit `w - 1 - j` (R104, R108). -/
def brev {w : Nat} (a : BitVec w) : BitVec w := a.reverse

/-- Trailing zero bits; the width for 0 (R104). -/
def ctz {w : Nat} (a : BitVec w) : Nat := clz (brev a)

/-- Set bits (R104, R108). -/
def popc {w : Nat} (a : BitVec w) : Nat := (List.range w).countP (fun k => a.getLsbD k)

/-- The bytes of a value of `n` bytes, lowest address first (R5). -/
def bytesLE (n : Nat) (v : Nat) : List Byte := (List.range n).map (fun k => BitVec.ofNat 8 (v >>> (8 * k)))

/-- The value of bytes, lowest address first (R5). -/
def ofBytesLE (bs : List Byte) : Nat := bs.foldr (fun b acc => b.toNat + 256 * acc) 0

/-- Byte `j` of the result is byte `7 - j` (R104). -/
def bswap (a : Word) : Word := BitVec.ofNat 64 (ofBytesLE (bytesLE 8 a.toNat).reverse)

def sext64 {w : Nat} (a : BitVec w) : Word := a.signExtend 64
def zext64 {w : Nat} (a : BitVec w) : Word := a.setWidth 64
def sext32 {w : Nat} (a : BitVec w) : Lane := a.signExtend 32

/-- The low 32 bits of a scalar. -/
def low32 (a : Word) : Lane := a.setWidth 32

/-- The high half of the signed double-width product (R99, R107). -/
def mulhS {w : Nat} (a b : BitVec w) : BitVec w := BitVec.ofInt w ((a.toInt * b.toInt) / (2 ^ w : Nat))

/-- The high half of the unsigned double-width product (R99, R107). -/
def mulhU {w : Nat} (a b : BitVec w) : BitVec w := BitVec.ofNat w ((a.toNat * b.toNat) / 2 ^ w)

/-- `div` (R99, R100): truncated towards zero; -1 for a zero divisor; MIN by -1 wraps to MIN. -/
def divS (a b : Word) : Word := if b = 0#64 then BitVec.allOnes 64 else BitVec.ofInt 64 (a.toInt.tdiv b.toInt)
/-- `rem` (R99, R100): the dividend's sign; the dividend for a zero divisor. -/
def remS (a b : Word) : Word := if b = 0#64 then a else BitVec.ofInt 64 (a.toInt.tmod b.toInt)
/-- `divn` (R99, R100). -/
def divU (a b : Word) : Word := if b = 0#64 then BitVec.allOnes 64 else BitVec.ofNat 64 (a.toNat / b.toNat)
/-- `remn` (R99, R100). -/
def remU (a b : Word) : Word := if b = 0#64 then a else BitVec.ofNat 64 (a.toNat % b.toNat)

def minS {w : Nat} (a b : BitVec w) : BitVec w := if b.toInt < a.toInt then b else a
def maxS {w : Nat} (a b : BitVec w) : BitVec w := if a.toInt < b.toInt then b else a
def minU {w : Nat} (a b : BitVec w) : BitVec w := if b.toNat < a.toNat then b else a
def maxU {w : Nat} (a b : BitVec w) : BitVec w := if a.toNat < b.toNat then b else a

def ltS {w : Nat} (a b : BitVec w) : Bool := decide (a.toInt < b.toInt)
def leS {w : Nat} (a b : BitVec w) : Bool := decide (a.toInt ≤ b.toInt)
def ltU {w : Nat} (a b : BitVec w) : Bool := decide (a.toNat < b.toNat)
def leU {w : Nat} (a b : BitVec w) : Bool := decide (a.toNat ≤ b.toNat)

/-- Shifts by the low bits of the amount (R99, R107): `n` is already reduced. -/
def shl {w : Nat} (a : BitVec w) (n : Nat) : BitVec w := a <<< n
def shr {w : Nat} (a : BitVec w) (n : Nat) : BitVec w := a >>> n
def sha {w : Nat} (a : BitVec w) (n : Nat) : BitVec w := a.sshiftRight n

/-- The amount of a scalar shift, b[5:0]. -/
def amount64 (b : Word) : Nat := b.toNat % 64
/-- The amount of a lane shift, b[4:0]. -/
def amount32 (b : Lane) : Nat := b.toNat % 32

/-- |s(a)| modulo the width (R104, R108). -/
def absS {w : Nat} (a : BitVec w) : BitVec w := if a.toInt < 0 then -a else a

/-- Apply `f` to the two 16-bit halves (R89, R117). -/
def halves (f : BitVec 16 → BitVec 16 → BitVec 16) (a b : Lane) : Lane :=
  f (a.extractLsb' 16 16) (b.extractLsb' 16 16) ++ f (a.extractLsb' 0 16) (b.extractLsb' 0 16)

/-- Apply `f` to the four bytes (R89, R117). -/
def quarters (f : Byte → Byte → Byte) (a b : Lane) : Lane :=
  f (a.extractLsb' 24 8) (b.extractLsb' 24 8) ++ f (a.extractLsb' 16 8) (b.extractLsb' 16 8) ++
    f (a.extractLsb' 8 8) (b.extractLsb' 8 8) ++ f (a.extractLsb' 0 8) (b.extractLsb' 0 8)

/-- Replace bits [k+15:k] (R105). -/
def setHalf (x : Word) (k : Nat) (i : BitVec 16) : Word :=
  (x &&& ~~~((0xFFFF#64) <<< k)) ||| (i.setWidth 64 <<< k)

/-- Saturate a signed value to `w` bits (R116, R83). -/
def satS (w : Nat) (x : Int) : BitVec w :=
  BitVec.ofInt w (Max.max (-(2 ^ (w - 1) : Nat) : Int) (Min.min x ((2 ^ (w - 1) : Nat) - 1 : Int)))

/-- The low or high half of a lane. -/
def half (hi : Bool) (a : Lane) : BitVec 16 := if hi then a.extractLsb' 16 16 else a.extractLsb' 0 16
/-- Write one half of a lane and keep the other (R116). -/
def putHalf (hi : Bool) (d : Lane) (h : BitVec 16) : Lane :=
  if hi then h ++ d.extractLsb' 0 16 else d.extractLsb' 16 16 ++ h

/-- Round up to a multiple of `m`. -/
def roundUp (n m : Nat) : Nat := (n + m - 1) / m * m

end Sys2Proof.Machine
end

