-- ==== Sys2Proof/Machine/Map.lean ====
section
/-! DEFINITION. Sparse maps as plain data: a list of key and value pairs in one canonical form (keys strictly rising, no entry
equal to what an unlisted key reads as), so that equal maps are equal lists. The default is an argument of each operation. -/

namespace Sys2Proof.Machine

/-- A sparse map from Nat keys: see `Map.wf` for its canonical form. -/
abbrev Map (α : Type) := List (Nat × α)

/-- What key `k` holds, `d k` where it is not listed. -/
def Map.find {α : Type} (d : Nat → α) (m : Map α) (k : Nat) : α :=
  match m with
  | [] => d k
  | (k', v) :: rest => if k' = k then v else Map.find d rest k

/-- Take key `k` out of the list. -/
def Map.erase {α : Type} (m : Map α) (k : Nat) : Map α :=
  match m with
  | [] => []
  | (k', v) :: rest => if k' = k then Map.erase rest k else (k', v) :: Map.erase rest k

/-- Put a pair before the first larger key. -/
def Map.insert {α : Type} (m : Map α) (k : Nat) (v : α) : Map α :=
  match m with
  | [] => [(k, v)]
  | (k', v') :: rest => if k < k' then (k, v) :: (k', v') :: rest else (k', v') :: Map.insert rest k v

/-- Make key `k` hold `v`: a value equal to the default is not listed. -/
def Map.put {α : Type} [DecidableEq α] (d : Nat → α) (m : Map α) (k : Nat) (v : α) : Map α :=
  if v = d k then Map.erase m k else Map.insert (Map.erase m k) k v

/-- The canonical form: keys strictly rising, and no entry equal to the default of its key. -/
def Map.wf {α : Type} [DecidableEq α] (d : Nat → α) (m : Map α) : Bool :=
  match m with
  | [] => true
  | (k, v) :: rest => rest.all (fun e => k < e.1) && decide (v ≠ d k) && Map.wf d rest

/-- Drop every key that fails `p`. -/
def Map.keep {α : Type} (p : Nat → Bool) (m : Map α) : Map α := m.filter (fun e => p e.1)

end Sys2Proof.Machine
end

