-- ==== Sys2Proof/Machine/State.lean ====
section
/-! DEFINITION. The state of one 9600 device in its pod, as plain data, and the state right after device reset. Every field
names the rule of spec/ that gives it; a field marked "model" is the model's own bookkeeping and is named in a log entry. -/

namespace Sys2Proof.Machine

/-- Why the model stops. -/
inductive Fault where
  /-- Raised by an instruction word that is run where the issuing wave is not live: only a wave fetches words (R18). Safe: no
  hardware step corresponds to it. -/
  | noWave
  deriving DecidableEq, Repr

/-- Why the model has no meaning for an instruction. -/
inductive Refusal where
  /-- Raised by an arm of `exec` that has no meaning yet. Safe: nothing is claimed of it. -/
  | notModelled (mnemonic : String)
  deriving DecidableEq, Repr

/-! ## A wave -/

/-- A wave is live, or has left (R292, R293); `absent` is the place of a wave that has never been dispatched. -/
inductive WStat where
  | absent | live | exited | left
  deriving DecidableEq, Repr

/-- A register of a wave: a scalar, a physical vector register, a codebook or a number format (R50). -/
inductive RegName where
  | s (n : Nat) | v (phys : Nat) | cb (k : Nat) | nf (k : Nat)
  deriving DecidableEq, Repr

/-- A queue or cross-crew barrier word as its home sees it (R300, R303 to R306); of a push the bytes read from LM, and the sectors of 32 bytes of
them that are poisoned. -/
inductive QReq where
  | push (hdr : Word) (off : Nat) (data : List Byte) (bad : List Nat) (d : Reg) (wait : Bool)
  | pop (hdr : Word) (off : Nat) (d : Reg)
  | free (hdr : Word) (d : Reg)
  | close (hdr : Word)
  | peek (hdr : Word) (d : Reg)
  | xbar (addr : Word) (d : Reg) (wait : Bool)
  | launch (rec : Word) (d : Reg)
  deriving DecidableEq, Repr

/-- The commands of the copy engine (R219 to R224, R171 to R174). -/
inductive CmdKind where
  | copy | gath | scat | back | fill | pack | unpack | cbexp
  deriving DecidableEq, Repr

/-- Where a destination word lies: a fabric address or an LM offset of the command's core. -/
inductive Place where
  | mem (fpa : Nat) | lm (off : Nat)
  deriving DecidableEq, Repr

/-- Who holds a line so that every other access to it waits (R181, R190, R195): an engine command by its number; another device, or one that
has been told to give it back; the host, or the host with a back-invalidation on its way that an access of a wave has caused; and that
access once the host's copy is gone, until it has performed. -/
inductive Owner where
  | engine (id : Nat)
  | peer (dev : Nat) | recalled (dev : Nat)
  | host | hostBack (crew wave acc : Nat) | granted (crew wave acc : Nat)
  deriving DecidableEq, Repr

/-- A copy command in flight (R219): its words as captured at issue, and how many of its destination words are done. -/
structure Cmd where
  id : Nat
  kind : CmdKind
  crew : Nat
  wave : Nat
  core : Nat
  ctx : Nat
  xcw : Word
  src : Word
  dst : Word
  nf : List Lane
  cb : Map (BitVec 16)
  /-- Its logical clock (R179), from that of its wave on. -/
  pts : Nat
  /-- The number of the first byte write that came after its issue (R191). -/
  since : Nat
  done : Nat
  /-- Destination lines in global memory that the command owns, or will own after an earlier command (R190); of a streaming copy the
  destination lines that its wave's accesses to the same bytes stand behind (R185). -/
  owned : List Nat
  /-- The wave's accesses numbered below this one come before it in program order (R185). -/
  seq : Nat
  /-- The latest timestamp of its writes (R192). -/
  clock : Nat
  /-- Lines that a streaming copy has landed and that have not taken their place (R184): place, bytes, and the poisoned words' places. -/
  pend : List (Place × List Byte × List Place)
  /-- Its tag has been completed, and only places are left to take (R184). -/
  tagged : Bool
  deriving DecidableEq, Repr

/-- What a queued memory access does when it performs (R198 to R206, R170). -/
inductive AccOp where
  /-- A scalar load of `size` bytes. -/
  | ld (d : Reg) (size : Nat) (signed : Bool)
  /-- A vector load into a physical register. -/
  | vld (phys : Nat)
  /-- A store: KIND of R353 (0 scalar, 1 strided, 2 scatter), stride in words. -/
  | st (kind : Nat) (stride : BitVec 32) (size : Nat)
  | atomic (op : AtomOp) (d : Reg)
  /-- `vaadd` or, with `f`, `vafadd`, into a physical register. -/
  | vatomic (f : Bool) (phys : Nat)
  /-- `cbload` of table `k`. -/
  | cb (k : Nat)
  | queue (q : QReq)
  /-- A copy command issued behind a load-class access that faults (R349). -/
  | cmd (c : Cmd)
  deriving DecidableEq, Repr

/-- One active lane of an access: its address, its store or operand data, and its V[B] offset (R353, KIND 3). -/
structure LaneReq where
  lane : Nat
  va : Word
  data : Word
  off : Lane
  deriving DecidableEq, Repr

/-- How far an access has come (R180, R181, R349). -/
inductive Phase where
  | queued
  /-- A store whose home has given it the timestamp (R181). -/
  | asked (w : Nat)
  /-- A load that has performed; its lanes' values are on the way. -/
  | done (vals : List (Nat × Word))
  /-- A load-class access that met a data fault, with its lane (R349). -/
  | data (c : Cause) (lane : Nat)
  /-- Held behind a translation fault (R349). -/
  | held
  deriving DecidableEq, Repr

/-- An outstanding memory access of a wave; `seq` counts the words issued up to it (R348), `inh` that a handler issued it. -/
structure Access where
  id : Nat
  pc : Word
  seq : Nat
  op : AccOp
  lanes : List LaneReq
  stream : Bool
  inh : Bool
  phase : Phase
  /-- NANOS of its issue (R254, R284). -/
  at' : Nat
  deriving DecidableEq, Repr

/-- An outstanding LM word of a wave (R187, R203): `mode` as its word gives it, `todo` the lanes still to perform, each with its offset and
its store data. -/
structure LmAccess where
  id : Nat
  pc : Word
  seq : Nat
  load : Bool
  mode : Nat
  phys : Nat
  todo : List (Nat × Nat × Lane)
  /-- All active lanes of the word. -/
  lanes : List (Nat × Nat × Lane)
  inh : Bool
  deriving DecidableEq, Repr

/-- A blocking point or wait at which a wave stands (R284, R285). -/
inductive Block where
  | bar (b : Nat) (ph : BitVec 16)
  | barw (b : Nat)
  /-- For its own arrival in this phase to pass: `value` for `barv`. -/
  | arrive (b : Nat) (value : Bool)
  | xbar (addr : Word) (ph : BitVec 32) (ext : Bool)
  | qpush
  | qpop (ext : Bool)
  | xwait | cwait | mwait | rgend
  | rgbind (bound : Nat)
  | rgwait | gfence | xchg | version | tag
  | snap
  /-- A queue, barrier or region word that waits for an open snapshot view. -/
  | snapWord
  /-- A remote load outstanding for more than 1 microsecond (R254). -/
  | remote
  /-- `ctkill` waits for what its crew has still to store (R360). No blocking point. -/
  | kill
  /-- A wait that is not a blocking point: a fence, a drain, a token grant, an engine or queue entry, a launch decision. -/
  | other
  deriving DecidableEq, Repr

/-- A `qpushw` or `qpop` that waits at its queue's home (R302, R303): the header's address there, its place among the waiters, and the request
and Y bit as the word gave them. -/
structure QWait where
  fpa : Nat
  ticket : Nat
  req : QReq
  yield : Bool
  deriving DecidableEq, Repr

/-- A pending handler entry: the cause and the entry registers of R351, and the skid so far (R345). -/
structure Stop where
  cause : Cause
  tpc : Word
  taddr : Word
  r112 : Word
  r113 : Word
  deadline : Word
  /-- A load-class fault: HELD of s113 is counted when the wave enters (R349, R350). -/
  load : Bool
  deriving DecidableEq, Repr

/-- The effect of an `eret` that waits for the other waves of its halt (R358). -/
structure Ret where
  target : Word
  discard : Bool
  clrwake : Bool
  /-- Its Y bit (R51). -/
  yield : Bool
  deriving DecidableEq, Repr

/-- The accumulator operations of R148. -/
inductive MKind where
  | mma | mzero | mst | mld
  deriving DecidableEq, Repr

/-- Where an accumulator operation stands (R148, R151, R154). -/
inductive MStage where
  | queued | running | parked
  /-- Released from parking, and waiting for a queue entry. -/
  | waiting
  /-- The second run of a checked `mma` that has completed. -/
  | checking
  deriving DecidableEq, Repr

/-- An accumulator operation with everything its issue captured (R50, R148): the three descriptor words, MRWIN, its clock, and
whether it is checked with which rotation (R153, R154). -/
structure MOp where
  kind : MKind
  crew : Nat
  wave : Nat
  pc : Word
  acc : Nat
  ver : BitVec 16
  w0 : Word
  w1 : Word
  w2 : Word
  mrwin : Word
  /-- Its logical clock (R179), from that of its wave on. -/
  pts : Nat
  /-- The number of the first byte write that came after its issue (R143, R191). -/
  since : Nat
  nf : List Lane
  cb : Map (BitVec 16)
  checked : Bool
  rho : Nat
  /-- Mismatches that the second run has found: column and output row (R154, R157). -/
  bad : List (Nat × Nat)
  stage : MStage
  /-- The Y bit of the word (R51). -/
  yield : Bool
  /-- The present scale and bias vectors of an `mst`, as read at issue (R163). -/
  vecs : List Byte
  /-- Rows that an `mst` has stored, and the places of the words in them (R156, R163). -/
  rows : Nat
  stored : List Place
  /-- The number under which an `mst` owns its destination lines, and those lines (R190). -/
  id : Nat
  owned : List Nat
  deriving DecidableEq, Repr

/-- It moves a tile (R186, `fence.engine`). -/
def MOp.moves (m : MOp) : Bool := m.kind == .mst || m.kind == .mld
/-- It stores (R208, `drainst`). -/
def MOp.stores (m : MOp) : Bool := m.kind == .mst

/-- One wave (R27, R29 to R42). -/
structure Wave where
  idx : Nat
  slot : Nat
  status : WStat
  pc : Word
  /-- s1 to s127; index 0 is never read (R29). -/
  regs : Vector Word 128
  /-- The physical vector registers by number, +0 in every lane where not listed (R33). -/
  vregs : Map Lanes
  /-- The freed physical registers (R33). -/
  freed : List Nat
  vwb : Nat
  nf : Vector Lane 4
  /-- Codebook entries by 16 times table plus code (R38). -/
  cb : Map (BitVec 16)
  /-- WCTL[3:0]: STRICT and RM (R40). -/
  wctl : BitVec 4
  /-- FFLAGS[5:0]: NS NX UF OF DZ NV (R41). -/
  fflags : BitVec 6
  mrwin : Word
  tvec : Word
  tcause : Word
  tpc : Word
  taddr : Word
  tskid : Word
  tdeadline : Word
  /-- TSTATE.INH (R42). -/
  inh : Bool
  /-- End of the no-pre-emption window in NANOS, 0 when none is in force (R309). -/
  npreEnd : Nat
  /-- TSTATE.RGN and RGID: the open region (R42, R229). -/
  region : Option Nat
  /-- The settled region that the wave still holds, and its last one (R241). -/
  retained : Option Nat
  /-- The status word of the wave's most recent closed region, 0 before the first (R242). -/
  rgLast : Word
  pfdrop : Word
  stalecnt : Word
  /-- Forced checks that wait for the wave's next `mma` (R168). -/
  chkForce : Bool
  /-- The wave's logical clock (R179). -/
  pts : Nat
  /-- The place of the wave's last streaming access to a line (R185), and the latest place of any (R186, `fence.st`). -/
  seen : Map Nat
  streamClock : Nat
  /-- The latest timestamp of its completed commands' writes (R186, `fence.engine`). -/
  engClock : Nat
  /-- The clock at its last `fence.lm` or `fence.all` (R186, R188). -/
  lmFence : Nat
  /-- Parked after a Y-marked word (R51). -/
  parked : Bool
  block : Option Block
  /-- The request that waits at its queue's home (R302). -/
  qwait : Option QWait
  /-- FLAGS.EXTERNAL at its last arrival in `xbar`, and that word's address (R301). -/
  xbarExt : Bool
  xbarPc : Word
  /-- The descriptor that its `cwait` waits on, and STATUS of its collective once that has ended (R265). -/
  collVa : Word
  collEnd : Option Word
  /-- Words issued since dispatch, those of handlers aside, and the count at the last handler entry (model: gives RUN and TSKID). -/
  issued : Nat
  entryIssued : Nat
  accs : List Access
  lmq : List LmAccess
  /-- The next access number (model). -/
  nextId : Nat
  /-- A pending handler entry with a cause of the wave's own (R347). -/
  stop : Option Stop
  /-- A halt broadcast that the wave has not yet entered for: raising wave and cause, and the issue count then (R345). -/
  halting : Option (Nat × Cause × Nat)
  /-- Causes held until `eret` (R347). -/
  heldCauses : List Stop
  ret : Option Ret
  /-- The `eret` target that waits for the held accesses to perform (R358). -/
  drain : Bool
  /-- The wave stopped for a pre-emption request (R286). -/
  stopped : Bool
  /-- An accumulator operation that waits for its tokens or for a queue entry, and whether its tokens are granted (R148, R150). -/
  mreq : Option (MOp × Bool)
  deriving DecidableEq, Repr

/-- One crew barrier (R294): the timer holds the NANOS at which it reaches zero elapsed time. -/
structure Barrier where
  member : BitVec 16
  arrived : BitVec 16
  phase : BitVec 16
  timer : Option Nat
  expired : Bool
  /-- The logical clock that an observer of a completed phase takes over (R296). -/
  clock : Nat
  deriving DecidableEq, Repr

/-- One accumulator (R35); the tile is sparse by 128 times row plus column, +0 where not listed. -/
structure Acc where
  tile : Map Lane
  ver : BitVec 16
  suspect : Bool
  /-- Blocks done by a suspended `mma` (R35, R151). -/
  prog : Nat
  /-- The version is vacant after a discarded `mld` (R148). -/
  vacant : Bool
  /-- The logical clock of the operations that have completed on it (R149, R179). -/
  clock : Nat
  deriving DecidableEq, Repr

/-- An LM segment (R213). -/
structure Seg where
  off : Nat
  size : Nat
  held : Bool
  deriving DecidableEq, Repr

/-- A store-fault record (R353). -/
structure SfRec where
  va : Word
  pc : Word
  wave : Nat
  cause : Cause
  size : Nat
  kind : Nat
  stream : Bool
  stride : BitVec 32
  mask : BitVec 96
  data : List Byte
  deriving DecidableEq, Repr

/-- Queue records that a crew holds, with the address of their header (R272, R304, R363). -/
structure HeldRec where
  hdr : Word
  count : Nat
  qnum : Nat
  dispatch : Bool
  deriving DecidableEq, Repr

/-- A copy tag (R219, R226). -/
inductive Tag where
  | idle | busy
  /-- With the clock of the command's writes (R192). -/
  | done (clock : Nat)
  | err (cause : Cause) (foff : Nat) (clock : Nat)
  deriving DecidableEq, Repr

/-- The states of a crew (R276). -/
inductive CrewState where
  | running | halted | taking | saved | ended
  deriving DecidableEq, Repr

/-- A pre-emption request (R286, R362): when it came, whether it was reported, whether the crew is being entered. -/
structure Preempt where
  since : Nat
  reported : Bool
  entered : Bool
  slot : Nat
  /-- The save slot that a save-slot event has named for this request (R362). -/
  told : Option Nat
  /-- An in-field test has made it (R289). -/
  test : Bool
  deriving DecidableEq, Repr

/-- One crew (R18, R27, R276). -/
structure Crew where
  handle : Nat
  ctx : Nat
  id : Nat
  flow : Nat
  stage : Nat
  qnum : Nat
  prio : Nat
  size : Nat
  core : Nat
  valloc : Nat
  naccs : Nat
  lmBase : Nat
  lmSize : Nat
  state : CrewState
  accs : Map Acc
  bars : Vector Barrier 8
  segs : List Seg
  sfr : List SfRec
  held : List HeldRec
  tags : Map Tag
  preempt : Option Preempt
  /-- The save slot of a SAVED or restoring crew (R362 to R364). -/
  slot : Option Nat
  /-- The versions and SUSPECT bits that a restore puts back (R364). -/
  saved : List (BitVec 16 × Bool)
  restoring : Bool
  /-- The crew's waves other than the one in focus, by index. -/
  others : List Wave
  deriving DecidableEq, Repr

/-! ## The device -/

/-- The stamps of a 128-byte line at its home (R179), who holds it so that other accesses wait (R190), and the core of this device that
holds it exclusively after its store, from which it is recalled at once (R181). -/
structure Line where
  wts : Nat
  rts : Nat
  owner : Option Owner
  excl : Option Nat
  deriving DecidableEq, Repr

/-- A leased copy of a line in a core's cache (R179, R180). -/
structure Copy where
  data : List Byte
  wts : Nat
  rts : Nat
  deriving DecidableEq, Repr

/-- A translation kept for a context (R330, R335): the virtual page, its size in bits, and the leaf entry. -/
structure TlbEntry where
  die : Nat
  ctx : Nat
  page : Nat
  bits : Nat
  pte : Word
  /-- Where the entry lies, for its A and D bits (R332). -/
  addr : Nat
  deriving DecidableEq, Repr

/-- What the device posts to its host (R273, R286, R287, R288, R297, R358, R362, R398 and the rules of each kind). -/
inductive HostEvent where
  | crewEnd (ctx crew : Nat) (cause : Option Cause) (code : Word)
  | launchStatus (ctx : Nat) (status : Word)
  | flowEnd (ctx flow : Nat)
  | queueEvent (flow stage : Nat) (hdr : Word)
  | preemptReport (ctx crew : Nat)
  | saveSlot (ctx slot : Nat)
  | barto (rec : List Byte)
  | watchdog (ctx : Nat)
  | externalStall (ctx : Nat)
  | tableFault (ctx : Nat) (va : Word)
  | takeFault (ctx crew : Nat) (cause : Cause)
  | restoreFault (ctx slot : Nat)
  /-- The data of a host read, with the poison mark that the link carries, and an access that the aperture refuses (R344, R365). -/
  | hostData (addr : Nat) (data : List Byte) (poisoned : Bool)
  | hostRefused (addr : Nat)
  /-- A link event: a wavelength spared, a port retired or an unreachable device (R375, R376, R383). -/
  | linkEvent (port wl : Nat)
  | portRetired (port : Nat)
  | unreachable (dev : Nat)
  /-- A packet failed its tag 4 times, a key whose signature or attestation fails (R340, R341). -/
  | security (src : Nat)
  | badKey (peer : Nat)
  /-- REPLACE (R398), with the device that asks for it. -/
  | replace (dev : Nat)
  /-- Membership (R379, R380, R386, R388, R390, R391, R395, R396, R399). -/
  | noLeader
  | noQuorum
  | removed
  | retireIgnored (dev : Nat)
  | noSpare (dev : Nat)
  | badPlan (dev : Nat)
  | joined (dev : Nat)
  | clonePoison (off : Nat)
  | cloneFailed (dev : Nat)
  | thermal (celsius : Nat)
  /-- A crew ended by an uncorrectable soft error: the crew-end event with the cause SRUNC (R370). -/
  | softEnd (ctx crew : Nat)
  | resetDone
  deriving DecidableEq, Repr

/-- One item of the order in which the model's agents act (model): a step of an engine, the fabric or the host, a word of a
wave, or a stretch of time. -/
inductive Turn where
  | event (i : Instr)
  | issue (crew wave : Nat)
  | elapse (ps : Nat)
  deriving DecidableEq, Repr

/-! ## Regions (R228 to R242) -/

/-- A region's marks on one bound word: read and dirty bits, the order of its dirty setting and of its bind, and the regions that
had the word dirty when a senior bound it (R231, R233, R234). -/
structure WMark where
  read : Bool
  dirty : Bool
  dirtyAt : Nat
  boundAt : Nat
  priors : List Nat
  deriving DecidableEq, Repr

/-- One page's part of a bound range: virtual and fabric address, LM offset and bytes (R230). -/
structure RPiece where
  va : Nat
  fpa : Nat
  lm : Nat
  len : Nat
  deriving DecidableEq, Repr

/-- A region that the unit holds (R228, R229, R241): `state` is 1 active, 2 aborted, 3 closed and retained,
4 committed and not yet closed. -/
structure Region where
  id : Nat
  stamp : Nat
  state : Nat
  status : Nat
  depth : Nat
  retry : Nat
  /-- NANOS of its `rgbeg` (R236). -/
  since : Nat
  crew : Nat
  wave : Nat
  core : Nat
  ctx : Nat
  /-- Ranges bound, and the pages they lie on. -/
  ranges : Nat
  bytes : Nat
  pieces : List RPiece
  /-- Marks by word number of the fabric address; every bound word is listed. -/
  marks : List (Nat × WMark)
  /-- Bit settings on the way to their homes: word number and whether it is a write (R233). -/
  reports : List (Nat × Bool)
  /-- Regions ordered before this one, and whether the edge is a forward (R234). -/
  preds : List (Nat × Bool)
  /-- A bind that waits: the bytes of its range bound so far, and the depth and edges before it, which a fault puts back (R232, R245). -/
  binding : Option (Nat × Nat × List (Nat × Bool))
  deriving DecidableEq, Repr

/-- A snapshot view (R338): the spare it serves and its frames in HBM. -/
structure View where
  spare : Nat
  base : Nat
  len : Nat
  deriving DecidableEq, Repr

/-! ## Flows (R271 to R281) -/

/-- One stage of a launched flow: its entry of the flow record (R271) and how far it has come. -/
structure Stage where
  prog : Word
  waves : Nat
  vregs : Nat
  accs : Nat
  prio : Nat
  lmb : Nat
  /-- QIN for KIND 1, COUNT for KIND 2. -/
  arg : Word
  floor : Nat
  ceil : Nat
  weight : Nat
  kind : Nat
  qnum : Nat
  /-- The stage's target of R277. -/
  target : Nat
  /-- Crews formed so far (R275). -/
  formed : Nat
  /-- The queue is broken: no further crew is formed (R275). -/
  broken : Bool
  /-- Cores held, and those of them that drain (R278, R279). -/
  cores : List Nat
  draining : List Nat
  /-- The target has risen since, and marks are left: new holds wait until none is (R279). -/
  rose : Bool
  ended : Bool
  deriving DecidableEq, Repr

/-- A live flow (R273, R274). -/
structure Flow where
  num : Nat
  ctx : Nat
  stages : List Stage
  deriving DecidableEq, Repr

/-- What a unit of the device writes into a queue header: FREE rises by a count (R272), STAGE and BOUND are set with a launch (R273), or
BOUND is cleared (R274); and into a descriptor: bytes at an offset, by an engine with a clock (R260, R313). -/
inductive HdrAct where
  | free (n : Nat) | bind (stage : Nat) | unbind
  | put (off pts : Nat) (bs : List Byte)
  deriving DecidableEq, Repr

/-- Such a write that waits at its home (R181, R190, R199): the header or descriptor, whether it waits on an open view, and the write. -/
structure UnitWrite where
  addr : Nat
  snap : Bool
  act : HdrAct
  deriving DecidableEq, Repr

/-- A special-function word in a core's unit (R131): its results wait to land. -/
structure SfuOp where
  crew : Nat
  wave : Nat
  phys : Nat
  vals : List (Nat × Lane)
  flags : BitVec 6
  deriving DecidableEq, Repr

/-! ## The fabric (R250 to R268, R373) -/

/-- A collective of this device in flight (R258 to R262): the descriptor's place as captured at issue, DST and the lines taken for it. -/
structure Coll where
  id : Nat
  crew : Nat
  wave : Nat
  core : Nat
  ctx : Nat
  comm : Nat
  nth : Nat
  rank : Nat
  n : Nat
  op : Nat
  count : Nat
  root : Nat
  desc : Nat
  descVa : Word
  dst : Nat
  owned : List Nat
  pts : Nat
  /-- Its SRC and DST overlap in a way that leaves DST undefined (R260). -/
  overlaps : Bool
  /-- SRC, the number of the first byte write after its issue (R191), and whether it has read SRC and sent it to the other ranks. -/
  src : Nat
  since : Nat
  sent : Bool
  deriving DecidableEq, Repr

/-- A packet of this device that is not yet acknowledged (R373), with the time of its last sending in NANOS. -/
structure Sent where
  dst : Nat
  seq : Nat
  gen : BitVec 16
  payload : Payload
  at' : Nat
  /-- It carries data of a confidential page: it is encrypted, and waits for the pair's key (R339, R340). -/
  conf : Bool
  deriving DecidableEq, Repr

/-- The receiving side of a source (R373): the next sequence number, packets ahead of a gap, and the last 4,096 delivered. -/
structure Rx where
  next : Nat
  ahead : List E2EPacket
  seen : List Nat
  deriving DecidableEq, Repr

/-- A control message of this device to another (R252): exchange control, membership traffic and keys. -/
inductive Msg where
  | post (dst : Nat) (standby : Bool) (p : XPost)
  | grant (dst : Nat) (g : GrantMsg)
  | report (dst : Nat) (r : XReport)
  | stop (dst comm round : Nat)
  | arbiter (dst : Nat) (gen : BitVec 16)
  | heartbeat (dst : Nat) (gen : BitVec 16) (svc floor slot : Nat)
  | beacon (dst svc : Nat) (suspects : List Nat)
  | suspicion (dst target : Nat) (withdraw : Bool)
  | probe (dst : Nat)
  | notice (dst : Nat) (n : Notice)
  | acknowledge (dst : Nat) (gen : BitVec 16)
  | ack (dst seq : Nat)
  | replace (dst : Nat)
  /-- A device declares its failure, or the leader its own expulsion to the standby leader (R383, R386). -/
  | failure (dst dev : Nat)
  | retired (dst port : Nat)
  | key (dst : Nat) (gen : BitVec 16)
  /-- The answer to a peer's request: data or old value, poison, and the stamps that go with it (R180, R181). -/
  | loadData (dst off : Nat) (data : List Byte) (poisoned : Bool) (wts rts : Nat)
  /-- A line given to a peer exclusively, and the recall of one (R181). -/
  | owned (dst off : Nat) (data : List Byte) (wts : Nat)
  | recall (dst line : Nat)
  | refused (dst off : Nat)
  /-- A packet of that device has failed its tag 4 times here (R341). -/
  | tagLost (dst seq : Nat)
  deriving DecidableEq, Repr

/-- A request that waits at its home, for a snapshot view, a line that somebody holds, or its timestamp (R181, R190, R195, R338): a peer's, or
the host's. -/
inductive Waiting where
  | peer (src : Nat) (p : Payload)
  | host (addr : Nat) (data : List Byte) (poisoned : Bool)
  | hostMem (req : HostReq)
  deriving DecidableEq, Repr

/-- A wear action that waits for a step mark (R377): a shortfall, a row or a core that an in-field test names. -/
inductive Wear where
  | short (w : Shortfall)
  | row (core : Nat)
  | core (core : Nat)
  deriving DecidableEq, Repr

/-- The fabric's part of the state: collectives in flight, contributions that have arrived (R259), collectives counted on each
communicator in the generation, slot lists and banks (R387, R417), the end-to-end transport (R373), keys by peer and generation
(R340), failed tags by source and sequence number and their count (R341), and the control messages sent. -/
structure Fabric where
  colls : List Coll
  collIn : List CollPacket
  collCount : Map Nat
  slots : Map (BitVec 16)
  banks : Map (BitVec 16)
  tx : Map Nat
  sent : List Sent
  rx : Map Rx
  keys : List (Nat × BitVec 16)
  tagFails : Map Nat
  tagDrops : Nat
  out : List Msg
  deriving DecidableEq, Repr

/-! ## The exchange (R311 to R328) -/

/-- A send queue of a round: its address and length, the bytes sent, and whether its end marker has gone (R314, R318). -/
structure SendQ where
  addr : Nat
  len : Nat
  sent : Nat
  marked : Bool
  deriving DecidableEq, Repr

/-- A receive entry of a round: its buffer, the place of its GOT, and what its source has sent and said (R314, R321). -/
structure RecvQ where
  addr : Nat
  cap : Nat
  gotAt : Nat
  got : Nat
  ended : Bool
  deriving DecidableEq, Repr

/-- An exchange round that this device has posted and that has not ended (R313 to R322), or whose `dpost` still waits (R326). -/
structure Round where
  id : Nat
  crew : Nat
  wave : Nat
  core : Nat
  ctx : Nat
  comm : Nat
  n : Nat
  round : Nat
  rank : Nat
  gen : BitVec 16
  desc : Nat
  descVa : Word
  sendq : Nat
  recv : Nat
  entries : List Nat
  uncapped : Nat
  ackPrimary : Bool
  ackStandby : Bool
  /-- The `dpost` still waits for its acknowledgements (R326). -/
  posting : Bool
  started : Bool
  ended : Bool
  /-- `xstop` has cancelled it here, and Anvil's notice is on its way (R328). -/
  stopped : Bool
  sends : List SendQ
  recvs : List RecvQ
  /-- Bytes sent to each rank in the first calendar (R320). -/
  first : List Nat
  capped : Bool
  residual : Bool
  arbchg : Bool
  calGen : BitVec 16
  pts : Nat
  /-- The receive lines it owns or waits for (R190, R321), and the places of its tables, whose translations it keeps (R321). -/
  owned : List Nat
  tables : List (Nat × Nat)
  /-- The number of the first byte write after its start (R191). -/
  since : Nat
  deriving DecidableEq, Repr

/-- What the engine still knows of a round that has ended while calendars of it run on (R319, R320). -/
structure Gone where
  comm : Nat
  round : Nat
  rank : Nat
  uncapped : Nat
  first : List Nat
  left : List Nat
  deriving DecidableEq, Repr

/-- A calendar's inputs that have become complete at NANOS `since` (R317): the demand matrix of a round, or of its residue. -/
structure XInput where
  comm : Nat
  round : Nat
  demand : List (List Nat)
  residual : Bool
  since : Nat
  deriving DecidableEq, Repr

/-- The overstating count of a communicator on this device (R320): overstating rounds in a row with the quanta sent in each, rounds in a
row that do not overstate, and the caps in force. -/
structure Over where
  streak : List (List Nat)
  good : Nat
  caps : Option (List Nat)
  deriving DecidableEq, Repr

/-- A calendar that this device's Anvil has placed (R317): its first slot, the slots' budgets by source rank, and the devices by rank. -/
structure Calendar where
  comm : Nat
  round : Nat
  start : Nat
  slots : List (List (Option (Nat × Nat)))
  devs : List Nat
  residual : Bool
  deriving DecidableEq, Repr

/-- The exchange engine and Anvil: rounds, the next ROUND of each communicator (R315), overstating counts, the slot of the pod's slot
clock (R311) and NANOS at its start, grants accepted with their arbiter generation (R317, R323), arrivals that have not landed; and as an
arbiter whether this device acts, the posts, the residual reports and the calendars placed (R316, R319). -/
structure Xchg where
  rounds : List Round
  /-- Rounds that the device has posted on each communicator since its bank changed (R315). -/
  nextRound : Map Nat
  overs : Map Over
  slot : Nat
  slotAt : Nat
  grants : List GrantMsg
  arbGen : BitVec 16
  data : List XData
  ends : List XEnd
  acting : Bool
  posts : List XPost
  reports : List XReport
  cals : List Calendar
  /-- Rounds that have ended here with calendars still to run (R319); complete inputs in their order (R317); rounds that `xstop` has
  cancelled (R328); the last round of each communicator that the arbiters have placed (R315). -/
  gone : List Gone
  inputs : List XInput
  stops : List (Nat × Nat)
  placed : Map Nat
  /-- The standby arbiter has taken over since the last generation notice (R323), and the slot whose budgets have been sent (R311). -/
  taken : Bool
  ran : Nat
  deriving DecidableEq, Repr

/-! ## Membership (R379 to R399) -/

/-- This device's view of another (R268, R382): NANOS of its last heartbeat, misses, suspicion, whether one came in the present period,
the generation in which it was last a member, whether it has been expelled, and its service state as it last told (R380, R381). -/
structure Peer where
  last : Nat
  miss : Nat
  suspected : Bool
  heard : Bool
  lgen : BitVec 16
  expelled : Bool
  svc : Nat
  deriving DecidableEq, Repr

/-- A clone on this spare (R391 to R396): the device it replaces, the extents of its plan (offset, length, working list), the stripes
landed, and the replicas that gave each stripe poisoned. -/
structure Clone where
  lost : Nat
  extents : List (Nat × Nat × List Nat)
  done : List Nat
  tries : Map Nat
  deriving DecidableEq, Repr

/-- The membership unit and, on the leader, the pod's bookkeeping: peers; link partners as their heartbeats show them; suspicion reports
(reporter and target), probes with their NANOS, answers of suspected devices with their NANOS, NANOS of the last beacon of each
device, departures and joins (spare and replaced device) that the next notice covers, the assignment in force (lost or retiring device and spare), devices that retire,
acknowledgements of the last notice and the NANOS of its issue; Updraft's clone, views to be opened at the next step mark with the
NANOS at which the first view of a clone opened; and host and peer writes that wait on a view. -/
structure Memb where
  up : Bool
  peers : Map Peer
  partners : List Nat
  spares : List Nat
  reports : List (Nat × Nat)
  probes : List (Nat × Nat)
  answers : List (Nat × Nat)
  beacons : List (Nat × Nat)
  leaving : List Nat
  joining : List (Nat × Nat)
  assigned : List (Nat × Nat)
  retiring : List Nat
  acks : List Nat
  issuedAt : Nat
  clone : Option Clone
  toOpen : List View
  viewSince : Option Nat
  held : List Waiting
  replaceAt : Nat
  /-- The leader has lost its quorum and said so (R380). -/
  quorumLost : Bool
  /-- Slots that a lost device left: device, communicator and slot (R387). -/
  vacated : List (Nat × Nat × Nat)
  /-- Planned handoffs that the host has asked of the leader and no notice has said yet (R399). -/
  handoffs : List Nat
  /-- The heartbeat period of 20 microseconds and the beacon period of 1 ms that this device last ended (R380, R381). -/
  hbPeriod : Nat
  beaconPeriod : Nat
  deriving DecidableEq, Repr

/-! ## Links, wear, boot (R372 to R378, R406 to R411) -/

/-- Links declared down; NANOS at which each wavelength last returned to ACTIVE, last entered training and began its present window (R374, R375); wear actions that wait for a
step mark, with their NANOS (R377); PTOK throttling (R406); spare cores used on each die (R16); the nonce of a report in progress and the digest
of the image (R411); and NANOS at which the in-field test of each quad last fell due (R289). -/
structure Links where
  down : List Port
  returned : Map Nat
  entered : Map Nat
  windowAt : Map Nat
  wear : List (Wear × Nat)
  hot : Bool
  sparesUsed : Map Nat
  nonce : List Byte
  fwHash : List Byte
  testAt : Map Nat
  deriving DecidableEq, Repr

/-- What a core has issued in a cycle (R282): the cycle, its scalar-class and vector-class words, and the slots of their waves. -/
structure IssueUse where
  cycle : Nat
  scalars : Nat
  vectors : Nat
  slots : List Nat
  deriving DecidableEq, Repr

/-- One core (R15, R16, R27). -/
structure Core where
  /-- The matrix queue and the operations executing, checking or parked, oldest first (R148). -/
  mops : List MOp
  /-- `mma` operations issued, modulo 2^32 (R153). -/
  mmaCount : Nat
  /-- Spare processing-element rows in use (R157). -/
  spareRows : Nat
  /-- Checks run and mismatches seen (R168). -/
  checks : Nat
  mismatches : Nat
  /-- MCHKN (R39, R153). -/
  mchkn : BitVec 64
  /-- The special-function unit's queue, oldest first (R131). -/
  sfu : List SfuOp
  /-- The issue round-robin pointer over wave slots, what has issued in the present cycle, and the cycles from which the vector pipes that are
  busy are free again (R282). -/
  rr : Nat
  issue : IssueUse
  pipes : List Nat
  /-- Picoseconds since reset until which a remap occupies the array (R157). -/
  arrayAt : Nat
  /-- Cycles that the core's CYCLE counts beside the device's clock (R39, R371). -/
  extra : Nat
  /-- Fenced by a self-check or wear action (R157, R289): its COREID takes no crew. -/
  fenced : Bool
  /-- Held for an in-field test (R289). -/
  testing : Bool
  deriving DecidableEq, Repr

/-- One compute die (R12, R283). -/
structure Die where
  /-- PTOK (R39, R283), and the microsecond up to which it has been refilled. -/
  ptok : Nat
  refills : Nat
  /-- Token requests in the order of issue: crew, wave, cost (R283). -/
  requests : List (Nat × Nat × Nat)
  /-- The dispatcher's round-robin pointer over QNUMs (R280). -/
  rr : Nat
  deriving DecidableEq, Repr

/-- The state of one 9600 device. -/
structure State where
  /-- Time since reset in picoseconds and in cycles of the arithmetic clock (R14, R39). -/
  ps : Nat
  cycles : Nat
  /-- The 760 MHz fallback is in force (R17, R377). -/
  slow : Bool
  /-- Counter of free values taken so far (model). -/
  fresh : Nat
  devid : BitVec 16
  gen : BitVec 16
  /-- Bytes by fabric physical address, 0 where not listed (R250, R329). -/
  mem : Map Byte
  /-- Earlier values of bytes that were written while an engine operation was in flight, newest first with the number of the write that
  replaced each, by twice the fabric address, or twice the LM key plus one; and the number of the next such write (R143, R191). -/
  past : Map (List (Nat × Byte))
  wseq : Nat
  /-- Poison by 32-byte sector number (R365). -/
  poison : Map Bool
  /-- Home stamps by line number (R179). -/
  lines : Map Line
  /-- Leased copies by core and line (R180). -/
  copies : Map Copy
  /-- F (R179). -/
  floor : Nat
  /-- Picoseconds since reset at which F last advanced (R179). -/
  tickAt : Nat
  /-- The logical clock of the Iasil link acting for the host (R179). -/
  linkPts : Nat
  /-- Pinned lines: line number and context (R209). -/
  pins : List (Nat × Nat)
  tlb : List TlbEntry
  /-- The groups of the pod as taken at bring-up, none before (R250, R415), and the members of the current generation other than
  this device (R379). -/
  pod : Option (List Nat)
  members : List Nat
  views : List View
  /-- The Region Graph Unit: its regions by id, its begin-stamp counter and its order counter (R229). -/
  regions : List Region
  rgnStamp : Nat
  rgnSeq : Nat
  /-- The latest commit timestamp (R235). -/
  rgnClock : Nat
  /-- Writes of the flow manager, the dispatcher and the collective and exchange engines that wait at their homes, oldest first (R181). -/
  units : List UnitWrite
  /-- Multiples of 10 microseconds up to which stage demands have been sampled (R277). -/
  samples : Nat
  /-- Live flows by number (R273). -/
  flows : List Flow
  /-- Reserved cores: core and the QNUM it is reserved for (R281). -/
  reserved : List (Nat × Nat)
  /-- The next CREWID of each context (R39). -/
  crewIds : Map Nat
  /-- NANOS at which each context's watchdog last restarted, and whether its stall was posted (R288). -/
  wd : Map Nat
  wdStall : Map Bool
  /-- Local memories: byte, stamp of each 256-byte line in microseconds, the scanner's mark, full bit of each 16-byte granule and
  poison of each 32-byte sector, by core times 2^23 plus offset, divided by the unit (R187, R189, R210). -/
  lm : Map Byte
  /-- LMRETN in microseconds (R39, R378). -/
  lmretn : Nat
  lmStamp : Map Nat
  lmMark : Map Bool
  lmFull : Map Bool
  lmPoison : Map Bool
  /-- The clock that the last fence of its writer gave an LM word, by LM key divided by 4 (R186, R188). -/
  lmClock : Map Nat
  /-- The wave that issues, its crew, and the other crews by handle. -/
  wave : Wave
  crew : Crew
  crews : List Crew
  nextHandle : Nat
  /-- The place in line of the next request that waits at a queue (R302). -/
  tickets : Nat
  /-- Copy commands in flight, and the next command number (R219). -/
  cmds : List Cmd
  nextCmd : Nat
  cores : Map Core
  dies : Map Die
  /-- Quads of cores for which an in-field test is due (R157, R289). -/
  testDue : List Nat
  /-- The next slot of each context's diagnostic ring (R297). -/
  diagNext : Map Nat
  /-- The fabric, the exchange, the membership unit, links and boot. -/
  fab : Fabric
  xch : Xchg
  memb : Memb
  links : Links
  /-- Device registers by byte offset of space 2 (R412). -/
  regs : Map Word
  /-- Events posted to the host, oldest first. -/
  events : List HostEvent
  /-- What is to happen next (model). -/
  agenda : List Turn
  deriving DecidableEq, Repr

/-! ## Reset -/

/-- An accumulator as at dispatch (R35). -/
def Acc.fresh : Acc := ⟨[], 0#16, false, 0, false, 0⟩
/-- A core right after reset: MCHKN is 256 (R39). -/
def Core.reset : Core := ⟨[], 0, 0, 0, 0, 256#64, [], 0, ⟨0, 0, 0, []⟩, [], 0, 0, false, false⟩
/-- A die right after reset. -/
def Die.reset : Die := ⟨0, 0, [], 0⟩

/-- A wave as at dispatch (R28 to R42), before its registers are set. -/
def Wave.fresh : Wave where
  idx := 0
  slot := 0
  status := .absent
  pc := 0#64
  regs := Vector.replicate 128 0#64
  vregs := []
  freed := []
  vwb := 0
  nf := Vector.replicate 4 0#32
  cb := []
  wctl := 0#4
  fflags := 0#6
  mrwin := 0#64
  tvec := 0#64
  tcause := 0#64
  tpc := 0#64
  taddr := 0#64
  tskid := 0#64
  tdeadline := 0#64
  inh := false
  npreEnd := 0
  region := none
  retained := none
  rgLast := 0#64
  pfdrop := 0#64
  stalecnt := 0#64
  chkForce := false
  pts := 0
  seen := []
  streamClock := 0
  engClock := 0
  lmFence := 0
  parked := false
  block := none
  qwait := none
  xbarExt := false
  xbarPc := 0
  collVa := 0
  collEnd := none
  issued := 0
  entryIssued := 0
  accs := []
  lmq := []
  nextId := 0
  stop := none
  halting := none
  heldCauses := []
  ret := none
  drain := false
  stopped := false
  mreq := none

/-- A barrier as at dispatch, for the given member set (R294). -/
def Barrier.fresh (member : BitVec 16) : Barrier := ⟨member, 0#16, 0#16, none, false, 0⟩

/-- A crew with no wave, the place of a crew that has never been placed. -/
def Crew.fresh : Crew where
  handle := 0
  ctx := 0
  id := 0
  flow := 0
  stage := 0
  qnum := 0
  prio := 0
  size := 0
  core := 0
  valloc := 0
  naccs := 0
  lmBase := 0
  lmSize := 0
  state := .ended
  accs := []
  bars := Vector.replicate 8 (Barrier.fresh 0#16)
  segs := []
  sfr := []
  held := []
  tags := []
  preempt := none
  slot := none
  saved := []
  restoring := false
  others := []

/-- The membership unit before bring-up. -/
def Memb.reset : Memb where
  up := false
  peers := []
  partners := []
  spares := []
  reports := []
  probes := []
  answers := []
  beacons := []
  leaving := []
  joining := []
  assigned := []
  retiring := []
  acks := []
  issuedAt := 0
  clone := none
  toOpen := []
  viewSince := none
  held := []
  replaceAt := 0
  quorumLost := false
  vacated := []
  handoffs := []
  hbPeriod := 0
  beaconPeriod := 0

/-- The machine right after device reset: no context, no flow, no crew (R28, R329, R407); every core-, die- and device-scope
register at its Reset column. -/
def State.reset : State where
  ps := 0
  cycles := 0
  slow := false
  fresh := 0
  devid := 0#16
  gen := 0#16
  mem := []
  past := []
  wseq := 0
  poison := []
  lines := []
  copies := []
  floor := 0
  tickAt := 0
  linkPts := 0
  pins := []
  tlb := []
  pod := none
  members := []
  views := []
  regions := []
  rgnStamp := 0
  rgnSeq := 0
  rgnClock := 0
  units := []
  samples := 0
  flows := []
  reserved := []
  crewIds := []
  wd := []
  wdStall := []
  lm := []
  lmretn := 160
  lmStamp := []
  lmMark := []
  lmFull := []
  lmPoison := []
  lmClock := []
  wave := Wave.fresh
  crew := Crew.fresh
  crews := []
  nextHandle := 1
  tickets := 0
  cmds := []
  nextCmd := 0
  cores := []
  dies := []
  testDue := []
  diagNext := []
  fab := ⟨[], [], [], [], [], [], [], [], [], [], 0, []⟩
  xch := ⟨[], [], [], 0, 0, [], 0#16, [], [], false, [], [], [], [], [], [], [], false, 0⟩
  memb := Memb.reset
  links := ⟨[], [], [], [], [], false, [], [], [], []⟩
  regs := []
  events := []
  agenda := []

end Sys2Proof.Machine
end

