-- ==== Sys2Proof/Machine/DevRegs.lean ====
section
/-! DEFINITION. The reset values of the device registers of space 2 and their addresses (R412 to R417, R374, R390). -/

namespace Sys2Proof.Machine

/-- What a device register reads right after reset, by its 8-byte-aligned offset in space 2; 0 where no rule says otherwise. -/
def regReset (off : Nat) : Word :=
  if off = 0 then 1#64
  else if off = 0x10000 then 10#64
  else if off = 0x10008 then 0x100010#64
  else if 0x20000 ≤ off ∧ off < 0x24000 then
    match off % 0x100 with
    | 0x10 => 0x8000000000000000#64
    | 0x48 => 2000#64
    | 0x50 => 50000#64
    | 0x58 => 100#64
    | _ => 0#64
  else if off = 0x120000 then 50#64
  else if 0x100000 ≤ off ∧ off < 0x118000 ∧ off % 0x800 = 0x400 then 0x80#64
  else if off = 0x130010 then 0x10000000000#64
  else 0#64

/-- The value of the device register at an 8-byte-aligned offset. -/
def State.reg (s : State) (off : Nat) : Word := Map.find regReset s.regs off
/-- Set the device register at an 8-byte-aligned offset. -/
def State.setReg (s : State) (off : Nat) (v : Word) : State := { s with regs := Map.put regReset s.regs off v }

/-- The offset of a register of a context block (R416). -/
def ctxOff (ctx off : Nat) : Nat := 0x20000 + 0x100 * ctx + off
def State.ctxReg (s : State) (ctx off : Nat) : Word := s.reg (ctxOff ctx off)

/-- Clamp a context register to the range of R285. -/
def clampTo (lo hi v : Nat) : Nat := if v < lo then lo else if hi < v then hi else v

/-- BARTO, WDTIME and PEDL of a context in microseconds (R285, R416). -/
def State.barto (s : State) (ctx : Nat) : Nat := (s.ctxReg ctx 0x48).toNat
def State.wdtime (s : State) (ctx : Nat) : Nat := (s.ctxReg ctx 0x50).toNat
def State.pedl (s : State) (ctx : Nat) : Nat := (s.ctxReg ctx 0x58).toNat

/-- LEASE in ticks (R180, R415). -/
def State.lease (s : State) : Nat := (s.reg 0x10000).toNat % 16

/-- ROOT.ENABLE of a context (R416). -/
def State.ctxEnabled (s : State) (ctx : Nat) : Bool := (s.ctxReg ctx 0).getLsbD 0

/-- The groups of the pod: as taken at bring-up, or as PODGRP stands before it (R250, R415). -/
def State.podGroups (s : State) : List Nat :=
  match s.pod with
  | some gs => gs
  | none => (List.range 8).filterMap (fun g =>
      let r := s.reg (0x10010 + 8 * g)
      if r.getLsbD 15 then some (r.toNat % 2048) else none)

end Sys2Proof.Machine
end

