-- ==== Sys2Proof/Machine/Base.lean ====
section
/-! DEFINITION. Time, the registers of a wave, memory, address translation and LM: the named operations that every meaning
uses, each in one place. -/

namespace Sys2Proof.Machine

/-! ## Time (R14, R39) -/

def State.nanos (s : State) : Nat := s.ps / 1000
def State.micros (s : State) : Nat := s.ps / 1000000

/-- Cycles of the arithmetic clock in 25 nanoseconds: 800 MHz, or 760 MHz under the fallback (R14, R17). -/
def State.clockRate (s : State) : Nat := if s.slow then 19 else 20

/-- Cycles of that clock that have ended `t` picoseconds after reset, if it runs all the time at the present rate. -/
def State.cyclesBy (s : State) (t : Nat) : Nat := t * s.clockRate / 25000

/-- Picoseconds to the end of the present cycle. -/
def State.cyclePs (s : State) : Nat := ((s.cyclesBy s.ps + 1) * 25000 + s.clockRate - 1) / s.clockRate - s.ps

/-- Let `ps` picoseconds pass. -/
def State.elapse (s : State) (ps : Nat) : State :=
  { s with ps := s.ps + ps, cycles := s.cyclesBy (s.ps + ps) - s.cyclesBy s.ps + s.cycles }

/-! ## Scalar registers and the mask (R29 to R31) -/

/-- A read of a scalar: s0 reads as zero. -/
def Wave.getS (w : Wave) (r : Reg) : Word := if r = 0#7 then 0#64 else w.regs[r.toNat]'(by omega)

/-- What a scalar keeps of a written value: the mask registers s125 to s127 keep 32 bits (R31). -/
def keepS (r : Reg) (v : Word) : Word := if 125#7 ≤ r then v &&& 0xFFFFFFFF#64 else v

/-- A write of a scalar: a write to s0 is discarded. -/
def Wave.setS (w : Wave) (r : Reg) (v : Word) : Wave :=
  if r = 0#7 then w else { w with regs := w.regs.set r.toNat (keepS r v) (by omega) }

def State.getS (s : State) (r : Reg) : Word := s.wave.getS r
def State.setS (s : State) (r : Reg) (v : Word) : State := { s with wave := s.wave.setS r v }

/-- `active(i)` (R31, R57). -/
def Wave.active (w : Wave) (i : Nat) : Bool := (w.getS (BitVec.ofNat 7 (125 + i / 32))).getLsbD (i % 32)

/-- The active lanes in ascending order. -/
def Wave.lanes (w : Wave) : List Nat := (List.range 96).filter w.active

/-- All 96 mask bits are clear (R37). -/
def Wave.maskEmpty (w : Wave) : Bool := w.getS 125#7 == 0#64 && w.getS 126#7 == 0#64 && w.getS 127#7 == 0#64

/-! ## Vector registers (R32 to R34) -/

/-- +0 in every lane. -/
def zeroLanes : Lanes := Vector.replicate 96 0#32

/-- The contents of a physical vector register. -/
def Wave.vreg (w : Wave) (phys : Nat) : Lanes := Map.find (fun _ => zeroLanes) w.vregs phys
def Wave.setVreg (w : Wave) (phys : Nat) (v : Lanes) : Wave := { w with vregs := Map.put (fun _ => zeroLanes) w.vregs phys v }

/-- The physical register that a field names (R32). -/
def Wave.phys (w : Wave) (r : Reg) : Nat := w.vwb + r.toNat
def Wave.isFreed (w : Wave) (phys : Nat) : Bool := w.freed.contains phys

/-- Free a physical register (R33): the list stays sorted and without repeats. -/
def insertNat (l : List Nat) (n : Nat) : List Nat :=
  match l with
  | [] => [n]
  | k :: ks => if n < k then n :: k :: ks else if n = k then k :: ks else k :: insertNat ks n

def Wave.free (w : Wave) (phys : Nat) : Wave := { w with freed := insertNat w.freed phys }
def Wave.revive (w : Wave) (phys : Nat) : Wave := { w with freed := w.freed.filter (fun k => k != phys) }

/-- A source read: a freed register reads as free values (R34). `pos` tells the operands of one word apart. -/
def State.readV (s : State) (pos : Nat) (r : Reg) : Lanes :=
  if s.wave.isFreed (s.wave.phys r) then Vector.ofFn (fun i => Config.undefLane s.fresh pos i.val)
  else s.wave.vreg (s.wave.phys r)

/-- What the inactive lanes of a destination hold after a word: their old contents, or free values if the register was freed
before the word (R33). -/
def State.oldV (s : State) (phys : Nat) : Lanes :=
  if s.wave.isFreed phys then Vector.ofFn (fun i => Config.undefLane s.fresh 7 i.val) else s.wave.vreg phys

/-- Write a physical register in the active lanes and revive it (R33). -/
def State.writeV (s : State) (phys : Nat) (f : Nat → Lane) : State :=
  let v : Lanes := Vector.ofFn (fun i => if s.wave.active i.val then f i.val else (s.oldV phys)[i.val]'i.isLt)
  { s with wave := (s.wave.revive phys).setVreg phys v }

/-- Write the named lanes of a physical register that is already live (an access or a queued result lands). -/
def Wave.landV (w : Wave) (phys : Nat) (vals : List (Nat × Lane)) : Wave :=
  w.setVreg phys (vals.foldl (fun (v : Lanes) (e : Nat × Lane) => v.setIfInBounds e.1 e.2) (w.vreg phys))

/-! ## Memory (R5, R176, R250, R365) -/

/-- A fabric physical address with the number of this device in place of 0xFFFF (R250). -/
def State.fpaKey (s : State) (fpa : Nat) : Nat :=
  if fpa / 2 ^ 42 = 0xFFFF then s.devid.toNat * 2 ^ 42 + fpa % 2 ^ 42 else fpa

/-- This device's HBM and host memory as fabric addresses. -/
def State.hbm (s : State) (off : Nat) : Nat := s.devid.toNat * 2 ^ 42 + off
def State.hostAddr (s : State) (off : Nat) : Nat := s.devid.toNat * 2 ^ 42 + 2 ^ 40 + off
def fpaDev (fpa : Nat) : Nat := fpa / 2 ^ 42
def fpaSpace (fpa : Nat) : Nat := fpa / 2 ^ 40 % 4
def fpaOff (fpa : Nat) : Nat := fpa % 2 ^ 40

/-- Bytes of visible HBM: 992 GiB (R15). -/
def hbmBytes : Nat := 992 * 2 ^ 30

/-- What a byte of memory that nothing has written reads as: HBM is zeroed at reset (R329). -/
def memDefault (_ : Nat) : Byte := 0#8
/-- The canonical form of memory: addresses strictly rising, and no entry equal to what an unlisted address reads as. -/
def Memory.wf (m : Map Byte) : Bool := Map.wf memDefault m

def State.byteAt (s : State) (a : Nat) : Byte := Map.find memDefault s.mem a
def State.setByte (s : State) (a : Nat) (b : Byte) : State := { s with mem := Map.put memDefault s.mem a b }

/-- Read `n` bytes from address `a` up. -/
def State.readBytes (s : State) (a n : Nat) : List Byte := (List.range n).map (fun k => s.byteAt (a + k))

/-- Write bytes from address `a` up. -/
def State.writeBytes (s : State) (a : Nat) (bs : List Byte) : State :=
  match bs with
  | [] => s
  | b :: rest => State.writeBytes (s.setByte a b) (a + 1) rest

/-! ## Earlier values of bytes (R143, R191) -/

/-- An engine operation that reads its operands over time is in flight. -/
def State.racing (s : State) : Bool :=
  !s.cmds.isEmpty || s.cores.any (fun e => !e.2.mops.isEmpty) || !s.fab.colls.isEmpty || !s.xch.rounds.isEmpty

def pastNone (_ : Nat) : List (Nat × Byte) := []

/-- A byte is written over while an engine operation is in flight: its old value is kept. -/
def State.logByte (s : State) (key : Nat) (old new : Byte) : State :=
  if old = new then s
  else { s with past := Map.put pastNone s.past key ((s.wseq, old) :: Map.find pastNone s.past key), wseq := s.wseq + 1 }

/-- The value of a byte that an operation issued at write number `since` reads: any that it has held since (R143, R191). -/
def State.pastPick (s : State) (since key : Nat) (now : Byte) : Byte :=
  match (Map.find pastNone s.past key).filter (fun e => since ≤ e.1) with
  | [] => now
  | e :: es =>
    let vs := now :: (e :: es).map (fun e => e.2)
    vs.getD (Config.pastByte s.fresh key % vs.length) now

/-- Bytes of memory as such an operation reads them. -/
def State.memPick (s : State) (since a n : Nat) : List Byte := (List.range n).map (fun k => s.pastPick since (2 * (a + k)) (s.byteAt (a + k)))

/-- A little-endian value of `n` bytes (R5). -/
def State.readMem (s : State) (a n : Nat) : Nat := ofBytesLE (s.readBytes a n)
def State.writeMem (s : State) (a n v : Nat) : State := s.writeBytes a (bytesLE n v)

def noPoison (_ : Nat) : Bool := false
def State.isPoisoned (s : State) (a : Nat) : Bool := Map.find noPoison s.poison (a / 32)
def State.setPoison (s : State) (a : Nat) (p : Bool) : State := { s with poison := Map.put noPoison s.poison (a / 32) p }

/-- The sectors of 32 bytes that a span touches, by their first address. -/
def sectors (a n : Nat) : List Nat := if n = 0 then [] else (List.range ((a + n - 1) / 32 - a / 32 + 1)).map (fun k => 32 * (a / 32 + k))
def State.anyPoison (s : State) (a n : Nat) : Bool := (sectors a n).any s.isPoisoned

/-- Keep the old values of a span that bytes are about to be written to; a poisoned byte has none that an engine could read. -/
def State.memLog (s : State) (a : Nat) (bs : List Byte) : State :=
  if !s.racing then (if s.past.isEmpty then s else { s with past := [] })
  else bs.zipIdx.foldl (fun s e => if s.isPoisoned (a + e.2) then s else s.logByte (2 * (a + e.2)) (s.byteAt (a + e.2)) e.1) s

/-- A store of a whole sector clears its poison bit, any other leaves it (R198). -/
def State.clearWhole (s : State) (a n : Nat) : State :=
  (sectors a n).foldl (fun s x => if a ≤ x ∧ x + 32 ≤ a + n then s.setPoison x false else s) s

def lineDefault (_ : Nat) : Line := ⟨0, 0, none, none⟩
def State.line (s : State) (l : Nat) : Line := Map.find lineDefault s.lines l
def State.setLine (s : State) (l : Nat) (v : Line) : State := { s with lines := Map.put lineDefault s.lines l v }

/-- The 128-byte line of an address (R179). -/
def lineOf (a : Nat) : Nat := a / 128

/-- The stripe of 1 MiB of a clone's extents that holds an HBM offset (R394). -/
def stripeOf (es : List (Nat × Nat × List Nat)) (k off : Nat) : Option Nat :=
  match es with
  | [] => none
  | e :: rest => if e.1 ≤ off ∧ off < e.1 + e.2.1 then some (k + (off - e.1) / 2 ^ 20) else stripeOf rest (k + e.2.1 / 2 ^ 20) off

/-- Updraft owns the lines of this spare's clone that have not landed (R190, R394). -/
def State.cloneHolds (s : State) (fpa : Nat) : Bool :=
  match s.memb.clone with
  | none => false
  | some c =>
    fpaDev fpa == s.devid.toNat && fpaSpace fpa == 0
      && (match stripeOf c.extents 0 (fpaOff fpa) with | some k => !(c.done.contains k) | none => false)

/-- A line may be read or written by an agent: nobody else holds it (R190). -/
def State.lineFree (s : State) (o : Option Owner) (fpa : Nat) : Bool :=
  (match (s.line (lineOf fpa)).owner with | none => true | some k => some k == o) && !(s.cloneHolds fpa)

/-! ## Address translation (R250, R251, R331 to R335) -/

/-- What an access wants of its page (R198, R251). -/
inductive Want where
  | load | store | atomic | fetch
  deriving DecidableEq, Repr

/-- The cause of a missing translation (R333). -/
def Want.xlate (k : Want) : Cause := match k with | .load => .xlateLd | .fetch => .xlateLd | _ => .xlateSt
/-- The cause of a missing permission (R198). -/
def Want.prot (k : Want) : Cause := match k with | .load => .protLd | .fetch => .protLd | _ => .protSt
/-- Whether it writes. -/
def Want.writes (k : Want) : Bool := match k with | .store => true | .atomic => true | _ => false

/-- The checks of R251 on a fabric address as a translation yields it: a device number that is written out lies in a group of the pod, this
device's own too (R250). `reg` says that a device-register access is allowed (a scalar load or store of 4 or 8 bytes). -/
def State.fpaOk (s : State) (raw : Nat) (reg : Bool) : Bool :=
  if fpaSpace raw = 3 then false
  else if fpaDev raw ≠ 0xFFFF ∧ !(s.podGroups.contains (fpaDev raw / 32)) then false
  else if fpaSpace raw = 0 then fpaOff raw < hbmBytes
  else if fpaSpace raw = 1 then fpaDev (s.fpaKey raw) = s.devid.toNat
  else reg

/-- The device of an address is lost to this one (R255). -/
def State.lost (s : State) (fpa : Nat) : Bool := fpaDev fpa ≠ s.devid.toNat && !(s.members.contains (fpaDev fpa))

/-- A leaf found by a walk: the entry, where it lies, and the bits of its page offset. -/
structure Leaf where
  pte : Word
  addr : Nat
  bits : Nat
  deriving DecidableEq, Repr

/-- How a walk ends (R333): `table` is an entry that cannot be read, which the host is told of. -/
inductive Walk where
  | leaf (l : Leaf) | fail | table
  deriving DecidableEq, Repr

def pteFrame (p : Word) : Nat := (p.toNat / 2 ^ 16 % 2 ^ 42) * 2 ^ 16
def pteV (p : Word) : Bool := p.getLsbD 0
def pteR (p : Word) : Bool := p.getLsbD 1
def pteW (p : Word) : Bool := p.getLsbD 2
def pteX (p : Word) : Bool := p.getLsbD 3
def pteSZ (p : Word) : Nat := p.toNat / 16 % 4
def pteConf (p : Word) : Bool := p.getLsbD 6
def pteSnap (p : Word) : Bool := p.getLsbD 7
def pteMS (p : Word) : Bool := p.getLsbD 8
def pteNC (p : Word) : Bool := p.getLsbD 9

/-- The bits of a page offset for a leaf's SZ. -/
def pageBits (sz : Nat) : Nat := if sz = 0 then 16 else if sz = 1 then 21 else 30

/-- The index bits of a level (R331): shift and count. -/
def levelIndex (level va : Nat) : Nat :=
  match level with
  | 0 => va / 2 ^ 39 % 2 ^ 17
  | 1 => va / 2 ^ 30 % 2 ^ 9
  | 2 => va / 2 ^ 21 % 2 ^ 9
  | _ => va / 2 ^ 16 % 2 ^ 5

/-- A leaf entry is well formed (R333). -/
def State.leafOk (s : State) (p : Word) : Bool :=
  (p &&& 0xFC0000000000E400#64) == 0#64
    && (pteFrame p % 2 ^ pageBits (pteSZ p) == 0)
    && (!pteMS p || fpaSpace (s.fpaKey (pteFrame p)) == 0)

/-- The walk of R331 from `level` with the table at fabric address `t`; `fuel` counts the levels left. -/
def State.walkFrom (s : State) (va : Nat) (fuel level t : Nat) : Walk :=
  match fuel with
  | 0 => .fail
  | fuel + 1 =>
    let a := s.fpaKey t + 8 * levelIndex level va
    if !(s.fpaOk (t + 8 * levelIndex level va) false) || s.lost a || s.isPoisoned a then .table
    else
      let p : Word := BitVec.ofNat 64 (s.readMem a 8)
      if !pteV p then .fail
      else if pteSZ p = 3 then if level < 3 then State.walkFrom s va fuel (level + 1) (pteFrame p) else .fail
      else if (level = 3 ∧ pteSZ p = 0) ∨ (level = 2 ∧ pteSZ p = 1) ∨ (level = 1 ∧ pteSZ p = 2) then
        if s.leafOk p then .leaf ⟨p, a, pageBits (pteSZ p)⟩ else .fail
      else .fail

/-- The walk of a context's tables from its root (R330, R331). -/
def State.walk (s : State) (ctx va : Nat) : Walk :=
  if va < 2 ^ 56 then s.walkFrom va 4 0 (pteFrame (s.ctxReg ctx 0)) else .fail

/-- The entry that a translation uses: a kept one of the die and context, else a fresh walk (R330, R334, R335). -/
def State.lookup (s : State) (die ctx va : Nat) : Walk :=
  match s.tlb.find? (fun e => e.die = die ∧ e.ctx = ctx ∧ va / 2 ^ e.bits = e.page) with
  | some e => .leaf ⟨e.pte, e.addr, e.bits⟩
  | none => s.walk ctx va

/-- A translated address: the fabric address, the leaf entry and where it lies. -/
structure Xl where
  fpa : Nat
  pte : Word
  addr : Nat
  deriving DecidableEq, Repr

/-- An address lies in an open snapshot view (R338). -/
def State.inView (s : State) (fpa : Nat) : Bool :=
  fpaDev fpa = s.devid.toNat && fpaSpace fpa = 0 && s.views.any (fun v => v.base ≤ fpaOff fpa ∧ fpaOff fpa < v.base + v.len)

/-- The home of an address admits the access (R342, R344): a peer's HBM only through its export windows. -/
def State.peerAdmits (s : State) (fpa : Nat) (k : Want) : Bool :=
  fpaDev fpa == s.devid.toNat || fpaSpace fpa != 0
    || ((k == .store || Config.peerExports fpa false) && (!k.writes || Config.peerExports fpa true))

/-- Translate one address (R198, R250, R251, R255, R333, R338). `reg` allows device registers. -/
def State.translate (s : State) (die ctx : Nat) (va : Nat) (k : Want) (reg : Bool) : Except Cause Xl :=
  match s.lookup die ctx va with
  | .fail => .error k.xlate
  | .table => .error k.xlate
  | .leaf l =>
    let raw := pteFrame l.pte + va % 2 ^ l.bits
    let fpa := s.fpaKey raw
    let okPerm := match k with
      | .load => pteR l.pte
      | .store => pteW l.pte
      | .atomic => pteR l.pte && pteW l.pte
      | .fetch => pteX l.pte
    if !(s.fpaOk raw reg) then .error k.prot
    else if !okPerm then .error k.prot
    else if s.lost fpa then .error .peerlost
    else if !(s.peerAdmits fpa k) then .error k.prot
    else if k.writes && !pteSnap l.pte && s.inView fpa then .error (if k = .atomic then .protLd else .protSt)
    else .ok ⟨fpa, l.pte, l.addr⟩

/-- The host as a party of key exchange (R340). -/
def hostParty : Nat := 65536

/-- Packets for a confidential page wait for the key of their pair in this generation (R339, R340); data within the package has none. -/
def State.keyed (s : State) (x : Xl) : Bool :=
  if fpaSpace x.fpa = 1 then !pteConf x.pte || s.fab.keys.contains (hostParty, s.gen)
  else !pteConf x.pte || fpaDev x.fpa == s.devid.toNat || s.fab.keys.contains (fpaDev x.fpa, s.gen)

/-- An access by an agent may be made at the home of its address: nobody else holds the line, and its packets can go (R190, R340). -/
def State.homeOpen (s : State) (o : Option Owner) (x : Xl) : Bool := s.lineFree o x.fpa && s.keyed x

/-- A write through the page waits on an open snapshot view (R199, R338). -/
def State.snapWaits (s : State) (x : Xl) : Bool := pteSnap x.pte && s.inView x.fpa

/-! ## Local memory (R187 to R189, R210, R211) -/

/-- Bytes of a core's LM: 8 MiB (R15). -/
def lmBytes : Nat := 2 ^ 23
def lmKey (core off : Nat) : Nat := core * lmBytes + off
def lmZero (_ : Nat) : Byte := 0#8
def lmEpoch (_ : Nat) : Nat := 0

def State.lmByte (s : State) (core off : Nat) : Byte := Map.find lmZero s.lm (lmKey core off)
def State.lmRead (s : State) (core off n : Nat) : List Byte := (List.range n).map (fun k => s.lmByte core (off + k))
def State.lmSetByte (s : State) (core off : Nat) (b : Byte) : State := { s with lm := Map.put lmZero s.lm (lmKey core off) b }
def State.lmPut (s : State) (core off : Nat) (bs : List Byte) : State :=
  match bs with
  | [] => s
  | b :: rest => State.lmPut (s.lmSetByte core off b) core (off + 1) rest

def State.lmFullAt (s : State) (core off : Nat) : Bool := Map.find noPoison s.lmFull (lmKey core off / 16)
def State.lmSetFull (s : State) (core off : Nat) (b : Bool) : State :=
  { s with lmFull := Map.put noPoison s.lmFull (lmKey core off / 16) b }
def State.lmPoisonAt (s : State) (core off : Nat) : Bool := Map.find noPoison s.lmPoison (lmKey core off / 32)
def State.lmSetPoison (s : State) (core off : Nat) (b : Bool) : State :=
  { s with lmPoison := Map.put noPoison s.lmPoison (lmKey core off / 32) b }

/-- LMGUARD in microseconds and LMHELD in bytes (R39). -/
def lmGuard : Nat := 8
def lmHeldMax : Nat := 2 ^ 21
/-- The 256-byte line of an LM offset. -/
def lmLineOf (core off : Nat) : Nat := lmKey core off / 256
def State.lmStampOf (s : State) (line : Nat) : Nat := Map.find lmEpoch s.lmStamp line
/-- Stamp a line: a fresh age, and no mark (R210). -/
def State.lmStampLine (s : State) (line : Nat) : State :=
  { s with lmStamp := Map.put lmEpoch s.lmStamp line s.micros, lmMark := Map.put noPoison s.lmMark line false }
/-- The age of a line in microseconds (R210); the mark of the scanner keeps an expired line expired. -/
def State.lmAge (s : State) (line : Nat) : Nat := s.micros - s.lmStampOf line
/-- A 256-byte line that lies in a held segment of a crew on the core: it is renewed in the background and never expires (R214). -/
def Crew.holdsLine (c : Crew) (line : Nat) : Bool :=
  c.state ≠ .saved && c.segs.any (fun g => g.held && lmLineOf c.core g.off ≤ line && line < lmLineOf c.core (g.off + g.size))
def State.heldLine (s : State) (line : Nat) : Bool := s.crew.holdsLine line || s.crews.any (fun c => c.holdsLine line)
def State.lmExpired (s : State) (line : Nat) : Bool :=
  !(s.heldLine line) && (Map.find noPoison s.lmMark line || decide (s.lmretn - lmGuard ≤ s.lmAge line))

/-- Keep the old values of an LM span of a live line (R143, R191). -/
def State.lmLog (s : State) (core off : Nat) (bs : List Byte) : State :=
  if !s.racing then s
  else bs.zipIdx.foldl (fun s e =>
    if s.lmPoisonAt core (off + e.2) then s else s.logByte (2 * lmKey core (off + e.2) + 1) (s.lmByte core (off + e.2)) e.1) s

/-- A write to LM of bytes within one line (R210, R211): an expired line is zeroed first; the line is stamped. -/
def State.lmWriteLine (s : State) (core off : Nat) (bs : List Byte) : State :=
  let line := lmLineOf core off
  let s1 := if s.lmExpired line then s.lmPut core (off / 256 * 256) (List.replicate 256 0#8) else s.lmLog core off bs
  (s1.lmPut core off bs).lmStampLine line

/-- Bytes of LM as an engine operation issued at write number `since` reads them (R143, R191). -/
def State.lmPick (s : State) (since core off n : Nat) : List Byte :=
  (List.range n).map (fun k => s.pastPick since (2 * lmKey core (off + k) + 1) (s.lmByte core (off + k)))

/-- A write to LM of any length, line by line; `fuel` bounds the lines. -/
def State.lmWriteFuel (s : State) (fuel core off : Nat) (bs : List Byte) : State :=
  match fuel with
  | 0 => s
  | fuel + 1 =>
    if bs.isEmpty then s
    else
      let n := 256 - off % 256
      State.lmWriteFuel (s.lmWriteLine core off (bs.take n)) fuel core (off + n) (bs.drop n)

/-- A write to LM (R210, R211); whole poisoned sectors it covers become clean (R198, R365). -/
def State.lmWrite (s : State) (core off : Nat) (bs : List Byte) : State :=
  let s1 := s.lmWriteFuel (bs.length / 256 + 2) core off bs
  (sectors off bs.length).foldl (fun s x => if off ≤ x ∧ x + 32 ≤ off + bs.length then s.lmSetPoison core x false else s) s1

end Sys2Proof.Machine
end

