-- ==== Sys2Proof/Machine/DramCode.lean ====
section
/-! DEFINITION. The two-tier DRAM code (R367, R368): the check value of a sector and the parity of a stripe, as they stand beside clean data. No
access reaches them (R251). A read that finds them broken is `DRAM_SCRUB` (R369). -/

namespace Sys2Proof.Machine

/-! ## Check values (R367) -/

/-- One bit through the CRC of polynomial 0x8BB7. -/
def crcBit (c : BitVec 16) (b : Bool) : BitVec 16 := if c.getLsbD 15 != b then (c <<< 1) ^^^ 0x8BB7#16 else c <<< 1

/-- One byte, most significant bit first. -/
def crcByte (c : BitVec 16) (x : Byte) : BitVec 16 := [7, 6, 5, 4, 3, 2, 1, 0].foldl (fun c k => crcBit c (x.getLsbD k)) c

/-- The check value of a sector: its data bytes in ascending order, then a byte with the poison bit in bit 0. -/
def sectorCheck (bs : List Byte) (poison : Bool) : BitVec 16 := (bs ++ [if poison then 1#8 else 0#8]).foldl crcByte 0#16

/-- The check value that stands beside the sector of an address. -/
def State.checkValue (s : State) (a : Nat) : BitVec 16 := sectorCheck (s.readBytes (a / 32 * 32) 32) (s.isPoisoned a)

/-! ## Parity (R368) -/

/-- A field element times x, modulo x^8 + x^4 + x^3 + x^2 + 1. -/
def gfTwice (a : Byte) : Byte := if a.getLsbD 7 then (a <<< 1) ^^^ 0x1D#8 else a <<< 1

/-- The product of two field elements. -/
def gfMul (a b : Byte) : Byte := [7, 6, 5, 4, 3, 2, 1, 0].foldl (fun p k => gfTwice p ^^^ (if b.getLsbD k then a else 0#8)) 0#8

/-- A polynomial, highest power first, times x minus a root. -/
def polyRoot (p : List Byte) (r : Byte) : List Byte := List.zipWith (fun a b => a ^^^ gfMul r b) (p ++ [0#8]) (0#8 :: p)

/-- The generator with roots α^0 to α^3, α being x. -/
def rsGenerator : List Byte := [1#8, 2#8, 4#8, 8#8].foldl polyRoot [1#8]

/-- The four parity bytes of a codeword's data: the remainder of the data times x^4, the first byte at the highest power. The order of the bytes in
the codeword is the model's reading: DEDUCED, log entry 127. -/
def rsParity (data : List Byte) : List Byte :=
  data.foldl (fun r d =>
    let q := d ^^^ r.headD 0#8
    List.zipWith (fun a g => a ^^^ gfMul q g) (r.drop 1 ++ [0#8]) (rsGenerator.drop 1)) [0#8, 0#8, 0#8, 0#8]

/-- The 64 parity bytes of a stripe: codeword `c` takes the bytes at offsets that leave `c` modulo 16. -/
def stripeParity (bs : List Byte) : List Byte :=
  (List.range 16).flatMap (fun c => rsParity ((List.range 128).map (fun i => bs.getD (16 * i + c) 0#8)))

/-- The HBM offset of a stripe's parity. -/
def parityOff (stripe : Nat) : Nat := 992 * 2 ^ 30 + 64 * stripe

/-- The parity that stands beside a stripe. -/
def State.parity (s : State) (stripe : Nat) : List Byte := stripeParity (s.readBytes (s.hbm (2048 * stripe)) 2048)

end Sys2Proof.Machine
end

