-- ==== Sys2Proof/Machine/Float.lean ====
section
/-! DEFINITION. Number formats and rounding (R77 to R90) and the pure results of the floating-point, narrow-format and
special-function words (R121 to R140). Every result is computed exactly over dyadic numbers and then rounded once. -/

namespace Sys2Proof.Machine

/-- A number: a NaN, an infinity, or the exact value (-1)^neg * m * 2^e, which is a signed zero for m = 0. -/
inductive Num where
  | nan (signalling : Bool)
  | inf (neg : Bool)
  | fin (neg : Bool) (m : Nat) (e : Int)
  deriving DecidableEq, Repr

/-- A binary format (R78, R85): exponent and fraction widths, bias, and which codes are special, by SPEC of R86 (2: IEEE). -/
structure Fmt where
  ew : Nat
  mw : Nat
  bias : Int
  spec : Nat
  deriving DecidableEq, Repr

def binary16 : Fmt := ⟨5, 10, 15, 2⟩
def bfloat16 : Fmt := ⟨8, 7, 127, 2⟩
def binary32 : Fmt := ⟨8, 23, 127, 2⟩
def binary64 : Fmt := ⟨11, 52, 1023, 2⟩

/-- The rounding modes of R81. -/
inductive RMode where
  | rne | rtz | rdn | rup | rna
  deriving DecidableEq, Repr

/-- The flags of one word, in the bit order of R41: NS NX UF OF DZ NV. -/
abbrev Flags := BitVec 6
def fNV : Flags := 1#6
def fDZ : Flags := 2#6
def fOF : Flags := 4#6
def fUF : Flags := 8#6
def fNX : Flags := 16#6
def fNS : Flags := 32#6
def fIf (b : Bool) (f : Flags) : Flags := if b then f else 0#6

/-- 2^n for a natural exponent, 1 for a negative one. -/
def pow2 (n : Int) : Nat := 2 ^ n.toNat

/-- SPEC as R86 reads it: SPEC 2 without an exponent field is SPEC 1. -/
def Fmt.kind (f : Fmt) : Nat := if f.ew = 0 ∧ f.spec = 2 then 1 else f.spec

/-- The largest finite magnitude code (R86). -/
def Fmt.maxMag (f : Fmt) : Nat :=
  match f.kind with
  | 1 => 2 ^ (f.ew + f.mw) - 2
  | 2 => (2 ^ f.ew - 1) * 2 ^ f.mw - 1
  | _ => 2 ^ (f.ew + f.mw) - 1

/-- The exponent of the format's least step. -/
def Fmt.qmin (f : Fmt) : Int := 1 - f.bias - f.mw

/-- The value of a code (R78, R85, R86). -/
def Fmt.decode (f : Fmt) (bits : Nat) : Num :=
  let mag := bits % 2 ^ (f.ew + f.mw)
  let neg := (bits / 2 ^ (f.ew + f.mw)) % 2 = 1
  let e := mag / 2 ^ f.mw
  let m := mag % 2 ^ f.mw
  if f.kind = 1 ∧ mag = 2 ^ (f.ew + f.mw) - 1 then .nan false
  else if f.kind = 2 ∧ e = 2 ^ f.ew - 1 then
    if m = 0 then .inf neg else .nan (m < 2 ^ (f.mw - 1))
  else if f.kind = 3 ∧ neg ∧ mag = 0 then .nan false
  else if e = 0 then .fin neg m f.qmin
  else .fin neg (2 ^ f.mw + m) (e - 1 + f.qmin)

/-- Round m * 2^e, plus a nonzero part below its last unit where `sticky`, to a multiple of 2^q: the multiple and whether it
is inexact (R81). With `sticky` the caller gives e below q. A tie to even goes to the even multiple; in a format with MW = 0, whose values
have no fraction bit for R81 to name, this takes the larger magnitude between two normals and zero at half the smallest value
(DESIGN CHOICE, log 93). -/
def roundTo (mode : RMode) (neg : Bool) (m : Nat) (e : Int) (sticky : Bool) (q : Int) : Nat × Bool :=
  if q ≤ e then (m * pow2 (e - q), sticky)
  else
    let sh := pow2 (q - e)
    let hi := m / sh
    let lo := m % sh
    let inexact := lo ≠ 0 || sticky
    let up :=
      match mode with
      | .rne => 2 * lo > sh || (2 * lo = sh && (sticky || hi % 2 = 1))
      | .rna => 2 * lo ≥ sh
      | .rtz => false
      | .rdn => neg && inexact
      | .rup => !neg && inexact
    (if up then hi + 1 else hi, inexact)

/-- The code of a sign and a magnitude code; SPEC 3 has one zero (R86). -/
def Fmt.code (f : Fmt) (neg : Bool) (mag : Nat) : Nat :=
  if neg && !(f.kind = 3 && mag = 0) then 2 ^ (f.ew + f.mw) + mag else mag

/-- The NaN encoding and its flags (R79, R86). -/
def Fmt.nanCode (f : Fmt) : Nat × Flags :=
  match f.kind with
  | 1 => (2 ^ (f.ew + f.mw) - 1, 0#6)
  | 2 => if f.mw = 0 then (0, fNV) else ((2 ^ f.ew - 1) * 2 ^ f.mw + 2 ^ (f.mw - 1), 0#6)
  | 3 => (2 ^ (f.ew + f.mw), 0#6)
  | _ => (0, fNV)

/-- Overflow by the mode and the sign (R82, R86): the code and its flags. -/
def Fmt.overflow (f : Fmt) (mode : RMode) (neg : Bool) : Nat × Flags :=
  if f.kind = 2 then
    let toMax := match mode with
      | .rtz => true
      | .rdn => !neg
      | .rup => neg
      | _ => false
    (f.code neg (if toMax then f.maxMag else f.maxMag + 1), fOF ||| fNX)
  else (f.code neg f.maxMag, fNS ||| fNX)

/-- A finite nonzero magnitude is tiny after rounding (R82, R87). -/
def Fmt.tiny (f : Fmt) (mode : RMode) (neg : Bool) (m : Nat) (e : Int) (sticky : Bool) : Bool :=
  let l := (Nat.log2 m : Int) + e
  if f.ew = 0 then true
  else if l + 1 < 1 - f.bias then true
  else if l + 1 = 1 - f.bias then (roundTo mode neg m e sticky (l - f.mw)).1 < 2 ^ (f.mw + 1)
  else false

/-- Round a number into a format: its code and the flags (R81, R82, R86, R87). `sticky` as in `roundTo`. -/
def Fmt.roundS (f : Fmt) (mode : RMode) (x : Num) (sticky : Bool) : Nat × Flags :=
  match x with
  | .nan _ => f.nanCode
  | .inf neg => if f.kind = 2 then (f.code neg (f.maxMag + 1), 0#6) else (f.code neg f.maxMag, fNS ||| fNX)
  | .fin neg m e =>
    if m = 0 then (f.code neg 0, 0#6)
    else
      let q := Max.max ((Nat.log2 m : Int) + e - f.mw) f.qmin
      let r := roundTo mode neg m e sticky q
      let mag := (q - f.qmin).toNat * 2 ^ f.mw + r.1
      let uf := fIf (f.tiny mode neg m e sticky)
      if mag > f.maxMag then
        ((f.overflow mode neg).1, (f.overflow mode neg).2 ||| uf fUF)
      else (f.code neg mag, fIf r.2 (fNX ||| uf fUF))

/-- Round an exact number (R81). -/
def Fmt.round (f : Fmt) (mode : RMode) (x : Num) : Nat × Flags := f.roundS mode x false

/-- A signalling NaN operand raises NV (R79). -/
def Num.sig (x : Num) : Flags := match x with | .nan true => fNV | _ => 0#6
def Num.isNan (x : Num) : Bool := match x with | .nan _ => true | _ => false
def Num.neg (x : Num) : Num :=
  match x with
  | .nan s => .nan s
  | .inf n => .inf (!n)
  | .fin n m e => .fin (!n) m e

/-- The signed integer m * 2^(e - q) of a finite number, for q not above e. -/
def scaled (neg : Bool) (m : Nat) (e q : Int) : Int :=
  if neg then -((m * pow2 (e - q) : Nat) : Int) else ((m * pow2 (e - q) : Nat) : Int)

/-- Exact sum, with the sign of an exact zero by the mode (R81), and NV for an invalid sum. -/
def Num.add (mode : RMode) (x y : Num) : Num × Flags :=
  match x, y with
  | .nan s, .nan t => (.nan false, fIf (s || t) fNV)
  | .nan s, _ => (.nan false, fIf s fNV)
  | _, .nan t => (.nan false, fIf t fNV)
  | .inf a, .inf b => if a = b then (.inf a, 0#6) else (.nan false, fNV)
  | .inf a, .fin _ _ _ => (.inf a, 0#6)
  | .fin _ _ _, .inf b => (.inf b, 0#6)
  | .fin a m e, .fin b n f =>
    let q := Min.min e f
    let s := scaled a m e q + scaled b n f q
    if s = 0 then (.fin (if m = 0 && n = 0 && a = b then a else mode = .rdn) 0 q, 0#6)
    else (.fin (s < 0) s.natAbs q, 0#6)

/-- Exact product, and NV for an invalid one (R122). -/
def Num.mul (x y : Num) : Num × Flags :=
  match x, y with
  | .nan s, .nan t => (.nan false, fIf (s || t) fNV)
  | .nan s, _ => (.nan false, fIf s fNV)
  | _, .nan t => (.nan false, fIf t fNV)
  | .inf a, .inf b => (.inf (a != b), 0#6)
  | .inf a, .fin b n _ => if n = 0 then (.nan false, fNV) else (.inf (a != b), 0#6)
  | .fin a m _, .inf b => if m = 0 then (.nan false, fNV) else (.inf (a != b), 0#6)
  | .fin a m e, .fin b n f => (.fin (a != b) (m * n) (e + f), 0#6)

/-- Quotient with its sticky bit, and NV or DZ (R122). -/
def Num.div (x y : Num) : Num × Bool × Flags :=
  match x, y with
  | .nan s, .nan t => (.nan false, false, fIf (s || t) fNV)
  | .nan s, _ => (.nan false, false, fIf s fNV)
  | _, .nan t => (.nan false, false, fIf t fNV)
  | .inf _, .inf _ => (.nan false, false, fNV)
  | .inf a, .fin b _ _ => (.inf (a != b), false, 0#6)
  | .fin a _ _, .inf b => (.fin (a != b) 0 0, false, 0#6)
  | .fin a m e, .fin b n f =>
    if n = 0 then if m = 0 then (.nan false, false, fNV) else (.inf (a != b), false, fDZ)
    else (.fin (a != b) (m * 2 ^ 130 / n) (e - f - 130), m * 2 ^ 130 % n ≠ 0, 0#6)

/-- The integer square root, bit by bit from bit `b - 1` down. -/
def isqrtFrom (b r n : Nat) : Nat :=
  match b with
  | 0 => r
  | b + 1 => isqrtFrom b (if (r + 2 ^ b) * (r + 2 ^ b) ≤ n then r + 2 ^ b else r) n
def isqrt (n : Nat) : Nat := isqrtFrom (Nat.log2 n / 2 + 1) 0 n

/-- Square root with its sticky bit (R125, R132). -/
def Num.sqrt (x : Num) : Num × Bool × Flags :=
  match x with
  | .nan s => (.nan false, false, fIf s fNV)
  | .inf neg => if neg then (.nan false, false, fNV) else (.inf false, false, 0#6)
  | .fin neg m e =>
    if m = 0 then (.fin neg 0 0, false, 0#6)
    else if neg then (.nan false, false, fNV)
    else
      let k : Nat := if (e % 2 = 0) then 130 else 131
      let m' := m * 2 ^ k
      let r := isqrt m'
      (.fin false r ((e - k) / 2), r * r ≠ m', 0#6)

/-- Reciprocal square root with its sticky bit (R132). -/
def Num.rsqrt (x : Num) : Num × Bool × Flags :=
  match x with
  | .nan s => (.nan false, false, fIf s fNV)
  | .inf neg => if neg then (.nan false, false, fNV) else (.fin false 0 0, false, 0#6)
  | .fin neg m e =>
    if m = 0 then (.inf neg, false, fDZ)
    else if neg then (.nan false, false, fNV)
    else
      let k : Nat := if (e % 2 = 0) then 240 else 241
      let r := isqrt (2 ^ k / m)
      (.fin false r (-((k : Int) + e) / 2), r * r * m ≠ 2 ^ k, 0#6)

/-- Order of two numbers that are no NaN: negative, zero or positive as x is below, equal to or above y; zeros are equal. -/
def Num.cmp (x y : Num) : Int :=
  match x, y with
  | .inf a, .inf b => if a = b then 0 else if a then -1 else 1
  | .inf a, _ => if a then -1 else 1
  | _, .inf b => if b then 1 else -1
  | .fin a m e, .fin b n f => scaled a m e (Min.min e f) - scaled b n f (Min.min e f)
  | _, _ => 0

def Num.isNeg (x : Num) : Bool := match x with | .nan _ => false | .inf n => n | .fin n _ _ => n

/-- x ranks below y, with -0 below +0 (R123). -/
def Num.below (x y : Num) : Bool :=
  if Num.cmp x y = 0 then x.isNeg && !y.isNeg else decide (Num.cmp x y < 0)

/-- Round a number to an integer (R84): the magnitude and whether it is inexact. -/
def roundInt (mode : RMode) (neg : Bool) (m : Nat) (e : Int) : Nat × Bool := roundTo mode neg m e false 0

/-- Float to integer by R84, into the range lo to hi. -/
def Num.toInt (mode : RMode) (x : Num) (lo hi : Int) : Int × Flags :=
  match x with
  | .nan _ => (0, fNV)
  | .inf neg => (if neg then lo else hi, fNV)
  | .fin neg m e =>
    let r := roundInt mode neg m e
    let v : Int := if neg then -(r.1 : Int) else (r.1 : Int)
    if v < lo then (lo, fNV) else if hi < v then (hi, fNV) else (v, fIf r.2 fNX)

/-- An integer as a number. -/
def Num.ofInt (v : Int) : Num := .fin (v < 0) v.natAbs 0

/-- The class mask of R126. -/
def Fmt.classOf (f : Fmt) (bits : Nat) : Nat :=
  match f.decode bits with
  | .nan s => if s then 256 else 512
  | .inf neg => if neg then 1 else 128
  | .fin neg m _ =>
    if m = 0 then if neg then 8 else 16
    else if m < 2 ^ f.mw then if neg then 4 else 32
    else if neg then 2 else 64

/-- A rounded result as bits of its container. -/
def pack (w : Nat) (r : Nat × Flags) : BitVec w × Flags := (BitVec.ofNat w r.1, r.2)

/-- a + b rounded (R122, R127, R129). -/
def Fmt.fadd (f : Fmt) (mode : RMode) (a b : Nat) : Nat × Flags :=
  let s := (f.decode a).add mode (f.decode b)
  let r := f.round mode s.1
  (r.1, s.2 ||| r.2)

/-- a - b rounded. -/
def Fmt.fsub (f : Fmt) (mode : RMode) (a b : Nat) : Nat × Flags :=
  let s := (f.decode a).add mode (f.decode b).neg
  let r := f.round mode s.1
  (r.1, s.2 ||| r.2)

/-- a * b rounded. -/
def Fmt.fmul (f : Fmt) (mode : RMode) (a b : Nat) : Nat × Flags :=
  let s := (f.decode a).mul (f.decode b)
  let r := f.round mode s.1
  (r.1, s.2 ||| r.2)

/-- a * b + d with one rounding (R122, R127, R129): 0 times infinity raises NV whatever d holds. -/
def Fmt.ffma (f : Fmt) (mode : RMode) (a b d : Nat) : Nat × Flags :=
  let p := (f.decode a).mul (f.decode b)
  let s := p.1.add mode (f.decode d)
  let r := f.round mode s.1
  (r.1, p.2 ||| s.2 ||| r.2)

/-- a / b correctly rounded (R122, R134). -/
def Fmt.fdiv (f : Fmt) (mode : RMode) (a b : Nat) : Nat × Flags :=
  let q := (f.decode a).div (f.decode b)
  let r := f.roundS mode q.1 q.2.1
  (r.1, q.2.2 ||| r.2)

/-- The square root, correctly rounded (R125, R132). -/
def Fmt.fsqrt (f : Fmt) (mode : RMode) (a : Nat) : Nat × Flags :=
  let q := (f.decode a).sqrt
  let r := f.roundS mode q.1 q.2.1
  (r.1, q.2.2 ||| r.2)

/-- The reciprocal square root, correctly rounded (R132). -/
def Fmt.frsqrt (f : Fmt) (mode : RMode) (a : Nat) : Nat × Flags :=
  let q := (f.decode a).rsqrt
  let r := f.roundS mode q.1 q.2.1
  (r.1, q.2.2 ||| r.2)

/-- Minimum (or maximum, with `top`) by R123. -/
def Fmt.fminmax (f : Fmt) (top : Bool) (a b : Nat) : Nat × Flags :=
  let x := f.decode a
  let y := f.decode b
  let fl := x.sig ||| y.sig
  if x.isNan && y.isNan then (f.nanCode.1, fl)
  else if x.isNan then (b, fl)
  else if y.isNan then (a, fl)
  else if top then (if Num.below x y then b else a, fl) else (if Num.below y x then b else a, fl)

/-- a = b, with NV for a signalling NaN (R124). -/
def Fmt.feq (f : Fmt) (a b : Nat) : Bool × Flags :=
  let x := f.decode a
  let y := f.decode b
  (!x.isNan && !y.isNan && decide (Num.cmp x y = 0), x.sig ||| y.sig)

/-- a < b (or a ≤ b, with `orEq`), with NV for any NaN (R124). -/
def Fmt.flt (f : Fmt) (orEq : Bool) (a b : Nat) : Bool × Flags :=
  let x := f.decode a
  let y := f.decode b
  if x.isNan || y.isNan then (false, fNV)
  else (if orEq then decide (Num.cmp x y ≤ 0) else decide (Num.cmp x y < 0), 0#6)

/-- Conversion between two formats (R84): NV for a signalling NaN, then one rounding. -/
def Fmt.convert (src dst : Fmt) (mode : RMode) (a : Nat) : Nat × Flags :=
  let x := src.decode a
  let r := dst.round mode x
  (r.1, x.sig ||| r.2)

/-- Integer to float (R84). -/
def Fmt.ofInt (f : Fmt) (mode : RMode) (v : Int) : Nat × Flags := f.round mode (Num.ofInt v)

/-- Round a binary32 value to a binary32 integer, keeping the sign of a zero (R130). -/
def rint32 (mode : RMode) (a : Nat) : Nat × Flags :=
  match binary32.decode a with
  | .nan s => (binary32.nanCode.1, fIf s fNV)
  | .inf _ => (a, 0#6)
  | .fin neg m e =>
    let r := roundInt mode neg m e
    ((binary32.round .rne (.fin neg r.1 0)).1, fIf r.2 fNX)

def Num.isInfOf (neg : Bool) (x : Num) : Bool := match x with | .inf n => n == neg | _ => false

/-- The exact sum of terms in any order, with NV where infinities of both signs are among them (R135). -/
def sumTerms (mode : RMode) (ts : List Num) : Num × Flags :=
  let pos := ts.any (Num.isInfOf false)
  let neg := ts.any (Num.isInfOf true)
  if pos && neg then (.nan false, fNV)
  else if ts.any Num.isNan then (.nan false, 0#6)
  else if pos || neg then (.inf neg, 0#6)
  else
    match ts with
    | [] => (.fin false 0 0, 0#6)
    | x :: xs => (xs.foldl (fun acc y => (acc.add mode y).1) x, 0#6)

/-- Exact sum of a binary32 value and the products of element pairs, rounded once (R135, R139). -/
def dot32 (mode : RMode) (d : Nat) (pairs : List (Num × Num)) : Nat × Flags :=
  let x := binary32.decode d
  let ms := pairs.map (fun p => p.1.mul p.2)
  let s := sumTerms mode (x :: ms.map (fun m => m.1))
  let r := binary32.round mode s.1
  (r.1, ms.foldl (fun fl m => fl ||| m.2) x.sig ||| s.2 ||| r.2)

/-! ## Number-format registers and packed elements (R38, R89, R137) -/

/-- The format that an nf register describes, and its width; none where R38 raises FORMAT. -/
def nfFmt (r : Lane) : Option (Fmt × Nat) :=
  let ew := (r.extractLsb' 0 4).toNat
  let mw := (r.extractLsb' 4 4).toNat
  let bias := (r.extractLsb' 8 8).toInt
  let spec := (r.extractLsb' 16 4).toNat
  let width := (r.extractLsb' 20 4).toNat
  if ew ≤ 6 ∧ mw ≤ 7 ∧ spec ≤ 3 ∧ width = 1 + ew + mw ∧ (width = 4 ∨ width = 6 ∨ width = 8) ∧ r.extractLsb' 24 8 = 0#8
  then some (⟨ew, mw, bias, spec⟩, width) else none

/-- Elements a lane holds (R89). -/
def perLane (width : Nat) : Nat := if width = 4 then 8 else if width = 6 then 5 else if width = 8 then 4 else 2

/-- Element `j` of a packed lane (R89). -/
def elem (width : Nat) (x : Lane) (j : Nat) : Nat := x.toNat / 2 ^ (width * j) % 2 ^ width

/-- A lane of packed elements, unoccupied bits zero (R89). -/
def packElems (width : Nat) (es : List Nat) : Lane :=
  BitVec.ofNat 32 (es.foldr (fun e acc => e % 2 ^ width + 2 ^ width * acc) 0)

/-- All elements of a lane. -/
def elems (width : Nat) (x : Lane) : List Nat := (List.range (perLane width)).map (elem width x)

/-- Apply an operation to the element pairs of two packed lanes (R138). -/
def nfMap2 (width : Nat) (op : Nat → Nat → Nat × Flags) (a b : Lane) : Lane × Flags :=
  let rs := (List.range (perLane width)).map (fun j => op (elem width a j) (elem width b j))
  (packElems width (rs.map (fun r => r.1)), rs.foldl (fun fl r => fl ||| r.2) 0#6)

/-- An operation on NaN codes raises NV (R138). -/
def nfNaN (f : Fmt) (a b : Nat) : Flags := fIf ((f.decode a).isNan || (f.decode b).isNan) fNV

def nfAdd (f : Fmt) (width : Nat) (mode : RMode) (a b : Lane) : Lane × Flags :=
  nfMap2 width (fun x y => ((f.fadd mode x y).1, (f.fadd mode x y).2 ||| nfNaN f x y)) a b

def nfMul (f : Fmt) (width : Nat) (mode : RMode) (a b : Lane) : Lane × Flags :=
  nfMap2 width (fun x y => ((f.fmul mode x y).1, (f.fmul mode x y).2 ||| nfNaN f x y)) a b

/-- `vndot` of one lane (R139): a NaN element raises NV. -/
def nfDot (f : Fmt) (width : Nat) (mode : RMode) (a b d : Lane) : Lane × Flags :=
  let js := List.range (perLane width)
  let r := dot32 mode d.toNat (js.map (fun j => (f.decode (elem width a j), f.decode (elem width b j))))
  let nan := js.any (fun j => (f.decode (elem width a j)).isNan || (f.decode (elem width b j)).isNan)
  (BitVec.ofNat 32 r.1, r.2 ||| fIf nan fNV)

/-- Replace element `j` of a packed lane; unoccupied bits become zero (R140). -/
def putElem (width : Nat) (x : Lane) (j v : Nat) : Lane :=
  packElems width ((elems width x).mapIdx (fun k e => if k = j then v else e))

/-! ## Special functions (R132, R133) -/

/-- A lane result with flags from a rounded pair. -/
def lane32 (r : Nat × Flags) : Lane × Flags := pack 32 r

def posInf32 : Lane := 0x7F800000#32
def negInf32 : Lane := 0xFF800000#32
def nan32 : Lane := 0x7FC00000#32
def one32 : Lane := 0x3F800000#32
def maxFin32 : Lane := 0x7F7FFFFF#32

/-! ## The exact values that a bound is about (R132, R164), in fixed point

A real y stands as the integer nearest below y * 2^512, and every function below is off by less than 2^-310 of a binary32 ulp of its result, or, close below 1, by too little to move a binary32
value across a bound. -/

def fxOne : Int := 2 ^ 512
def fxMul (a b : Int) : Int := a * b / fxOne
def fxDiv (a b : Int) : Int := a * fxOne / b
/-- The value m * 2^e of a finite number, with its sign. -/
def fxOf (neg : Bool) (m : Nat) (e : Int) : Int :=
  let v : Int := if 0 ≤ e + 512 then m * 2 ^ (e + 512).toNat else m / 2 ^ (-(e + 512)).toNat
  if neg then -v else v
def fxScale (x k : Int) : Int := if 0 ≤ k then x * 2 ^ k.toNat else x / 2 ^ (-k).toNat

/-- The sum of t, t * g n, t * g n * g (n + 1), …: a power series by the ratio of its terms; `fuel` bounds the terms. -/
def fxSeries (fuel n : Nat) (g : Nat → Int → Int) (t acc : Int) : Int :=
  match fuel with
  | 0 => acc
  | fuel + 1 => if t = 0 then acc else fxSeries fuel (n + 1) g (g n t) (acc + t)

/-- The sum of s * p / (2 k + 1) over k, with p = z, z q, z q^2, …: artanh and arctan; `fuel` bounds the terms. -/
def fxArc (fuel k : Nat) (q p acc : Int) : Int :=
  match fuel with
  | 0 => acc
  | fuel + 1 => if p = 0 then acc else fxArc fuel (k + 1) q (fxMul p q) (acc + p / (2 * k + 1))

def fxArtanh (z : Int) : Int := fxArc 400 0 (fxMul z z) z 0
def fxArctan (z : Int) : Int := fxArc 400 0 (-(fxMul z z)) z 0
def fxLn2 : Int := 2 * fxArtanh (fxOne / 3)
def fxPi : Int := 4 * (4 * fxArctan (fxOne / 5) - fxArctan (fxOne / 239))

/-- e^x for |x| below 2^10. -/
def fxExp (x : Int) : Int :=
  let k := (x + fxLn2 / 2) / fxLn2
  let r := x - k * fxLn2
  fxScale (fxSeries 200 1 (fun n t => fxMul t r / n) fxOne 0) k

/-- ln of m * 2^e, for m from 1 to below 2. -/
def fxLn (m e : Int) : Int := 2 * fxArtanh (fxDiv (m - fxOne) (m + fxOne)) + e * fxLn2

def fxReduce (x : Int) : Int :=
  let p := 2 * fxPi
  x - (x + fxPi) / p * p
def fxSin (x : Int) : Int :=
  let r := fxReduce x
  fxSeries 300 1 (fun n t => -(fxMul (fxMul t r) r / (2 * n * (2 * n + 1)))) r 0
def fxCos (x : Int) : Int :=
  let r := fxReduce x
  fxSeries 300 1 (fun n t => -(fxMul (fxMul t r) r / (2 * n * (2 * n - 1)))) fxOne 0

/-- A value below 1 that the fixed point may round up to 1. -/
def fxBelowOne (y : Int) : Int := Min.min y (fxOne - 1)

/-- 1 / (1 + e^-x), which is below 1. -/
def fxSigm (x : Int) : Int :=
  if x < -400 * fxOne then 0 else if 400 * fxOne < x then fxOne - 1 else fxBelowOne (fxDiv fxOne (fxOne + fxExp (-x)))
def fxTanhPos (x : Int) : Int :=
  if 200 * fxOne < x then fxOne - 1
  else
    let t := fxExp (2 * x)
    fxBelowOne (fxDiv (t - fxOne) (t + fxOne))
def fxErfPos (x : Int) : Int :=
  if 9 * fxOne < x then fxOne - 1
  else
    let c := fxDiv (2 * fxOne) (isqrt (fxPi * fxOne).toNat)
    fxBelowOne (fxMul c (fxSeries 900 1 (fun n t => -(fxMul (fxMul t x) x * (2 * n - 1) / (n * (2 * n + 1)))) x 0))
/-- An odd function by its values at positive arguments. -/
def fxOdd (f : Int → Int) (x : Int) : Int := if x < 0 then -(f (-x)) else f x

/-- The function of R132 by SUB, at a finite argument that is no special input. -/
def fxSpecial (sub : Nat) (neg : Bool) (m : Nat) (e : Int) : Int :=
  let x := fxOf neg m e
  let l := Nat.log2 m
  match sub with
  | 3 => if x < -400 * fxOne then 0 else fxExp (fxMul x fxLn2)
  | 4 => fxDiv (fxLn (fxOf false m (-(l : Int))) (l + e)) fxLn2
  | 5 => if x < -400 * fxOne then 0 else fxExp x
  | 6 => fxLn (fxOf false m (-(l : Int))) (l + e)
  | 7 => fxSin x
  | 8 => fxCos x
  | 9 => fxOdd fxTanhPos x
  | 10 => fxSigm x
  | _ => fxOdd fxErfPos x

/-- The activations 2 and 3 of R164 at a finite argument. -/
def fxActivation (code : Nat) (neg : Bool) (m : Nat) (e : Int) : Int :=
  let v := fxOf neg m e
  if code = 2 then
    let c := isqrt (fxDiv (2 * fxOne) fxPi * fxOne).toNat
    let u := fxMul c (v + fxMul (fxMul v v) v * 44715 / 1000000)
    fxMul v (fxSigm (2 * u))
  else fxMul v (fxSigm v)

/-- The ulp of R132 of a fixed-point value. -/
def fxUlp (y : Int) : Int := 2 ^ (Max.max ((Nat.log2 y.natAbs : Int) - 512) (-126) - 23 + 512).toNat

/-- A free result, held within `k` ulp of the exact value, up to the 2^-310 ulp of the fixed point (log 37): one that lies outside is the exact value rounded to the nearest. -/
def within (k : Int) (y : Int) (free : Lane) : Lane :=
  match binary32.decode free.toNat with
  | .fin neg m e =>
    if ((fxOf neg m e - y).natAbs : Int) * 2 ^ 310 ≤ (k * 2 ^ 310 + 1) * fxUlp y then free
    else BitVec.ofNat 32 (binary32.round .rne (.fin (decide (y < 0)) y.natAbs (-512))).1
  | _ => BitVec.ofNat 32 (binary32.round .rne (.fin (decide (y < 0)) y.natAbs (-512))).1

/-- The flags of a bounded result (R133): NX, and UF when it is nonzero and below 2^-126. -/
def boundedFlags (r : Lane) : Flags :=
  fNX ||| fIf (r.extractLsb' 0 31 ≠ 0#31 ∧ r.extractLsb' 23 8 = 0#8) fUF

/-- A free result of a bounded function, held finite: an infinity or NaN pattern is cut to the largest finite value of its
sign (R133: the results below are finite). -/
def freeFinite (f : Nat) (x : Lane) : Lane :=
  let r := Config.special f x
  if r.extractLsb' 23 8 = 0xFF#8 then r.extractLsb' 31 1 ++ maxFin32.extractLsb' 0 31 else r

/-- A free result of magnitude at most 1 (R132). -/
def freeUnit (f : Nat) (x : Lane) : Lane :=
  let r := freeFinite f x
  if one32.extractLsb' 0 31 < r.extractLsb' 0 31 then r.extractLsb' 31 1 ++ one32.extractLsb' 0 31 else r

/-- A free result that is not negative. -/
def freePos (f : Nat) (x : Lane) : Lane := 0#1 ++ (freeFinite f x).extractLsb' 0 31

/-- A free result from 0 to 1 (R132, `vsigm`). -/
def freeUnitPos (f : Nat) (x : Lane) : Lane := 0#1 ++ (freeUnit f x).extractLsb' 0 31

def bounded (r : Lane) : Lane × Flags := (r, boundedFlags r)

/-- The twelve functions of R132 by SUB. The correctly rounded ones use `mode`; the bounded ones are free inside their bounds,
special cases and magnitude limits. -/
def special (sub : Nat) (mode : RMode) (a : Lane) : Lane × Flags :=
  let x := binary32.decode a.toNat
  match sub with
  | 0 => lane32 (binary32.fdiv mode one32.toNat a.toNat)
  | 1 => lane32 (binary32.frsqrt mode a.toNat)
  | 2 => lane32 (binary32.fsqrt mode a.toNat)
  | 3 =>
    match x with
    | .nan s => (nan32, fIf s fNV)
    | .inf neg => (if neg then 0#32 else posInf32, fIf neg fNX)
    | .fin neg m e =>
      let r := roundInt .rtz neg m e
      let v : Int := if neg then -(r.1 : Int) else (r.1 : Int)
      if !r.2 && -149 ≤ v && v ≤ 127 then lane32 (binary32.round .rne (.fin false 1 v))
      else if 0 < m && !neg && 128 ≤ r.1 then (posInf32, fOF ||| fNX)
      else bounded (within 1 (fxSpecial 3 neg m e) (freePos 3 a))
  | 4 =>
    match x with
    | .nan s => (nan32, fIf s fNV)
    | .inf neg => if neg then (nan32, fNV) else (posInf32, 0#6)
    | .fin neg m e =>
      if m = 0 then (negInf32, fDZ)
      else if neg then (nan32, fNV)
      else if 2 ^ Nat.log2 m = m then lane32 (binary32.ofInt .rne ((Nat.log2 m : Int) + e))
      else bounded (within 1 (fxSpecial 4 neg m e) (freeFinite 4 a))
  | 5 =>
    match x with
    | .nan s => (nan32, fIf s fNV)
    | .inf neg => (if neg then 0#32 else posInf32, fIf neg fNX)
    | .fin neg m e =>
      if m = 0 then (one32, 0#6)
      else if !neg && 0x42B17218 ≤ a.toNat then (posInf32, fOF ||| fNX)
      else bounded (within 1 (fxSpecial 5 neg m e) (freePos 5 a))
  | 6 =>
    match x with
    | .nan s => (nan32, fIf s fNV)
    | .inf neg => if neg then (nan32, fNV) else (posInf32, 0#6)
    | .fin neg m e =>
      if m = 0 then (negInf32, fDZ)
      else if neg then (nan32, fNV)
      else if a = one32 then (0#32, 0#6)
      else bounded (within 1 (fxSpecial 6 neg m e) (freeFinite 6 a))
  | 7 =>
    match x with
    | .nan s => (nan32, fIf s fNV)
    | .inf _ => (nan32, fNV)
    | .fin neg m e => if m = 0 then (a, 0#6) else bounded (within 2 (fxSpecial 7 neg m e) (freeUnit 7 a))
  | 8 =>
    match x with
    | .nan s => (nan32, fIf s fNV)
    | .inf _ => (nan32, fNV)
    | .fin neg m e => if m = 0 then (one32, 0#6) else bounded (within 2 (fxSpecial 8 neg m e) (freeUnit 8 a))
  | 9 =>
    match x with
    | .nan s => (nan32, fIf s fNV)
    | .inf neg => (BitVec.ofBool neg ++ one32.extractLsb' 0 31, 0#6)
    | .fin neg m e => if m = 0 then (a, 0#6) else bounded (within 2 (fxSpecial 9 neg m e) (freeUnit 9 a))
  | 10 =>
    match x with
    | .nan s => (nan32, fIf s fNV)
    | .inf neg => (if neg then 0#32 else one32, fNX)
    | .fin neg m e => if m = 0 then (0x3F000000#32, 0#6) else bounded (within 2 (fxSpecial 10 neg m e) (freeUnitPos 10 a))
  | _ =>
    match x with
    | .nan s => (nan32, fIf s fNV)
    | .inf neg => (BitVec.ofBool neg ++ one32.extractLsb' 0 31, 0#6)
    | .fin neg m e => if m = 0 then (a, 0#6) else bounded (within 2 (fxSpecial 11 neg m e) (freeUnit 11 a))

end Sys2Proof.Machine
end

