-- ==== Sys2Proof/Machine/Rgu.lean ====
section
/-! DEFINITION. The Region Graph Unit (R228 to R242): marks, edges, aborts, commits, and how plain accesses meet regions. -/

namespace Sys2Proof.Machine

def State.region? (s : State) (id : Nat) : Option Region := s.regions.find? (fun r => r.id = id)
def State.putRegion (s : State) (r : Region) : State :=
  { s with regions := (s.regions.filter (fun q => q.id < r.id)) ++ [r] ++ (s.regions.filter (fun q => r.id < q.id)) }

/-- Drop a region from the unit and its edges from the others (R241). -/
def State.releaseRegion (s : State) (id : Nat) : State :=
  let left := s.regions.filter (fun q => q.id != id)
  { s with regions := left.map (fun q => { q with preds := q.preds.filter (fun p => p.1 != id) }) }

def Region.active (r : Region) : Bool := r.state == 1

/-- The mark of a region on a word, if it has the word bound. -/
def Region.mark? (r : Region) (w : Nat) : Option WMark := (r.marks.find? (fun m => m.1 = w)).map (fun m => m.2)
def Region.setMark (r : Region) (w : Nat) (m : WMark) : Region :=
  { r with marks := r.marks.map (fun e => if e.1 = w then (w, m) else e) }

/-- Forget marks and edges of an aborted region (R237). -/
def Region.clear (r : Region) (status : Nat) : Region :=
  { r with
    state := 2
    status := status
    marks := r.marks.map (fun e => (e.1, { e.2 with read := false, dirty := false }))
    reports := []
    preds := []
    binding := none }

/-- Abort an active region, and by SOURCE (2) every region that took a forward from it (R236, R237); a cascade meets each region once, which
bounds `fuel`. -/
def State.abortFuel (s : State) (fuel id status : Nat) : State :=
  match fuel with
  | 0 => s
  | fuel + 1 =>
    match s.region? id with
    | none => s
    | some r =>
      if !r.active then s
      else
        let takers := (s.regions.filter (fun q => q.active && q.preds.contains (id, true))).map (fun q => q.id)
        let s1 := s.putRegion (r.clear status)
        let s2 := { s1 with regions := s1.regions.map (fun q => { q with preds := q.preds.filter (fun p => p.1 != id) }) }
        takers.foldl (fun s t => State.abortFuel s fuel t 2) s2

def State.abortRegion (s : State) (id status : Nat) : State := s.abortFuel (s.regions.length + 1) id status

/-- The regions before any of `ids`, directly or through others: `fuel` rounds of taking predecessors. -/
def State.ancestors (s : State) (fuel : Nat) (ids : List Nat) : List Nat :=
  match fuel with
  | 0 => ids
  | fuel + 1 =>
    let more := (s.regions.filter (fun q => ids.contains q.id)).flatMap (fun q => q.preds.map (fun p => p.1))
    State.ancestors s fuel (ids ++ (more.filter (fun m => !ids.contains m)).eraseDups)

/-- Region `a` is `b` or stands before it. -/
def State.before (s : State) (a b : Nat) : Bool := (s.ancestors s.regions.length [b]).contains a

/-- Break the cycles that the edge x to y closes: abort the youngest region of the cycle with CYCLE (R234). Every abort takes a region out,
which bounds `fuel`. -/
def State.breakCycles (s : State) (fuel x y : Nat) : State :=
  match fuel with
  | 0 => s
  | fuel + 1 =>
    if s.before y x then
      let ring := s.regions.filter (fun q => s.before y q.id && s.before q.id x)
      let young := ring.foldl (fun (best : Option Region) q =>
        match best with
        | none => some q
        | some b => if b.stamp < q.stamp then some q else some b) none
      match young with
      | none => s
      | some q =>
        let s1 := s.abortRegion q.id 1
        if q.id = x ∨ q.id = y then s1 else State.breakCycles s1 fuel x y
    else s

/-- A region that the unit holds active. -/
def State.activeRegion (s : State) (id : Nat) : Bool := s.regions.any (fun r => r.id == id && r.active)

/-- Record the edge x to y between two active regions: x is ordered before y (R234). An edge from a region to itself is never recorded, and
a second edge between the same two adds nothing unless it is a forward. -/
def State.addEdge (s : State) (x y : Nat) (fwd : Bool) : State :=
  if x = y ∨ !(s.activeRegion x) ∨ !(s.activeRegion y) then s
  else
    match s.region? y with
    | none => s
    | some r =>
      if r.preds.contains (x, true) || r.preds.contains (x, fwd) then s
      else
        let s1 := s.putRegion { r with preds := r.preds ++ [(x, fwd)] }
        s1.breakCycles (s.regions.length + 1) x y

/-- Regions in the longest chain of forwards that starts at a region (R232). -/
def State.height (s : State) (fuel id : Nat) : Nat :=
  match fuel with
  | 0 => 1
  | fuel + 1 =>
    1 + ((s.regions.filter (fun q => q.active && q.preds.contains (id, true))).map (fun q => State.height s fuel q.id)).foldl Max.max 0

/-- The depth of a region has become `d`: those that took a forward from it are deeper by one (R232). -/
def State.deepen (s : State) (fuel id d : Nat) : State :=
  match fuel with
  | 0 => s
  | fuel + 1 =>
    match s.region? id with
    | none => s
    | some r =>
      let s1 := s.putRegion { r with depth := Max.max r.depth d }
      ((s.regions.filter (fun q => q.active && q.preds.contains (id, true))).map (fun q => q.id)).foldl (fun s q => State.deepen s fuel q (d + 1)) s1

/-- The home takes one report of a bit setting of region `id` on word `w` (R233, R234). -/
def State.takeReport (s : State) (id w : Nat) (write : Bool) : State :=
  match s.region? id with
  | none => s
  | some r =>
    match r.active, r.mark? w with
    | true, some m =>
      let first := if write then !m.dirty else !m.read
      if !first then s
      else
        let m' := if write then { m with dirty := true, dirtyAt := s.rgnSeq } else { m with read := true }
        let s1 := { s.putRegion (r.setMark w m') with rgnSeq := s.rgnSeq + 1 }
        let rivals := s1.regions.filter (fun q => q.active && q.id != id)
        if write then
          rivals.foldl (fun s q =>
            match q.mark? w with
            | none => s
            | some n =>
              let s' := if n.read then s.addEdge q.id id false else s
              if n.dirty then s'.addEdge q.id id false else s') s1
        else
          rivals.foldl (fun s q =>
            match q.mark? w with
            | none => s
            | some n =>
              if n.dirty && (m.boundAt < n.dirtyAt || m.priors.contains q.id) then s.addEdge id q.id false else s) s1
    | _, _ => s

/-- Take every report of a region that is still on its way (R233: a first read waits for its acknowledgement). -/
def State.takeReports (s : State) (id : Nat) : State :=
  match s.region? id with
  | none => s
  | some r => r.reports.foldl (fun s e => s.takeReport id e.1 e.2) (s.putRegion { r with reports := [] })

/-- The words of a region whose copy lies at an LM offset: two ranges of one region may share LM (R230). -/
def Region.wordsAt (r : Region) (off : Nat) : List Nat :=
  (r.pieces.filter (fun p => p.lm ≤ off ∧ off < p.lm + p.len)).map (fun p => (p.fpa + (off - p.lm)) / 4)

/-- A bit setting of a region on a word: its report starts, and a first read waits for its acknowledgement (R233). -/
def State.markWord (s : State) (id w : Nat) (write : Bool) : State :=
  match s.region? id with
  | none => s
  | some r =>
    match r.active, r.mark? w with
    | true, some m =>
      if (if write then m.dirty else m.read) || r.reports.contains (w, write) then s
      else
        let s1 := s.putRegion { r with reports := r.reports ++ [(w, write)] }
        if write then s1 else s1.takeReports id
    | _, _ => s

/-- An LM event on the 4-byte word at `off` of a core marks every active region that has it as a copy (R233). -/
def State.lmEvent (s : State) (core off : Nat) (write : Bool) : State :=
  (s.regions.filter (fun r => r.active && r.core = core)).foldl (fun s r => (r.wordsAt off).foldl (fun s w => s.markWord r.id w write) s) s

/-- The words of 4 bytes that a span touches. -/
def wordsOf (a n : Nat) : List Nat := if n = 0 then [] else (List.range ((a + n - 1) / 4 - a / 4 + 1)).map (fun k => a / 4 + k)

/-- The LM events of an engine on every word of a span (R187, R233). -/
def State.lmTouch (s : State) (core off n : Nat) (write : Bool) : State :=
  if s.regions.isEmpty then s else (wordsOf off n).foldl (fun s w => s.lmEvent core (4 * w) write) s

/-- A plain store or atomic to a span aborts, with INTERFERE, every region with a bit set on a word of it (R238). -/
def State.interfere (s : State) (a n : Nat) : State :=
  if s.regions.isEmpty then s
  else
    (wordsOf a n).foldl (fun s w =>
      let hit := s.regions.filter (fun r => r.active &&
        (match r.mark? w with | some m => m.read || m.dirty || r.reports.contains (w, true) | none => false))
      hit.foldl (fun s r => s.abortRegion r.id 4) s) s

/-- Refresh the copies of a span in every active region that has its words bound with both bits clear (R235, R238). -/
def State.refresh (s : State) (a n : Nat) : State :=
  if s.regions.isEmpty then s
  else
    (wordsOf a n).foldl (fun s w =>
      s.regions.foldl (fun s r =>
        match r.active, r.mark? w, r.pieces.find? (fun p => p.fpa ≤ 4 * w ∧ 4 * w < p.fpa + p.len) with
        | true, some m, some p =>
          if m.read || m.dirty || r.reports.contains (w, true) then s else s.lmWrite r.core (p.lm + (4 * w - p.fpa)) (s.readBytes (4 * w) 4)
        | _, _, _ => s) s) s

/-- The regions that must settle before `id` commits (R235). -/
def Region.waits (r : Region) : Bool := !r.preds.isEmpty

/-- The dirty words of a region with the LM offset of each copy. -/
def Region.dirtyWords (r : Region) : List (Nat × Nat) :=
  r.marks.filterMap (fun e =>
    if e.2.dirty then
      (r.pieces.find? (fun p => p.fpa ≤ 4 * e.1 ∧ 4 * e.1 < p.fpa + p.len)).map (fun p => (e.1, p.lm + (4 * e.1 - p.fpa)))
    else none)

/-- The status word of a region (R242). -/
def Region.word (r : Region) (state : Nat) : Word :=
  let waitp := if state = 1 ∧ r.waits then 1 else 0
  let status := if state = 1 then 0 else r.status
  BitVec.ofNat 64 (r.retry * 2 ^ 32 + r.id * 2 ^ 16 + r.depth * 2 ^ 6 + waitp * 2 ^ 5 + state * 2 ^ 3 + status)

/-- The senior region has the smallest begin stamp of the active, aborted and retained ones (R241). -/
def State.isSenior (s : State) (stamp : Nat) : Bool := s.regions.all (fun q => q.state == 4 || decide (stamp ≤ q.stamp))

/-- A region open for more than 1 ms (R236). -/
def State.overdue (s : State) (r : Region) : Bool := r.active && decide (1000000 < s.nanos - r.since)

/-- The DURATION limit of a region (R236). -/
def State.expireRegion (s : State) (id : Nat) : State :=
  match s.region? id with
  | none => s
  | some r => if s.overdue r then s.abortRegion id 6 else s

/-- The poison that a commit leaves (R365, R366): a word from a poisoned LM sector poisons its home sector; a home sector that is stored
whole from clean words becomes clean. -/
def State.commitPoison (s : State) (core : Nat) (ws : List (Nat × Nat)) : State :=
  let bad := ws.filter (fun e => s.lmPoisonAt core e.2)
  let whole := ws.filter (fun e => e.1 % 8 = 0 && (List.range 8).all (fun k =>
    ws.any (fun f => f.1 = e.1 + k) && !(bad.any (fun f => f.1 = e.1 + k))))
  let s1 := whole.foldl (fun s e => s.setPoison (4 * e.1) false) s
  bad.foldl (fun s e => s.setPoison (4 * e.1) true) s1

end Sys2Proof.Machine
end

