-- ==== Sys2Proof/Machine/Flow.lean ====
section
/-! DEFINITION. Plain writes at their homes, queue headers and their records (R272), and the flow manager's bookkeeping: stage
and flow ends (R274), targets (R277) and draining (R279). -/

namespace Sys2Proof.Machine

/-! ## Plain writes (R181, R198, R238) -/

/-- The lines of 128 bytes that a span touches. -/
def linesOf (a n : Nat) : List Nat := if n = 0 then [] else (List.range ((a + n - 1) / 128 - a / 128 + 1)).map (fun k => a / 128 + k)

/-- The timestamp that a store by an agent with clock `p` asks for (R181). -/
def State.storeStamp (s : State) (p a n : Nat) : Nat :=
  (linesOf a n).foldl (fun w l => Max.max w ((s.line l).rts + 1)) (Max.max p s.floor)

/-- A timestamp that a home grants now: a store waits until it is at most F + LEASE (R181). -/
def State.stampDue (s : State) (w : Nat) : Bool := decide (w ≤ s.floor + s.lease)

/-- Stamp the lines of a span with a write timestamp (R181): a core that held one exclusively has lost it. -/
def State.stampWrite (s : State) (w a n : Nat) : State :=
  (linesOf a n).foldl (fun s l => s.setLine l { s.line l with wts := w, rts := w, excl := none }) s

/-- A core holds the lines of its store exclusively (R181). -/
def State.holdLines (s : State) (core a n : Nat) : State :=
  (linesOf a n).foldl (fun s l => s.setLine l { s.line l with excl := some core }) s

/-- A plain store of bytes at its home with timestamp `w`: regions with marks on its words abort first, then the bytes are
written, whole sectors become clean, the lines are stamped, and unmarked copies are refreshed (R181, R198, R238). -/
def State.plainWrite (s : State) (w a : Nat) (bs : List Byte) : State :=
  let s1 := ((s.interfere a bs.length).memLog a bs).writeBytes a bs
  ((s1.clearWhole a bs.length).stampWrite w a bs.length).refresh a bs.length

/-- Set A, and D for a write, with an atomic OR at the entry's home (R332): an entry that has them is left alone. -/
def State.touch (s : State) (x : Xl) (write : Bool) : State :=
  let p := s.readMem x.addr 8
  let q := p ||| (if write then 0x1800 else 0x800)
  if p = q then s else s.plainWrite (s.storeStamp 0 x.addr 8) x.addr (bytesLE 8 q)

/-! ## Queue headers (R272) -/

structure Hdr where
  head : Nat
  tail : Nat
  cap : Nat
  rsz : Nat
  free : Nat
  flags : Nat
  stage : Nat
  base : Nat
  rest : Bool
  deriving DecidableEq, Repr

/-- Read a header at its home. -/
def State.hdr (s : State) (a : Nat) : Hdr where
  head := s.readMem a 8
  tail := s.readMem (a + 8) 8
  cap := s.readMem (a + 0x10) 4
  rsz := s.readMem (a + 0x14) 4
  free := s.readMem (a + 0x18) 4
  flags := s.readMem (a + 0x1C) 4
  stage := s.readMem (a + 0x20) 8
  base := s.readMem (a + 0x28) 8
  rest := (s.readBytes (a + 0x30) 0x50).all (fun b => b == 0#8)

def Hdr.closed (h : Hdr) : Bool := h.flags % 2 = 1
def Hdr.external (h : Hdr) : Bool := h.flags / 2 % 2 = 1
def Hdr.bound (h : Hdr) : Bool := h.flags / 4 % 2 = 1
/-- TAIL - HEAD, modulo 2^64 as the counters are. -/
def Hdr.occ (h : Hdr) : Nat := (h.tail + 2 ^ 64 - h.head) % 2 ^ 64

/-- CAP, RSZ, BASE and the reserved bits stand as R272 says. -/
def Hdr.ok (h : Hdr) : Bool :=
  0 < h.cap && h.cap ≤ 2 ^ 20 && h.cap == 2 ^ Nat.log2 h.cap
    && (h.rsz == 64 || h.rsz == 128 || h.rsz == 256)
    && h.base % h.rsz == 0
    && h.flags / 8 == 0
    && (BitVec.ofNat 64 h.stage &&& 0xFFFFFFFFFE00FFF8#64) == 0#64
    && h.rest

/-- Where record `j` lies (R272), as a virtual address. -/
def Hdr.slotVa (h : Hdr) (j : Nat) : Nat := h.base + j % h.cap * h.rsz

/-- A write of one field of a header at its home. -/
def State.hdrWrite (s : State) (a off n v : Nat) : State :=
  s.plainWrite (s.storeStamp 0 (a + off) n) (a + off) (bytesLE n v)

/-- A unit's write performs at its home. -/
def State.unitRun (s : State) (u : UnitWrite) : State :=
  match u.act with
  | .free n => s.hdrWrite u.addr 0x18 4 ((s.hdr u.addr).free + n)
  | .bind v => (s.hdrWrite u.addr 0x20 8 v).hdrWrite u.addr 0x1C 4 ((s.hdr u.addr).flags ||| 4)
  | .unbind => s.hdrWrite u.addr 0x1C 4 ((s.hdr u.addr).flags % 4)
  | .put off pts bs => s.plainWrite (s.storeStamp pts (u.addr + off) bs.length) (u.addr + off) bs

/-- The bytes that a unit's write touches, and the clock of its writer. -/
def UnitWrite.span (u : UnitWrite) : Nat × Nat × Nat :=
  match u.act with
  | .put off pts bs => (u.addr + off, bs.length, pts)
  | _ => (u.addr, 64, 0)

/-- A unit's write may perform: nobody holds the line, no open view covers it, and its timestamp is granted (R181, R190, R199). -/
def State.unitDue (s : State) (u : UnitWrite) : Bool :=
  let p := u.span
  s.lineFree none p.1 && !(u.snap && s.inView p.1) && s.stampDue (s.storeStamp p.2.2 p.1 p.2.1)

/-- Perform what a list of waiting writes can, in order at each header; the others wait on. -/
def State.unitsFrom (s : State) (us left : List UnitWrite) : State :=
  match us with
  | [] => { s with units := left }
  | u :: rest =>
    if s.unitDue u && left.all (fun v => v.addr != u.addr) then State.unitsFrom (s.unitRun u) rest left
    else State.unitsFrom s rest (left ++ [u])

/-- The waiting writes of the device's units go on. -/
def State.drainUnits (s : State) : State := s.unitsFrom s.units []

/-- An engine writes bytes of a descriptor through the translation that it keeps (R260, R313): at once, or when the home grants it. -/
def State.putBytes (s : State) (pts a off : Nat) (bs : List Byte) : State :=
  ({ s with units := s.units ++ [UnitWrite.mk a true (.put off pts bs)] } : State).drainUnits

/-- A unit of the device writes into a header: at once, or when its home grants it. -/
def State.hdrAct (s : State) (x : Xl) (act : HdrAct) : State :=
  let t := s.touch x true
  ({ t with units := t.units ++ [UnitWrite.mk x.fpa (pteSnap x.pte) act] } : State).drainUnits

/-- The host is told of something (R273 and others). -/
def State.post (s : State) (e : HostEvent) : State := { s with events := s.events ++ [e] }

/-- The die of a core (R16). -/
def dieOf (core : Nat) : Nat := core / 32

/-- Release `n` popped records of the queue at virtual address `va` (R272): FREE rises, or the release is dropped and the host
receives a queue event. -/
def State.releaseRecords (s : State) (die ctx flow stage : Nat) (va : Word) (n : Nat) : State :=
  if n = 0 then s
  else if !(s.ctxEnabled ctx) then s.post (.queueEvent flow stage va)
  else
    match s.translate die ctx va.toNat .store false with
    | .error _ => s.post (.queueEvent flow stage va)
    | .ok x => s.hdrAct x (.free n)

/-! ## Crews and stages -/

/-- The crew in focus with its wave in its place. -/
def State.focusCrew (s : State) : Crew :=
  if s.wave.status = .absent then s.crew
  else
    let low := s.crew.others.filter (fun w => w.idx < s.wave.idx)
    let high := s.crew.others.filter (fun w => s.wave.idx < w.idx)
    { s.crew with others := low ++ [s.wave] ++ high }

/-- Every crew of the device by handle, each with all its waves in `others`. -/
def State.allCrews (s : State) : List Crew :=
  if s.crew.handle = 0 then s.crews
  else s.crews.filter (fun c => c.handle < s.crew.handle) ++ [s.focusCrew] ++ s.crews.filter (fun c => s.crew.handle < c.handle)

def Crew.live (c : Crew) : Bool := c.state ≠ .ended

/-- The live crews of a stage. -/
def State.stageCrews (s : State) (flow stage : Nat) : List Crew :=
  s.allCrews.filter (fun c => c.live && c.flow = flow && c.stage = stage)

def State.flow? (s : State) (n : Nat) : Option Flow := s.flows.find? (fun f => f.num = n)
def State.putFlow (s : State) (f : Flow) : State :=
  { s with flows := s.flows.filter (fun g => g.num < f.num) ++ [f] ++ s.flows.filter (fun g => f.num < g.num) }

/-- The header of a queue stage, if it can be reached (R275). -/
def State.stageHdr (s : State) (ctx : Nat) (st : Stage) : Option (Nat × Hdr) :=
  match s.translate 0 ctx st.arg.toNat .atomic false with
  | .error _ => none
  | .ok x => if s.anyPoison x.fpa 128 then none else some (x.fpa, s.hdr x.fpa)

/-- The place of that header. -/
def State.stageXl (s : State) (ctx : Nat) (st : Stage) : Option Xl :=
  match s.translate 0 ctx st.arg.toNat .atomic false with
  | .error _ => none
  | .ok x => if s.anyPoison x.fpa 128 then none else some x

/-- Records waiting for a stage, or crews still to form (R277); none where the header cannot be read. -/
def State.occupancy (s : State) (ctx : Nat) (st : Stage) : Nat :=
  if st.ended then 0
  else if st.kind = 2 then st.arg.toNat - st.formed
  else match s.stageHdr ctx st with | some h => h.2.occ | none => 0

/-- A stage has ended (R274, R275). -/
def State.stageDone (s : State) (f : Flow) (i : Nat) (st : Stage) : Bool :=
  (s.stageCrews f.num i).isEmpty &&
    (if st.broken then true
     else if st.kind = 2 then st.formed == st.arg.toNat
     else match s.stageHdr f.ctx st with | some h => h.2.closed && h.2.occ == 0 | none => false)

/-! ## Targets and draining (R277, R279) -/

def State.coreAt (s : State) (n : Nat) : Core := Map.find (fun _ => Core.reset) s.cores n
def State.setCore (s : State) (n : Nat) (c : Core) : State := { s with cores := Map.put (fun _ => Core.reset) s.cores n c }
def State.dieAt (s : State) (n : Nat) : Die := Map.find (fun _ => Die.reset) s.dies n
def State.setDie (s : State) (n : Nat) (d : Die) : State := { s with dies := Map.put (fun _ => Die.reset) s.dies n d }

/-- Cores neither fenced nor held for a test (R270). -/
def State.available (s : State) (core : Nat) : Bool := !(s.coreAt core).fenced && !(s.coreAt core).testing
def State.availableCores (s : State) : Nat := (List.range 256).countP s.available

/-- A stage as the sampling sees it: context, flow and stage index, floor, ceiling, demand and target so far. -/
structure Sample where
  ctx : Nat
  flow : Nat
  idx : Nat
  floor : Nat
  ceil : Nat
  demand : Nat
  target : Nat
  deriving DecidableEq, Repr

/-- a comes before b: the larger quotient d / (t - FLOOR + 1), ties by context, flow, stage (R277). -/
def Sample.first (a b : Sample) : Bool :=
  let l := a.demand * (b.target - b.floor + 1)
  let r := b.demand * (a.target - a.floor + 1)
  if l = r then
    a.ctx < b.ctx || (a.ctx = b.ctx && (a.flow < b.flow || (a.flow = b.flow && a.idx < b.idx)))
  else r < l

/-- Give the spare cores one by one (R277). -/
def giveSpare (spare : Nat) (xs : List Sample) : List Sample :=
  match spare with
  | 0 => xs
  | spare + 1 =>
    let cand := xs.filter (fun x => 0 < x.demand && x.target < x.ceil)
    match cand.foldl (fun (b : Option Sample) x =>
        match b with | none => some x | some y => if x.first y then some x else some y) none with
    | none => xs
    | some p => giveSpare spare (xs.map (fun x => if x.flow = p.flow ∧ x.idx = p.idx then { x with target := x.target + 1 } else x))

/-- Crews of a stage on a core. -/
def State.crewsOn (s : State) (flow stage core : Nat) : Nat :=
  (s.stageCrews flow stage).countP (fun c => c.state ≠ .saved && c.core = core)

/-- Pick the core that comes first in an order. -/
def pickCore (cs : List Nat) (less : Nat → Nat → Bool) : Option Nat :=
  cs.foldl (fun (b : Option Nat) c => match b with | none => some c | some d => if less c d then some c else some d) none

/-- Mark cores draining until those not draining number the target, fewest crews first (R279). -/
def State.drainCores (s : State) (fuel flow idx : Nat) (st : Stage) : Stage :=
  match fuel with
  | 0 => st
  | fuel + 1 =>
    let free := st.cores.filter (fun c => !st.draining.contains c)
    if st.target < free.length then
      match pickCore free (fun a b => s.crewsOn flow idx a < s.crewsOn flow idx b ||
          (s.crewsOn flow idx a = s.crewsOn flow idx b && a < b)) with
      | none => st
      | some c => State.drainCores s fuel flow idx { st with draining := insertNat st.draining c }
    else st

/-- Clear marks for a raised target, most crews first (R279): one mark for each core of the rise. -/
def State.undrainCores (s : State) (rise flow idx : Nat) (st : Stage) : Stage :=
  match rise with
  | 0 => st
  | rise + 1 =>
    match pickCore st.draining (fun a b => s.crewsOn flow idx b < s.crewsOn flow idx a ||
        (s.crewsOn flow idx a = s.crewsOn flow idx b && a < b)) with
    | none => st
    | some c => State.undrainCores s rise flow idx { st with draining := st.draining.filter (fun d => d != c) }

/-- Drop holds of cores on which no crew of the stage lives, and their marks (R279). -/
def State.dropHolds (s : State) (flow idx : Nat) (st : Stage) : Stage :=
  let keep := st.cores.filter (fun c => 0 < s.crewsOn flow idx c)
  let marks := st.draining.filter (fun c => keep.contains c)
  { st with cores := keep, draining := marks, rose := st.rose && !marks.isEmpty }

/-- Apply a function to every stage of every flow, with its flow and index. -/
def State.mapStages (s : State) (g : Flow → Nat → Stage → Stage) : State :=
  { s with flows := s.flows.map (fun f => { f with stages := f.stages.mapIdx (fun i st => g f i st) }) }

/-- One sample: new targets for every live stage, then draining (R277, R279). -/
def State.sample (s : State) : State :=
  let xs := s.flows.flatMap (fun f => (f.stages.mapIdx (fun i st => (i, st))).filterMap (fun e =>
    if e.2.ended then none
    else some (Sample.mk f.ctx f.num e.1 e.2.floor e.2.ceil (s.occupancy f.ctx e.2 * e.2.weight) e.2.floor)))
  let floors := xs.foldl (fun n x => n + x.floor) 0
  let ys := giveSpare (s.availableCores - floors) xs
  s.mapStages (fun f i st =>
    match ys.find? (fun y => y.flow = f.num ∧ y.idx = i) with
    | none => st
    | some y =>
      let st' := s.dropHolds f.num i { st with target := y.target }
      let up := s.undrainCores (y.target - st.target) f.num i st'
      s.drainCores 256 f.num i { up with rose := !up.draining.isEmpty && (up.rose || decide (st.target < y.target)) })

/-- Refresh the holds after a crew has gone (R278, R279). -/
def State.dropAllHolds (s : State) : State := s.mapStages (fun f i st => s.dropHolds f.num i st)

/-- A reservation lasts no longer than its stage (R281). -/
def State.dropReserved (s : State) : State :=
  { s with reserved := s.reserved.filter (fun r => s.flows.any (fun f => f.stages.any (fun st => st.qnum == r.2 && !st.ended))) }

/-- Clear BOUND in the headers of a flow's queues, where they can be reached (R274). -/
def State.unbind (s : State) (f : Flow) : State :=
  f.stages.foldl (fun s st =>
    if st.kind = 1 then
      match s.stageXl f.ctx st with
      | some x => s.hdrAct x .unbind
      | none => s
    else s) s

/-- End the stages and flows that are done (R274): BOUND is cleared, QNUMs are freed with the flow, the launcher is told, and a
flow's end triggers a sample (R277). -/
def State.settleFlows (s : State) : State :=
  let s1 := s.dropAllHolds
  let s2 := (s1.mapStages (fun f i st => if s1.stageDone f i st then { st with ended := true } else st)).dropReserved
  let dead := s2.flows.filter (fun f => f.stages.all (fun st => st.ended))
  if dead.isEmpty then s2
  else
    let s3 := dead.foldl (fun s f => (s.unbind f).post (.flowEnd f.ctx f.num)) s2
    let s4 := { s3 with flows := s3.flows.filter (fun f => !(f.stages.all (fun st => st.ended))) }
    s4.sample

end Sys2Proof.Machine
end

