-- ==== Sys2Proof/Machine/Faults.lean ====
section
/-! DEFINITION. The faults that a memory access finds at its addresses: translation (R198, R349), queue headers and cross-crew barriers at
their homes (R299 to R302), and what a load-class fault does to its wave's accesses (R348 to R350). -/

namespace Sys2Proof.Machine

/-! ## An access of the wave in focus -/

def State.setWave (s : State) (w : Wave) : State := { s with wave := w }
def State.access? (s : State) (k : Nat) : Option Access := s.wave.accs.find? (fun a => a.id = k)
def State.putAccess (s : State) (a : Access) : State :=
  s.setWave { s.wave with accs := s.wave.accs.map (fun b => if b.id = a.id then a else b) }
def State.dropAccess (s : State) (k : Nat) : State := s.setWave { s.wave with accs := s.wave.accs.filter (fun a => a.id != k) }

/-- The access is still to perform, and no handler holds it (R349): what a fence or a drain waits for. -/
def Access.left (a : Access) : Bool := match a.phase with | .queued => true | .asked _ => true | _ => false

/-! ## Faults of an access (R198, R349) -/

/-- What an access wants of its pages. -/
def AccOp.want (o : AccOp) : Want :=
  match o with
  | .ld _ _ _ => .load
  | .vld _ => .load
  | .cb _ => .load
  | .st _ _ _ => .store
  | .atomic _ _ => .atomic
  | .vatomic _ _ => .atomic
  | .queue _ => .atomic
  | .cmd _ => .load

/-- An access that may name a device register: a scalar load or store of 4 or 8 bytes (R251, R412). -/
def AccOp.regOk (o : AccOp) : Bool :=
  match o with
  | .ld _ size _ => size == 4 || size == 8
  | .st kind _ size => kind == 0 && (size == 4 || size == 8)
  | _ => false

def AccOp.isStore (o : AccOp) : Bool := match o with | .st _ _ _ => true | _ => false
def AccOp.isAtomic (o : AccOp) : Bool := match o with | .atomic _ _ => true | .vatomic _ _ => true | _ => false

/-- A load-class access (R348). -/
def Access.loadClass (a : Access) : Bool := match a.op with | .st _ _ _ => false | .cmd _ => false | _ => true

def State.xlateVa (s : State) (va : Word) (k : Want) (reg : Bool) : Except Cause Xl :=
  s.translate (dieOf s.crew.core) s.crew.ctx va.toNat k reg

def Access.xlate (s : State) (a : Access) (l : LaneReq) : Except Cause Xl := s.xlateVa l.va a.op.want a.op.regOk

/-! ## Queue words at the header's home (R302 to R307) -/

/-- The header or barrier or record address of a request. -/
def QReq.addr (q : QReq) : Word :=
  match q with
  | .push h _ _ _ _ _ => h
  | .pop h _ _ => h
  | .free h _ => h
  | .close h => h
  | .peek h _ => h
  | .xbar h _ _ => h
  | .launch r _ => r

/-- The destination of a request. -/
def QReq.dest (q : QReq) : Option Reg :=
  match q with
  | .push _ _ _ _ d _ => some d
  | .pop _ _ d => some d
  | .free _ d => some d
  | .close _ => none
  | .peek _ d => some d
  | .xbar _ d _ => some d
  | .launch _ d => some d

/-- The slot of record `j`: its place, or QUEUE where it lies in another device's memory than the header. -/
def State.slotAt (s : State) (hdrFpa : Nat) (h : Hdr) (j : Nat) (k : Want) : Except Cause Xl :=
  match s.xlateVa (BitVec.ofNat 64 (h.slotVa j)) k false with
  | .error c => .error c
  | .ok x => if fpaDev x.fpa = fpaDev hdrFpa then .ok x else .error .queue

/-- A cross-crew barrier that cannot take an arrival (R300). -/
def State.xbarBroken (s : State) (a : Nat) : Bool :=
  let target := s.readMem (a + 4) 4
  target == 0 || decide (2 ^ 24 < target) || decide (target ≤ s.readMem a 4) || decide (1 < s.readMem (a + 12) 4)
    || (s.readBytes (a + 16) 48).any (fun b => b != 0#8)

/-- Distinct queues from which the crew holds records popped with `qpop` (R304). -/
def Crew.popQueues (c : Crew) : List Word := (c.held.filter (fun h => !h.dispatch)).map (fun h => h.hdr)

/-- The translation-class fault of a request, if it meets one (R300, R302, R304, R308). -/
def State.queueFault (s : State) (q : QReq) : Option Cause :=
  let k : Want := match q with | .launch _ _ => .load | _ => .atomic
  match s.xlateVa q.addr k false with
  | .error c => some c
  | .ok x =>
    match q with
    | .launch _ _ => none
    | .xbar _ _ _ =>
      if !pteMS x.pte then some .protSt
      else if s.isPoisoned x.fpa then none
      else if s.xbarBroken x.fpa then some .queue
      else none
    | _ =>
      if s.anyPoison x.fpa 128 then none
      else
        let h := s.hdr x.fpa
        if !h.ok then some .queue
        else
          match q with
          | .push _ _ _ _ _ _ =>
            if h.closed || h.free == 0 then none
            else match s.slotAt x.fpa h h.tail .store with | .error c => some c | .ok _ => none
          | .pop a _ _ =>
            if h.bound then some .queue
            else if h.occ == 0 then none
            else if !(s.crew.popQueues.contains a) && decide (31 ≤ s.crew.popQueues.length) then some .queue
            else match s.slotAt x.fpa h h.head .load with | .error c => some c | .ok _ => none
          | _ => none

/-- The translation fault of an access: its lowest faulting lane (R198). -/
def State.transFault (s : State) (a : Access) : Option (Cause × LaneReq) :=
  match a.op with
  | .queue q => (s.queueFault q).map (fun c => (c, ⟨0, q.addr, 0#64, 0#32⟩))
  | _ => a.lanes.findSome? (fun l => match a.xlate s l with | .error c => some (c, l) | .ok _ => none)

/-- A load-class access of the wave that is found to fault in translation: later accesses are held behind it (R349). -/
def State.transFaulty (s : State) (a : Access) : Bool :=
  a.loadClass && (match a.phase with | .queued => (s.transFault a).isSome | _ => false)

/-- The wave has such an access, not yet reported. -/
def State.loadFaultPending (s : State) : Bool := s.wave.accs.any s.transFaulty

/-- The wave has a load-class access whose fault, of either kind, is found and not yet reported: it stops before a fence, `drainst`, `exit`,
`cleave` and `eret` (R348). -/
def State.faultFound (s : State) : Bool :=
  s.wave.accs.any (fun a => s.transFaulty a || (match a.phase with | .data _ _ => true | _ => false))

/-! ## Load-class faults (R347 to R350) -/

/-- STALECNT counts the STALE traps of the wave (R211). -/
def State.countStale (s : State) (c : Cause) : State :=
  if c = .stale then { s with wave := { s.wave with stalecnt := s.wave.stalecnt + 1#64 } } else s

/-- A fault of an access that is to be reported: its cause and lane, and whether it is a data fault. -/
def State.reportable (s : State) (a : Access) : Option (Cause × Nat × Word × Bool) :=
  match a.phase with
  | .data c lane => some (c, lane, ((a.lanes.find? (fun l => l.lane = lane)).map (fun l => l.va)).getD 0#64, true)
  | .queued => if a.loadClass then (s.transFault a).map (fun f => (f.1, f.2.lane, f.2.va, false)) else none
  | _ => none

/-- The entry record of a load-class fault (R350); RUN counts the words issued after it. -/
def loadStop (a : Access) (pc : Word) (f : Cause × Nat × Word × Bool) (run : Nat) : Stop :=
  let lane := match a.op with | .vld _ => f.2.1 | .vatomic _ _ => f.2.1 | _ => 0
  ⟨f.1, pc, f.2.2.1, a.pc, BitVec.ofNat 64 (lane * 2 ^ 16 + Min.min run 63 * 2 ^ 8 + (if f.2.2.2 then 128 else 0)), 0#64, true⟩

/-- Hold an access and every later one that has not performed (R349). -/
def Wave.holdFrom (w : Wave) (k : Nat) (inh : Bool) : Wave :=
  { w with accs := w.accs.map (fun a => if k ≤ a.id ∧ a.inh = inh ∧ a.left then { a with phase := .held } else a) }

/-- The host is told of a table entry that cannot be read (R333). -/
def State.tellTable (s : State) (va : Word) : State :=
  if s.lookup (dieOf s.crew.core) s.crew.ctx va.toNat = .table then s.post (.tableFault s.crew.ctx va) else s

/-- Later data faults of the wave, met before its stop: their causes wait for `eret`, with RUN 0 (R349). -/
def State.holdData (s : State) (k : Nat) (inh : Bool) : State :=
  let fs := s.wave.accs.filterMap (fun a =>
    match a.phase, s.reportable a with
    | .data _ _, some f => if k < a.id ∧ a.inh = inh then some (loadStop a s.wave.pc f 0) else none
    | _, _ => none)
  let rest := s.wave.accs.filter (fun a => match a.phase with | .data _ _ => decide (a.id ≤ k) || a.inh != inh | _ => true)
  let s1 := s.setWave { s.wave with accs := rest, heldCauses := s.wave.heldCauses ++ fs }
  fs.foldl (fun s st => s.countStale st.cause) s1

/-- Write a scalar where there is one to write. -/
def State.setDest (s : State) (d : Option Reg) (v : Word) : State := match d with | some r => s.setS r v | none => s

/-- The destination of a faulted access becomes undefined in every active lane (R198). -/
def State.undefine (s : State) (a : Access) : State :=
  let s1 := { s with fresh := s.fresh + 1 }
  let lanes (p : Nat) : State :=
    s1.setWave (s1.wave.landV p (a.lanes.map (fun l => (l.lane, Config.undefLane s.fresh 5 l.lane))))
  match a.op with
  | .ld d _ _ => s1.setS d (Config.undefWord s.fresh)
  | .vld p => lanes p
  | .atomic _ d => s1.setS d (Config.undefWord s.fresh)
  | .vatomic _ p => lanes p
  | .cb k =>
    let m := (List.range 16).foldl (fun m c => Map.put (fun _ => 0#16) m (16 * k + c) ((Config.undefLane s.fresh 6 c).setWidth 16)) s1.wave.cb
    s1.setWave { s1.wave with cb := m }
  | .queue q => s1.setDest q.dest (Config.undefWord s.fresh)
  | .st _ _ _ => s
  | .cmd _ => s

/-- What the report of a fault does to the wave's accesses (R349): a translation fault holds its access and the later ones, and its destination
is undefined until `eret` performs it (R198); a data fault drops its access, and holds from a later access that faults in translation. -/
def State.settleFault (s : State) (a : Access) (f : Cause × Nat × Word × Bool) : State :=
  if f.2.2.2 then
    let s1 := s.dropAccess a.id
    match s1.wave.accs.find? (fun b => decide (a.id < b.id) && b.inh == a.inh && s1.transFaulty b) with
    | some b => (s1.setWave (s1.wave.holdFrom b.id a.inh)).holdData a.id a.inh
    | none => s1.holdData a.id a.inh
  else
    let t := s.undefine a
    ((t.setWave (t.wave.holdFrom a.id a.inh)).holdData a.id a.inh).tellTable f.2.2.1

/-- The oldest load-class fault of the wave that is found and not yet reported. -/
def State.foundFault (s : State) : Option (Access × (Cause × Nat × Word × Bool)) :=
  s.wave.accs.findSome? (fun a => (s.reportable a).map (fun f => (a, f)))

/-- Such a fault of a wave that has neither stopped nor entered its handler: another cause finds it pending (R347). -/
def State.ownFault (s : State) : Option (Access × (Cause × Nat × Word × Bool)) :=
  if s.wave.status = .live ∧ s.wave.inh = false ∧ s.wave.ret = none ∧ s.wave.stop = none then s.foundFault.filter (fun e => !e.1.inh) else none

end Sys2Proof.Machine
end

