-- ==== Sys2Proof/Machine/Ops.lean ====
section
/-! DEFINITION. The issuing wave and its crew: focus, the end of a crew, taking an exception and returning from one, and how a
word completes (R47, R50, R51, R276, R345 to R355, R358). -/

namespace Sys2Proof.Machine

/-! ## Focus (model): one wave issues; the others stand in plain lists -/

/-- An ended crew whose accesses, copies and accumulator operations have all completed or been dropped holds nothing more (R227). -/
def State.crewIdle (s : State) (c : Crew) : Bool :=
  c.state = .ended && c.others.all (fun w => w.accs.isEmpty && w.lmq.isEmpty) && !(s.cmds.any (fun x => x.crew = c.handle))
    && !((s.coreAt c.core).mops.any (fun m => m.crew = c.handle))

/-- The crew with a handle, with all its waves. -/
def State.crewAt (s : State) (h : Nat) : Option Crew := s.allCrews.find? (fun c => c.handle = h)

/-- Change the crew-level fields of a crew. -/
def State.updCrew (s : State) (h : Nat) (f : Crew → Crew) : State :=
  if s.crew.handle = h then { s with crew := f s.crew }
  else { s with crews := s.crews.map (fun c => if c.handle = h then f c else c) }

/-- Change the core that holds a crew. -/
def State.updCore (s : State) (n : Nat) (f : Core → Core) : State := s.setCore n (f (s.coreAt n))

/-- Change a wave that keeps its place. -/
def State.mapWave (s : State) (h i : Nat) (f : Wave → Wave) : State :=
  if s.crew.handle = h ∧ s.wave.idx = i ∧ s.wave.status ≠ .absent then { s with wave := f s.wave }
  else s.updCrew h (fun c => { c with others := c.others.map (fun w => if w.idx = i then f w else w) })

/-- Bring wave `i` of crew `h` into focus. -/
def State.focus (s : State) (h i : Nat) : Option State :=
  if s.crew.handle = h ∧ s.wave.idx = i ∧ s.wave.status ≠ .absent then some s
  else
    let cs := s.allCrews.filter (fun c => !(s.crewIdle c))
    match cs.find? (fun c => c.handle = h) with
    | none => none
    | some c =>
      match c.others.find? (fun w => w.idx = i) with
      | none => none
      | some w =>
        let rest := c.others.filter (fun v => v.idx != i)
        some { s with crews := cs.filter (fun d => d.handle != h), crew := { c with others := rest }, wave := w }

/-- Do something at wave `i` of crew `h`, and come back to the wave in focus; nothing if there is no such wave. -/
def State.atWave (s : State) (h i : Nat) (f : State → State) : State :=
  match s.focus h i with
  | none => s
  | some t =>
    let u := f t
    match u.focus s.crew.handle s.wave.idx with
    | none => u
    | some v => v

def State.setCrew (s : State) (c : Crew) : State := { s with crew := c }

/-! ## Accumulators of a crew (R35) -/

def Crew.acc (c : Crew) (n : Nat) : Acc := Map.find (fun _ => Acc.fresh) c.accs n
def Crew.setAcc (c : Crew) (n : Nat) (a : Acc) : Crew := { c with accs := Map.put (fun _ => Acc.fresh) c.accs n a }
def State.accOf (s : State) (h n : Nat) : Acc := match s.crewAt h with | some c => c.acc n | none => Acc.fresh
def State.updAcc (s : State) (h n : Nat) (f : Acc → Acc) : State := s.updCrew h (fun c => c.setAcc n (f (c.acc n)))

def Wave.live (w : Wave) : Bool := w.status = .live

/-- Every wave of the crew in focus, by index. -/
def State.crewWaves (s : State) : List Wave := s.focusCrew.others

/-- A wave of the crew waits in `ctkill` (R360). -/
def Crew.dying (c : Crew) : Bool := c.others.any (fun w => w.block == some .kill)

/-- The crew in focus has ended, or drains for its `ctkill`: a record that it makes now is discarded (R360). -/
def State.discards (s : State) : Bool := s.crew.state == .ended || s.focusCrew.dying

/-! ## Lines that engine operations own (R190) -/

/-- The lines of memory that a span of virtual addresses covers, as far as it translates for a store and no open view covers it. -/
def State.spanLines (s : State) (die ctx va n : Nat) : List Nat :=
  (List.range ((va % 128 + n + 127) / 128)).filterMap (fun k =>
    match s.translate die ctx ((va / 128 * 128 + 128 * k) % 2 ^ 64) .store false with
    | .ok p => if s.snapWaits p then none else some (lineOf p.fpa)
    | .error _ => none)

/-- An engine operation that holds lines or waits for them: its number, its clock and the lines. -/
structure Claim where
  id : Nat
  pts : Nat
  lines : List Nat

/-- Every claim on lines: copy commands that do not stream, stores of tiles, collectives and rounds (R190). -/
def State.claims (s : State) : List Claim :=
  (s.cmds.filter (fun c => !c.xcw.getLsbD 39)).map (fun c => ⟨c.id, c.pts, c.owned⟩)
    ++ s.cores.flatMap (fun e => (e.2.mops.filter (fun m => m.kind == .mst)).map (fun m => ⟨m.id, m.pts, m.owned⟩))
    ++ s.fab.colls.map (fun c => ⟨c.id, c.pts, c.owned⟩)
    ++ s.xch.rounds.map (fun r => ⟨r.id, r.pts, r.owned⟩)

/-- An engine holds a line from now on: its write stands at this timestamp (R190). -/
def State.giveLine (s : State) (id p line : Nat) : State :=
  let w := s.storeStamp p (128 * line) 128
  s.setLine line ⟨w, w, some (.engine id), none⟩

/-- Take ownership of a line under the clock `p`, or stand behind the agent that owns it. -/
def State.ownLine (s : State) (id p line : Nat) : State :=
  if (s.line line).owner.isNone then s.giveLine id p line else s

/-- The claim that was issued first, of those in a list. -/
def firstClaim (cs : List Claim) : Option Claim :=
  cs.foldl (fun b c => match b with | none => some c | some k => if c.id < k.id then some c else b) none

/-- Give a line up: the oldest operation that waits for it owns it next. -/
def State.dropLine (s : State) (id line : Nat) : State :=
  if (s.line line).owner = some (.engine id) then
    let t := s.setLine line { s.line line with owner := none }
    match firstClaim (s.claims.filter (fun c => c.id != id && c.lines.contains line)) with
    | some c => t.giveLine c.id c.pts line
    | none => t
  else s

/-- Take accumulator operations out of a core for good: their lines go on to the operations that wait for them. -/
def State.discardMops (s : State) (core : Nat) (p : MOp → Bool) : State :=
  let gone := (s.coreAt core).mops.filter p
  gone.foldl (fun s m => m.owned.foldl (fun s l => s.dropLine m.id l) s)
    (s.updCore core (fun k => { k with mops := k.mops.filter (fun m => !p m) }))

/-! ## How a word completes -/

/-- Restart the context's watchdog (R288, R310). -/
def State.restartWd (s : State) : State :=
  { s with wd := Map.put (fun _ => 0) s.wd s.crew.ctx s.nanos, wdStall := Map.put (fun _ => false) s.wdStall s.crew.ctx false }

/-- The word has issued: the wave goes on at `target`, parks if Y is set (R51), and its context retires a word (R288). -/
def State.advanceTo (s : State) (y : Bool) (target : Word) : State :=
  let w := { s.wave with pc := target, issued := s.wave.issued + 1, parked := y, block := none, qwait := none, collEnd := none, drain := false }
  { s.restartWd with wave := w, fresh := s.fresh + 1 }

def State.advance (s : State) (y : Bool) : State := s.advanceTo y (s.wave.pc + 4#64)

/-- The word waits without effect and is issued again (R284, R355). -/
def State.wait (s : State) (b : Block) : State := { s with wave := { s.wave with block := some b } }

/-- OR flags into FFLAGS (R41). -/
def State.orFlags (s : State) (f : BitVec 6) : State := { s with wave := { s.wave with fflags := s.wave.fflags ||| f } }

/-! ## The end of a crew (R272, R276, R347, R360) -/

/-- Abort and release every region of a crew's waves (R240). -/
def State.dropRegions (s : State) (h : Nat) : State :=
  let ids := (s.regions.filter (fun r => r.crew = h)).map (fun r => r.id)
  ids.foldl (fun s i => (s.abortRegion i 7).releaseRegion i) s

/-- A wave that is no longer live: its loads are dropped, its stores still perform, those to LM too (R292). -/
def Wave.finish (w : Wave) (st : WStat) : Wave :=
  let stores := w.accs.filter (fun a => match a.op, a.phase with
    | .st _ _ _, .held => false
    | .st _ _ _, _ => true
    | _, _ => false)
  { w with
    status := if w.status = .live then st else w.status
    accs := stores
    lmq := w.lmq.filter (fun l => !l.load)
    stop := none
    halting := none
    heldCauses := []
    ret := none
    block := none
    qwait := none
    collEnd := none
    parked := false
    npreEnd := 0
    inh := false
    region := none
    retained := none
    mreq := none }

/-- Withdraw a wave's request for tokens (R355: a reissued operation requests its tokens again). -/
def State.dropRequest (s : State) (h i : Nat) : State :=
  let f := fun (d : Die) => { d with requests := d.requests.filter (fun r => r.1 != h || r.2.1 != i) }
  (List.range 8).foldl (fun s n => s.setDie n (f (s.dieAt n))) s

/-- Discard accumulator operations of a crew (R152, R360): those parked, and with `kill` those queued. -/
def State.dropMops (s : State) (c : Crew) (kill : Bool) : State :=
  s.discardMops c.core (fun m =>
    m.crew == c.handle && m.stage != .running && m.stage != .checking && (kill || (m.stage != .queued && m.stage != .waiting)))

/-- The crew in focus ends (R276): regions abort with SELF, held records are released, every wave stops, and its stages and
flows are settled. Its LM stays allocated until its commands are done (R227). -/
def State.endCrew (s : State) : State :=
  let c := s.crew
  let s1 := s.dropRegions c.handle
  let s2 := c.held.foldl (fun s h => s.releaseRecords (dieOf c.core) c.ctx c.flow c.stage h.hdr h.count) s1
  let s3 := { s2 with wave := s2.wave.finish .exited }
  let others := c.others.map (fun w => w.finish .exited)
  let s4 := { s3 with crew := { c with state := .ended, held := [], sfr := [], preempt := none, others := others } }
  let s5 := (List.range 16).foldl (fun s i => s.dropRequest c.handle i) (s4.dropMops c false)
  s5.settleFlows

/-- The crew ends on a cause or by `ctkill`, and the host receives a crew-end event (R347, R354, R360). -/
def State.killCrew (s : State) (cause : Option Cause) (code : Word) : State :=
  ((s.dropMops s.crew true).endCrew).post (.crewEnd s.crew.ctx s.crew.id cause code)

/-! ## Taking an exception (R345 to R355) -/

/-- The TCAUSE code of a cause (R351). -/
def causeCode (c : Cause) : Nat :=
  match c with
  | .illegal => 0x01 | .operand => 0x02 | .align => 0x03 | .xlateLd => 0x04 | .xlateSt => 0x05
  | .protLd => 0x06 | .protSt => 0x07 | .stale => 0x08 | .lmfull => 0x09 | .poison => 0x0A
  | .tinteg => 0x0B | .mremote => 0x0C | .barto => 0x0D | .watchdog => 0x0E | .swtrap => 0x0F
  | .brk => 0x10 | .preempt => 0x11 | .halt => 0x12 | .peerlost => 0x13 | .format => 0x14 | .queue => 0x15

/-- The wake record of a wave that stops where it stands: s114 and s115 (R355). -/
def Wave.wake (w : Wave) : Word × Word :=
  match w.block with
  | some (.bar b ph) => (BitVec.ofNat 64 (ph.toNat * 2 ^ 32 + b * 16 + 1), 0#64)
  | some (.xbar a ph _) => (BitVec.ofNat 64 (ph.toNat * 2 ^ 32 + 2), a)
  | some (.rgbind n) => (BitVec.ofNat 64 (n * 2 ^ 32 + 3), 0#64)
  | some .snap => (4#64, 0#64)
  | _ => (0#64, 0#64)

/-- Results that handler entry waits for: special-function words of the wave still in its core's unit (R354). -/
def State.sfuPending (s : State) : Bool :=
  (s.coreAt s.crew.core).sfu.any (fun o => o.crew = s.crew.handle ∧ o.wave = s.wave.idx)

/-- The skid of a wave that enters for a halt: the words it issued since the broadcast (R345). -/
def Wave.skid (w : Wave) (st : Stop) : Nat :=
  match st.cause, w.halting with
  | .halt, some (_, _, n) => w.issued - n
  | _, _ => 0

/-- s113 at entry: a load-class cause counts the accesses held now (R350). -/
def Wave.entryArg (w : Wave) (st : Stop) : Word :=
  if st.load then st.r113 + BitVec.ofNat 64 (w.accs.countP (fun a => match a.phase with | .held => true | _ => false)) else st.r113

/-- Steps 2 to 4 of handler entry (R354): the entry registers are written, INH is set, and the wave fetches from TVEC. With
TVEC = 0 the crew ends and the host receives the cause. -/
def State.enter (s : State) (st : Stop) : State :=
  let w := s.wave
  if w.tvec = 0#64 then s.killCrew (some st.cause) 0#64
  else
    let rec' := w.wake
    let w1 := (((w.setS 112#7 st.r112).setS 113#7 (w.entryArg st)).setS 114#7 rec'.1).setS 115#7 rec'.2
    let w2 := (((w1.setS 116#7 0#64).setS 117#7 0#64).setS 118#7 0#64).setS 119#7 0#64
    let w3 := { w2 with
      tcause := BitVec.ofNat 64 (causeCode st.cause)
      tpc := st.tpc
      taddr := st.taddr
      tskid := BitVec.ofNat 64 (w.skid st)
      tdeadline := st.deadline
      inh := true
      pc := w.tvec
      block := none
      qwait := none
      collEnd := none
      parked := false
      stopped := false
      stop := none
      halting := none
      mreq := none
      entryIssued := w.issued
      drain := false }
    { s.dropRequest s.crew.handle w.idx with wave := w3 }

/-- Broadcast a halt to the crew's other live waves (R345): a wave already stopping or in its handler is not changed. -/
def State.broadcast (s : State) (c : Cause) : State :=
  let tell (w : Wave) : Wave :=
    if w.live && !w.inh && w.stop.isNone && w.halting.isNone && w.ret.isNone then
      { w with halting := some (s.wave.idx, c, w.issued), stopped := false }
    else w
  { s with crew := { s.crew with state := .halted, others := s.crew.others.map tell } }

/-- The stop record of a halt (R351): the sibling's stop point, the raising wave and its TCAUSE. -/
def Wave.haltStop (w : Wave) : Option Stop :=
  match w.halting with
  | none => none
  | some (i, c, _) => some ⟨.halt, w.pc, 0#64, BitVec.ofNat 64 (i + 256 * causeCode c), 0#64, 0#64, false⟩

/-- A wave that has stopped enters its handler once its special-function results have landed (R354 step 1): its own cause comes
before HALT (R347). -/
def State.tryEnter (s : State) : State :=
  if s.sfuPending then s
  else
    match s.wave.stop with
    | some st => s.enter st
    | none =>
      match s.wave.haltStop with
      | some st => s.enter st
      | none => s

/-- Causes with a word come before those without one, which come in the order of their codes (R347). -/
def Stop.rank (st : Stop) : Nat :=
  if st.cause = .tinteg ∨ st.cause = .mremote ∨ st.cause = .barto ∨ st.cause = .watchdog then causeCode st.cause else 0

/-- Take a cause in the issuing wave: in a handler it ends the crew (R347); else the crew halts and the wave enters its handler
(R345, R346, R354). Of causes that meet before the entry the wave enters with the first by R347, and holds the others. -/
def State.raiseStop (s : State) (st : Stop) : State :=
  if s.wave.inh then s.killCrew (some st.cause) 0#64
  else
    let w := match s.wave.stop with
      | none => { s.wave with stop := some st }
      | some old =>
        if st.rank < old.rank then { s.wave with stop := some st, heldCauses := s.wave.heldCauses ++ [old] }
        else { s.wave with heldCauses := s.wave.heldCauses ++ [st] }
    (({ s with wave := w }).broadcast st.cause).tryEnter

/-- Raise a cause in the issuing wave. This is the one operation by which every word and every engine takes an exception. -/
def State.raise (s : State) (st : Stop) : State := (s.countStale st.cause).raiseStop st

/-- Raise a load-class fault that is found: its accesses are settled, and RUN counts the words issued after it (R348, R349, R350). -/
def State.raiseFault (s : State) (e : Access × (Cause × Nat × Word × Bool)) : State :=
  (s.settleFault e.1 e.2).raise (loadStop e.1 s.wave.pc e.2 (s.wave.issued - e.1.seq - 1))

/-- Raise a precise cause of the issuing word. With an older load-class fault found the wave enters with that fault, and issues the word
again (R347). -/
def State.raisePrecise (s : State) (st : Stop) : State := match s.ownFault with | some e => s.raiseFault e | none => s.raise st

/-- A precise cause of the issuing word (R351): TPC is the word, s113 is 0. -/
def State.trap (s : State) (c : Cause) (addr : Word) : State := s.raisePrecise ⟨c, s.wave.pc, addr, 0#64, 0#64, 0#64, false⟩

/-- A load-class fault that is found comes before a cause without a word (R347). -/
def State.faultFirst (s : State) (st : Stop) : State :=
  match s.ownFault with | some e => if st.rank = 0 then s else s.raiseFault e | none => s

/-- A cause that concerns a wave and is found outside its words: held while the wave is in its handler (R347), raised otherwise. -/
def State.raiseLater (s : State) (st : Stop) : State :=
  let t := s.faultFirst st
  if !t.wave.live then t
  else if t.wave.inh ∨ t.wave.ret.isSome then
    { t.countStale st.cause with wave := { (t.countStale st.cause).wave with heldCauses := t.wave.heldCauses ++ [st] } }
  else t.raise st

/-- The entry of a wave that has stopped (R345, R354): one that stops for a halt with a load-class fault found has that cause of its own
(R347). -/
def State.enterNext (s : State) : State :=
  match s.wave.haltStop, s.ownFault with
  | some _, some e => s.raiseFault e
  | _, _ => s.tryEnter

/-! ## Returning from an exception (R358) -/

/-- The wait that a wake record resumes (R355, R358). -/
def Wave.wakeBlock (w : Wave) : Option Block :=
  let r := (w.getS 114#7).toNat
  match r % 16 with
  | 1 => some (.bar (r / 16 % 16) (BitVec.ofNat 16 (r / 2 ^ 32)))
  | 2 => some (.xbar (w.getS 115#7) (BitVec.ofNat 32 (r / 2 ^ 32)) w.xbarExt)
  | 3 => some (.rgbind (r / 2 ^ 32))
  | 4 => some .snap
  | _ => none

/-- A wave goes on after its `eret` (R358): its held accesses are queued again or dropped, and its wait is resumed. A wave with a
held cause enters its handler again first: its accesses stay held. -/
def Wave.resume (w : Wave) : Wave :=
  match w.ret with
  | none => w
  | some r =>
    let block := if r.clrwake then none else w.wakeBlock
    if w.heldCauses.isEmpty then
      let held := w.accs.filter (fun a => a.phase = .held)
      let accs := if r.discard then w.accs.filter (fun a => a.phase ≠ .held)
        else w.accs.map (fun a => if a.phase = .held then { a with phase := .queued } else a)
      { w with ret := none, pc := r.target, issued := w.entryIssued, accs := accs, drain := !r.discard && !held.isEmpty, block := block, parked := r.yield }
    else { w with ret := none, pc := r.target, issued := w.entryIssued, block := block }

/-- The tags of held commands that an `eret` with DISCARD drops: no command runs under them any more. -/
def Wave.discarded (w : Wave) : List Nat :=
  match w.ret with
  | some r =>
    if r.discard && w.heldCauses.isEmpty then
      w.accs.filterMap (fun a => match a.op, a.phase with | .cmd c, .held => some (c.xcw.extractLsb' 32 6).toNat | _, _ => none)
    else []
  | none => []

/-- Every wave that entered for the halt has left its handler. -/
def State.haltOver (s : State) : Bool :=
  s.crewWaves.all (fun w => !w.live || (!w.inh && w.stop.isNone && w.halting.isNone))

/-- Deliver the first held cause of the wave in focus: it enters its handler again without resuming (R347, R358). -/
def State.deliverHeld (s : State) : State :=
  match s.wave.heldCauses with
  | [] => s
  | st :: rest => ({ s with wave := { s.wave with heldCauses := rest } }).raiseStop { st with tpc := s.wave.pc }

/-- A suspension whose cause still waits for its wave (R151, R347). -/
def Crew.causeWaits (c : Crew) (m : MOp) : Bool :=
  c.others.any (fun w => w.heldCauses.any (fun st =>
    (st.cause = .mremote || st.cause = .stale || st.cause = .poison) && st.r113 = m.pc && st.r112.toNat % 16 = m.acc))

/-- The parked operations of a crew on an accumulator wait for queue entries again (R148, R151). -/
def State.releaseParked (s : State) (c : Crew) (acc : Nat) : State :=
  s.updCore c.core (fun k => { k with mops := k.mops.map (fun m =>
    if m.crew = c.handle ∧ m.acc = acc ∧ m.stage = .parked then { m with stage := .waiting } else m) })

/-- Entries of a core's matrix queue in use (R148). -/
def Core.entries (k : Core) : Nat := k.mops.countP (fun m => m.stage == .queued)

/-- Give an entry to the first operation that waits for one; the operations of an accumulator stand in version order. -/
def enqueueFirst (ms : List MOp) : List MOp :=
  match ms with
  | [] => []
  | m :: rest => if m.stage == .waiting then { m with stage := .queued } :: rest else m :: enqueueFirst rest

/-- Released operations take entries as they free, oldest first, and keep their places (R148, R151); `fuel` bounds the entries. -/
def Core.refill (k : Core) (fuel : Nat) : Core :=
  match fuel with
  | 0 => k
  | fuel + 1 => if 8 ≤ k.entries then k else Core.refill { k with mops := enqueueFirst k.mops } fuel

/-- The core's released operations take the entries that are free. -/
def State.refill (s : State) (core fuel : Nat) : State := s.updCore core (fun k => k.refill fuel)

/-- The end of a halt releases the operations that were parked by suspensions whose causes a handler has seen (R151). -/
def State.releaseSuspended (s : State) (h : Nat) : State :=
  match s.crewAt h with
  | none => s
  | some c =>
    let accs := (List.range 16).filter (fun n =>
      !((Map.find (fun _ => Acc.fresh) c.accs n).vacant)
        && (s.coreAt c.core).mops.any (fun m => m.crew = h ∧ m.acc = n ∧ m.stage = .parked)
        && !((s.coreAt c.core).mops.any (fun m => m.crew = h ∧ m.acc = n ∧ m.stage = .parked ∧ c.causeWaits m)))
    (accs.foldl (fun s n => s.releaseParked c n) s).refill c.core 8

/-- A wait in `bar` is over, and the wave has not gone on yet (R295). -/
def Wave.barOver (w : Wave) (c : Crew) : Bool :=
  match w.block with | some (.bar b ph) => (c.bars.getD b (Barrier.fresh 0#16)).phase != ph | _ => false

/-- A wave goes on after its `bar`: it is ordered after the arrivals of the phase (R296). -/
def Wave.passBar (w : Wave) (c : Crew) : Wave :=
  match w.block with
  | some (.bar b _) =>
    if w.barOver c then { w with block := none, pts := Max.max w.pts (c.bars.getD b (Barrier.fresh 0#16)).clock } else w
  | _ => w

/-- The waves of a crew whose waits in `bar` are over stand at no blocking point. -/
def State.passBars (s : State) (h : Nat) : State :=
  let t := s.updCrew h (fun c => { c with others := c.others.map (fun w => w.passBar c) })
  if s.crew.handle = h then { t with wave := t.wave.passBar t.crew } else t

/-- A wave stands stopped at its wait while its crew is being taken, in no no-pre-emption window (R286). -/
def State.heldAtWait (s : State) : Bool := decide (s.crew.state = .taking ∧ s.wave.npreEnd ≤ s.nanos)

/-- When the last wave of a halt has executed `eret`, or has left, the crew returns to RUNNING, or to TAKING if a pre-emption
request waits (R276, R358); held causes are then delivered. -/
def State.finishHalt (s : State) : State :=
  if s.crew.state = .halted ∧ s.haltOver ∧ !s.crew.restoring then
    let next : CrewState := if s.crew.preempt.isSome then .taking else .running
    let w := s.wave.resume
    let others := s.crew.others.map Wave.resume
    let s1 := { s with wave := w, crew := { s.crew with state := next, others := others } }
    let due := (s1.crewWaves.filter (fun w => w.live && !w.heldCauses.isEmpty)).map (fun w => w.idx)
    let gone := s.crewWaves.flatMap Wave.discarded
    let s2 := (s1.setCrew { s1.crew with tags := gone.foldl (fun m n => Map.put (fun _ => Tag.idle) m n .idle) s1.crew.tags }).releaseSuspended
      s1.crew.handle
    due.foldl (fun s i => s.atWave s1.crew.handle i (fun t => if t.wave.inh then t else t.deliverHeld)) s2
  else s

/-! ## Words that a wave runs (R18) -/

/-- Run an instruction word on the issuing wave. -/
def State.onWave (s : State) (k : State → State) : Host.Outcome State Fault Refusal :=
  if s.wave.live then .next (k s) else .fault .noWave

/-- WCTL.STRICT as it reads: 0 in a handler (R34). -/
def Wave.strict (w : Wave) : Bool := w.wctl.getLsbD 3 && !w.inh

/-- A vector-class word (R32, R34, R37, R47, R49): nothing with an empty mask; OPERAND for a register outside the allocation or,
under STRICT, a freed source; else its effect, and then the frees that its last-use bits ask for. `srcs` are the source fields
with their last-use bits, `dst` the destination register. -/
def State.vectorWord (s : State) (y : Bool) (srcs : List (Reg × Bool)) (dst : Option Reg) (k : State → State) : State :=
  if s.wave.maskEmpty then s.advance y
  else
    let named := srcs.map (fun e => e.1) ++ dst.toList
    if named.any (fun r => s.crew.valloc ≤ s.wave.phys r) then s.trap .operand 0#64
    else if s.wave.strict && srcs.any (fun e => s.wave.isFreed (s.wave.phys e.1)) then s.trap .operand 0#64
    else k s

/-- Free the sources marked last-use, but not the word's own destination (R33). -/
def State.freeUsed (s : State) (srcs : List (Reg × Bool)) (dst : Option Reg) : State :=
  srcs.foldl (fun s e =>
    if e.2 && dst ≠ some e.1 then { s with wave := s.wave.free (s.wave.phys e.1) } else s) s

end Sys2Proof.Machine
end

