-- ==== Sys2Proof/Machine/Operands.lean ====
section
/-! DEFINITION. The operand forms of the words: scalar three-register, immediate and unary forms (R99 to R105), lane-wise vector
forms (R57, R107, R108), compares into a scalar triple (R110) and the branch forms (R291). Each meaning names one of them. -/

namespace Sys2Proof.Machine

/-- The outcome of running a word. -/
abbrev Out := Host.Outcome State Fault Refusal

/-- `mnem sD, sA, sB` (R99). -/
def State.scalar3 (s : State) (y : Bool) (d a b : Reg) (f : Word → Word → Word) : Out :=
  s.onWave (fun s => (s.setS d (f (s.getS a) (s.getS b))).advance y)

/-- `mnem sD, sA` (R104) and the immediate forms (R103). -/
def State.scalar2 (s : State) (y : Bool) (d a : Reg) (f : Word → Word) : Out :=
  s.onWave (fun s => (s.setS d (f (s.getS a))).advance y)

/-- Constants (R105, R106): a function of the old S[D] and of the word's address. -/
def State.scalar1 (s : State) (y : Bool) (d : Reg) (f : Word → Word → Word) : Out :=
  s.onWave (fun s => (s.setS d (f (s.getS d) s.wave.pc)).advance y)

/-- `mnem vD, vA, vB`, lane by lane (R57, R107). -/
def State.lane3 (s : State) (y : Bool) (d a b : Reg) (la lb : Bool) (f : Lane → Lane → Lane) : Out :=
  s.onWave (fun s => s.vectorWord y [(a, la), (b, lb)] (some d) (fun s =>
    let va := s.readV 0 a
    let vb := s.readV 1 b
    ((s.writeV (s.wave.phys d) (fun i => f (va.getD i 0#32) (vb.getD i 0#32))).freeUsed [(a, la), (b, lb)] (some d)).advance y))

/-- `mnem vD, vA`, lane by lane (R108). -/
def State.lane2 (s : State) (y : Bool) (d a : Reg) (la : Bool) (f : Lane → Lane) : Out :=
  s.onWave (fun s => s.vectorWord y [(a, la)] (some d) (fun s =>
    let va := s.readV 0 a
    ((s.writeV (s.wave.phys d) (fun i => f (va.getD i 0#32))).freeUsed [(a, la)] (some d)).advance y))

/-- `mnem vD, vA, vB` with D a source as well (R107). -/
def State.laneAcc (s : State) (y : Bool) (d a b : Reg) (la lb : Bool) (f : Lane → Lane → Lane → Lane) : Out :=
  s.onWave (fun s => s.vectorWord y [(a, la), (b, lb), (d, false)] (some d) (fun s =>
    let va := s.readV 0 a
    let vb := s.readV 1 b
    let vd := s.readV 2 d
    let r := fun i => f (va.getD i 0#32) (vb.getD i 0#32) (vd.getD i 0#32)
    ((s.writeV (s.wave.phys d) r).freeUsed [(a, la), (b, lb)] (some d)).advance y))

/-- `mnem vD, vA` with D a source as well (R116). -/
def State.laneAcc2 (s : State) (y : Bool) (d a : Reg) (la : Bool) (f : Lane → Lane → Lane) : Out :=
  s.onWave (fun s => s.vectorWord y [(a, la), (d, false)] (some d) (fun s =>
    let va := s.readV 0 a
    let vd := s.readV 2 d
    ((s.writeV (s.wave.phys d) (fun i => f (va.getD i 0#32) (vd.getD i 0#32))).freeUsed [(a, la)] (some d)).advance y))

/-- A permutation of lanes: lane `j i` of V[A], or 0 where there is none (R111, R112). -/
def State.permute (s : State) (y : Bool) (d a : Reg) (srcs : List (Reg × Bool)) (j : State → Nat → Option Nat) : Out :=
  s.onWave (fun s => s.vectorWord y srcs (some d) (fun s =>
    let va := s.readV 0 a
    let f := fun i => match j s i with | some k => va.getD k 0#32 | none => 0#32
    ((s.writeV (s.wave.phys d) f).freeUsed srcs (some d)).advance y))

/-- The compare bits of lanes 32t to 32t+31 (R110). -/
def State.compareBits (s : State) (cond : Nat → Bool) (t : Nat) : Word :=
  BitVec.ofNat 64 ((List.range 32).foldl (fun acc b =>
    if s.wave.active (32 * t + b) && cond (32 * t + b) then acc + 2 ^ b else acc) 0)

/-- Write the triple S[D], S[D+1], S[D+2] as one result (R110). -/
def State.setTriple (s : State) (d : Reg) (f : Nat → Word) : State :=
  ((s.setS d (f 0)).setS (d + 1#7) (f 1)).setS (d + 2#7) (f 2)

/-- A compare into a scalar triple (R44, R110): a D above 125 raises OPERAND; `flags` are the word's flags. -/
def State.compare (s : State) (y : Bool) (d a b : Reg) (la lb : Bool) (cond : Lane → Lane → Bool)
    (flags : Lane → Lane → BitVec 6) : Out :=
  s.onWave (fun s =>
    if !s.wave.maskEmpty && decide (125 < d.toNat) then s.trap .operand 0#64
    else s.vectorWord y [(a, la), (b, lb)] none (fun s =>
      let va := s.readV 0 a
      let vb := s.readV 1 b
      let bits := s.compareBits (fun i => cond (va.getD i 0#32) (vb.getD i 0#32))
      let fl := s.wave.lanes.foldl (fun acc i => acc ||| flags (va.getD i 0#32) (vb.getD i 0#32)) 0#6
      (((s.setTriple d bits).freeUsed [(a, la), (b, lb)] none).orFlags fl).advance y))

/-- A reduction of the active lanes into S[D] (R113). -/
def State.reduce (s : State) (y : Bool) (d a : Reg) (la : Bool) (f : List Lane → Word) : Out :=
  s.onWave (fun s => s.vectorWord y [(a, la)] none (fun s =>
    let va := s.readV 0 a
    ((s.setS d (f (s.wave.lanes.map (fun i => va.getD i 0#32)))).freeUsed [(a, la)] none).advance y))

/-- A word that goes on at `target` if `taken`, else at the next word (R291). -/
def State.branch (s : State) (y : Bool) (taken : Bool) (target : Word) : State :=
  s.advanceTo y (if taken then target else s.wave.pc + 4#64)

/-- pc + 4 * sext(IMM16) (R291). -/
def State.target16 (s : State) (i : BitVec 16) : Word := s.wave.pc + (sext64 i <<< 2)
/-- pc + 4 * sext(IMM23) (R291). -/
def State.target23 (s : State) (i : BitVec 23) : Word := s.wave.pc + (sext64 i <<< 2)

end Sys2Proof.Machine
end

