-- ==== Sys2Proof/Machine/Flags.lean ====
section
/-! DEFINITION. Rounding mode and flags of the floating-point, narrow-format and conversion words (R40, R41, R81, R82): the
operand forms whose results carry flags, merged over the active lanes as one word's flags. -/

namespace Sys2Proof.Machine

/-- WCTL.RM (R40, R81); the reserved values are never stored. -/
def Wave.rm (w : Wave) : RMode :=
  match (w.wctl.extractLsb' 0 3).toNat with
  | 0 => .rne
  | 1 => .rtz
  | 2 => .rdn
  | 3 => .rup
  | _ => .rna

def State.rm (s : State) : RMode := s.wave.rm

/-- A scalar word with flags, `mnem sD, sA, sB`. -/
def State.fscalar3 (s : State) (y : Bool) (d a b : Reg) (f : RMode → Word → Word → Word × Flags) : Out :=
  s.onWave (fun s =>
    let r := f s.rm (s.getS a) (s.getS b)
    ((s.setS d r.1).orFlags r.2).advance y)

/-- A scalar word with flags and D a source as well. -/
def State.fscalarAcc (s : State) (y : Bool) (d a b : Reg) (f : RMode → Word → Word → Word → Word × Flags) : Out :=
  s.onWave (fun s =>
    let r := f s.rm (s.getS a) (s.getS b) (s.getS d)
    ((s.setS d r.1).orFlags r.2).advance y)

/-- A scalar word with flags, `mnem sD, sA`. -/
def State.fscalar2 (s : State) (y : Bool) (d a : Reg) (f : RMode → Word → Word × Flags) : Out :=
  s.onWave (fun s =>
    let r := f s.rm (s.getS a)
    ((s.setS d r.1).orFlags r.2).advance y)

/-- The flags of the active lanes as one word's flags (R41). -/
def State.laneFlags (s : State) (f : Nat → Flags) : Flags := s.wave.lanes.foldl (fun acc i => acc ||| f i) 0#6

/-- A vector word with flags, of two sources. -/
def State.flane3 (s : State) (y : Bool) (d a b : Reg) (la lb : Bool) (f : RMode → Lane → Lane → Lane × Flags) : Out :=
  s.onWave (fun s => s.vectorWord y [(a, la), (b, lb)] (some d) (fun s =>
    let va := s.readV 0 a
    let vb := s.readV 1 b
    let r := fun i => f s.rm (va.getD i 0#32) (vb.getD i 0#32)
    let fl := s.laneFlags (fun i => (r i).2)
    (((s.writeV (s.wave.phys d) (fun i => (r i).1)).freeUsed [(a, la), (b, lb)] (some d)).orFlags fl).advance y))

/-- A vector word with flags, of two sources and D. -/
def State.flaneAcc (s : State) (y : Bool) (d a b : Reg) (la lb : Bool) (f : RMode → Lane → Lane → Lane → Lane × Flags) : Out :=
  s.onWave (fun s => s.vectorWord y [(a, la), (b, lb), (d, false)] (some d) (fun s =>
    let va := s.readV 0 a
    let vb := s.readV 1 b
    let vd := s.readV 2 d
    let r := fun i => f s.rm (va.getD i 0#32) (vb.getD i 0#32) (vd.getD i 0#32)
    let fl := s.laneFlags (fun i => (r i).2)
    (((s.writeV (s.wave.phys d) (fun i => (r i).1)).freeUsed [(a, la), (b, lb)] (some d)).orFlags fl).advance y))

/-- A vector word with flags, of one source. -/
def State.flane2 (s : State) (y : Bool) (d a : Reg) (la : Bool) (f : RMode → Lane → Lane × Flags) : Out :=
  s.onWave (fun s => s.vectorWord y [(a, la)] (some d) (fun s =>
    let va := s.readV 0 a
    let r := fun i => f s.rm (va.getD i 0#32)
    let fl := s.laneFlags (fun i => (r i).2)
    (((s.writeV (s.wave.phys d) (fun i => (r i).1)).freeUsed [(a, la)] (some d)).orFlags fl).advance y))

/-- A vector word with flags, of one source and D. -/
def State.flaneAcc2 (s : State) (y : Bool) (d a : Reg) (la : Bool) (f : RMode → Lane → Lane → Lane × Flags) : Out :=
  s.onWave (fun s => s.vectorWord y [(a, la), (d, false)] (some d) (fun s =>
    let va := s.readV 0 a
    let vd := s.readV 2 d
    let r := fun i => f s.rm (va.getD i 0#32) (vd.getD i 0#32)
    let fl := s.laneFlags (fun i => (r i).2)
    (((s.writeV (s.wave.phys d) (fun i => (r i).1)).freeUsed [(a, la)] (some d)).orFlags fl).advance y))

/-- The nf check of a narrow-format word (R38, R137): FORMAT, after the OPERAND checks (R47). -/
def State.withNf (s : State) (k : Nat) (f : Fmt → Nat → State) : State :=
  match nfFmt (s.wave.nf.getD k 0#32) with
  | some (fmt, width) => f fmt width
  | none => s.trap .format 0#64

/-- A narrow-format word of two sources (R138). -/
def State.nf3 (s : State) (y : Bool) (k : Nat) (d a b : Reg) (la lb : Bool)
    (f : Fmt → Nat → RMode → Lane → Lane → Lane × Flags) : Out :=
  s.onWave (fun s => s.vectorWord y [(a, la), (b, lb)] (some d) (fun s => s.withNf k (fun fmt width =>
    let va := s.readV 0 a
    let vb := s.readV 1 b
    let r := fun i => f fmt width s.rm (va.getD i 0#32) (vb.getD i 0#32)
    let fl := s.laneFlags (fun i => (r i).2)
    (((s.writeV (s.wave.phys d) (fun i => (r i).1)).freeUsed [(a, la), (b, lb)] (some d)).orFlags fl).advance y)))

/-- A narrow-format word of two sources and D (R139). -/
def State.nfAcc (s : State) (y : Bool) (k : Nat) (d a b : Reg) (la lb : Bool)
    (f : Fmt → Nat → RMode → Lane → Lane → Lane → Lane × Flags) : Out :=
  s.onWave (fun s => s.vectorWord y [(a, la), (b, lb), (d, false)] (some d) (fun s => s.withNf k (fun fmt width =>
    let va := s.readV 0 a
    let vb := s.readV 1 b
    let vd := s.readV 2 d
    let r := fun i => f fmt width s.rm (va.getD i 0#32) (vb.getD i 0#32) (vd.getD i 0#32)
    let fl := s.laneFlags (fun i => (r i).2)
    (((s.writeV (s.wave.phys d) (fun i => (r i).1)).freeUsed [(a, la), (b, lb)] (some d)).orFlags fl).advance y)))

/-- Element `j` widened to binary32 (R140): a NaN code gives the canonical NaN without a flag, since the signalling NaNs of R78
belong to the IEEE formats alone (DEDUCED, log entry 36). -/
def widenElem (f : Fmt) (width j : Nat) (mode : RMode) (a : Lane) : Lane × Flags :=
  let x := f.decode (elem width a j)
  let r := binary32.round mode x
  (BitVec.ofNat 32 r.1, r.2)

/-- A binary32 lane narrowed into element `j` of the old lane (R140). -/
def narrowElem (f : Fmt) (width j : Nat) (mode : RMode) (a d : Lane) : Lane × Flags :=
  let r := binary32.convert f mode a.toNat
  (putElem width d j r.1, r.2)

/-- `vncvt` (R140): an element number of n or more raises FORMAT in the same check. -/
def State.nfConvert (s : State) (y : Bool) (k : Nat) (d a : Reg) (narrow : Bool) (j : Nat) : Out :=
  let srcs := if narrow then [(a, false), (d, false)] else [(a, false)]
  s.onWave (fun s => s.vectorWord y srcs (some d) (fun s => s.withNf k (fun fmt width =>
    if perLane width ≤ j then s.trap .format 0#64
    else
      let va := s.readV 0 a
      let vd := s.readV 2 d
      let r := fun i =>
        if narrow then narrowElem fmt width j s.rm (va.getD i 0#32) (vd.getD i 0#32)
        else widenElem fmt width j s.rm (va.getD i 0#32)
      let fl := s.laneFlags (fun i => (r i).2)
      ((s.writeV (s.wave.phys d) (fun i => (r i).1)).orFlags fl).advance y)))

/-- A special-function word (R131): its results and flags are computed at issue and wait in the core's unit; the destination is
revived and its inactive lanes settle at issue. -/
def State.sfuWord (s : State) (y : Bool) (d : Reg) (srcs : List (Reg × Bool)) (f : State → Nat → Lane × Flags) : Out :=
  s.onWave (fun s => s.vectorWord y srcs (some d) (fun s =>
    let r := s.wave.lanes.map (fun i => (i, (f s i).1))
    let fl := s.laneFlags (fun i => (f s i).2)
    let phys := s.wave.phys d
    let c := s.coreAt s.crew.core
    let op : SfuOp := ⟨s.crew.handle, s.wave.idx, phys, r, fl⟩
    let keep := s.oldV phys
    let s1 := { s with wave := (s.wave.revive phys).setVreg phys keep }
    ((s1.setCore s.crew.core { c with sfu := c.sfu ++ [op] }).freeUsed srcs (some d)).advance y))

end Sys2Proof.Machine
end

