-- ==== Sys2Proof/Machine/Memory.lean ====
section
/-! DEFINITION. Loads, stores, atomics, fences and hints as they issue (R198 to R209); they perform in Perform.lean. -/

namespace Sys2Proof.Machine

/-- Queue an access of the issuing wave (R198, R349). -/
def State.pushAccess (s : State) (op : AccOp) (lanes : List LaneReq) (stream : Bool) : State :=
  let w := s.wave
  let a : Access := ⟨w.nextId, w.pc, w.issued, op, lanes, stream, w.inh, .queued, s.nanos⟩
  { s with wave := { w with accs := w.accs ++ [a], nextId := w.nextId + 1 } }

/-- The address of a scalar access: S[A] + sext(IMM9) * size (R200). -/
def State.scalarAddr (s : State) (a : Reg) (i : BitVec 9) (size : Nat) : Word := s.getS a + sext64 i * BitVec.ofNat 64 size

/-- A scalar load (R200): ALIGN at issue, else the access is queued. -/
def State.loadWord (s : State) (y : Bool) (d a : Reg) (i : BitVec 9) (size : Nat) (signed : Bool) : Out :=
  s.onWave (fun s =>
    let addr := s.scalarAddr a i size
    if addr.toNat % size ≠ 0 then s.trap .align addr
    else (s.pushAccess (.ld d size signed) [⟨0, addr, 0#64, 0#32⟩] false).advance y)

/-- A scalar store (R200). -/
def State.storeWord (s : State) (y : Bool) (d a : Reg) (i : BitVec 9) (size : Nat) : Out :=
  s.onWave (fun s =>
    let addr := s.scalarAddr a i size
    if addr.toNat % size ≠ 0 then s.trap .align addr
    else (s.pushAccess (.st 0 0#32 size) [⟨0, addr, s.getS d, 0#32⟩] false).advance y)

/-- A scalar atomic (R204). -/
def State.atomicWord (s : State) (y : Bool) (d a b : Reg) (op : State → AtomOp) (size : Nat) : Out :=
  s.onWave (fun s =>
    let addr := s.getS a
    if addr.toNat % size ≠ 0 then s.trap .align addr
    else (s.pushAccess (.atomic (op s) d) [⟨0, addr, s.getS b, 0#32⟩] false).advance y)

/-- The lane requests of a gather or scatter: S[A] + zext(V[B][i]) in each active lane (R201, R206). -/
def State.gatherLanes (s : State) (a b : Reg) (data : Lanes) : List LaneReq :=
  let vb := s.readV 1 b
  s.wave.lanes.map (fun i => ⟨i, s.getS a + zext64 (vb.getD i 0#32), zext64 (data.getD i 0#32), vb.getD i 0#32⟩)

/-- The first lane whose address is not a multiple of 4. -/
def misaligned (ls : List LaneReq) : Option LaneReq := ls.find? (fun l => l.va.toNat % 4 ≠ 0)

/-- The destination of a vector access at issue: revived, with its inactive lanes settled (R33). -/
def State.claimV (s : State) (d : Reg) : State :=
  let phys := s.wave.phys d
  let keep := s.oldV phys
  { s with wave := (s.wave.revive phys).setVreg phys keep }

/-- The lane requests of a strided access: S[A] + 4 * stride * i (R202). -/
def State.strideLanes (s : State) (a : Reg) (stride : Word) (data : Lanes) : List LaneReq :=
  s.wave.lanes.map (fun i => ⟨i, s.getS a + 4#64 * stride * BitVec.ofNat 64 i, zext64 (data.getD i 0#32), 0#32⟩)

/-! ## What a fence waits for (R186, R207, R208) -/

/-- A store or atomic access, performed or not. -/
def Access.writes (a : Access) : Bool :=
  match a.op with
  | .st _ _ _ => true
  | .atomic _ _ => true
  | .vatomic _ _ => true
  | .queue _ => true
  | _ => false

/-- The access has performed: only its value is on the way. -/
def Access.performed (a : Access) : Bool := match a.phase with | .done _ => true | .data _ _ => true | _ => false

/-- What must stand before an arrival, a bind or a commit of the wave: its ordinary accesses and LM events (R177, R187, R296). -/
def Wave.beforeLeft (w : Wave) : Bool := w.accs.any (fun a => !a.stream && a.left) || !w.lmq.isEmpty

/-- Streaming accesses of the wave that have not taken their place. -/
def Wave.streamsLeft (w : Wave) : Bool := w.accs.any (fun a => a.stream && a.left)
/-- LM stores of the wave that have not performed: a command that reads LM waits for them (R188). -/
def Wave.lmStoresLeft (w : Wave) : Bool := w.lmq.any (fun l => !l.load)
/-- Stores and atomics of the wave that have not performed. -/
def Wave.storesLeft (w : Wave) : Bool := w.accs.any (fun a => a.writes && a.left)
def Wave.accessesLeft (w : Wave) : Bool := w.accs.any Access.left

/-- An unperformed access of the wave names another device (R186, `fence.gen`). -/
def State.remoteLeft (s : State) : Bool :=
  s.wave.accs.any (fun a => a.left && a.lanes.any (fun l =>
    match s.lookup (dieOf s.crew.core) s.crew.ctx l.va.toNat with
    | .leaf e => fpaDev (s.fpaKey (pteFrame e.pte)) ≠ s.devid.toNat
    | _ => false))

/-- An unperformed store of the wave names host memory (R186, `fence.host`). -/
def State.hostLeft (s : State) : Bool :=
  s.wave.accs.any (fun a => a.writes && a.left && a.lanes.any (fun l =>
    match s.lookup (dieOf s.crew.core) s.crew.ctx l.va.toNat with
    | .leaf e => fpaSpace (pteFrame e.pte) = 1
    | _ => false))

/-- Copies, packing commands, `mst` and `mld` of the wave that have not completed (R186, `fence.engine`). -/
def State.engineLeft (s : State) : Bool :=
  s.cmds.any (fun c => c.crew = s.crew.handle ∧ c.wave = s.wave.idx)
    || (s.coreAt s.crew.core).mops.any (fun m => m.crew = s.crew.handle ∧ m.wave = s.wave.idx ∧ m.moves)

/-! ## Hints (R209) -/

/-- The core number under which the device's L2 keeps copies of lines that are homed elsewhere. -/
def l2Agent : Nat := 256
def copyKey (agent line : Nat) : Nat := agent * 2 ^ 51 + line
def copyDefault (_ : Nat) : Copy := ⟨[], 0, 0⟩
def State.copyAt (s : State) (agent line : Nat) : Copy := Map.find copyDefault s.copies (copyKey agent line)
def State.setCopy (s : State) (agent line : Nat) (c : Copy) : State :=
  { s with copies := Map.put copyDefault s.copies (copyKey agent line) c }

/-- A lease for an agent with clock `p` on a line (R180): the home's rts rises. The F and LEASE used are this device's also where the line's
home is another device, whose clock the spec keeps within 2 ticks: DESIGN CHOICE, log entry 95. -/
def State.leaseLine (s : State) (p line : Nat) : State :=
  let l := s.line line
  s.setLine line { l with rts := Max.max (Max.max l.rts p) (s.floor + s.lease) }

/-- A line is recalled from the core that holds it exclusively when another agent asks for it (R181). -/
def State.recallLine (s : State) (core : Option Nat) (line : Nat) : State :=
  if (s.line line).excl = core then s else s.setLine line { s.line line with excl := none }

/-- A fresh copy of a line; none of a line with a poisoned sector, whose reads go to the home. -/
def State.fetchCopy (s : State) (agent line : Nat) : State :=
  if s.anyPoison (128 * line) 128 then s.setCopy agent line (copyDefault 0)
  else s.setCopy agent line ⟨s.readBytes (128 * line) 128, (s.line line).wts, (s.line line).rts⟩

/-- Whether this device may cache a line of the page (R175): own HBM unless MS or NC, a device of the same group, or host memory. -/
def State.cacheable (s : State) (x : Xl) : Bool :=
  if pteMS x.pte || pteNC x.pte then false
  else if fpaSpace x.fpa = 2 then false
  else if fpaDev x.fpa = s.devid.toNat then true
  else fpaDev x.fpa / 32 = s.devid.toNat / 32

/-- What a hint finds at its address; none where it is dropped (R209). -/
def State.hintLine (s : State) (a : Word) : Option Xl :=
  match s.lookup (dieOf s.crew.core) s.crew.ctx a.toNat with
  | .leaf l =>
    let raw := pteFrame l.pte + a.toNat % 2 ^ l.bits
    let fpa := s.fpaKey raw
    if !pteR l.pte || !(s.fpaOk raw false) || s.lost fpa || !(s.homeOpen none ⟨fpa, l.pte, l.addr⟩) then none
    else some ⟨fpa, l.pte, l.addr⟩
  | _ => none

/-- A dropped hint counts in PFDROP. -/
def State.dropHint (s : State) : State := { s with wave := { s.wave with pfdrop := s.wave.pfdrop + 1#64 } }

/-- Fetch a line with a lease, into L2 and, with `l1`, into the core's L1 (R209). -/
def State.prefetch (s : State) (x : Xl) (l1 : Bool) : State :=
  let line := lineOf x.fpa
  if !(s.cacheable x) then s
  else
    let s1 := (s.recallLine none line).leaseLine (Max.max s.wave.pts s.floor) line
    let s2 := if fpaDev x.fpa = s.devid.toNat ∧ fpaSpace x.fpa = 0 then s1 else s1.fetchCopy l2Agent line
    if l1 then s2.fetchCopy s.crew.core line else s2

/-- Pinned lines of the die that holds a line (R209): 4 MiB at most. -/
def State.pinRoom (s : State) (line : Nat) : Bool :=
  let die := Config.homeDie line % 8
  let others := ((s.pins.map (fun p => p.1)).eraseDups).filter (fun l => l != line && Config.homeDie l % 8 == die)
  others.length < 2 ^ 15

/-- A hint with its effect on the line found (R209). -/
def State.hint (s : State) (y : Bool) (a : Reg) (f : State → Xl → State) : Out :=
  s.onWave (fun s =>
    match s.hintLine (s.getS a) with
    | none => s.dropHint.advance y
    | some x => (f s x).advance y)

/-- `ldw` (R200). Loads 4 bytes sign-extended into S[D]. -/
def execLdw (y : Bool) (d : Reg) (a : Reg) (i : BitVec 9) (s : State) : Out :=
  s.loadWord y d a i 4 true

/-- `ldwn` (R200). Loads 4 bytes zero-extended into S[D]. -/
def execLdwn (y : Bool) (d : Reg) (a : Reg) (i : BitVec 9) (s : State) : Out :=
  s.loadWord y d a i 4 false

/-- `ldd` (R200). Loads 8 bytes into S[D]. -/
def execLdd (y : Bool) (d : Reg) (a : Reg) (i : BitVec 9) (s : State) : Out :=
  s.loadWord y d a i 8 false

/-- `ldbn` (R200). Loads 1 byte zero-extended into S[D]. -/
def execLdbn (y : Bool) (d : Reg) (a : Reg) (i : BitVec 9) (s : State) : Out :=
  s.loadWord y d a i 1 false

/-- `stw` (R200). Stores S[V][31:0] to memory. -/
def execStw (y : Bool) (d : Reg) (a : Reg) (i : BitVec 9) (s : State) : Out :=
  s.storeWord y d a i 4

/-- `std` (R200). Stores S[V] as 8 bytes. -/
def execStd (y : Bool) (d : Reg) (a : Reg) (i : BitVec 9) (s : State) : Out :=
  s.storeWord y d a i 8

/-- `stb` (R200). Stores S[V][7:0]. -/
def execStb (y : Bool) (d : Reg) (a : Reg) (i : BitVec 9) (s : State) : Out :=
  s.storeWord y d a i 1

/-- `vld` (R201). Gathers 32-bit values at S[A] + V[B][i]. -/
def execVld (y : Bool) (d : Reg) (a : Reg) (b : Reg) (lb : Bool) (s : State) : Out :=
  s.onWave (fun s => s.vectorWord y [(b, lb)] (some d) (fun s =>
    let ls := s.gatherLanes a b zeroLanes
    match misaligned ls with
    | some l => s.trap .align l.va
    | none => (((s.claimV d).pushAccess (.vld (s.wave.phys d)) ls false).freeUsed [(b, lb)] (some d)).advance y))

/-- `vst` (R201). Scatters 32-bit values to S[A] + V[B][i]. -/
def execVst (y : Bool) (d : Reg) (a : Reg) (b : Reg) (lb : Bool) (s : State) : Out :=
  s.onWave (fun s => s.vectorWord y [(b, lb), (d, false)] none (fun s =>
    let ls := s.gatherLanes a b (s.readV 2 d)
    match misaligned ls with
    | some l => s.trap .align l.va
    | none => ((s.pushAccess (.st 2 0#32 4) ls false).freeUsed [(b, lb)] none).advance y))

/-- `vldc` (R202). Strided vector load, ordinary or streaming. -/
def execVldc (y : Bool) (d : Reg) (a : Reg) (e : Bool) (i : BitVec 8) (s : State) : Out :=
  s.onWave (fun st => st.vectorWord y [] (some d) (fun st =>
    let ls := st.strideLanes a (sext64 i) zeroLanes
    if (st.getS a).toNat % 4 ≠ 0 then st.trap .align (st.getS a)
    else ((st.claimV d).pushAccess (.vld (st.wave.phys d)) ls e).advance y))

/-- `vstc` (R202). Strided vector store, ordinary or streaming. -/
def execVstc (y : Bool) (d : Reg) (a : Reg) (e : Bool) (i : BitVec 8) (s : State) : Out :=
  s.onWave (fun st => st.vectorWord y [(d, false)] none (fun st =>
    let ls := st.strideLanes a (sext64 i) (st.readV 2 d)
    if (st.getS a).toNat % 4 ≠ 0 then st.trap .align (st.getS a)
    else (st.pushAccess (.st 1 (i.signExtend 32) 4) ls e).advance y))

/-- `aadd` (R204). Atomic 64-bit add returning the old value. -/
def execAadd (y : Bool) (d : Reg) (a : Reg) (b : Reg) (s : State) : Out :=
  s.atomicWord y d a b (fun _ => .add) 8

/-- `amin` (R204). Atomic signed minimum. -/
def execAmin (y : Bool) (d : Reg) (a : Reg) (b : Reg) (s : State) : Out :=
  s.atomicWord y d a b (fun _ => .min) 8

/-- `amax` (R204). Atomic signed maximum. -/
def execAmax (y : Bool) (d : Reg) (a : Reg) (b : Reg) (s : State) : Out :=
  s.atomicWord y d a b (fun _ => .max) 8

/-- `aminn` (R204). Atomic unsigned minimum. -/
def execAminn (y : Bool) (d : Reg) (a : Reg) (b : Reg) (s : State) : Out :=
  s.atomicWord y d a b (fun _ => .minn) 8

/-- `amaxn` (R204). Atomic unsigned maximum. -/
def execAmaxn (y : Bool) (d : Reg) (a : Reg) (b : Reg) (s : State) : Out :=
  s.atomicWord y d a b (fun _ => .maxn) 8

/-- `aand` (R204). Atomic AND. -/
def execAand (y : Bool) (d : Reg) (a : Reg) (b : Reg) (s : State) : Out :=
  s.atomicWord y d a b (fun _ => .and) 8

/-- `aor` (R204). Atomic OR. -/
def execAor (y : Bool) (d : Reg) (a : Reg) (b : Reg) (s : State) : Out :=
  s.atomicWord y d a b (fun _ => .or) 8

/-- `axor` (R204). Atomic XOR. -/
def execAxor (y : Bool) (d : Reg) (a : Reg) (b : Reg) (s : State) : Out :=
  s.atomicWord y d a b (fun _ => .xor) 8

/-- `axchg` (R204). Atomic exchange. -/
def execAxchg (y : Bool) (d : Reg) (a : Reg) (b : Reg) (s : State) : Out :=
  s.atomicWord y d a b (fun _ => .xchg) 8

/-- `acas` (R204). Atomic compare-and-swap against S[D]. -/
def execAcas (y : Bool) (d : Reg) (a : Reg) (b : Reg) (s : State) : Out :=
  s.atomicWord y d a b (fun s => .cas (s.getS d)) 8

/-- `afadd` (R204). Atomic binary32 add rounded to nearest-even. -/
def execAfadd (y : Bool) (d : Reg) (a : Reg) (b : Reg) (s : State) : Out :=
  s.atomicWord y d a b (fun _ => .fadd) 4

/-- `vaadd` (R206). Per-lane 32-bit atomic add in ascending lane order. -/
def execVaadd (y : Bool) (d : Reg) (a : Reg) (b : Reg) (lb : Bool) (s : State) : Out :=
  s.onWave (fun s => s.vectorWord y [(b, lb), (d, false)] (some d) (fun s =>
    let ls := s.gatherLanes a b (s.readV 2 d)
    match misaligned ls with
    | some l => s.trap .align l.va
    | none => (((s.claimV d).pushAccess (.vatomic false (s.wave.phys d)) ls false).freeUsed [(b, lb)] (some d)).advance y))

/-- `vafadd` (R206). Per-lane binary32 atomic add in ascending lane order. -/
def execVafadd (y : Bool) (d : Reg) (a : Reg) (b : Reg) (lb : Bool) (s : State) : Out :=
  s.onWave (fun s => s.vectorWord y [(b, lb), (d, false)] (some d) (fun s =>
    let ls := s.gatherLanes a b (s.readV 2 d)
    match misaligned ls with
    | some l => s.trap .align l.va
    | none => (((s.claimV d).pushAccess (.vatomic true (s.wave.phys d)) ls false).freeUsed [(b, lb)] (some d)).advance y))

/-- `pref.l2` (R209). Hints a leased fetch of the line into L2. -/
def execPrefL2 (y : Bool) (a : Reg) (s : State) : Out :=
  s.hint y a (fun s x => s.prefetch x false)

/-- `pref.l1` (R209). Hints a fetch of the line into L2 and L1. -/
def execPrefL1 (y : Bool) (a : Reg) (s : State) : Out :=
  s.hint y a (fun s x => s.prefetch x true)

/-- `pref.evict` (R209). Drops the line from L1 and L2, writing a dirty copy home: the core holds it no longer. -/
def execPrefEvict (y : Bool) (a : Reg) (s : State) : Out :=
  s.hint y a (fun s x =>
    let t := if (s.line (lineOf x.fpa)).excl = some s.crew.core then s.recallLine none (lineOf x.fpa) else s
    (t.setCopy s.crew.core (lineOf x.fpa) (copyDefault 0)).setCopy l2Agent (lineOf x.fpa) (copyDefault 0))

/-- `pref.pin` (R209). Fetches the line and pins it in L2. -/
def execPrefPin (y : Bool) (a : Reg) (s : State) : Out :=
  s.hint y a (fun s x =>
    let line := lineOf x.fpa
    if s.pins.contains (line, s.crew.ctx) then s.prefetch x false
    else if s.pinRoom line then
      let s1 := s.prefetch x false
      { s1 with pins := s1.pins ++ [(line, s.crew.ctx)] }
    else s.dropHint)

/-- `pref.unpin` (R209). Ends a pin of the line. -/
def execPrefUnpin (y : Bool) (a : Reg) (s : State) : Out :=
  s.hint y a (fun s x =>
    { s with pins := s.pins.filter (fun p => p != (lineOf x.fpa, s.crew.ctx)) })

end Sys2Proof.Machine
end

