-- ==== Sys2Proof/Machine/Tile.lean ====
section
/-! DEFINITION. Tiles of the matrix engine and the packing commands: element formats (R52, R88, R89), the block conversion (R91,
R92), the planes layout (R93, R94), block partials and their combination (R144, R145), epilogues (R163, R164). -/

namespace Sys2Proof.Machine

/-- The format of a packed element (R52, R159). -/
inductive EFmt where
  | int (signed : Bool) (width : Nat)
  | flt (f : Fmt) (width : Nat)
  | code (table : Nat)
  deriving DecidableEq, Repr

def EFmt.width (f : EFmt) : Nat := match f with | .int _ w => w | .flt _ w => w | .code _ => 4

/-- Elements per 32-bit word: 1, 2, 4, 5 or 8 (R159). -/
def EFmt.per (f : EFmt) : Nat := if f.width = 32 then 1 else perLane f.width

/-- The element format of a FMT code, none where it is reserved, planes, or names an nf register that fails R38. -/
def efmt (nf : List Lane) (code : Nat) : Option EFmt :=
  match code with
  | 0x01 => some (.int true 8)
  | 0x02 => some (.int false 8)
  | 0x03 => some (.int true 16)
  | 0x08 => some (.flt binary16 16)
  | 0x09 => some (.flt bfloat16 16)
  | 0x0A => some (.flt binary32 32)
  | n =>
    if 0x10 ≤ n ∧ n ≤ 0x13 then (nfFmt (nf.getD (n - 0x10) 0#32)).map (fun p => .flt p.1 p.2)
    else if 0x18 ≤ n ∧ n ≤ 0x1B then some (.code (n - 0x18))
    else none

/-- The value of an element (R77, R78, R85, R88); `cb` holds the codebooks. -/
def EFmt.value (f : EFmt) (cb : Map (BitVec 16)) (bits : Nat) : Num :=
  match f with
  | .int signed w => Num.ofInt (if signed then (BitVec.ofNat w bits).toInt else (bits % 2 ^ w : Nat))
  | .flt g _ => g.decode bits
  | .code t => bfloat16.decode (Map.find (fun _ => 0#16) cb (16 * t + bits % 16)).toNat

/-- Bytes of a packed row of `n` elements (R159). -/
def EFmt.rowBytes (f : EFmt) (n : Nat) : Nat := 4 * ((n + f.per - 1) / f.per)

/-- The bits of element `j` of a packed row whose byte `k` is `byte k` (R89). -/
def EFmt.bitsAt (f : EFmt) (byte : Nat → Byte) (j : Nat) : Nat :=
  let word := ofBytesLE ((List.range 4).map (fun k => byte (4 * (j / f.per) + k)))
  word / 2 ^ (f.width * (j % f.per)) % 2 ^ f.width

/-- The bytes of a packed row: unoccupied bits are zero (R89). -/
def packRow (width per : Nat) (codes : List Nat) : List Byte :=
  (List.range ((codes.length + per - 1) / per)).flatMap (fun w =>
    bytesLE 4 (((codes.drop (w * per)).take per).foldr (fun e acc => e % 2 ^ width + 2 ^ width * acc) 0))

/-! ## The block conversion (R91, R92) -/

/-- The marks of R92. -/
inductive Mark where
  | plain | inf | nan
  deriving DecidableEq, Repr

/-- A converted block: its mark, E, and for each element the sign and magnitude of q. -/
structure Blk where
  mark : Mark
  e : Int
  q : List (Bool × Nat)
  deriving DecidableEq, Repr

def Num.isInf (x : Num) : Bool := match x with | .inf _ => true | _ => false

/-- floor(log2 |x|) of a finite nonzero number. -/
def Num.log2 (x : Num) : Option Int := match x with | .fin _ m e => if m = 0 then none else some (Nat.log2 m + e) | _ => none

/-- The largest exponent of the finite nonzero elements, 0 when there is none (R91, R96). -/
def maxLog2 (xs : List Num) : Int :=
  match xs.filterMap Num.log2 with
  | [] => 0
  | e :: es => es.foldl (fun a b => if a < b then b else a) e

/-- Convert a block with `M` magnitude bits (R91, R92). -/
def convBlock (M : Nat) (xs : List Num) : Blk :=
  if xs.any Num.isNan then ⟨.nan, 0, xs.map (fun _ => (false, 0))⟩
  else if xs.any Num.isInf then ⟨.inf, 0, xs.map (fun x => (x.isNeg, if x.isInf then 2 ^ M - 1 else 0))⟩
  else
    let top := maxLog2 xs
    ⟨.plain, top, xs.map (fun x =>
      match x with
      | .fin neg m e => (neg, Min.min (roundInt .rne neg m (e + (M - 1) - top)).1 (2 ^ M - 1))
      | _ => (x.isNeg, 0))⟩

/-- The sign bit of an element, a NaN's among them; a code has the sign of its entry (R85, R88). -/
def EFmt.signBit (f : EFmt) (cb : Map (BitVec 16)) (bits : Nat) : Bool :=
  match f with
  | .int signed w => signed && bits.testBit (w - 1)
  | .flt g _ => bits.testBit (g.ew + g.mw)
  | .code t => (Map.find (fun _ => 0#16) cb (16 * t + bits % 16)).getLsbD 15

/-- A NaN-marked block with the sign bits of its elements, which q keeps as R91 says of every q (R92; DEDUCED, log 41). -/
def Blk.keepSigns (b : Blk) (signs : List Bool) : Blk :=
  if b.mark = .nan then { b with q := signs.map (fun n => (n, 0)) } else b

/-! ## The block partial (R144, R92) -/

def signedQ (q : Bool × Nat) : Int := if q.1 then -(q.2 : Int) else (q.2 : Int)

/-- I_b of R144. -/
def blockInt (a b : Blk) : Int := ((a.q.zip b.q).map (fun p => signedQ p.1 * signedQ p.2)).sum

/-- The products of the infinite elements of a block with the other operand's elements: none where an infinity meets a zero, else
their signs (R92). The zero test is made on the converted integers, which are what the engine reads: an element whose q has become 0 counts as
a zero. DESIGN CHOICE, log entry 99. -/
def infProducts (a b : Blk) : List (Option Bool) :=
  (a.q.zip b.q).filterMap (fun p =>
    let ia := a.mark = .inf && p.1.2 != 0
    let ib := b.mark = .inf && p.2.2 != 0
    if ia || ib then
      if p.1.2 = 0 ∨ p.2.2 = 0 then some none else some (some (p.1.1 != p.2.1))
    else none)

/-- P_b of R144, and the partials of marked blocks of R92. Of a marked block without an infinite element the spec states no partial: a free
value of the two blocks, log entry 94. -/
def partialOf (MA MB : Nat) (a b : Blk) : Num :=
  if a.mark = .nan ∨ b.mark = .nan then .nan false
  else if a.mark = .inf ∨ b.mark = .inf then
    let ps := infProducts a b
    if ps.contains none then .nan false
    else if ps.isEmpty then binary32.decode (Config.infPartial a.q b.q).toNat
    else if ps.contains (some true) && ps.contains (some false) then .nan false
    else .inf (ps.contains (some true))
  else
    let i := blockInt a b
    if i = 0 then .fin false 0 0
    else .fin (i < 0) i.natAbs (a.e - MA + 1 + b.e - MB + 1)

/-- One step of R145: rne(binary32, c + P). -/
def addPartial (c : Lane) (p : Num) : Lane :=
  BitVec.ofNat 32 (binary32.round .rne (Num.add .rne (binary32.decode c.toNat) p).1).1

/-! ## The planes layout (R93, R94) -/

/-- Byte offset of the plane of magnitude bit `j` of a tile with `p` planes; the sign plane stands first. -/
def planeOff (p K j : Nat) : Nat := (p - j) * (16 * K)

/-- Element (row, k) of a planes tile whose bytes `byte` gives: sign and magnitude of q. -/
def planesQ (p K : Nat) (byte : Nat → Byte) (row k : Nat) : Bool × Nat :=
  let at' := row * (K / 8) + k / 8
  let bit := fun off => (byte (off + at')).getLsbD (k % 8)
  (bit 0, ((List.range p).map (fun j => if bit (planeOff p K j) then 2 ^ j else 0)).sum)

/-- The exponent entry of (row, block). -/
def planesE (K L : Nat) (byte : Nat → Byte) (row b : Nat) : BitVec 16 :=
  let o := 2 * (row * (K / L) + b)
  byte (o + 1) ++ byte o

/-- Block `b` of a row of an A tile, from its planes and its exponent array. -/
def planesBlk (p K L : Nat) (planes exps : Nat → Byte) (row b : Nat) : Blk :=
  let e := planesE K L exps row b
  let mark : Mark := if e = 0x7FFF#16 then .nan else if e = 0x7FFE#16 then .inf else .plain
  ⟨mark, e.toInt, (List.range L).map (fun i => planesQ p K planes row (b * L + i))⟩

/-- The exponent entry of a converted block (R94). -/
def Blk.entry (b : Blk) : BitVec 16 :=
  match b.mark with | .nan => 0x7FFF#16 | .inf => 0x7FFE#16 | .plain => BitVec.ofInt 16 b.e

/-- A byte made of eight bits, bit 0 first. -/
def byteOf (f : Nat → Bool) : Byte := BitVec.ofNat 8 ((List.range 8).map (fun i => if f i then 2 ^ i else 0)).sum

/-- The bytes of a planes tile and its exponent array from its rows of blocks (R93, R94, R172); rows that are not given have
q = 0, sign 0 and E = 0. -/
def packPlanes (p K L : Nat) (rows : List (List Blk)) : List Byte :=
  let q := fun (r k : Nat) => ((rows.getD r []).getD (k / L) ⟨.plain, 0, []⟩).q.getD (k % L) (false, 0)
  let plane := fun (f : Bool × Nat → Bool) =>
    (List.range 128).flatMap (fun r => (List.range (K / 8)).map (fun c => byteOf (fun i => f (q r (8 * c + i)))))
  plane (fun x => x.1)
    ++ (List.range p).flatMap (fun n => plane (fun x => x.2.testBit (p - 1 - n)))
    ++ (List.range 128).flatMap (fun r => (List.range (K / L)).flatMap (fun b =>
      bytesLE 2 ((rows.getD r []).getD b ⟨.plain, 0, []⟩).entry.toNat))

/-- What element `i` of a planes block stands for (R91, R173). -/
def Blk.unpack (b : Blk) (p i : Nat) : Num :=
  let q := b.q.getD i (false, 0)
  match b.mark with
  | .nan => .nan false
  | .inf => if q.2 = 0 then .fin q.1 0 0 else .inf q.1
  | .plain => .fin q.1 q.2 (b.e - p + 1)

/-! ## Tiles of accumulators (R35) -/

def tileZero (_ : Nat) : Lane := 0#32
def tileAt (t : Map Lane) (m n : Nat) : Lane := Map.find tileZero t (128 * m + n)

/-- The tile whose element (m, n) is `f m n`, in canonical form. -/
def mkTile (f : Nat → Nat → Lane) : Map Lane :=
  ((List.range 16384).map (fun k => (k, f (k / 128) (k % 128)))).filter (fun e => e.2 != 0#32)

/-! ## The epilogue (R163, R164) -/

/-- `act` of R164. -/
def act (code : Nat) (v : Lane) : Lane :=
  match code with
  | 0 => v
  | 1 =>
    match binary32.decode v.toNat with
    | .nan _ => nan32
    | .inf neg => if neg then 0#32 else v
    | .fin neg m _ => if neg || m == 0 then 0#32 else v
  | n =>
    match binary32.decode v.toNat with
    | .nan _ => nan32
    | .inf neg => if neg then 0x80000000#32 else v
    | .fin neg m e => if m = 0 then v else within 2 (fxActivation n neg m e) (Config.activation n v)

/-- The output of OFMT (R163): element width and code; `nf` is the nf register's format for OFMT 4 to 7. -/
def outCode (ofmt : Nat) (nf : Option (Fmt × Nat)) (v : Lane) : Nat :=
  match ofmt with
  | 0 => v.toNat
  | 1 => (binary32.convert bfloat16 .rne v.toNat).1
  | 2 => (binary32.convert binary16 .rne v.toNat).1
  | 8 => (BitVec.ofInt 8 (Num.toInt .rne (binary32.decode v.toNat) (-128) 127).1).toNat
  | _ => match nf with | some p => (binary32.convert p.1 .rne v.toNat).1 | none => 0

/-- Width in bits of an output element. -/
def outWidth (ofmt : Nat) (nf : Option (Fmt × Nat)) : Nat :=
  match ofmt with
  | 0 => 32
  | 1 => 16
  | 2 => 16
  | 8 => 8
  | _ => match nf with | some p => p.2 | none => 8

def perWord (width : Nat) : Nat := if width = 32 then 1 else perLane width

/-- Bytes of a packed output row: 128 elements (R163). -/
def outRowBytes (width : Nat) : Nat := 4 * ((128 + perWord width - 1) / perWord width)

/-- One binary32 step of the epilogue, rounded to nearest even. -/
def mul32 (a b : Lane) : Lane := BitVec.ofNat 32 (binary32.fmul .rne a.toNat b.toNat).1
def add32 (a b : Lane) : Lane := BitVec.ofNat 32 (binary32.fadd .rne a.toNat b.toNat).1

/-- The epilogue of one element (R163): `rs`, `cs` and `bias` are the present vectors' elements. -/
def epilogue (actCode : Nat) (rs cs bias : Option Lane) (v : Lane) : Lane :=
  let v1 := match rs with | some x => mul32 v x | none => v
  let v2 := match cs with | some x => mul32 v1 x | none => v1
  let v3 := match bias with | some x => add32 v2 x | none => v2
  act actCode v3

end Sys2Proof.Machine
end

