-- ==== Sys2Proof/Machine/Matrix.lean ====
section
/-! DEFINITION. Descriptors (R52 to R56), the accumulator words, the self-check words and `cbload` (R158 to R170). The engine's
own steps stand in Engine.lean. -/

namespace Sys2Proof.Machine

/-! ## Descriptors -/

/-- A tile descriptor (R52). -/
structure Td where
  rem : Bool
  stride : Nat
  fmt : Nat
  prec : Nat
  blk : Nat
  scl : Nat
  addr : Nat
  deriving DecidableEq, Repr

def tdOf (w : Word) : Td where
  rem := w.getLsbD 63
  stride := (w.extractLsb' 56 7).toNat
  fmt := (w.extractLsb' 48 8).toNat
  prec := (w.extractLsb' 42 5).toNat
  blk := (w.extractLsb' 40 2).toNat
  scl := (w.extractLsb' 47 1).toNat * 256 + (w.extractLsb' 32 8).toNat
  addr := (w.extractLsb' 0 32).toNat

/-- The block length that BLK codes. -/
def blkLen (blk : Nat) : Nat := 16 * 2 ^ blk

/-- An LM operand's address has its reserved bits clear. -/
def Td.addrOk (t : Td) : Bool := t.rem || decide (t.addr < 2 ^ 23)

/-- R53 for an A operand. -/
def Td.okA (t : Td) : Bool := t.fmt == 0 && t.blk != 3 && decide (1 ≤ t.prec) && decide (t.prec ≤ 16) && t.stride == 0 && t.addrOk

/-- The row stride of a B operand in bytes (R159). -/
def Td.rowStride (t : Td) (f : EFmt) : Nat := if t.stride = 0 then f.rowBytes 128 else 64 * t.stride

/-- R53 and R159 for a B operand. -/
def Td.okB (t : Td) (nf : List Lane) : Bool :=
  match efmt nf t.fmt with
  | none => false
  | some f => t.blk != 3 && (t.prec == 8 || t.prec == 16) && t.scl == 0 && t.addrOk
      && decide (f.rowBytes 128 ≤ t.rowStride f)

/-- A matrix issue word (R54). -/
structure Miw where
  acc : Nat
  ver : BitVec 16
  chk : Bool
  zro : Bool
  K : Nat
  /-- The bits that must be 0. -/
  reserved : Bool
  /-- KQ, CHK and ZRO are 0. -/
  plain : Bool
  deriving DecidableEq, Repr

def miwOf (w : Word) : Miw where
  acc := (w.extractLsb' 0 4).toNat
  ver := w.extractLsb' 4 16
  chk := w.getLsbD 20
  zro := w.getLsbD 21
  K := 32 * ((w.extractLsb' 24 3).toNat + 1)
  reserved := (w &&& 0xFFFFFFFFF8C00000#64) != 0#64
  plain := (w &&& 0x07300000#64) == 0#64

/-- An epilogue word (R56). -/
structure Epw where
  voff : Nat
  stride : Nat
  dest : Bool
  bias : Bool
  cols : Bool
  rows : Bool
  act : Nat
  ofmt : Nat
  reserved : Bool
  deriving DecidableEq, Repr

def epwOf (w : Word) : Epw where
  voff := 256 * (w.extractLsb' 48 16).toNat
  stride := 16 * (w.extractLsb' 32 16).toNat
  dest := w.getLsbD 11
  bias := w.getLsbD 10
  cols := w.getLsbD 9
  rows := w.getLsbD 8
  act := (w.extractLsb' 4 4).toNat
  ofmt := (w.extractLsb' 0 4).toNat
  reserved := (w &&& 0xFFFFF000#64) != 0#64

/-- Bytes of the present vectors. -/
def Epw.vecBytes (e : Epw) : Nat := 512 * ((if e.rows then 1 else 0) + (if e.cols then 1 else 0) + (if e.bias then 1 else 0))

/-- The nf format that OFMT names, if it names one. -/
def Epw.nf (e : Epw) (nf : List Lane) : Option (Fmt × Nat) :=
  if 4 ≤ e.ofmt ∧ e.ofmt ≤ 7 then nfFmt (nf.getD (e.ofmt - 4) 0#32) else none

/-- The output row stride in bytes (R56, R163). -/
def Epw.rowStride (e : Epw) (nf : List Lane) : Nat :=
  if e.stride = 0 then roundUp (outRowBytes (outWidth e.ofmt (e.nf nf))) 16 else e.stride

/-- R56 for `mst`. -/
def Epw.okMst (e : Epw) (nf : List Lane) : Bool :=
  !e.reserved && decide (e.act ≤ 3) && (decide (e.ofmt ≤ 2) || e.ofmt == 8 || (e.nf nf).isSome)
    && decide (outRowBytes (outWidth e.ofmt (e.nf nf)) ≤ e.rowStride nf)

/-- R162: the EPW of `mld` uses only DEST and ROWSTRIDE. -/
def Epw.okMld (e : Epw) : Bool :=
  !e.reserved && e.act == 0 && e.ofmt == 0 && e.vecBytes == 0 && e.voff == 0 && (e.stride == 0 || decide (512 ≤ e.stride))

/-! ## Checks on LM ranges (R53, R57, R163) -/

/-- The first offset of an LM range that lies outside the crew's allocation. -/
def Crew.lmBad (c : Crew) (off n : Nat) : Option Nat :=
  if n = 0 then none
  else if off < c.lmBase then some off
  else if c.lmBase + c.lmSize < off + n then some (Max.max off (c.lmBase + c.lmSize))
  else none

/-- Several ranges in order: the first bad offset. -/
def Crew.lmBads (c : Crew) (rs : List (Nat × Nat)) : Option Nat := rs.findSome? (fun r => c.lmBad r.1 r.2)

/-- The first offset of an LM range that cannot be read: STALE for an expired line, POISON for a poisoned sector (R211, R365). -/
def State.lmUnreadable (s : State) (core off n : Nat) : Option (Cause × Nat) :=
  (List.range n).findSome? (fun k =>
    if s.lmExpired (lmLineOf core (off + k)) then some (.stale, off + k)
    else if s.lmPoisonAt core (off + k) then some (.poison, off + k)
    else none)

/-! ## Admission to the matrix queue (R148, R150) -/

/-- The operations on an accumulator that stand before a new one: queued, parked, waiting or executing. -/
def Core.ahead (k : Core) (h acc : Nat) : Nat :=
  k.mops.countP (fun m => m.crew = h && m.acc = acc && m.stage != .checking)

/-- A suspended operation holds the accumulator: operations on it are parked, and not behind a vacant version (R151). -/
def State.accHeld (s : State) (m : MOp) : Bool :=
  !(s.crew.acc m.acc).vacant && (s.coreAt s.crew.core).mops.any (fun n => n.crew == m.crew && n.acc == m.acc && n.stage == .parked)

/-- The operation is due (R148, R151). -/
def State.mopDue (s : State) (m : MOp) : Bool :=
  let k := s.coreAt s.crew.core
  let a := s.crew.acc m.acc
  let q := BitVec.ofNat 16 (k.ahead m.crew m.acc)
  if a.vacant then m.ver == a.ver || m.ver == a.ver + 1#16 + q else !(s.accHeld m) && m.ver == a.ver + q

/-- The queue has an entry for a new operation: none is held back for released ones. -/
def Core.room (k : Core) : Bool := k.entries < 8 && !(k.mops.any (fun m => m.stage == .waiting))

/-- The operation fills its accumulator's vacant version. -/
def State.mopFills (s : State) (m : MOp) : Bool := (s.crew.acc m.acc).vacant && m.ver == (s.crew.acc m.acc).ver

/-- The destination lines of an `mst` in memory (R163, R190). -/
def State.mstLines (s : State) (m : MOp) : List Nat :=
  let e := epwOf m.w1
  if m.kind = .mst ∧ e.dest then
    (List.range 128).flatMap (fun r =>
      s.spanLines (dieOf s.crew.core) s.crew.ctx (m.w2.toNat + r * e.rowStride m.nf) (outRowBytes (outWidth e.ofmt (e.nf m.nf))))
  else []

/-- An `mst` takes the lines that it will write, under the clock of its wave (R190). -/
def State.claimMst (s : State) (m : MOp) : State × MOp :=
  let lines := s.mstLines m
  if lines.isEmpty then (s, m)
  else
    (lines.foldl (fun s l => s.ownLine s.nextCmd m.pts l) s |> fun t => { t with nextCmd := t.nextCmd + 1 },
      { m with id := s.nextCmd, owned := lines })

/-- The operation enters: behind a vacant version it is parked with its accumulator. -/
def State.enterMop (s0 : State) (m0 : MOp) : State :=
  let s := (s0.claimMst m0).1
  let m := (s0.claimMst m0).2
  let parked := (s.crew.acc m.acc).vacant && !(s.mopFills m)
  let s1 := s.updCore s.crew.core (fun k => { k with mops := k.mops ++ [{ m with stage := if parked then .parked else .queued }] })
  if s.mopFills m then
    let s2 := s1.setCrew (s1.crew.setAcc m.acc { s1.crew.acc m.acc with vacant := false })
    (s2.releaseParked s2.crew m.acc).refill s.crew.core 8
  else s1

/-- The issuing wave's operation enters the queue if it is granted, due and finds an entry; else the wave waits: a version wait is a
blocking point, a wait for tokens or for an entry is not (R148, R150). At a version wait the wave of a crew that is being taken stays (R286). -/
def State.seekEntry (s : State) : State :=
  match s.wave.mreq with
  | none => s
  | some (m, granted) =>
    if !granted then s.wait .other
    else if s.wave.block = some .version ∧ s.heldAtWait then s
    else if !(s.mopDue m) then s.wait .version
    else if !((s.coreAt s.crew.core).room) then s.wait .other
    else
      let force := if m.kind = .mma then false else s.wave.chkForce
      let s1 := s.setWave { s.wave with mreq := none, chkForce := force }
      (s1.enterMop m).advance m.yield

/-- Grant the oldest token request of a die if its pool holds the cost (R150, R283). -/
def State.grantOldest (s : State) (die : Nat) : State :=
  let d := s.dieAt die
  match d.requests with
  | [] => s
  | (h, i, cost) :: rest =>
    if cost ≤ d.ptok then
      let s1 := s.setDie die { d with requests := rest, ptok := d.ptok - cost }
      s1.atWave h i (fun t => match t.wave.mreq with
        | some (m, _) => (t.setWave { t.wave with mreq := some (m, true) }).seekEntry
        | none => t)
    else s

/-- An accumulator operation as captured at issue (R50, R158). -/
def State.capture (s : State) (kind : MKind) (y : Bool) (w0 w1 w2 : Word) : MOp where
  kind := kind
  crew := s.crew.handle
  wave := s.wave.idx
  pc := s.wave.pc
  acc := (miwOf w0).acc
  ver := (miwOf w0).ver
  w0 := w0
  w1 := w1
  w2 := w2
  mrwin := s.wave.mrwin
  pts := s.wave.pts
  since := s.wseq
  nf := s.wave.nf.toList
  cb := s.wave.cb
  checked := false
  rho := 0
  bad := []
  stage := .queued
  yield := y
  vecs := []
  rows := 0
  stored := []
  id := 0
  owned := []

/-- The checks that every accumulator word makes on its MIW: OPERAND for the accumulator, then FORMAT (R158). -/
def State.withMiw (s : State) (w0 : Word) (mma : Bool) (k : Miw → State) : State :=
  let m := miwOf w0
  if s.crew.naccs ≤ m.acc then s.trap .operand 0#64
  else if m.reserved || (!mma && !m.plain) then s.trap .format 0#64
  else k m

/-- Issue an operation that needs no tokens. -/
def State.issueMop (s : State) (m : MOp) : State :=
  match s.wave.mreq with
  | some _ => s
  | none => (s.setWave { s.wave with mreq := some (m, true) }).seekEntry

/-- The LM ranges that the operands of an `mma` occupy (R159): for A the planes and the exponent array, for B its rows. -/
def mmaRanges (K : Nat) (ta tb : Td) (f : EFmt) : List (Nat × Nat) :=
  (if ta.rem then [] else [(ta.addr, (ta.prec + 1) * 16 * K), (ta.addr + 256 * ta.scl, 256 * (K / blkLen ta.blk))])
    ++ (if tb.rem then [] else [(tb.addr, K * tb.rowStride f)])

/-- The token cost of an `mma` (R150). -/
def mmaCost (p w K : Nat) (checked : Bool) : Nat := p * w * K / 256 * (if checked then 2 else 1)

/-- `mma` after its checks (R153, R160): it is counted, selected, and asks for its tokens. One that was waiting for tokens or an entry as its
wave entered a handler is issued again after it, and counted again: DESIGN CHOICE, log entry 100. -/
def State.issueMma (s : State) (y : Bool) (w0 w1 w2 : Word) (m : Miw) (ta tb : Td) : State :=
  match s.wave.mreq with
  | some _ => s
  | none =>
    let k := s.coreAt s.crew.core
    let c := (k.mmaCount + 1) % 2 ^ 32
    let checked := m.chk || s.wave.chkForce || c % k.mchkn.toNat == 0
    let op := { s.capture .mma y w0 w1 w2 with checked := checked, rho := c % 127 + 1 }
    let die := dieOf s.crew.core
    let s1 := s.setCore s.crew.core { k with mmaCount := c }
    let d := s1.dieAt die
    let s2 := s1.setDie die { d with requests := d.requests ++ [(s.crew.handle, s.wave.idx, mmaCost ta.prec tb.prec m.K checked)] }
    let s3 := s2.setWave { s2.wave with mreq := some (op, false), block := some .other }
    if d.requests.isEmpty then s3.grantOldest die else s3

/-- `mma` (R160). Issues an accumulate of A x B into the accumulator named by the MIW, after the wave's LM stores where it reads LM (R188). -/
def execMma (y : Bool) (d : Reg) (a : Reg) (b : Reg) (s : State) : Out :=
  s.onWave (fun s =>
    let ta := tdOf (s.getS a)
    let tb := tdOf (s.getS b)
    s.withMiw (s.getS d) true (fun m =>
      match efmt s.wave.nf.toList tb.fmt with
      | none => s.trap .format 0#64
      | some f =>
        if !ta.okA || !(tb.okB s.wave.nf.toList) || ta.blk != tb.blk || m.K % blkLen ta.blk != 0 then s.trap .format 0#64
        else if !ta.rem && ta.addr % 64 != 0 then s.trap .align (BitVec.ofNat 64 ta.addr)
        else if !tb.rem && tb.addr % 64 != 0 then s.trap .align (BitVec.ofNat 64 tb.addr)
        else
          match s.crew.lmBads (mmaRanges m.K ta tb f) with
          | some off => s.trap .protLd (BitVec.ofNat 64 off)
          | none =>
            if (!ta.rem || !tb.rem) && s.wave.lmStoresLeft then s.wait .other
            else s.issueMma y (s.getS d) (s.getS a) (s.getS b) m ta tb))

/-- `mzero` (R161). Issues a zeroing of an accumulator. -/
def execMzero (y : Bool) (d : Reg) (s : State) : Out :=
  s.onWave (fun s => s.withMiw (s.getS d) false (fun _ => s.issueMop (s.capture .mzero y (s.getS d) 0#64 0#64)))

/-- The address rules of R162 for `mst` and `mld`: FORMAT, then ALIGN, then the allocation. -/
def State.withTileAddr (s : State) (dest : Bool) (x : Word) (bytes : Nat) (bad : Cause) (k : State) : State :=
  if if dest then 2 ^ 56 ≤ x.toNat else 2 ^ 23 ≤ x.toNat then s.trap .format 0#64
  else if x.toNat % 16 ≠ 0 then s.trap .align x
  else if dest then k
  else match s.crew.lmBad x.toNat bytes with
    | some off => s.trap bad (BitVec.ofNat 64 off)
    | none => k

/-- `mst` (R163). Issues an epilogue store of an accumulator; the present vectors are read after the wave's LM stores (R188). Where the LM
destination and the vectors both lie outside the allocation PROT_ST of the destination comes first: DESIGN CHOICE, log entry 102. -/
def execMst (y : Bool) (d : Reg) (a : Reg) (b : Reg) (s : State) : Out :=
  s.onWave (fun s =>
    let e := epwOf (s.getS a)
    let nf := s.wave.nf.toList
    s.withMiw (s.getS d) false (fun _ =>
      if !(e.okMst nf) then s.trap .format 0#64
      else s.withTileAddr e.dest (s.getS b) (128 * e.rowStride nf) .protSt
        (match s.crew.lmBad e.voff e.vecBytes with
        | some off => s.trap .protLd (BitVec.ofNat 64 off)
        | none =>
          if e.vecBytes != 0 && s.wave.lmStoresLeft then s.wait .other
          else match s.lmUnreadable s.crew.core e.voff e.vecBytes with
          | some (c, off) => s.trap c (BitVec.ofNat 64 off)
          | none => s.issueMop { s.capture .mst y (s.getS d) (s.getS a) (s.getS b) with
              vecs := s.lmRead s.crew.core e.voff e.vecBytes })))

/-- `mld` (R162). Issues a load of a tile into an accumulator, from LM after the wave's LM stores (R188). The range of an LM source is taken
to end with its last row's 512 bytes: DESIGN CHOICE, log entry 101. -/
def execMld (y : Bool) (d : Reg) (a : Reg) (b : Reg) (s : State) : Out :=
  s.onWave (fun s =>
    let e := epwOf (s.getS a)
    let stride := if e.stride = 0 then 512 else e.stride
    s.withMiw (s.getS d) false (fun _ =>
      if !e.okMld then s.trap .format 0#64
      else s.withTileAddr e.dest (s.getS b) (127 * stride + 512) .protLd
        (if !e.dest && s.wave.lmStoresLeft then s.wait .other else s.issueMop (s.capture .mld y (s.getS d) (s.getS a) (s.getS b)))))

/-- The status word of an accumulator (R35). -/
def Acc.word (a : Acc) : Word := BitVec.ofNat 64 (a.prog * 2 ^ 20 + (if a.suspect then 2 ^ 16 else 0) + a.ver.toNat)

/-- A wave that sees an accumulator's version is ordered after the operations that completed on it (R149). -/
def State.seeAcc (s : State) (n : Nat) : State := s.setWave { s.wave with pts := Max.max s.wave.pts (s.crew.acc n).clock }

/-- `mver` (R166). Returns an accumulator's status word. -/
def execMver (y : Bool) (d : Reg) (a : Reg) (s : State) : Out :=
  s.onWave (fun s =>
    if s.crew.naccs ≤ a.toNat then s.trap .operand 0#64
    else ((s.seeAcc a.toNat).setS d (s.crew.acc a.toNat).word).advance y)

/-- `mwait` (R167). Waits until an accumulator reaches a version. -/
def execMwait (y : Bool) (d : Reg) (s : State) : Out :=
  s.onWave (fun s => s.withMiw (s.getS d) false (fun m =>
    if ((s.crew.acc m.acc).ver - m.ver).toNat < 32768 then (s.seeAcc m.acc).advance y else s.wait .mwait))

/-- `mchk.force` (R168). Selects the wave's next mma for a check. -/
def execMchkForce (y : Bool) (s : State) : Out :=
  s.onWave (fun s => (s.setWave { s.wave with chkForce := true }).advance y)

/-- `mchk.status` (R168). Returns the core's check status. -/
def execMchkStatus (y : Bool) (d : Reg) (s : State) : Out :=
  s.onWave (fun s =>
    let k := s.coreAt s.crew.core
    let v := k.checks % 2 ^ 32 * 2 ^ 32 + Min.min k.mismatches 65535 * 2 ^ 16 + (if s.wave.chkForce then 2 ^ 10 else 0)
      + k.spareRows * 2 ^ 8
    (s.setS d (BitVec.ofNat 64 v)).advance y)

/-- `mchk.period` (R168). Sets the core's MCHKN. -/
def execMchkPeriod (y : Bool) (a : Reg) (s : State) : Out :=
  s.onWave (fun s =>
    let n := s.getS a
    if n.toNat < 1 ∨ 4096 < n.toNat then s.trap .operand 0#64
    else (s.updCore s.crew.core (fun k => { k with mchkn := n })).advance y)

/-- `cbload` (R170). Loads a codebook table from memory. -/
def execCbload (y : Bool) (d : Reg) (a : Reg) (s : State) : Out :=
  s.onWave (fun s =>
    let addr := s.getS a
    if 3 < d.toNat then s.trap .operand 0#64
    else if addr.toNat % 32 ≠ 0 then s.trap .align addr
    else (s.pushAccess (.cb d.toNat) [⟨0, addr, 0#64, 0#32⟩] false).advance y)

end Sys2Proof.Machine
end

