-- ==== Sys2Proof/Machine/Lm.lean ====
section
/-! DEFINITION. The words of local memory (R203, R210 to R218): vector loads and stores with full-empty modes, segments, renewal
and fills. -/

namespace Sys2Proof.Machine

/-! ## The LM events of one word (R187, R189, R203, R211) -/

/-- Put an access in its place in program order. -/
def insertAccess (l : List Access) (a : Access) : List Access := l.filter (fun b => b.id < a.id) ++ [a] ++ l.filter (fun b => a.id < b.id)

/-- The granules that a wait-and-clear word has emptied are full again: a word that faults performs no lane (R198). -/
def State.lmGiveBack (s : State) (l : LmAccess) : State :=
  if l.mode = 2 then (l.lanes.filter (fun e => !l.todo.contains e)).foldl (fun s e => s.lmSetFull s.crew.core e.2.1 true) s else s

/-- An LM read that meets a data fault (R349): it is reported as a load-class fault with LM offset `off`; its lanes, if it has any,
become undefined (R198). -/
def State.lmFault (s : State) (l : LmAccess) (c : Cause) (lane off : Nat) : State :=
  let op : AccOp := if l.lanes.isEmpty then .ld 0#7 4 false else .vld l.phys
  let a : Access := ⟨l.id, l.pc, l.seq, op, [⟨lane, BitVec.ofNat 64 off, 0#64, 0#32⟩], false, l.inh, .data c lane, s.nanos⟩
  let w := if l.lanes.isEmpty then s.wave
    else s.wave.landV l.phys (l.lanes.map (fun e => (e.1, Config.undefLane s.fresh 5 e.1)))
  { s.lmGiveBack l with wave := { w with accs := insertAccess w.accs a }, fresh := s.fresh + 1 }

/-- A load lane whose granule is empty waits (R189, R203). -/
def State.lmWaits (s : State) (l : LmAccess) (e : Nat × Nat × Lane) : Bool := l.load && l.mode != 0 && !(s.lmFullAt s.crew.core e.2.1)

/-- The fault of a load lane that does not wait (R211, R365). -/
def State.lmLaneFault (s : State) (l : LmAccess) (e : Nat × Nat × Lane) : Option (Cause × Nat × Nat) :=
  if !l.load || s.lmWaits l e then none
  else if s.lmExpired (lmLineOf s.crew.core e.2.1) then some (.stale, e.1, e.2.1)
  else if s.lmPoisonAt s.crew.core e.2.1 then some (.poison, e.1, e.2.1)
  else none

/-- The lanes that perform as one: those of a granule on whose full bit a load acts (R203), or a single lane. -/
def LmAccess.group (l : LmAccess) (e : Nat × Nat × Lane) : List (Nat × Nat × Lane) :=
  if l.load && l.mode != 0 then l.todo.filter (fun f => f.2.1 / 16 == e.2.1 / 16) else [e]

/-- A store word that covers a whole sector clears its poison (R198). -/
def State.lmCleanLanes (s : State) (core : Nat) (lanes : List (Nat × Nat × Lane)) : State :=
  lanes.foldl (fun s e =>
    if e.2.1 % 32 = 0 ∧ (List.range 8).all (fun k => lanes.any (fun f => f.2.1 == e.2.1 + 4 * k)) then s.lmSetPoison core e.2.1 false else s) s

/-- The clock of an LM word: that which a fence of its last writer gave it (R186, R188). -/
def State.lmClockAt (s : State) (core off : Nat) : Nat := Map.find (fun _ => 0) s.lmClock (lmKey core off / 4)
def State.setLmClock (s : State) (core off v : Nat) : State := { s with lmClock := Map.put (fun _ => 0) s.lmClock (lmKey core off / 4) v }

/-- The clock that a load lane takes over: of its word, and where it waits on a full bit of all words of its granule. -/
def State.lmSeen (s : State) (l : LmAccess) (off : Nat) : Nat :=
  let core := s.crew.core
  if l.mode = 0 then s.lmClockAt core off
  else (List.range 4).foldl (fun p k => Max.max p (s.lmClockAt core (off / 16 * 16 + 4 * k))) 0

/-- Load lanes perform: each is an LM event, their values land, and a wait-and-clear load empties the granule after them (R187, R203). -/
def State.lmLoadLanes (s : State) (l : LmAccess) (g : List (Nat × Nat × Lane)) : State :=
  let core := s.crew.core
  let s1 := g.foldl (fun s e => s.lmEvent core e.2.1 false) s
  let s2 := match g with | e :: _ => if l.mode = 2 then s1.lmSetFull core e.2.1 false else s1 | [] => s1
  let w := s2.wave.landV l.phys (g.map (fun e => (e.1, BitVec.ofNat 32 (ofBytesLE (s1.lmRead core e.2.1 4)))))
  s2.setWave { w with pts := g.foldl (fun p e => Max.max p (s.lmSeen l e.2.1)) w.pts }

/-- A store lane performs; `last` says that the word has no further lane in its granule, whose full bit it then sets or clears, once
(R187, R203). -/
def State.lmStoreLane (s : State) (l : LmAccess) (e : Nat × Nat × Lane) (last : Bool) : State :=
  let core := s.crew.core
  let s1 := (s.lmEvent core e.2.1 true).lmWrite core e.2.1 (bytesLE 4 e.2.2.toNat)
  let s2 := s1.setLmClock core e.2.1 s1.wave.lmFence
  if l.mode != 0 && last then s2.lmSetFull core e.2.1 (l.mode == 1) else s2

/-- Perform lane `e` of a word, with the lanes that perform as one with it; what is left of the word. -/
def State.lmLane (s : State) (l : LmAccess) (e : Nat × Nat × Lane) : State × Option LmAccess :=
  if s.lmWaits l e then (s, some l)
  else
    let g := l.group e
    let rest := l.todo.filter (fun f => !g.contains f)
    let s1 := if l.load then s.lmLoadLanes l g else s.lmStoreLane l e (!rest.any (fun f => f.2.1 / 16 == e.2.1 / 16))
    if rest.isEmpty then (if l.load then s1 else s1.lmCleanLanes s.crew.core l.lanes, none) else (s1, some { l with todo := rest })

/-- Perform the lanes of a list that are left of a word and do not wait. -/
def State.lmLanes (s : State) (l : LmAccess) (es : List (Nat × Nat × Lane)) : State × Option LmAccess :=
  match es with
  | [] => (s, some l)
  | e :: rest =>
    if !l.todo.contains e then State.lmLanes s l rest
    else
      match s.lmLane l e with
      | (s1, none) => (s1, none)
      | (s1, some l1) => State.lmLanes s1 l1 rest

/-- The lowest lane of a word that faults now, in place of its lanes (R198, R211). -/
def State.lmWordFault (s : State) (l : LmAccess) : Option (Cause × Nat × Nat) := l.todo.findSome? (s.lmLaneFault l)

/-- Perform what an LM word can: every lane that need not wait. -/
def State.lmRun (s : State) (l : LmAccess) : State × Option LmAccess :=
  match s.lmWordFault l with
  | some (c, lane, off) => (s.lmFault l c lane off, none)
  | none => s.lmLanes l l.todo

/-- Perform one lane of an LM word that does not wait; the lanes of a word stand in no order (R187). -/
def State.lmStep (s : State) (l : LmAccess) : State × Option LmAccess :=
  match s.lmWordFault l with
  | some (c, lane, off) => (s.lmFault l c lane off, none)
  | none =>
    let able := l.todo.filter (fun e => !s.lmWaits l e)
    match able[Config.lanePick s.fresh able.length % able.length]? with
    | some e => ({ (s.lmLane l e).1 with fresh := s.fresh + 1 }, (s.lmLane l e).2)
    | none => (s, some l)

/-- An LM load stands behind the wave's earlier ordinary loads, so that a wave observes what another fences in its order (R186, R188). -/
def State.lmTurn (s : State) (l : LmAccess) : Bool :=
  !l.load || s.wave.accs.all (fun a => decide (l.id ≤ a.id) || a.inh != l.inh || a.stream || !a.loadClass || !a.left
    || decide (a.phase = .held) || s.transFaulty a)

/-- Issue an LM word: its lanes perform later, after those of the wave's earlier LM words (R187). -/
def State.issueLm (s : State) (load : Bool) (mode phys : Nat) (todo : List (Nat × Nat × Lane)) : State :=
  let w := s.wave
  let l : LmAccess := ⟨w.nextId, w.pc, w.issued, load, mode, phys, todo, todo, w.inh⟩
  { s with wave := { w with nextId := w.nextId + 1, lmq := w.lmq ++ [l] } }

/-- The checks of R203 on the lanes of an LM word, then its issue. -/
def State.lmWord (s : State) (y : Bool) (d : Reg) (srcs : List (Reg × Bool)) (load : Bool) (mode : Nat)
    (offs : State → Nat → Word) : Out :=
  let srcs' := if load then srcs else srcs ++ [(d, false)]
  let dst := if load then some d else none
  s.onWave (fun s => s.vectorWord y srcs' dst (fun s =>
    if mode = 3 then s.trap .illegal 0#64
    else
      let data := s.readV 2 d
      let ls := s.wave.lanes.map (fun i => (i, (offs s i), data.getD i 0#32))
      match ls.find? (fun e => e.2.1.toNat % 4 ≠ 0) with
      | some e => s.trap .align e.2.1
      | none =>
        match ls.find? (fun e => (s.crew.lmBad e.2.1.toNat 4).isSome) with
        | some e => s.trap (if load then .protLd else .protSt) e.2.1
        | none =>
          let todo := ls.map (fun e => (e.1, e.2.1.toNat, e.2.2))
          let s1 := if load then s.claimV d else s
          ((s1.issueLm load mode (s.wave.phys d) todo).freeUsed srcs dst).advance y))

/-- Gathered LM offsets: S[A] + zext(V[B][i]). -/
def gatherOff (a b : Reg) (s : State) (i : Nat) : Word := s.getS a + zext64 ((s.readV 1 b).getD i 0#32)
/-- Strided LM offsets: S[A] + 4 * stride * i. -/
def strideOff (a : Reg) (stride : Nat) (s : State) (i : Nat) : Word := s.getS a + BitVec.ofNat 64 (4 * stride * i)

/-- `vlld` (R203). Gathers lanes from LM offsets. -/
def execVlld (y : Bool) (d : Reg) (a : Reg) (b : Reg) (lb : Bool) (s : State) : Out :=
  s.lmWord y d [(b, lb)] true 0 (gatherOff a b)

/-- `vlst` (R203). Scatters lanes to LM offsets. -/
def execVlst (y : Bool) (d : Reg) (a : Reg) (b : Reg) (lb : Bool) (s : State) : Out :=
  s.lmWord y d [(b, lb)] false 0 (gatherOff a b)

/-- A strided LM word: a stride of 0 raises OPERAND (R203), unless the mask is empty (R37). -/
def State.lmStrided (s : State) (y : Bool) (d a : Reg) (e : BitVec 2) (i : BitVec 7) (load : Bool) : Out :=
  if i = 0#7 then s.onWave (fun s => if s.wave.maskEmpty then s.advance y else s.trap (if e = 3#2 then .illegal else .operand) 0#64)
  else s.lmWord y d [] load e.toNat (strideOff a i.toNat)

/-- `vlldc` (R203). Strided LM load in plain, wait-full or wait-and-clear mode. -/
def execVlldc (y : Bool) (d : Reg) (a : Reg) (e : BitVec 2) (i : BitVec 7) (s : State) : Out :=
  s.lmStrided y d a e i true

/-- `vlstc` (R203). Strided LM store in plain, set-full or set-empty mode. -/
def execVlstc (y : Bool) (d : Reg) (a : Reg) (e : BitVec 2) (i : BitVec 7) (s : State) : Out :=
  s.lmStrided y d a e i false

/-! ## Segments (R213 to R217) -/

/-- The lowest free place of `n` bytes from `base` up, the segments in ascending order (R213). -/
def findGap (base top n : Nat) (segs : List Seg) : Option Nat :=
  match segs with
  | [] => if base + n ≤ top then some base else none
  | g :: rest => if base + n ≤ g.off then some base else findGap (Max.max base (g.off + g.size)) top n rest

def insertSeg (l : List Seg) (g : Seg) : List Seg := l.filter (fun h => h.off < g.off) ++ [g] ++ l.filter (fun h => g.off < h.off)

/-- Held bytes of a core, over all its crews (R39, R213). -/
def State.heldBytes (s : State) (core : Nat) : Nat :=
  ((s.allCrews.filter (fun c => c.core = core ∧ c.state ≠ .saved)).map (fun c =>
    ((c.segs.filter (fun g => g.held)).map (fun g => g.size)).sum)).sum

/-- Zero and stamp a range of lines and make its granules empty (R213, R336). -/
def State.lmZero (s : State) (core off n : Nat) : State :=
  let s1 := s.lmWrite core off (List.replicate n 0#8)
  (List.range (n / 16)).foldl (fun s k => s.lmSetFull core (off + 16 * k) false) s1

/-- `lmalloc` (R213). -/
def State.lmalloc (s : State) (y : Bool) (d a : Reg) (held : Bool) : Out :=
  s.onWave (fun s =>
    let n := roundUp (s.getS a).toNat 256
    if n = 0 then s.trap .operand 0#64
    else if !s.wave.lmq.isEmpty then s.wait .other
    else
      match findGap s.crew.lmBase (s.crew.lmBase + s.crew.lmSize) n s.crew.segs with
      | none => s.trap .lmfull 0#64
      | some off =>
        if 16 ≤ s.crew.segs.length ∨ (held ∧ lmHeldMax < s.heldBytes s.crew.core + n) then s.trap .lmfull 0#64
        else
          let s1 := s.lmZero s.crew.core off n
          let s2 := s1.setCrew { s1.crew with segs := insertSeg s1.crew.segs ⟨off, n, held⟩ }
          (s2.setS d (BitVec.ofNat 64 off)).advance y)

/-- `lmalloc.t` (R213). Carves a zeroed transient LM segment. -/
def execLmallocT (y : Bool) (d : Reg) (a : Reg) (s : State) : Out := s.lmalloc y d a false

/-- `lmalloc.h` (R213). Carves a zeroed held LM segment. -/
def execLmallocH (y : Bool) (d : Reg) (a : Reg) (s : State) : Out := s.lmalloc y d a true

/-- The age that a held line shows: free from 0 to LMRETN / 2, and no more than the time since its last stamp (R214). -/
def State.heldAgeOf (s : State) (line : Nat) : Nat :=
  Config.heldAge s.fresh line % (Min.min (s.lmretn / 2) (s.lmAge line) + 1)

/-- The lines of a range. -/
def lmLines (core off n : Nat) : List Nat :=
  if n = 0 then [] else (List.range (lmLineOf core (off + n - 1) - lmLineOf core off + 1)).map (fun k => lmLineOf core off + k)

/-- A held line becomes transient with the age it has (R215). -/
def State.unhold (s : State) (line : Nat) : State :=
  { s with
    lmStamp := Map.put lmEpoch s.lmStamp line (s.micros - s.heldAgeOf line)
    lmMark := Map.put noPoison s.lmMark line false }

/-- `lmfree` (R215). Ends a segment, leaving its bytes transient. -/
def execLmfree (y : Bool) (a : Reg) (s : State) : Out :=
  s.onWave (fun s =>
    match s.crew.segs.find? (fun g => g.off = (s.getS a).toNat) with
    | none => s.trap .operand 0#64
    | some g =>
      let s1 := if g.held then (lmLines s.crew.core g.off g.size).foldl State.unhold s else s
      (s1.setCrew { s1.crew with segs := s1.crew.segs.filter (fun h => h.off != g.off) }).advance y)

/-- A data fault of `lmrenew` or `fefill.full`: load-class, with no destination (R216, R218, R351). -/
def State.lmStale (s : State) (off : Nat) : State :=
  let w := s.wave
  let l : LmAccess := ⟨w.nextId, w.pc, w.issued, true, 0, 0, [], [], w.inh⟩
  { s with wave := { w with nextId := w.nextId + 1 } }.lmFault l .stale 0 off

/-- `lmrenew` (R216). Renews every LM line of a range. -/
def execLmrenew (y : Bool) (a : Reg) (b : Reg) (s : State) : Out :=
  s.onWave (fun s =>
    let off := (s.getS a).toNat
    let n := (s.getS b).toNat
    match s.crew.lmBad off n with
    | some o => s.trap .protLd (BitVec.ofNat 64 o)
    | none =>
      if !s.wave.lmq.isEmpty then s.wait .other
      else
        let ls := lmLines s.crew.core off n
        let good := ls.takeWhile (fun l => !(s.lmExpired l))
        let s1 := good.foldl State.lmStampLine s
        match ls.find? (fun l => s.lmExpired l) with
        | none => s1.advance y
        | some l => (s1.lmStale (Max.max off (256 * (l - lmLineOf s.crew.core 0)))).advance y)

/-- `lmage` (R217). Returns the age and state of an LM line. -/
def execLmage (y : Bool) (d : Reg) (a : Reg) (s : State) : Out :=
  s.onWave (fun s =>
    let off := (s.getS a).toNat
    match s.crew.lmBad off 1 with
    | some _ => s.trap .protLd (s.getS a)
    | none =>
      let line := lmLineOf s.crew.core off
      let held := s.crew.segs.any (fun g => g.held && g.off ≤ off && off < g.off + g.size)
      let age := if held then s.heldAgeOf line else s.lmAge line
      let v :=
        if s.lmExpired line then 2 ^ 33 + 0x3FFF
        else (if held then 2 ^ 32 else 0) + (s.lmretn - lmGuard - age) * 2 ^ 16 + age
      (s.setS d (BitVec.ofNat 64 v)).advance y)

/-- The words of a granule that the wave sets full or empty take over the clock of its last fence (R186, R188). -/
def State.fenceGranule (s : State) (off : Nat) : State :=
  if s.wave.lmFence = 0 then s
  else (List.range 4).foldl (fun s k => s.setLmClock s.crew.core (off + 4 * k) (Max.max (s.lmClockAt s.crew.core (off + 4 * k)) s.wave.lmFence)) s

/-- `fefill` (R218). -/
def State.fefill (s : State) (y : Bool) (d a : Reg) (full : Bool) : Out :=
  s.onWave (fun s =>
    let off := (s.getS d).toNat
    let n := (s.getS a).toNat
    if off % 16 ≠ 0 then s.trap .align (s.getS d)
    else if n % 16 ≠ 0 then s.trap .align (s.getS a)
    else
      match s.crew.lmBad off n with
      | some o => s.trap .protSt (BitVec.ofNat 64 o)
      | none =>
        if !s.wave.lmq.isEmpty then s.wait .other
        else
          match (if full then (lmLines s.crew.core off n).find? (fun l => s.lmExpired l) else none) with
          | some l => (s.lmStale (Max.max off (256 * (l - lmLineOf s.crew.core 0)))).advance y
          | none => ((List.range (n / 16)).foldl (fun s k => (s.lmSetFull s.crew.core (off + 16 * k) full).fenceGranule (off + 16 * k)) s).advance y)

/-- `fefill.empty` (R218). Sets every granule of a range empty. -/
def execFefillEmpty (y : Bool) (d : Reg) (a : Reg) (s : State) : Out := s.fefill y d a false

/-- `fefill.full` (R218). Sets every granule of a range full after checking expiry. -/
def execFefillFull (y : Bool) (d : Reg) (a : Reg) (s : State) : Out := s.fefill y d a true

end Sys2Proof.Machine
end

