-- ==== Sys2Proof/Machine/Copy.lean ====
section
/-! DEFINITION. The copy and packing commands (R55, R171 to R174, R219 to R227): the words that issue and observe them, and how a
command reads and writes as it runs. -/

namespace Sys2Proof.Machine

/-! ## Copy control words (R55) -/

structure Xcw where
  len : Nat
  tag : Nat
  fe : Bool
  st : Bool
  dir : Nat
  sfmt : Nat
  prec : Nat
  blk : Nat
  reserved : Bool
  deriving DecidableEq, Repr

def xcwOf (w : Word) : Xcw where
  len := (w.extractLsb' 0 32).toNat
  tag := (w.extractLsb' 32 6).toNat
  fe := w.getLsbD 38
  st := w.getLsbD 39
  dir := (w.extractLsb' 40 2).toNat
  sfmt := (w.extractLsb' 42 8).toNat
  prec := (w.extractLsb' 50 5).toNat
  blk := (w.extractLsb' 55 2).toNat
  reserved := (w.extractLsb' 57 7) != 0#7

def Xcw.srcLm (x : Xcw) : Bool := x.dir == 1 || x.dir == 3
def Xcw.dstLm (x : Xcw) : Bool := x.dir == 0 || x.dir == 3
/-- The FORMAT rules that every command shares. -/
def Xcw.ok (x : Xcw) : Bool := !x.reserved && !(x.fe && !x.dstLm)
/-- A command that packs nothing: its packing fields are 0. -/
def Xcw.plain (x : Xcw) : Bool := x.ok && x.sfmt == 0 && x.prec == 0 && x.blk == 0
/-- The low half of LEN: a row length, or the rows of a matrix. -/
def Xcw.lo (x : Xcw) : Nat := x.len % 65536
/-- The high half of LEN: a row count, or K. -/
def Xcw.hi (x : Xcw) : Nat := x.len / 65536

/-! ## What a command moves -/

/-- Destination words of 4 bytes that a command writes, one after another; a packing command counts as one unit. -/
def Cmd.total (c : Cmd) : Nat :=
  let x := xcwOf c.xcw
  match c.kind with
  | .copy => x.len / 4
  | .fill => x.len / 4
  | .gath => x.lo / 4 * x.hi
  | .scat => x.lo / 4 * x.hi
  | .back => x.lo / 4 * x.hi
  | .cbexp => x.len / 2
  | .pack => 1
  | .unpack => 1

/-- A side of a word on its way: a virtual address, an LM offset, or a constant source. -/
inductive Side where
  | mem (va : Nat) | lm (off : Nat) | value (v : Lane)
  deriving DecidableEq, Repr

def side (lm : Bool) (a : Nat) : Side := if lm then .lm a else .mem (a % 2 ^ 64)

/-- An entry of an address list (R223), with its two low bits cleared; none for all ones. One that lies in a poisoned sector is used as it
stands: DESIGN CHOICE, log entry 96. -/
def State.listEntry (s : State) (since core off : Nat) : Except Cause (Option Nat) :=
  if s.lmExpired (lmLineOf core off) then .error .stale
  else
    let v := ofBytesLE (s.lmPick since core off 8)
    .ok (if v = 2 ^ 64 - 1 then none else some (v / 4 * 4))

/-- Source and destination of word `t` of a command; none for a row that is not written (R222 to R224, R174). -/
def State.cmdSides (s : State) (c : Cmd) (t : Nat) : Except Cause (Option (Side × Side)) :=
  let x := xcwOf c.xcw
  let rw := x.lo / 4
  let src := c.src.toNat
  let dst := c.dst.toNat
  match c.kind with
  | .copy => .ok (some (side x.srcLm (src + 4 * t), side x.dstLm (dst + 4 * t)))
  | .fill => .ok (some (.value (low32 c.src), side x.dstLm (dst + 4 * t)))
  | .cbexp => .ok (some (side x.srcLm (src + 4 * (t / 4)), side x.dstLm (dst + 4 * t)))
  | .gath =>
    match s.listEntry c.since c.core (src + 8 * (t / rw)) with
    | .error e => .error e
    | .ok none => .ok (some (.value 0#32, side x.dstLm (dst + 4 * t)))
    | .ok (some e) => .ok (some (side x.srcLm (e + 4 * (t % rw)), side x.dstLm (dst + 4 * t)))
  | .scat =>
    match s.listEntry c.since c.core (dst + 8 * (t / rw)) with
    | .error e => .error e
    | .ok none => .ok none
    | .ok (some e) => .ok (some (side x.srcLm (src + 4 * t), side x.dstLm (e + 4 * (t % rw))))
  | .back =>
    match s.listEntry c.since c.core (dst + 8 * (t / rw)) with
    | .error e => .error e
    | .ok none => .ok none
    | .ok (some e) => .ok (some (side x.srcLm (src + 4 * t), side x.dstLm (e + 4 * (t % rw))))
  | .pack => .ok none
  | .unpack => .ok none

/-- The engine's read of the list entry of word `t`'s row is an LM event (R187, R233). -/
def State.touchList (s : State) (c : Cmd) (t : Nat) : State :=
  let rw := (xcwOf c.xcw).lo / 4
  match c.kind with
  | .gath => if t % rw = 0 then s.lmTouch c.core (c.src.toNat + 8 * (t / rw)) 8 false else s
  | .scat => if t % rw = 0 then s.lmTouch c.core (c.dst.toNat + 8 * (t / rw)) 8 false else s
  | .back => if t % rw = 0 then s.lmTouch c.core (c.dst.toNat + 8 * (t / rw)) 8 false else s
  | _ => s

/-- Why a word of a command cannot move now: a fault, or none for a line that another command owns or an open snapshot view. -/
abbrev Stuck := Option Cause

/-- The allocation of a command's crew. -/
def State.cmdAlloc (s : State) (c : Cmd) (off n : Nat) : Bool :=
  match s.crewAt c.crew with
  | some k => (k.lmBad off n).isNone
  | none => false

def State.cmd? (s : State) (id : Nat) : Option Cmd := s.cmds.find? (fun c => c.id = id)
def State.updCmd (s : State) (id : Nat) (f : Cmd → Cmd) : State := { s with cmds := s.cmds.map (fun k => if k.id = id then f k else k) }
def State.putCmd (s : State) (c : Cmd) : State := s.updCmd c.id (fun _ => c)

/-- The clock of a command as it runs (R179): never below F, nor below the stamps of the lines that it has read. -/
def State.cmdPts (s : State) (c : Cmd) : Nat := Max.max (Max.max c.pts s.floor) (match s.cmd? c.id with | some k => k.pts | none => 0)

/-- The engine as which a command holds lines. -/
def Cmd.owner (c : Cmd) : Owner := .engine c.id

/-- Read a source word: its value, whether its sector is poisoned, and the state after the LM event and the A bit (R211, R221,
R233, R332). -/
def State.readSide (s : State) (c : Cmd) (a : Side) : Except Stuck (Lane × Bool × State) :=
  match a with
  | .value v => .ok (v, false, s)
  | .lm off =>
    if !(s.cmdAlloc c off 4) then .error (some .protLd)
    else if s.lmExpired (lmLineOf c.core off) then .error (some .stale)
    else
      let s1 := s.lmTouch c.core off 4 false
      .ok (BitVec.ofNat 32 (ofBytesLE (s1.lmPick c.since c.core off 4)), s1.lmPoisonAt c.core off, s1)
  | .mem va =>
    match s.translate (dieOf c.core) c.ctx va .load false with
    | .error e => .error (some e)
    | .ok x =>
      if !(s.homeOpen (some c.owner) x) then .error none
      else
        let line := lineOf x.fpa
        let s1 := (s.touch x false).recallLine none line
        let p := Max.max (s1.cmdPts c) (s1.line line).wts
        let s2 := if (xcwOf c.xcw).st then s1 else (s1.leaseLine p line).updCmd c.id (fun k => { k with pts := Max.max k.pts p })
        .ok (BitVec.ofNat 32 (ofBytesLE (s2.memPick c.since x.fpa 4)), s2.isPoisoned x.fpa, s2)

/-- Find the place of a destination word, with the D bit set (R221, R199, R332). The word that `xback` adds to in LM is read, and an expired
line raises STALE (R211). -/
def State.placeSide (s : State) (c : Cmd) (a : Side) : Except Stuck (Place × State) :=
  match a with
  | .value _ => .error none
  | .lm off =>
    if !(s.cmdAlloc c off 4) then .error (some .protSt)
    else if c.kind = .back ∧ s.lmExpired (lmLineOf c.core off) then .error (some .stale)
    else .ok (.lm off, s)
  | .mem va =>
    match s.translate (dieOf c.core) c.ctx va (if c.kind = .back then .atomic else .store) false with
    | .error e => .error (some (if e = .protLd then .protSt else e))
    | .ok x =>
      if s.snapWaits x || !(s.homeOpen (some c.owner) x) then .error none
      else .ok (.mem x.fpa, s.touch x true)

/-- The value that a command writes for a source word: a pair of codebook entries for `xcbexp`, a sum for `xback`. -/
def State.cmdValue (s : State) (c : Cmd) (t : Nat) (v : Lane) (p : Place) : Lane :=
  match c.kind with
  | .cbexp =>
    let table := (xcwOf c.xcw).sfmt - 0x18
    let entry := fun (k : Nat) =>
      let e := Map.find (fun _ => 0#16) c.cb (16 * table + elem 4 v (2 * (t % 4) + k))
      if (bfloat16.decode e.toNat).isNan then 0x7FC0#16 else e
    entry 1 ++ entry 0
  | .back =>
    let old : Lane := match p with
      | .mem fpa => BitVec.ofNat 32 (s.readMem fpa 4)
      | .lm off => BitVec.ofNat 32 (ofBytesLE (s.lmRead c.core off 4))
    add32 old v
  | _ => v

/-- A carrier's poison (R366): a sector that draws from a poisoned source becomes poisoned. -/
def State.placePoison (s : State) (core : Nat) (p : Place) : State :=
  match p with
  | .mem fpa => s.setPoison fpa true
  | .lm off => s.lmSetPoison core off true

/-- The timestamp of an engine's write within one line: that of its ownership, or what its clock `p` asks for where it holds none (R181, R190). -/
def State.engStamp (s : State) (id p fpa n : Nat) : Nat :=
  if (s.line (lineOf fpa)).owner = some (.engine id) then (s.line (lineOf fpa)).wts else s.storeStamp p fpa n

/-- The home grants the timestamp of an engine's write (R181). -/
def State.placeDue (s : State) (id p : Nat) (q : Place) (n : Nat) : Bool :=
  match q with | .lm _ => true | .mem fpa => s.stampDue (s.engStamp id p fpa n)

/-- An engine writes a run of bytes at a place; the second result is its timestamp, 0 for LM. -/
def State.engWrite (s : State) (core id p : Nat) (q : Place) (bs : List Byte) : State × Nat :=
  match q with
  | .lm off => ((s.lmTouch core off bs.length true).lmWrite core off bs, 0)
  | .mem fpa =>
    let w := s.engStamp id p fpa bs.length
    (s.plainWrite w fpa bs, w)

/-- A command writes a run of bytes at a place. -/
def State.writePlace (s : State) (c : Cmd) (p : Place) (bs : List Byte) : State × Nat := s.engWrite c.core c.id (s.cmdPts c) p bs

/-- `q` lies `n` bytes after `p` in the same 128-byte line. -/
def Place.follows (p q : Place) (n : Nat) : Bool :=
  match p, q with
  | .mem a, .mem b => b == a + n && a / 128 == b / 128
  | .lm a, .lm b => b == a + n && a / 128 == b / 128
  | _, _ => false

/-- The words of one destination line from word `t` on: the place, the bytes, the places of words with a poisoned source, and the
next word; `fuel` bounds the words. A word that cannot move ends the run. -/
def State.gatherRun (s : State) (c : Cmd) (fuel t : Nat) (start : Option Place) (bs : List Byte) (bad : List Place) :
    State × Option Place × List Byte × List Place × Nat :=
  match fuel with
  | 0 => (s, start, bs, bad, t)
  | fuel + 1 =>
    if c.total ≤ t then (s, start, bs, bad, t)
    else
      match s.cmdSides c t with
      | .error _ => (s, start, bs, bad, t)
      | .ok none => if start.isNone then State.gatherRun s c fuel (t + 1) none bs bad else (s, start, bs, bad, t)
      | .ok (some (a, b)) =>
        match s.placeSide c b with
        | .error _ => (s, start, bs, bad, t)
        | .ok (p, s1) =>
          if (match start with | some q => !(q.follows p bs.length) | none => false) then (s, start, bs, bad, t)
          else
            match (s1.touchList c t).readSide c a with
            | .error _ => (s, start, bs, bad, t)
            | .ok (v, poison, s2) =>
              if poison && c.kind = .cbexp then (s, start, bs, bad, t)
              else
                let v' := s2.cmdValue c t v p
                let first := match start with | some q => some q | none => some p
                State.gatherRun s2 c fuel (t + 1) first (bs ++ bytesLE 4 v'.toNat) (if poison then bad ++ [p] else bad)

/-- The fault that word `t` of a command meets, if it meets one: its list entry, then its source, then its destination. -/
def State.cmdFault (s : State) (c : Cmd) (t : Nat) : Stuck :=
  match s.cmdSides c t with
  | .error e => some e
  | .ok none => none
  | .ok (some (a, b)) =>
    match s.readSide c a with
    | .error (some e) => some e
    | .error none => none
    | .ok (_, poison, _) =>
      if poison && c.kind = .cbexp then some .poison
      else match s.placeSide c b with
        | .error (some e) => some e
        | _ => none

/-! ## Ownership of destination lines (R190) -/

/-- Bytes of a planes tile with its exponent array (R93, R94). -/
def planesBytes (p K L : Nat) : Nat := (p + 1) * 16 * K + 256 * (K / L)

/-- The planes register: LM offset and the row stride of the element matrix (R171). -/
def planesOff (w : Word) : Nat := (w.extractLsb' 0 23).toNat
def planesStride (w : Word) (f : EFmt) (K : Nat) : Nat :=
  if w.extractLsb' 32 32 = 0#32 then f.rowBytes K else (w.extractLsb' 32 32).toNat

/-- The lines of global memory that a command writes, as they stand at issue; none when it adds back, whose atomics own nothing. -/
def State.cmdLines (s : State) (c : Cmd) : List Nat :=
  let x := xcwOf c.xcw
  if x.dstLm || c.kind = .back || c.kind = .pack then []
  else if c.kind = .unpack then
    let f := (efmt c.nf x.sfmt).getD (.int true 8)
    ((List.range x.lo).flatMap (fun r =>
      s.spanLines (dieOf c.core) c.ctx (c.dst.toNat + r * planesStride c.src f x.hi) (f.rowBytes x.hi))).eraseDups
  else if c.kind = .scat then
    ((List.range c.total).filterMap (fun t =>
      match s.cmdSides c t with
      | .ok (some (_, .mem va)) =>
        match s.translate (dieOf c.core) c.ctx va .store false with
        | .ok p => if s.snapWaits p then none else some (lineOf p.fpa)
        | .error _ => none
      | _ => none)).eraseDups
  else s.spanLines (dieOf c.core) c.ctx c.dst.toNat (4 * c.total)

/-! ## Issue (R219, R220) -/

/-- Give a command its number and hand it to the engine, with the lines it will own (R190, R219). -/
def State.handCmd (s : State) (c0 : Cmd) : State :=
  let c := { c0 with id := s.nextCmd, since := s.wseq }
  let lines := s.cmdLines c
  let s1 := { s with cmds := s.cmds ++ [{ c with owned := lines }], nextCmd := s.nextCmd + 1 }
  if (xcwOf c.xcw).st then s1 else lines.foldl (fun s l => s.ownLine c.id c.pts l) s1

/-- The engine of the crew's core has an entry free (R219). -/
def State.cmdRoom (s : State) : Bool := decide (s.cmds.countP (fun k => k.core = s.crew.core && !k.tagged) < 64)

def State.setTag (s : State) (n : Nat) (t : Tag) : State :=
  s.setCrew { s.crew with tags := Map.put (fun _ => Tag.idle) s.crew.tags n t }

/-- Start a command that has passed its checks: it waits on a BUSY tag, for an engine entry and for the wave's LM stores, then
takes its tag (R188, R219). With nothing to move it completes at once (R55). Behind a load-class access that faults it is held (R349). -/
def State.startCmd (s : State) (y : Bool) (kind : CmdKind) (d a b : Reg) : State :=
  let x := xcwOf (s.getS d)
  let c : Cmd := ⟨0, kind, s.crew.handle, s.wave.idx, s.crew.core, s.crew.ctx, s.getS d, s.getS a, s.getS b,
    s.wave.nf.toList, s.wave.cb, s.wave.pts, 0, 0, [], s.wave.nextId, 0, [], false⟩
  if Map.find (fun _ => Tag.idle) s.crew.tags x.tag = .busy then s.wait .tag
  else if s.wave.lmStoresLeft then s.wait .other
  else if s.loadFaultPending then ((s.setTag x.tag .busy).pushAccess (.cmd c) [] false).advance y
  else if c.total = 0 then (s.setTag x.tag (.done 0)).advance y
  else if !s.cmdRoom then s.wait .other
  else ((s.setTag x.tag .busy).handCmd c).advance y

/-- Perform a held command (R349): none while the engine has no entry for it. -/
def State.performCmd (s : State) (c : Cmd) : Option State :=
  let x := xcwOf c.xcw
  if c.total = 0 then some (s.setTag x.tag (.done 0))
  else if !s.cmdRoom then none
  else some (s.handCmd c)

/-- The issue checks of a command: FORMAT, then ALIGN of its addresses, then its LM ranges, sources before destinations (R47, R220). -/
def State.checkCmd (s : State) (fmtOk : Bool) (aligns : List (Bool × Nat)) (loads stores : List (Nat × Nat)) (k : State) : State :=
  if !fmtOk then s.trap .format 0#64
  else
    match aligns.find? (fun e => !e.1) with
    | some e => s.trap .align (BitVec.ofNat 64 e.2)
    | none =>
      match s.crew.lmBads loads with
      | some off => s.trap .protLd (BitVec.ofNat 64 off)
      | none =>
        match s.crew.lmBads stores with
        | some off => s.trap .protSt (BitVec.ofNat 64 off)
        | none => k

/-- An address that must be a multiple of `n`. -/
def aligned (n a : Nat) : Bool × Nat := (a % n == 0, a)

/-- `xcopy` (R222). Starts a copy-engine copy of LEN bytes. -/
def execXcopy (y : Bool) (d : Reg) (a : Reg) (b : Reg) (s : State) : Out :=
  s.onWave (fun s =>
    let x := xcwOf (s.getS d)
    let src := (s.getS a).toNat
    let dst := (s.getS b).toNat
    s.checkCmd x.plain [aligned 4 src, aligned 4 dst, (x.len % 4 == 0, 0)]
      (if x.srcLm then [(src, x.len)] else []) (if x.dstLm then [(dst, x.len)] else []) (s.startCmd y .copy d a b))

/-- The commands that move rows through an address list (R223). With a row count of 0 a row length is not tested for ALIGN, and an address list
outside the allocation raises PROT_LD for each of them: DESIGN CHOICE, log entry 110. -/
def State.rowCmd (s : State) (y : Bool) (kind : CmdKind) (d a b : Reg) : Out :=
  s.onWave (fun s =>
    let x := xcwOf (s.getS d)
    let src := (s.getS a).toNat
    let dst := (s.getS b).toNat
    let n := x.lo * x.hi
    let gath := kind = .gath
    let list := if gath then src else dst
    let fmtOk := x.plain && !(kind = .back && (x.st || !x.srcLm)) && !(x.lo == 0 && x.hi != 0)
    let lists := [(list, 8 * x.hi)]
    let loads := if gath then lists else (if x.srcLm then [(src, n)] else []) ++ lists
    let stores := if gath && x.dstLm then [(dst, n)] else []
    s.checkCmd fmtOk [aligned 4 src, aligned 4 dst, aligned 8 list, (x.lo % 4 == 0 || x.hi == 0, 0)] loads stores
      (s.startCmd y kind d a b))

/-- `xgath` (R223). Starts a gather of rows through an LM address list. -/
def execXgath (y : Bool) (d : Reg) (a : Reg) (b : Reg) (s : State) : Out := s.rowCmd y .gath d a b

/-- `xscat` (R223). Starts a scatter of rows through an LM address list. -/
def execXscat (y : Bool) (d : Reg) (a : Reg) (b : Reg) (s : State) : Out := s.rowCmd y .scat d a b

/-- `xback` (R223). Starts binary32 add-back of rows through an address list. -/
def execXback (y : Bool) (d : Reg) (a : Reg) (b : Reg) (s : State) : Out := s.rowCmd y .back d a b

/-- `xfill` (R224). Starts a fill of LEN bytes with a pattern. -/
def execXfill (y : Bool) (d : Reg) (a : Reg) (b : Reg) (s : State) : Out :=
  s.onWave (fun s =>
    let x := xcwOf (s.getS d)
    let dst := (s.getS b).toNat
    s.checkCmd x.plain [aligned 4 dst, (x.len % 4 == 0, 0)] [] (if x.dstLm then [(dst, x.len)] else []) (s.startCmd y .fill d a b))

/-! ## Packing commands (R171 to R174) -/

def planesRegOk (w : Word) (f : EFmt) (K : Nat) : Bool :=
  w.extractLsb' 23 9 == 0#9 && decide (f.rowBytes K ≤ planesStride w f K) && planesStride w f K % 4 == 0

/-- Bytes that the element matrix spans. -/
def matrixSpan (f : EFmt) (rows K stride : Nat) : Nat := (rows - 1) * stride + f.rowBytes K

/-- The ranges of LEN, PREC and BLK (R172, R173). -/
def Xcw.packOk (x : Xcw) : Bool :=
  decide (1 ≤ x.prec) && decide (x.prec ≤ 16) && x.blk != 3 && decide (1 ≤ x.lo) && decide (x.lo ≤ 128)
    && decide (32 ≤ x.hi) && decide (x.hi ≤ 256) && x.hi % 32 == 0 && x.hi % blkLen x.blk == 0

/-- `xpack` (R172). Starts conversion of a matrix into an A tile in planes format. -/
def execXpack (y : Bool) (d : Reg) (a : Reg) (b : Reg) (s : State) : Out :=
  s.onWave (fun s =>
    let x := xcwOf (s.getS d)
    let src := (s.getS a).toNat
    let pl := s.getS b
    let dst := planesOff pl
    match efmt s.wave.nf.toList x.sfmt with
    | none => s.trap .format 0#64
    | some f =>
      let span := matrixSpan f x.lo x.hi (planesStride pl f x.hi)
      s.checkCmd (x.ok && x.packOk && x.dstLm && planesRegOk pl f x.hi) [aligned 4 src, aligned 64 dst]
        (if x.srcLm then [(src, span)] else []) [(dst, planesBytes x.prec x.hi (blkLen x.blk))] (s.startCmd y .pack d a b))

/-- An output format of `xunpack`. -/
def unpackFmt (nf : List Lane) (code : Nat) : Option (Fmt × Nat) :=
  if code = 0x08 ∨ code = 0x09 ∨ code = 0x0A ∨ (0x10 ≤ code ∧ code ≤ 0x13) then
    match efmt nf code with | some (.flt f w) => some (f, w) | _ => none
  else none

/-- `xunpack` (R173). Starts conversion of an A tile back to an element matrix. -/
def execXunpack (y : Bool) (d : Reg) (a : Reg) (b : Reg) (s : State) : Out :=
  s.onWave (fun s =>
    let x := xcwOf (s.getS d)
    let dst := (s.getS b).toNat
    let pl := s.getS a
    let src := planesOff pl
    match unpackFmt s.wave.nf.toList x.sfmt with
    | none => s.trap .format 0#64
    | some fw =>
      let f : EFmt := .flt fw.1 fw.2
      let span := matrixSpan f x.lo x.hi (planesStride pl f x.hi)
      s.checkCmd (x.ok && x.packOk && x.srcLm && planesRegOk pl f x.hi) [aligned 4 src, aligned 4 dst]
        [(src, planesBytes x.prec x.hi (blkLen x.blk))] (if x.dstLm then [(dst, span)] else []) (s.startCmd y .unpack d a b))

/-- `xcbexp` (R174). Starts expansion of 4-bit codes into bfloat16. -/
def execXcbexp (y : Bool) (d : Reg) (a : Reg) (b : Reg) (s : State) : Out :=
  s.onWave (fun s =>
    let x := xcwOf (s.getS d)
    let src := (s.getS a).toNat
    let dst := (s.getS b).toNat
    let fmtOk := x.ok && decide (0x18 ≤ x.sfmt) && decide (x.sfmt ≤ 0x1B) && x.prec == 0 && x.blk == 0 && x.len % 8 == 0
    s.checkCmd fmtOk [aligned 4 src, aligned 4 dst] (if x.srcLm then [(src, x.len / 2)] else [])
      (if x.dstLm then [(dst, 2 * x.len)] else []) (s.startCmd y .cbexp d a b))

/-! ## Observing commands (R225, R226) -/

/-- The clock that a finished tag carries (R192). -/
def Tag.clock (t : Tag) : Nat := match t with | .done n => n | .err _ _ n => n | _ => 0
def Tag.isErr (t : Tag) : Bool := match t with | .err _ _ _ => true | _ => false
def Crew.tag (c : Crew) (n : Nat) : Tag := Map.find (fun _ => Tag.idle) c.tags n

/-- The tags that a mask names. -/
def maskTags (m : Word) : List Nat := (List.range 64).filter (fun i => m.getLsbD i)

/-- `xwait` (R225). Waits until masked copy tags are not BUSY and returns the ERR mask. -/
def execXwait (y : Bool) (d : Reg) (a : Reg) (s : State) : Out :=
  s.onWave (fun s =>
    let ts := maskTags (s.getS a)
    if ts.any (fun i => s.crew.tag i = .busy) then s.wait .xwait
    else
      let errs := ((ts.filter (fun i => (s.crew.tag i).isErr)).map (fun i => 2 ^ i)).sum
      let p := ts.foldl (fun p i => Max.max p (s.crew.tag i).clock) s.wave.pts
      ((s.setWave { s.wave with pts := p }).setS d (BitVec.ofNat 64 errs)).advance y)

/-- The status word of a tag (R226). -/
def Tag.word (t : Tag) : Word :=
  match t with
  | .idle => 0#64
  | .busy => 1#64
  | .done _ => 2#64
  | .err c foff _ => BitVec.ofNat 64 (foff % 2 ^ 32 * 2 ^ 32 + causeCode c * 256 + 3)

/-- `xstat` (R226). Returns the status of one copy tag. -/
def execXstat (y : Bool) (d : Reg) (a : Reg) (s : State) : Out :=
  s.onWave (fun s =>
    if 63 < (s.getS a).toNat then s.trap .operand 0#64
    else
      let t := s.crew.tag (s.getS a).toNat
      ((s.setWave { s.wave with pts := Max.max s.wave.pts t.clock }).setS d t.word).advance y)

end Sys2Proof.Machine
end

