-- ==== Sys2Proof/Machine/Service.lean ====
section
/-! DEFINITION. The service state of the device (R397, R398), the replacement of cores (R16, R377, R378), and what several units share:
register fields, control messages and pre-emption requests (R286). -/

namespace Sys2Proof.Machine

/-- Put a field of `w` bits at bit `lo` of a register value. -/
def putField (r : Word) (lo w v : Nat) : Word :=
  let m := (2 ^ w - 1) * 2 ^ lo
  (r &&& ~~~(BitVec.ofNat 64 m)) ||| BitVec.ofNat 64 (v % 2 ^ w * 2 ^ lo)

/-- A field of `w` bits at bit `lo`. -/
def getField (r : Word) (lo w : Nat) : Nat := r.toNat / 2 ^ lo % 2 ^ w

/-- A counter register rises by `n`, modulo 2^64. -/
def State.count (s : State) (off n : Nat) : State := s.setReg off (s.reg off + BitVec.ofNat 64 n)

/-- BOOTSTAT.STATE (R414): 0 held in reset, 1 ROM running, 2 failed, 3 ready. -/
def State.bootState (s : State) : Nat := getField (s.reg 0) 0 2

/-- Reset and boot are over: contexts may be created and fabric packets are accepted (R407). -/
def State.ready (s : State) : Bool := s.bootState == 3

/-- What comes over the fabric before the device is ready is not accepted (R407). -/
def State.fromFabric (s : State) (f : State → State) : Host.Outcome State Fault Refusal := .next (if s.ready then f s else s)

/-- Send a control message (R252). -/
def State.tell (s : State) (m : Msg) : State := { s with fab := { s.fab with out := s.fab.out ++ [m] } }

/-- LEADERS (R390). -/
def State.leader (s : State) : Nat := (s.reg 0x130008).toNat % 65536
def State.standby (s : State) : Nat := (s.reg 0x130008).toNat / 65536 % 65536

/-! ## Pre-emption requests (R286) -/

/-- A pre-emption request: PREQ is set in every wave, and a running crew enters TAKING. One that joins a pending request of an in-field test
stands when the test withdraws (R289). -/
def State.requestPreempt (s : State) (h : Nat) : State :=
  (s.passBars h).updCrew h (fun c =>
    match c.preempt with
    | some p => { c with preempt := some { p with test := false } }
    | none =>
      match c.state with
      | .running => { c with preempt := some ⟨s.nanos, false, false, 0, none, false⟩, state := .taking }
      | .halted => { c with preempt := some ⟨s.nanos, false, false, 0, none, false⟩ }
      | _ => c)

/-- The request of an in-field test (R289). -/
def State.requestTest (s : State) (h : Nat) : State :=
  match s.crewAt h with
  | none => s
  | some c =>
    if c.preempt.isSome then s
    else (s.requestPreempt h).updCrew h (fun c => { c with preempt := c.preempt.map (fun p => { p with test := true }) })

/-- The live crews that hold a core. -/
def State.crewsAt (s : State) (core : Nat) : List Nat :=
  (s.allCrews.filter (fun c => c.core = core && c.state ≠ .ended && c.state ≠ .saved)).map (fun c => c.handle)

def State.preemptCore (s : State) (core : Nat) : State := (s.crewsAt core).foldl (fun s h => s.requestPreempt h) s

/-! ## Service states (R397, R398) -/

def svcOff : Nat := 0x130010
def State.svcState (s : State) : Nat := getField (s.reg svcOff) 0 3

/-- REPLACE goes to the host and to the leader (R398). -/
def State.sendReplace (s : State) : State :=
  let s1 := (s.post (.replace s.devid.toNat)).tell (.replace s.leader)
  { s1 with memb := { s1.memb with replaceAt := s.nanos } }

/-- Enter WORN (1) or DEGRADED (2), unless a state that takes precedence holds (R397): REPLACE is sent and REPREQ set. -/
def State.enterService (s : State) (k : Nat) : State :=
  if s.svcState < k then (s.setReg svcOff (putField (putField (s.reg svcOff) 0 3 k) 3 1 1)).sendReplace else s

/-- A condition of R378 or R397 holds: its bit of CONDS is set and kept, and the service state follows. -/
def State.setCond (s : State) (k : Nat) : State :=
  (s.setReg svcOff (putField (s.reg svcOff) (8 + k) 1 1)).enterService (if k < 5 then 1 else 2)

/-! ## Cores that fail (R16, R157, R377, R378) -/

def State.sparesUsed (s : State) (die : Nat) : Nat := Map.find (fun _ => 0) s.links.sparesUsed die

/-- A spare core of the die takes over a COREID, and the crews of the old one are pre-empted. The new core has its own spare rows, and its counts
of checks and mismatches start at 0; the count of R153 and MCHKN go on as on the fenced core: DESIGN CHOICE, log entry 104. -/
def State.replaceCore (s : State) (core : Nat) : State :=
  let die := dieOf core
  let s1 := { s with links := { s.links with sparesUsed := Map.put (fun _ => 0) s.links.sparesUsed die (s.sparesUsed die + 1) } }
  let s2 := s1.updCore core (fun k => { k with spareRows := 0, checks := 0, mismatches := 0, fenced := false, testing := false })
  let s3 := s2.preemptCore core
  if 2 ≤ s3.sparesUsed die then s3.setCond 2 else s3

/-- A core is fenced (R16): a spare takes its COREID; with no spare left the COREID stays unused and the device is DEGRADED. -/
def State.fenceCore (s : State) (core : Nat) : State :=
  if s.sparesUsed (dieOf core) < 2 then s.replaceCore core
  else if (s.coreAt core).fenced then s
  else
    let s1 := (s.updCore core (fun k => { k with fenced := true })).preemptCore core
    let cores := getField (s1.reg svcOff) 32 9
    (s1.setReg svcOff (putField (s1.reg svcOff) 32 9 (cores - 1))).setCond 5

/-- The 760 MHz fallback (R17, R377): no word issues for 20 microseconds. -/
def State.fallback (s : State) : State := ((({ s with slow := true }).setReg 0x120028 1#64).setCond 4).elapse 20000000

/-- Action 5 of R377, or action 6 where the die has no spare core; with the fallback already taken the core is fenced, which
R377 leaves open: DESIGN CHOICE, log entry 128. -/
def State.failCore (s : State) (core : Nat) : State :=
  if s.sparesUsed (dieOf core) < 2 then s.replaceCore core
  else if s.slow then s.fenceCore core
  else s.fallback

/-! ## Ending a crew from outside -/

/-- End a crew from outside its waves. -/
def State.endCrewAt (s : State) (h : Nat) (post : Crew → Option HostEvent) : State :=
  match s.crewAt h with
  | none => s
  | some c =>
    if c.state = .ended then s
    else
      match c.others with
      | [] => s.updCrew h (fun c => { c with state := .ended })
      | w :: _ => s.atWave h w.idx (fun t =>
          let u := (t.dropMops t.crew true).endCrew
          match post c with | some e => u.post e | none => u)

end Sys2Proof.Machine
end

