-- ==== Sys2Proof/Machine/Engine.lean ====
section
/-! DEFINITION. The steps of the matrix engine and of the copy engine as they run (R142 to R157, R161 to R165, R171 to R174, R190,
R219 to R223). A step that is not enabled leaves the state as it is. -/

namespace Sys2Proof.Machine

/-! ## Causes that an engine raises -/

/-- The wave rule of R151: the issuing wave, or the lowest-indexed live wave of the crew. -/
def State.causeWave (s : State) (h i : Nat) : Option Nat :=
  match s.crewAt h with
  | none => none
  | some c =>
    if c.others.any (fun w => w.live && w.idx == i) then some i else (c.others.find? Wave.live).map (fun w => w.idx)

/-- Raise an asynchronous cause (R351): TPC is the wave's next or blocking word. -/
def State.raiseAsync (s : State) (h i : Nat) (c : Cause) (addr r112 r113 : Word) : State :=
  match s.causeWave h i with
  | none => s
  | some j => s.atWave h j (fun t => t.raiseLater ⟨c, t.wave.pc, addr, r112, r113, 0#64, false⟩)

/-- A record of a crew that has ended, or that drains for `ctkill`, is discarded (R360). -/
def State.discardsOf (s : State) (h : Nat) : Bool := match s.crewAt h with | some c => !c.live || c.dying | none => true

/-- Append a store-fault record and raise its cause in the record class (R351, R352). -/
def State.record (s : State) (h : Nat) (r : SfRec) : State :=
  if s.discardsOf h then s
  else
  let s1 := s.updCrew h (fun c => { c with sfr := c.sfr ++ [r] })
  let n := match s1.crewAt h with | some c => c.sfr.length | none => 0
  s1.raiseAsync h r.wave r.cause r.va r.pc (BitVec.ofNat 64 n)

/-- A crew's store-fault record queue has room for `n` more records (R352). -/
def State.sfrRoom (s : State) (h n : Nat) : Bool :=
  s.discardsOf h || (match s.crewAt h with | some c => decide (n ≤ 16 - c.sfr.length) | none => true)

/-! ## Queue of the matrix engine (R148) -/

def Core.mop? (k : Core) (h acc : Nat) (p : MOp → Bool) : Option MOp :=
  k.mops.find? (fun m => m.crew == h && m.acc == acc && p m)

/-- Replace an operation of a core. -/
def State.putMop (s : State) (core : Nat) (old new : MOp) : State :=
  s.updCore core (fun k => { k with mops := k.mops.map (fun m => if m = old then new else m) })

/-- Take an operation out of a core. -/
def State.dropMop (s : State) (core : Nat) (m : MOp) : State :=
  (s.updCore core (fun k => { k with mops := k.mops.filter (fun n => n != m) })).refill core 8

/-- `bump(acc)`, with the clock of the operation's writes (R57, R149). -/
def State.bump (s : State) (h acc clock : Nat) : State :=
  s.updAcc h acc (fun a => { a with ver := a.ver + 1#16, clock := Max.max a.clock clock })

/-- The operation uses the array (R142, R154, R161). -/
def MOp.usesArray (m : MOp) : Bool := m.kind == .mma || m.kind == .mzero

/-- It replaces the tile, so that it waits for a pending check (R149). -/
def MOp.replaces (m : MOp) : Bool := m.kind == .mzero || m.kind == .mld || (m.kind == .mma && (miwOf m.w0).zro)

/-- A queued operation may start: its version is next on its accumulator, and nothing it needs is in use (R148, R149, R154, R157). -/
def State.startable (s : State) (core : Nat) (m : MOp) : Bool :=
  let k := s.coreAt core
  m.stage == .queued && m.ver == (s.accOf m.crew m.acc).ver
    && !(m.usesArray && (decide (s.ps < k.arrayAt) || k.mops.any (fun n => (n.usesArray && n.stage == .running) || n.stage == .checking)))
    && !(m.replaces && k.mops.any (fun n => n.crew == m.crew && n.acc == m.acc && n.stage == .checking))

/-- Park an accumulator's operation in execution and those behind it (R148, R151). -/
def Core.park (k : Core) (h acc : Nat) : Core :=
  { k with mops := k.mops.map (fun (q : MOp) =>
      if q.crew = h ∧ q.acc = acc ∧ (q.stage = .running ∨ q.stage = .queued ∨ q.stage = .waiting) then { q with stage := .parked } else q) }

/-! ## Operand bytes (R142, R143, R151) -/

def State.ctxOf (s : State) (h : Nat) : Nat := match s.crewAt h with | some c => c.ctx | none => 0

/-- Read one operand byte: an LM byte of a live line, or a byte that the wave's translation reaches; none of these is a fault of R151,
or a line that somebody holds. For an operand on an expelled device the spec has PEERLOST recorded by the access and names no place for it:
the model records nothing beside MREMOTE. DESIGN CHOICE, log entry 97. -/
def State.operandByte (s : State) (core ctx since : Nat) (rem : Bool) (base k : Nat) : Except Stuck Byte :=
  if rem then
    match s.translate (dieOf core) ctx ((base + k) % 2 ^ 64) .load false with
    | .error _ => .error (some .mremote)
    | .ok x =>
      if !(s.homeOpen none x) then .error none
      else if s.isPoisoned x.fpa then .error (some .mremote)
      else .ok (s.pastPick since (2 * x.fpa) (s.byteAt x.fpa))
  else if s.lmExpired (lmLineOf core (base + k)) then .error (some .stale)
  else if s.lmPoisonAt core (base + k) then .error (some .poison)
  else .ok (s.pastPick since (2 * lmKey core (base + k) + 1) (s.lmByte core (base + k)))

/-- The address of an operand (R52). -/
def Td.base (t : Td) (mrwin : Word) : Nat := if t.rem then (mrwin + BitVec.ofNat 64 (256 * t.addr)).toNat else t.addr

/-- The operands of an `mma` as captured. -/
structure MmaArgs where
  ta : Td
  tb : Td
  K : Nat
  L : Nat
  f : EFmt
  deriving DecidableEq, Repr

def MOp.args (m : MOp) : MmaArgs :=
  ⟨tdOf m.w1, tdOf m.w2, (miwOf m.w0).K, blkLen (tdOf m.w1).blk, (efmt m.nf (tdOf m.w2).fmt).getD (.int true 8)⟩

/-- Byte offsets of A that block `b` needs, in ascending order: planes, then exponents (R93, R94). -/
def MmaArgs.offsA (g : MmaArgs) (b : Nat) : List Nat :=
  let w := g.L / 8
  ((List.range (g.ta.prec + 1)).flatMap (fun j => (List.range 128).flatMap (fun r =>
    (List.range w).map (fun c => j * 16 * g.K + r * (g.K / 8) + b * w + c))))
    ++ (List.range 128).flatMap (fun r => [256 * g.ta.scl + 2 * (r * (g.K / g.L) + b), 256 * g.ta.scl + 2 * (r * (g.K / g.L) + b) + 1])

/-- Byte offsets of B that block `b` needs. -/
def MmaArgs.offsB (g : MmaArgs) (b : Nat) : List Nat :=
  (List.range g.L).flatMap (fun i => (List.range (g.f.rowBytes 128)).map (fun c => (b * g.L + i) * g.tb.rowStride g.f + c))

/-- The first byte of a block that cannot be read: why, its ROLE and its address (R151). -/
def State.blockFault (s : State) (core : Nat) (m : MOp) (b : Nat) : Option (Stuck × Nat × Nat) :=
  let g := m.args
  let ctx := s.ctxOf m.crew
  let test := fun (rem : Bool) (base role k : Nat) =>
    match s.operandByte core ctx m.since rem base k with
    | .error e => some (e, role, (base + k) % 2 ^ 64)
    | .ok _ => none
  match (g.offsA b).findSome? (test g.ta.rem (g.ta.base m.mrwin) 0) with
  | some e => some e
  | none => (g.offsB b).findSome? (test g.tb.rem (g.tb.base m.mrwin) 1)

/-- The byte that a block's partial uses: any value that it has held since the issue (R143). -/
def State.pickByte (s : State) (core ctx since : Nat) (rem : Bool) (base k : Nat) : Byte :=
  match s.operandByte core ctx since rem base k with | .ok v => v | .error _ => 0#8

/-- The block partials of blocks `from` up to `upto` added into a tile in ascending k (R144, R145). -/
def State.mmaTile (s : State) (core : Nat) (m : MOp) (tile : Map Lane) (lo hi : Nat) : Map Lane :=
  let g := m.args
  let ctx := s.ctxOf m.crew
  let byteA := s.pickByte core ctx m.since g.ta.rem (g.ta.base m.mrwin)
  let byteB := s.pickByte core ctx m.since g.tb.rem (g.tb.base m.mrwin)
  let exps := fun k => byteA (256 * g.ta.scl + k)
  let blocks := (List.range (hi - lo)).map (fun k => lo + k)
  let as := (Array.range 128).map (fun r => blocks.map (fun b => planesBlk g.ta.prec g.K g.L byteA exps r b))
  let bs := (Array.range 128).map (fun n => blocks.map (fun b => convBlock g.tb.prec ((List.range g.L).map (fun i =>
    g.f.value m.cb (g.f.bitsAt (fun c => byteB ((b * g.L + i) * g.tb.rowStride g.f + c)) n)))))
  mkTile (fun r n =>
    ((as.getD r []).zip (bs.getD n [])).foldl (fun c p => addPartial c (partialOf g.ta.prec g.tb.prec p.1 p.2)) (tileAt tile r n))

/-- Start an operation (R148). -/
def State.startMop (s : State) (core : Nat) (m : MOp) : State := s.putMop core m { m with stage := .running }

/-- The tile that an `mma` starts from: +0 for ZRO before its first block (R145). -/
def mmaStart (m : MOp) (a : Acc) : Map Lane := if (miwOf m.w0).zro && a.prog == 0 then [] else a.tile

/-- The engine's ordinary loads of a span of virtual addresses (R180, R332): A is set in its pages, its lines are leased, and the clock rises to
their stamps. -/
def State.engineLoads (s : State) (core ctx p va n : Nat) : State × Nat :=
  (List.range ((va % 128 + n + 127) / 128)).foldl (fun (r : State × Nat) k =>
    match r.1.translate (dieOf core) ctx ((va / 128 * 128 + 128 * k) % 2 ^ 64) .load false with
    | .ok x =>
      let line := lineOf x.fpa
      let s1 := (r.1.touch x false).recallLine none line
      let q := Max.max (Max.max r.2 s1.floor) (s1.line line).wts
      (s1.leaseLine q line, q)
    | .error _ => r) (s, p)

/-- The engine's reads of the operands of an `mma`: LM events, and loads of remote lines (R190, R233). -/
def State.touchOperands (s : State) (core : Nat) (m : MOp) : State × Nat :=
  let g := m.args
  let ctx := s.ctxOf m.crew
  let sizes := [(0, (g.ta.prec + 1) * 16 * g.K), (256 * g.ta.scl, 256 * (g.K / g.L))]
  let r := sizes.foldl (fun (r : State × Nat) e =>
    if g.ta.rem then r.1.engineLoads core ctx r.2 (g.ta.base m.mrwin + e.1) e.2
    else (r.1.lmTouch core (g.ta.addr + e.1) e.2 false, r.2)) (s, m.pts)
  if g.tb.rem then r.1.engineLoads core ctx r.2 (g.tb.base m.mrwin) (g.K * g.tb.rowStride g.f)
  else (r.1.lmTouch core g.tb.addr (g.K * g.tb.rowStride g.f) false, r.2)

/-- `MATRIX_QUEUE_ENTRY` (R148, R150): an operation whose tokens are granted takes its entry when it is due. -/
def execMatrixQueueEntry (crew : Nat) (wave : Nat) (s : State) : Out :=
  .next (s.atWave crew wave (fun t => if t.wave.live && t.wave.mreq.isSome then t.seekEntry else t))

/-- `MATRIX_OP_START` (R148): the engine starts the oldest queued operation whose accumulator is free. -/
def execMatrixOpStart (core : Nat) (s : State) : Out :=
  match (s.coreAt core).mops.find? (s.startable core) with
  | none => .next s
  | some m => .next ((s.startMop core m).refill core 8)

/-- `MMA_COMPLETE` (R145, R149): every block is added, and the version advances; a checked operation runs again (R154). -/
def execMmaComplete (core : Nat) (crew : Nat) (acc : Nat) (s : State) : Out :=
  match (s.coreAt core).mop? crew acc (fun m => m.stage == .running && m.kind == .mma) with
  | none => .next s
  | some m =>
    let a := s.accOf crew acc
    let n := m.args.K / m.args.L
    if ((List.range n).drop a.prog).any (fun b => (s.blockFault core m b).isSome) then .next s
    else
      let tile := s.mmaTile core m (mmaStart m a) a.prog n
      let zro := (miwOf m.w0).zro
      let s1 := (s.touchOperands core m).1
      let s2 := s1.updAcc crew acc (fun a => { a with tile := tile, prog := 0, suspect := a.suspect && !zro })
      let s3 := { s2.bump crew acc m.pts with fresh := s2.fresh + 1 }
      .next (if m.checked then s3.putMop core m { m with stage := .checking } else s3.dropMop core m)

/-- `MMA_SUSPEND` (R151): the lowest block that faults stops the operation; it and those behind it are parked. An operation whose crew has
ended is discarded with its accumulator (R152). -/
def execMmaSuspend (core : Nat) (crew : Nat) (acc : Nat) (s : State) : Out :=
  match (s.coreAt core).mop? crew acc (fun m => m.stage == .running && m.kind == .mma) with
  | none => .next s
  | some m =>
    let a := s.accOf crew acc
    let n := m.args.K / m.args.L
    match ((List.range n).drop a.prog).find? (fun b => (s.blockFault core m b).isSome) with
    | none => .next s
    | some b =>
      match s.blockFault core m b with
      | some (some c, role, addr) =>
        let tile := if b = a.prog then a.tile else s.mmaTile core m (mmaStart m a) a.prog b
        let s1 := s.updAcc crew acc (fun a => { a with tile := tile, prog := b })
        let live := match s.crewAt crew with | some c => c.live | none => false
        let s2 := if live then (s1.updCore core (fun k => k.park crew acc)).refill core 8
          else (s1.discardMops core (fun q => q.crew == crew && q.acc == acc && q.stage != .checking)).refill core 8
        .next ({ s2 with fresh := s2.fresh + 1 }.raiseAsync crew m.wave c (BitVec.ofNat 64 addr)
          (BitVec.ofNat 64 (role * 32 + acc)) m.pc)
      | _ => .next s

/-- An engine operation of a wave has completed: a later `fence.engine` stands after its writes (R186). -/
def State.raiseEngine (s : State) (h i w : Nat) : State := s.mapWave h i (fun v => { v with engClock := Max.max v.engClock w })

/-! ## Stores of a tile (R156, R163, R165) -/

/-- Element `i` of a present vector, the vectors standing in the order row scale, column scale, bias. -/
def vecElem (vecs : List Byte) (idx i : Nat) : Lane := BitVec.ofNat 32 (ofBytesLE ((vecs.drop (512 * idx + 4 * i)).take 4))

/-- The bytes of output row `r` (R163). -/
def mstRow (m : MOp) (tile : Map Lane) (r : Nat) : List Byte :=
  let e := epwOf m.w1
  let nf := e.nf m.nf
  let w := outWidth e.ofmt nf
  let ci := if e.rows then 1 else 0
  let bi := ci + (if e.cols then 1 else 0)
  packRow w (perWord w) ((List.range 128).map (fun n =>
    outCode e.ofmt nf (epilogue e.act
      (if e.rows then some (vecElem m.vecs 0 r) else none)
      (if e.cols then some (vecElem m.vecs ci n) else none)
      (if e.bias then some (vecElem m.vecs bi n) else none) (tileAt tile r n))))

/-- Where the 4-byte words of a row lie, or why one cannot be stored. -/
def State.mstPlaces (s : State) (core : Nat) (m : MOp) (r n : Nat) : List (Except Stuck Place) :=
  let e := epwOf m.w1
  let base := m.w2.toNat + r * e.rowStride m.nf
  (List.range n).map (fun j =>
    if e.dest then
      match s.translate (dieOf core) (s.ctxOf m.crew) ((base + 4 * j) % 2 ^ 64) .store false with
      | .error c => .error (some c)
      | .ok x => if s.snapWaits x || !(s.homeOpen (some (.engine m.id)) x) then .error none else .ok (.mem x.fpa)
    else .ok (.lm (base + 4 * j)))

/-- The timestamps of a list of words are granted (R181). -/
def State.placesDue (s : State) (id pts : Nat) (ps : List (Option Place)) : Bool :=
  ps.all (fun p => match p with | some q => s.placeDue id pts q 4 | none => true)

/-- Store the placed words of a row, run by run; the clock is the latest timestamp. -/
def State.storeRuns (s : State) (core id pts fuel : Nat) (ws : List (Option Place × List Byte)) : State × Nat :=
  match fuel with
  | 0 => (s, 0)
  | fuel + 1 =>
    match ws with
    | [] => (s, 0)
    | (none, _) :: rest => State.storeRuns s core id pts fuel rest
    | (some p, b) :: rest =>
      let run := rest.zipIdx.takeWhile (fun e => match e.1.1 with | some q => p.follows q (4 * (e.2 + 1)) | none => false)
      let bs := b ++ run.flatMap (fun e => e.1.2)
      let r := s.engWrite core id pts p bs
      let next := State.storeRuns r.1 core id pts fuel (rest.drop run.length)
      (next.1, Max.max r.2 next.2)

/-- The faulting runs of a row, each cut into spans of 96 words: the first word, and the words with their data (R165). -/
def spansOf (fuel : Nat) (ws : List (Nat × Option Cause × List Byte)) : List (List (Nat × Cause × List Byte)) :=
  match fuel with
  | 0 => []
  | fuel + 1 =>
    let rest := ws.dropWhile (fun e => e.2.1.isNone)
    if rest.isEmpty then []
    else
      let run := (rest.takeWhile (fun e => e.2.1.isSome)).take 96
      (run.filterMap (fun e => e.2.1.map (fun c => (e.1, c, e.2.2)))) :: spansOf fuel (rest.drop run.length)

/-- The KIND 4 record of a span (R165, R353). Where the words of a span fail for different causes the record takes that of the first:
DESIGN CHOICE, log entry 98. -/
def spanRecord (m : MOp) (rowVa : Nat) (span : List (Nat × Cause × List Byte)) : Option SfRec :=
  match span with
  | [] => none
  | (j, c, _) :: _ => some {
      va := BitVec.ofNat 64 (rowVa + 4 * j), pc := m.pc, wave := m.wave, cause := c, size := 4, kind := 4, stream := false,
      stride := 0#32, mask := BitVec.ofNat 96 (2 ^ span.length - 1), data := span.flatMap (fun e => e.2.2) }

/-- Poison the sectors of a row's stored words (R156). -/
def State.poisonRow (s : State) (core : Nat) (ps : List (Option Place)) : State :=
  ps.foldl (fun s p => match p with | some q => s.placePoison core q | none => s) s

/-- Store row `r` of an `mst`; none while a word of it must wait or its records find no room. -/
def State.mstStoreRow (s : State) (core : Nat) (m : MOp) (r : Nat) : Option (State × Nat) :=
  let a := s.accOf m.crew m.acc
  let bs := mstRow m a.tile r
  let n := bs.length / 4
  let places := s.mstPlaces core m r n
  if places.any (fun p => match p with | .error none => true | _ => false) then none
  else
    let ok := places.map Except.toOption
    let words := (List.range n).map (fun j => (bs.drop (4 * j)).take 4)
    let fails := (List.range n).zip ((places.map (fun p => match p with | .error (some c) => some c | _ => none)).zip words)
    let rowVa := m.w2.toNat + r * (epwOf m.w1).rowStride m.nf
    let recs := (spansOf 128 fails).filterMap (spanRecord m rowVa)
    if !(s.sfrRoom m.crew recs.length) || !(s.placesDue m.id m.pts ok) then none
    else
      let s0 := places.zipIdx.foldl (fun s e => match e.1 with
        | .ok (.mem _) =>
          match s.translate (dieOf core) (s.ctxOf m.crew) ((rowVa + 4 * e.2) % 2 ^ 64) .store false with
          | .ok x => if e.2 = 0 ∨ (rowVa + 4 * e.2) % 65536 = 0 then s.touch x true else s
          | .error _ => s
        | _ => s) s
      let w := s0.storeRuns core m.id m.pts 200 (ok.zip words)
      let s1 := if a.suspect then w.1.poisonRow core ok else w.1
      some (recs.foldl (fun s r => s.record m.crew r) s1, w.2)

/-- Store the rows of an `mst` from its progress on, as far as they can go; `fuel` bounds the rows. -/
def State.mstRows (s : State) (core fuel : Nat) (m : MOp) (clock : Nat) : State × MOp × Nat :=
  match fuel with
  | 0 => (s, m, clock)
  | fuel + 1 =>
    if 128 ≤ m.rows then (s, m, clock)
    else
      match s.mstStoreRow core m m.rows with
      | none => (s, m, clock)
      | some (s1, w) =>
        let n := outRowBytes (outWidth (epwOf m.w1).ofmt ((epwOf m.w1).nf m.nf)) / 4
        let here := (s.mstPlaces core m m.rows n).filterMap Except.toOption
        let next := if m.rows < 127 then (s.mstPlaces core m (m.rows + 1) n).filterMap Except.toOption else []
        let lines := fun (ps : List Place) => (ps.filterMap (fun p => match p with | .mem a => some (lineOf a) | .lm _ => none)).eraseDups
        let s2 := ((lines here).filter (fun l => !((lines next).contains l))).foldl (fun s l => s.dropLine m.id l) s1
        State.mstRows s2 core fuel { m with rows := m.rows + 1, stored := m.stored ++ here } (Max.max clock w)

/-- A check of an earlier operation on the accumulator is pending (R149). -/
def Core.checkPending (k : Core) (h acc : Nat) : Bool := (k.mop? h acc (fun m => m.stage == .checking)).isSome

/-- `MST_COMPLETE` (R149, R156, R163, R165): the rows are stored, and the version advances once all have performed and no check is
pending. -/
def execMstComplete (core : Nat) (crew : Nat) (acc : Nat) (s : State) : Out :=
  match (s.coreAt core).mop? crew acc (fun m => m.stage == .running && m.kind == .mst) with
  | none => .next s
  | some m =>
    let r := s.mstRows core 128 m 0
    let s1 := (r.1.putMop core m r.2.1).updAcc crew acc (fun a => { a with clock := Max.max a.clock r.2.2 })
    if r.2.1.rows < 128 || (s1.coreAt core).checkPending crew acc then .next s1
    else
      let s2 := m.owned.foldl (fun s l => s.dropLine m.id l) s1
      .next (((s2.dropMop core r.2.1).bump crew acc m.pts).raiseEngine crew m.wave (s2.accOf crew acc).clock)

/-- `MZERO_COMPLETE` (R161): the tile is +0, SUSPECT is clear, and the version advances. -/
def execMzeroComplete (core : Nat) (crew : Nat) (acc : Nat) (s : State) : Out :=
  match (s.coreAt core).mop? crew acc (fun m => m.stage == .running && m.kind == .mzero) with
  | none => .next s
  | some m =>
    let s1 := s.updAcc crew acc (fun a => { a with tile := [], suspect := false })
    .next ((s1.dropMop core m).bump crew acc m.pts)

/-! ## Loads of a tile (R162) -/

/-- Address of byte `c` of row `r` of an `mld` source. -/
def mldAddr (m : MOp) (r c : Nat) : Nat :=
  let e := epwOf m.w1
  (m.w2.toNat + r * (if e.stride = 0 then 512 else e.stride) + c) % 2 ^ 64

/-- Read one byte of an `mld` source: the engine's loads are ordinary loads (R162). -/
def State.mldByte (s : State) (core : Nat) (m : MOp) (r c : Nat) : Except Stuck Byte :=
  let a := mldAddr m r c
  if (epwOf m.w1).dest then
    match s.translate (dieOf core) (s.ctxOf m.crew) a .load false with
    | .error e => .error (some e)
    | .ok x =>
      if !(s.homeOpen none x) then .error none
      else if s.isPoisoned x.fpa then .error (some .poison)
      else .ok (s.pastPick m.since (2 * x.fpa) (s.byteAt x.fpa))
  else if s.lmExpired (lmLineOf core a) then .error (some .stale)
  else if s.lmPoisonAt core a then .error (some .poison)
  else .ok (s.pastPick m.since (2 * lmKey core a + 1) (s.lmByte core a))

/-- The first byte of an `mld` source that cannot be read, with its address. -/
def State.mldFault (s : State) (core : Nat) (m : MOp) : Option (Stuck × Nat) :=
  (List.range 128).findSome? (fun r => (List.range 512).findSome? (fun c =>
    match s.mldByte core m r c with | .error e => some (e, mldAddr m r c) | .ok _ => none))

/-- `MLD_COMPLETE` (R162): the tile is replaced bit for bit. -/
def execMldComplete (core : Nat) (crew : Nat) (acc : Nat) (s : State) : Out :=
  match (s.coreAt core).mop? crew acc (fun m => m.stage == .running && m.kind == .mld) with
  | none => .next s
  | some m =>
    if (s.mldFault core m).isSome then .next s
    else
      let byte := fun r c => match s.mldByte core m r c with | .ok b => b | .error _ => 0#8
      let tile := mkTile (fun r n => BitVec.ofNat 32 (ofBytesLE ((List.range 4).map (fun k => byte r (4 * n + k)))))
      let r := (List.range 128).foldl (fun (q : State × Nat) r =>
        if (epwOf m.w1).dest then q.1.engineLoads core (q.1.ctxOf crew) q.2 (mldAddr m r 0) 512
        else (q.1.lmTouch core (mldAddr m r 0) 512 false, q.2)) (s, m.pts)
      let s1 := r.1.updAcc crew acc (fun a => { a with tile := tile, suspect := false })
      .next ((s1.dropMop core m).bump crew acc m.pts)

/-- `MLD_DISCARD` (R148, R162): the tile and VER stay, the version becomes vacant, the operations behind are parked, and the cause is
raised in the asynchronous class. -/
def execMldDiscard (core : Nat) (crew : Nat) (acc : Nat) (s : State) : Out :=
  match (s.coreAt core).mop? crew acc (fun m => m.stage == .running && m.kind == .mld) with
  | none => .next s
  | some m =>
    match s.mldFault core m with
    | some (some c, addr) =>
      let s1 := (s.updCore core (fun k => { k with mops := k.mops.filter (fun n => n != m) }.park crew acc)).refill core 8
      let s2 := s1.updAcc crew acc (fun a => { a with vacant := true })
      .next (s2.raiseAsync crew m.wave c (BitVec.ofNat 64 addr) (BitVec.ofNat 64 acc) m.pc)
    | _ => .next s

/-! ## The self-check (R154 to R157) -/

/-- `CHECK_MISMATCH` (R154, R155, R156): a block partial of the second run differs from the first run's in one output row of one column, which
are free values (log entry 109). On the first of a check the accumulator becomes SUSPECT, TINTEG is raised, and the sectors that an `mst` in execution has stored become
poisoned. -/
def execCheckMismatch (core : Nat) (crew : Nat) (acc : Nat) (s : State) : Out :=
  let col := Config.mismatchAt s.fresh 0 % 128
  let row := Config.mismatchAt s.fresh 1 % 128
  match (s.coreAt core).mop? crew acc (fun m => m.stage == .checking) with
  | none => .next s
  | some m =>
    if m.bad.contains (col, row) then .next { s with fresh := s.fresh + 1 }
    else
      let s0 := ({ s with fresh := s.fresh + 1 } : State).putMop core m { m with bad := m.bad ++ [(col, row)] }
      if !m.bad.isEmpty then .next s0
      else
        let s1 := s0.updAcc crew acc (fun a => { a with suspect := true })
        let s2 := match (s1.coreAt core).mop? crew acc (fun q => q.stage == .running && q.kind == .mst) with
          | none => s1
          | some q => q.stored.foldl (fun s p => s.placePoison core p) s1
        .next (s2.raiseAsync crew m.wave .tinteg 0#64 (BitVec.ofNat 64 acc) m.pc)

/-- The quad of a core (R289). -/
def quadOf (core : Nat) : Nat := core / 4

/-- The physical row that a third run names for a single mismatching output row `m` (R157): `third` tells with which of the first two runs it
agrees, if with one. -/
def thirdRow (rho m : Nat) (third : Option Bool) : Option Nat :=
  match third with
  | some true => some ((m + rho) % 128)
  | some false => some m
  | none => none

/-- The physical row that the mismatches of a check name (R157): two rows m and (m - rho) mod 128 of one column name row m; a single row is
judged by a third run, of which `third` says that it agrees with the first run, with the second, or with neither. -/
def MOp.failing (m : MOp) (third : Option Bool) : Option Nat :=
  match m.bad.find? (fun e => m.bad.contains (e.1, (e.2 + 128 - m.rho) % 128)) with
  | some e => some e.2
  | none => match m.bad with | [e] => thirdRow m.rho e.2 third | _ => none

/-- Picoseconds for which a remap occupies the array: 1,600 cycles (R157). -/
def State.remapPs (s : State) : Nat := 1600 * 25000 / s.clockRate

/-- `CHECK_END` (R157, R168): the check is counted; a row that it names takes a spare, or the core is fenced when none is left; with no named
row the core is scheduled for an in-field test. `third` is what a third run shows where only one row mismatches. -/
def execCheckEnd (core : Nat) (crew : Nat) (acc : Nat) (third : Option Bool) (s : State) : Out :=
  match (s.coreAt core).mop? crew acc (fun m => m.stage == .checking) with
  | none => .next s
  | some m =>
    let s1 := (s.dropMop core m).updCore core (fun k => { k with checks := (k.checks + 1) % 2 ^ 32 })
    if m.bad.isEmpty then .next s1
    else
      let s2 := s1.updCore core (fun k => { k with mismatches := Min.min (k.mismatches + 1) 65535 })
      match m.failing third with
      | some _ =>
        if (s2.coreAt core).spareRows < 2 then
          .next (s2.updCore core (fun k => { k with spareRows := k.spareRows + 1, arrayAt := s2.ps + s2.remapPs }))
        else .next (s2.fenceCore core)
      | none => .next { s2 with testDue := insertNat s2.testDue (quadOf core) }

/-! ## Tokens (R150, R283) -/

/-- `TOKEN_GRANT` (R150): the oldest request of a die is granted if the pool holds its cost. -/
def execTokenGrant (die : Nat) (s : State) : Out := .next (s.grantOldest die)

/-- `SFU_RESULT` (R131): the oldest special-function word of a core's unit lands, with its flags. -/
def execSfuResult (core : Nat) (s : State) : Out :=
  let k := s.coreAt core
  match k.sfu with
  | [] => .next s
  | o :: rest =>
    let s1 := s.setCore core { k with sfu := rest }
    .next (s1.atWave o.crew o.wave (fun t =>
      let w := t.wave.landV o.phys o.vals
      let t1 := (t.setWave w).orFlags o.flags
      if t1.wave.stop.isSome || t1.wave.halting.isSome then t1.enterNext else t1))

/-! ## The copy engine (R190, R191, R219 to R224) -/

/-- Full bits of the LM granules of a linear destination that are wholly written (R189). -/
def State.fillGranules (s : State) (core lo hi n0 n1 : Nat) : State :=
  -- granules that hold a byte of [lo + n0, lo + n1) and whose last byte of [lo, hi) lies below lo + n1
  (List.range ((lo + n1 + 15) / 16 - (lo + n0) / 16)).foldl (fun s k =>
    let g := (lo + n0) / 16 + k
    if Min.min (16 * g + 16) hi ≤ lo + n1 then s.lmSetFull core (16 * g) true else s) s

/-- The destination of a command is one run of bytes. -/
def Cmd.linear (c : Cmd) : Bool := c.kind != .scat && c.kind != .back

/-- Words of a matrix row by row from a source (R171). -/
def State.readWords (s : State) (c : Cmd) (as : List Side) : Except Stuck (List Lane × State) :=
  match as with
  | [] => .ok ([], s)
  | a :: rest =>
    match s.readSide c a with
    | .error e => .error e
    | .ok (v, poison, s1) =>
      if poison then .error (some .poison)
      else match State.readWords s1 c rest with
        | .error e => .error e
        | .ok (vs, s2) => .ok (v :: vs, s2)

/-- The words of a linear source range. -/
def wordSides (lm : Bool) (a n : Nat) : List Side := (List.range ((n + 3) / 4)).map (fun k => side lm (a + 4 * k))

/-- The bytes of a list of words. -/
def wordBytes (ws : List Lane) : List Byte := ws.flatMap (fun w => bytesLE 4 w.toNat)

/-- What `xpack` writes (R172). -/
def State.packBytes (s : State) (c : Cmd) : Except Stuck (List Byte × State) :=
  let x := xcwOf c.xcw
  let f := (efmt c.nf x.sfmt).getD (.int true 8)
  let stride := planesStride c.dst f x.hi
  let L := blkLen x.blk
  let rowWords := f.rowBytes x.hi / 4
  match s.readWords c ((List.range x.lo).flatMap (fun r => wordSides x.srcLm (c.src.toNat + r * stride) (f.rowBytes x.hi))) with
  | .error e => .error e
  | .ok (ws, s1) =>
    let bytes := (wordBytes ws).toArray
    let rows := (List.range x.lo).map (fun r =>
      let bits := fun k => f.bitsAt (fun o => bytes.getD (4 * rowWords * r + o) 0#8) k
      (List.range (x.hi / L)).map (fun b =>
        let codes := (List.range L).map (fun i => bits (b * L + i))
        (convBlock x.prec (codes.map (f.value c.cb))).keepSigns (codes.map (f.signBit c.cb))))
    .ok (packPlanes x.prec x.hi L rows, s1)

/-- The rows that `xunpack` writes (R173). -/
def State.unpackRows (s : State) (c : Cmd) : Except Stuck (List (List Byte) × State) :=
  let x := xcwOf c.xcw
  let L := blkLen x.blk
  let n := planesBytes x.prec x.hi L
  match s.readWords c (wordSides true (planesOff c.src) n), unpackFmt c.nf x.sfmt with
  | .error e, _ => .error e
  | .ok _, none => .error none
  | .ok (ws, s1), some (f, w) =>
    let bytes := (wordBytes ws).toArray
    let planes := fun k => bytes.getD k 0#8
    let exps := fun k => bytes.getD ((x.prec + 1) * 16 * x.hi + k) 0#8
    .ok ((List.range x.lo).map (fun r =>
      let blks := (List.range (x.hi / L)).map (fun b => planesBlk x.prec x.hi L planes exps r b)
      packRow w (perWord w) ((List.range x.hi).map (fun k =>
        (f.round .rne ((blks.getD (k / L) ⟨.plain, 0, []⟩).unpack x.prec (k % L))).1))), s1)

/-- Place the words of a row. -/
def State.placeWords (s : State) (c : Cmd) (as : List Side) : Except Stuck (List Place × State) :=
  match as with
  | [] => .ok ([], s)
  | a :: rest =>
    match s.placeSide c a with
    | .error e => .error e
    | .ok (p, s1) =>
      match State.placeWords s1 c rest with
      | .error e => .error e
      | .ok (ps, s2) => .ok (p :: ps, s2)

/-- The rows of a packing command's destination: address and bytes. -/
def State.packedOut (s : State) (c : Cmd) : Except Stuck (List (Nat × List Byte) × State) :=
  let x := xcwOf c.xcw
  if c.kind = .pack then
    match s.packBytes c with
    | .error e => .error e
    | .ok (bs, s1) => .ok ([(planesOff c.dst, bs)], s1)
  else
    match s.unpackRows c with
    | .error e => .error e
    | .ok (rows, s1) =>
      let f : EFmt := (efmt c.nf x.sfmt).getD (.int true 8)
      .ok (rows.zipIdx.map (fun e => (c.dst.toNat + e.2 * planesStride c.src f x.hi, e.1)), s1)

/-- A whole packing command: every word is placed before any is written. -/
def State.runPacked (s : State) (c : Cmd) : Except Stuck (State × Nat) :=
  let x := xcwOf c.xcw
  match s.packedOut c with
  | .error e => .error e
  | .ok (rows, s1) =>
    match s1.placeWords c (rows.flatMap (fun r => wordSides x.dstLm r.1 r.2.length)) with
    | .error e => .error e
    | .ok (ps, s2) =>
      let words := rows.flatMap (fun r => (List.range (r.2.length / 4)).map (fun j => (r.2.drop (4 * j)).take 4))
      if !(s2.placesDue c.id (s2.cmdPts c) (ps.map some)) then .error none
      else
      let w := s2.storeRuns c.core c.id (s2.cmdPts c) (words.length + 1) ((ps.map some).zip words)
      .ok ((if x.fe then rows.foldl (fun s r => s.fillGranules c.core r.1 (r.1 + r.2.length) 0 r.2.length) w.1 else w.1), w.2)

/-- Give up the destination lines that no later word of a linear command reaches. -/
def State.dropWritten (s : State) (c : Cmd) (p : Place) (n : Nat) : State :=
  match p with
  | .mem fpa => if c.linear && ((fpa + n) % 128 == 0) then s.dropLine c.id (lineOf fpa) else s
  | .lm _ => s

/-- A copy whose source and destination overlap without being equal leaves its destination undefined (R222). -/
def Cmd.overlaps (c : Cmd) : Bool :=
  let x := xcwOf c.xcw
  c.kind == .copy && x.srcLm == x.dstLm && c.src != c.dst && decide (c.src.toNat < c.dst.toNat + 4 * c.total)
    && decide (c.dst.toNat < c.src.toNat + 4 * c.total)

/-- The bytes that a command writes to a line: those of its source, or free values for an overlapping copy (R222). -/
def State.lineOut (s : State) (c : Cmd) (bs : List Byte) : List Byte :=
  if c.overlaps then (List.range bs.length).map (fun k => Config.undefByte s.fresh k) else bs

/-- A place of a streaming copy is a place in the order of its wave's streaming accesses (R184, R186). -/
def State.notePlace (s : State) (c : Cmd) (w : Nat) : State :=
  if (xcwOf c.xcw).st then s.mapWave c.crew c.wave (fun v => { v with streamClock := Max.max v.streamClock w }) else s

/-- Write a run of words of a command, with the poison of its source (R366). -/
def State.putRun (s : State) (c : Cmd) (p : Place) (bs : List Byte) (bad : List Place) : State × Nat :=
  let r := s.writePlace c p bs
  ((bad.foldl (fun s q => s.placePoison c.core q) r.1).notePlace c r.2, r.2)

/-- An earlier access of the command's wave to a line has not performed: a streaming line takes its place after it (R185). -/
def State.waveBefore (s : State) (c : Cmd) (fpa : Nat) : Bool :=
  match s.crewAt c.crew with
  | none => false
  | some k => k.others.any (fun w => w.idx == c.wave && w.accs.any (fun a => decide (a.id < c.seq) && a.left && a.lanes.any (fun l =>
      match s.translate (dieOf c.core) c.ctx l.va.toNat a.op.want true with
      | .ok x => lineOf x.fpa == lineOf fpa
      | .error _ => false)))

/-- A landed line of a streaming copy may take its place now. -/
def State.placeFree (s : State) (c : Cmd) (p : Place) (n : Nat) : Bool :=
  match p with
  | .lm _ => true
  | .mem a => s.lineFree none a && !(s.waveBefore c a) && s.placeDue c.id (s.cmdPts c) p n

/-- The landed lines of a streaming copy take their places one by one (R184); with the last the command is over. -/
def State.placeNext (s : State) (c : Cmd) : State :=
  match c.pend with
  | [] => s
  | (p, bs, bad) :: rest =>
    if !(s.placeFree c p bs.length) then s
    else
      let r := s.putRun c p bs bad
      let c' := { c with pend := rest, clock := Max.max c.clock r.2 }
      if c.tagged && rest.isEmpty then
        { r.1 with cmds := r.1.cmds.filter (fun k => k.id != c.id) }.raiseEngine c.crew c.wave c'.clock
      else r.1.putCmd c'

/-- A streaming copy takes the place of a landed line apart from its landing. -/
def Cmd.late (c : Cmd) (p : Place) : Bool := (xcwOf c.xcw).st && (match p with | .mem _ => true | .lm _ => false)

/-- `COPY_LINE_WRITE` (R184, R190, R191, R219): a command writes its next destination line; a packing command writes its whole
destination; the lines of a streaming copy that have landed take their places. -/
def execCopyLineWrite (cmd : Nat) (s : State) : Out :=
  match s.cmd? cmd with
  | none => .next s
  | some c =>
    if c.total ≤ c.done then .next (s.placeNext c)
    else if c.kind = .pack ∨ c.kind = .unpack then
      match s.runPacked c with
      | .error _ => .next s
      | .ok (s1, w) => .next (s1.updCmd c.id (fun k => { k with done := 1, clock := Max.max k.clock w }))
    else
      match s.gatherRun c (if c.kind = .back then 1 else 32) c.done none [] [] with
      | (s1, none, _, _, t) => .next (if t = c.done then s else s1.updCmd c.id (fun k => { k with done := t }))
      | (s1, some p, bs, bad, t) =>
        if !(s1.placeDue c.id (s1.cmdPts c) p bs.length) then .next s
        else
          let s0 := if c.overlaps || !s1.past.isEmpty then { s1 with fresh := s1.fresh + 1 } else s1
          let bs' := s1.lineOut c bs
          if c.late p then .next (s0.updCmd c.id (fun k => { k with done := t, pend := k.pend ++ [(p, bs', bad)] }))
          else
            let r := s0.putRun c p bs' bad
            let x := xcwOf c.xcw
            let s3 := if x.fe && c.linear then r.1.fillGranules c.core c.dst.toNat (c.dst.toNat + 4 * c.total) (4 * c.done) (4 * t) else r.1
            .next ((s3.dropWritten c p bs.length).updCmd c.id (fun k => { k with done := t, clock := Max.max k.clock r.2 }))

/-- Take a finished command out, give up its lines and set its tag; the status of a command whose crew has ended is discarded
(R227). A streaming copy stays until its lines have their places (R184). -/
def State.finishCmd (s : State) (c : Cmd) (tag : Tag) : State :=
  let s1 := if (xcwOf c.xcw).st then s else c.owned.foldl (fun s l => s.dropLine c.id l) s
  let s2 := if c.pend.isEmpty then { s1 with cmds := s1.cmds.filter (fun k => k.id != c.id) }.raiseEngine c.crew c.wave c.clock
    else s1.putCmd { c with tagged := true }
  s2.updCrew c.crew (fun k => { k with tags := Map.put (fun _ => Tag.idle) k.tags (xcwOf c.xcw).tag tag })

/-- The clock that a completed tag tells its observers: none for a streaming copy (R184, R192). -/
def Cmd.tagClock (c : Cmd) : Nat := if (xcwOf c.xcw).st then 0 else c.clock

/-- `COPY_COMPLETE` (R192, R219): every byte has landed, and the tag becomes DONE. -/
def execCopyComplete (cmd : Nat) (s : State) : Out :=
  match s.cmd? cmd with
  | none => .next s
  | some c =>
    if c.done < c.total ∨ c.tagged then .next s
    else
      let s1 := if (xcwOf c.xcw).fe && !c.linear then
          (List.range c.total).foldl (fun s t => match s.cmdSides c t with
            | .ok (some (_, .lm off)) => s.lmSetFull c.core off true
            | _ => s) s
        else s
      .next (s1.finishCmd c (.done c.tagClock))

/-- The destination words of a command, for what a fault leaves of them. -/
def State.destSides (s : State) (c : Cmd) : List Side :=
  if c.kind = .pack ∨ c.kind = .unpack then
    let x := xcwOf c.xcw
    let f := (efmt c.nf x.sfmt).getD (.int true 8)
    if c.kind = .pack then wordSides true (planesOff c.dst) (planesBytes x.prec x.hi (blkLen x.blk))
    else (List.range x.lo).flatMap (fun r => wordSides x.dstLm (c.dst.toNat + r * planesStride c.src f x.hi) (f.rowBytes x.hi))
  else (List.range c.total).filterMap (fun t => match s.cmdSides c t with | .ok (some (_, b)) => some b | _ => none)

/-- Every destination byte of a failed command is undefined (R221); `none` while a word of it has to wait at its home (R181, R199). -/
def State.spoil (s : State) (c : Cmd) : Option State :=
  let sides := s.destSides c
  let places := sides.map (fun b => s.placeSide c b)
  if places.any (fun p => match p with | .error none => true | .error (some _) => false | .ok (q, _) => !(s.placeDue c.id (s.cmdPts c) q 4)) then none
  else
    let s1 := sides.zipIdx.foldl (fun s e =>
      match s.placeSide c e.1 with
      | .ok (p, s1) => (s1.writePlace c p ((List.range 4).map (fun k => Config.undefByte s.fresh (4 * e.2 + k)))).1
      | .error _ => s) s
    some { s1 with fresh := s1.fresh + 1 }

/-- `COPY_FAULT` (R221, R226): a command that meets a fault stops, and its tag becomes ERR with the cause and FOFF. -/
def execCopyFault (cmd : Nat) (s : State) : Out :=
  match s.cmd? cmd with
  | none => .next s
  | some c =>
    if c.total ≤ c.done then .next s
    else
      let fault : Stuck := if c.kind = .pack ∨ c.kind = .unpack then
          match s.runPacked c with | .error e => e | .ok _ => none
        else s.cmdFault c c.done
      match fault with
      | none => .next s
      | some e =>
        let foff := if c.kind = .pack ∨ c.kind = .unpack then 0 else 4 * c.done
        match s.spoil c with
        | none => .next s
        | some s1 => .next (s1.finishCmd { c with pend := [] } (.err e foff c.tagClock))

end Sys2Proof.Machine
end

