-- ==== Sys2Proof/Machine/Regions.lean ====
section
/-! DEFINITION. The region words (R242 to R249) and the steps of the Region Graph Unit (R231 to R236). -/

namespace Sys2Proof.Machine

/-- The open region of the issuing wave. -/
def State.openRegion (s : State) : Option Region :=
  match s.wave.region with | some id => s.region? id | none => none

/-- The DURATION limit of the wave's open region (R236). -/
def State.expireOpen (s : State) : State := match s.wave.region with | some id => s.expireRegion id | none => s

/-- Close the wave's region: its status word is kept, and an aborted region is retained (R241, R242, R246). -/
def State.closeRegion (s : State) (r : Region) : State :=
  let w := { s.wave with region := none, rgLast := r.word 3, retained := if r.state = 2 then some r.id else none }
  let s1 := if r.state = 2 then s.putRegion { r with state := 3, pieces := [], marks := [], ranges := 0, bytes := 0 } else s.releaseRegion r.id
  s1.setWave w

/-! ## Opening (R244) -/

/-- The lowest region id that the unit does not hold. -/
def State.freeRegionId (s : State) : Option Nat := (List.range 1024).find? (fun i => s.regions.all (fun r => r.id != i))

/-- A region as its `rgbeg` leaves it. -/
def State.beginRegion (s : State) (id stamp retry : Nat) : State :=
  let r : Region := {
    id := id, stamp := stamp, state := 1, status := 0, depth := 1, retry := retry, since := s.nanos,
    crew := s.crew.handle, wave := s.wave.idx, core := s.crew.core, ctx := s.crew.ctx, ranges := 0, bytes := 0, pieces := [],
    marks := [], reports := [], preds := [], binding := none }
  (s.putRegion r).setWave { s.wave with region := some id, retained := none }

/-- `rgbeg` (R244). Opens a region, new or retried. -/
def execRgbeg (y : Bool) (d : Reg) (a : Reg) (s : State) : Out :=
  s.onWave (fun s =>
    if s.wave.region.isSome then s.trap .operand 0#64
    else if s.getS a ≠ 0#64 then
      match s.wave.retained.bind s.region? with
      | none => s.trap .operand 0#64
      | some r => ((s.beginRegion r.id r.stamp (Min.min (r.retry + 1) 255)).setS d (BitVec.ofNat 64 r.id)).advance y
    else
      let s1 := match s.wave.retained with | some id => (s.releaseRegion id).setWave { s.wave with retained := none } | none => s
      match s1.freeRegionId with
      | none => (s1.setS d (BitVec.allOnes 64)).advance y
      | some id =>
        let s2 := { s1 with rgnStamp := s1.rgnStamp + 1 }
        ((s2.beginRegion id s1.rgnStamp 0).setS d (BitVec.ofNat 64 id)).advance y)

/-! ## Binding (R230 to R232, R245) -/

def overlaps (a n b m : Nat) : Bool := a < b + m && b < a + n

/-- The parts of a range by 64 KiB page: virtual address, LM offset and length. -/
def pageParts (fuel va lm n : Nat) : List (Nat × Nat × Nat) :=
  match fuel with
  | 0 => []
  | fuel + 1 =>
    if n = 0 then []
    else
      let k := Min.min n (65536 - va % 65536)
      (va, lm, k) :: pageParts fuel (va + k) (lm + k) (n - k)

/-- The fabric address of one part, or the cause of R245 (checks 4 and 5). -/
def State.bindPage (s : State) (va : Nat) : Except Cause Nat :=
  match s.lookup (dieOf s.crew.core) s.crew.ctx va with
  | .leaf l =>
    let raw := pteFrame l.pte + va % 2 ^ l.bits
    let fpa := s.fpaKey raw
    if !(s.fpaOk raw false && fpaDev fpa == s.devid.toNat && fpaSpace fpa == 0) then .error .protLd
    else if !pteR l.pte then .error .protLd
    else if !pteW l.pte || pteNC l.pte || pteMS l.pte then .error .protSt
    else .ok fpa
  | _ => .error .xlateLd

/-- The pieces of a range, or the first fault with its address (R245, checks 4 to 6). -/
def State.bindPieces (s : State) (parts : List (Nat × Nat × Nat)) : Except (Cause × Nat) (List RPiece) :=
  match parts with
  | [] => .ok []
  | (va, lm, n) :: rest =>
    match s.bindPage va with
    | .error c => .error (c, va)
    | .ok fpa =>
      match State.bindPieces s rest with
      | .error e => .error e
      | .ok ps => .ok (⟨va, fpa, lm, n⟩ :: ps)

/-- The first poisoned sector of the pieces, as a virtual address. -/
def State.piecePoison (s : State) (ps : List RPiece) : Option Nat :=
  ps.findSome? (fun p => ((sectors p.fpa p.len).find? s.isPoisoned).map (fun a => p.va + (Max.max a p.fpa - p.fpa)))

/-- The limits of R230 that raise OPERAND. -/
def State.bindLimits (s : State) (r : Region) (g l n : Nat) : Bool :=
  n == 0 || decide (65536 < n) || decide (8 ≤ r.ranges) || decide (262144 < r.bytes + n)
    || r.pieces.any (fun p => overlaps g n p.va p.len)
    || s.regions.any (fun q => q.crew = s.crew.handle && q.id != r.id && (q.state == 1 || q.state == 2)
        && q.pieces.any (fun p => overlaps l n p.lm p.len))

/-- How the binding of one word goes (R231, R232). -/
inductive Bound where
  | done (s : State) | waits (source : Nat) | stopped (s : State)

/-- The region whose dirty setting on a word came last, among those that a binder may take a forward from (R231). -/
def State.forwardSource (s : State) (r : Region) (w : Nat) : Option Region :=
  if s.isSenior r.stamp then none
  else
    (s.regions.filter (fun q => q.active && q.id != r.id)).foldl (fun (b : Option Region) q =>
      match q.mark? w with
      | none => b
      | some z =>
        if !z.dirty then b
        else match b with
          | none => some q
          | some p => match p.mark? w with | some x => if x.dirtyAt < z.dirtyAt then some q else b | none => some q) none

/-- Bind one word of a piece (R231, R232). -/
def State.bindWord (s : State) (id w lm : Nat) : Bound :=
  match s.region? id with
  | none => .stopped s
  | some r =>
    if !r.active then .stopped s
    else
      let dirty := s.regions.filter (fun q => q.active && q.id != id && (match q.mark? w with | some m => m.dirty | none => false))
      let mark : WMark := ⟨false, false, 0, s.rgnSeq, if s.isSenior r.stamp then dirty.map (fun q => q.id) else []⟩
      let put := fun (bs : List Byte) =>
        { (s.putRegion { r with marks := r.marks ++ [(w, mark)] }).lmWrite r.core lm bs with rgnSeq := s.rgnSeq + 1 }
      match s.forwardSource r w with
      | none =>
        let line := lineOf (4 * w)
        let p := Max.max (Max.max s.wave.pts s.floor) (s.line line).wts
        let s1 := (put (s.readBytes (4 * w) 4)).leaseLine p line
        .done (s1.setWave { s1.wave with pts := p })
      | some q =>
        if 4 < q.depth + s.height 4 id then .waits q.id
        else
          let off := match q.pieces.find? (fun p => p.fpa ≤ 4 * w ∧ 4 * w < p.fpa + p.len) with
            | some p => p.lm + (4 * w - p.fpa) | none => 0
          .done (((put (s.lmRead q.core off 4)).addEdge q.id id true).deepen 4 id (q.depth + 1))

/-- Bind the words of the pieces from byte `n` of the range on; `fuel` bounds the words. The answer tells the bytes bound so far, and
whether a word waits. -/
def State.bindWords (s : State) (fuel id n : Nat) (words : List (Nat × Nat)) : State × Nat × Bool :=
  match fuel with
  | 0 => (s, n, false)
  | fuel + 1 =>
    match words with
    | [] => (s, n, false)
    | (w, lm) :: rest =>
      match s.bindWord id w lm with
      | .done s1 => State.bindWords s1 fuel id (n + 4) rest
      | .stopped s1 => (s1, n, false)
      | .waits src => if s.before id src then (s.abortRegion id 3, n, false) else (s, n, true)

/-- The words of pieces with their LM offsets. -/
def pieceWords (ps : List RPiece) : List (Nat × Nat) :=
  ps.flatMap (fun p => (List.range (p.len / 4)).map (fun k => ((p.fpa + 4 * k) / 4, p.lm + 4 * k)))

/-- Whole LM sectors that a bind writes become clean (R198). -/
def State.bindClean (s : State) (core l n : Nat) : State :=
  (sectors l n).foldl (fun s x => if l ≤ x ∧ x + 32 ≤ l + n then s.lmSetPoison core x false else s) s

/-- A line of a range is held by an engine or by another device (R190). -/
def State.rangeHeld (s : State) (ps : List RPiece) : Bool := ps.any (fun p => (linesOf p.fpa p.len).any (fun k => !(s.lineFree none (128 * k))))

/-- The bind sets A of the pages that it reads (R332). -/
def State.touchPieces (s : State) (ctx die : Nat) (write : Bool) (ps : List RPiece) : State :=
  ps.foldl (fun s p =>
    match s.lookup die ctx p.va with | .leaf l => s.touch ⟨p.fpa, l.pte, l.addr⟩ write | _ => s) s

/-- The pieces of a region that lie in the virtual range of a bind. -/
def Region.piecesIn (r : Region) (g n : Nat) : List RPiece := r.pieces.filter (fun p => g ≤ p.va ∧ p.va < g + n)

/-- The range of a bind that has not completed is bound no more: a fault leaves the region and its other ranges as they were (R245). -/
def Region.unbind (r : Region) (g n : Nat) : Region :=
  match r.binding with
  | none => r
  | some (_, depth, preds) =>
    let ps := r.piecesIn g n
    { r with
      ranges := r.ranges - 1
      bytes := r.bytes - n
      pieces := r.pieces.filter (fun p => !ps.contains p)
      marks := r.marks.filter (fun e => !(ps.any (fun p => decide (p.fpa ≤ 4 * e.1) && decide (4 * e.1 < p.fpa + p.len))))
      depth := depth
      preds := r.preds.filter preds.contains
      binding := none }

/-- The bind of a region has got as far as `n` bytes. -/
def State.setBinding (s : State) (id n : Nat) : State :=
  match s.region? id with
  | some r => s.putRegion { r with binding := r.binding.map (fun b => (n, b.2)) }
  | none => s

/-- The bind of a region is over. -/
def State.endBinding (s : State) (id : Nat) : State :=
  match s.region? id with | some r => s.putRegion { r with binding := none } | none => s

/-- Go on with a bind from byte `n`: it waits for a line that an engine holds, or as a blocking point under R232, or completes. A sector
that has become poisoned meanwhile faults it. -/
def State.bindFrom (s : State) (y : Bool) (r : Region) (n g l len : Nat) (ps : List RPiece) : State :=
  if s.rangeHeld ps then s.wait .other
  else
    match s.piecePoison ps with
    | some va => (s.putRegion (r.unbind g len)).trap .poison (BitVec.ofNat 64 va)
    | none =>
      match s.bindWords 16385 r.id n ((pieceWords ps).drop (n / 4)) with
      | (s1, k, true) => (s1.setBinding r.id k).wait (.rgbind k)
      | (s1, k, false) => ((s1.bindClean s.crew.core l k).endBinding r.id).advance y

/-- A new bind of a range that has passed checks 1 to 3 (R245). -/
def State.bindNew (s : State) (y : Bool) (r : Region) (g l n : Nat) : State :=
  match s.bindPieces (pageParts 3 g l n) with
  | .error (c, va) => s.trap c (BitVec.ofNat 64 va)
  | .ok ps =>
    match s.piecePoison ps with
    | some va => s.trap .poison (BitVec.ofNat 64 va)
    | none =>
      let r' := { r with ranges := r.ranges + 1, bytes := r.bytes + n, pieces := r.pieces ++ ps, binding := some (0, r.depth, r.preds) }
      ((s.touchPieces s.crew.ctx (dieOf s.crew.core) false ps).putRegion r').bindFrom y r' 0 g l n ps

/-- `rgbind` (R245). Binds a global range to an LM copy in the open region. -/
def execRgbind (y : Bool) (d : Reg) (a : Reg) (b : Reg) (s : State) : Out :=
  s.onWave (fun s0 =>
    let s := s0.expireOpen
    let g := (s.getS d).toNat
    let l := (s.getS a).toNat
    let n := (s.getS b).toNat
    match s.openRegion with
    | none => s.trap .operand 0#64
    | some r0 =>
      if !r0.active then s.advance y
      else if s.wave.beforeLeft then s.wait (s.wave.block.getD .other)
      else
        match s.wave.block, r0.binding with
        | some _, some (k, _, _) => s.bindFrom y r0 k g l n (r0.piecesIn g n)
        | _, _ =>
          let r := r0.unbind g n
          if s.bindLimits r g l n then s.trap .operand 0#64
          else if g % 4 ≠ 0 then s.trap .align (s.getS d)
          else if l % 4 ≠ 0 then s.trap .align (s.getS a)
          else if n % 4 ≠ 0 then s.trap .align (s.getS b)
          else
            match s.crew.lmBad l n with
            | some off => s.trap .protSt (BitVec.ofNat 64 off)
            | none => s.bindNew y r g l n)

/-! ## Commit and close (R235, R246 to R249) -/

/-- A dirty word of the region lies in the piece. -/
def Region.dirtyIn (r : Region) (p : RPiece) : Bool := r.dirtyWords.any (fun e => p.fpa ≤ 4 * e.1 ∧ 4 * e.1 < p.fpa + p.len)

/-- The commit waits for predecessors, or for an open snapshot view (R199, R235). -/
def State.commitWaits (s : State) (r : Region) : Bool :=
  r.waits || r.pieces.any (fun p =>
    (match s.lookup (dieOf r.core) r.ctx p.va with | .leaf l => pteSnap l.pte && s.inView p.fpa | _ => false) && r.dirtyIn p)

/-- The logical clock of a region's wave. -/
def State.regionPts (s : State) (r : Region) : Nat :=
  match s.crewAt r.crew with
  | some c => match c.others.find? (fun w => w.idx = r.wave) with | some w => w.pts | none => 0
  | none => 0

/-- The commit timestamp: above those of the earlier commits and of the leases of its lines, and not below the wave's clock (R181, R235). -/
def State.commitStamp (s : State) (r : Region) : Nat :=
  r.dirtyWords.foldl (fun t e => Max.max t (s.storeStamp 0 (4 * e.1) 4)) (Max.max (s.rgnClock + 1) (Max.max (s.regionPts r) s.floor))

/-- A line of the commit is held by an engine or by another device, or its timestamp is not granted yet (R181, R190). -/
def State.commitHeld (s : State) (r : Region) : Bool :=
  r.dirtyWords.any (fun e => !(s.lineFree none (4 * e.1))) || !(s.stampDue (s.commitStamp r))

/-- Store the dirty copies of an active region at one timestamp, refresh the other regions, and release its marks and edges (R235). The
region stays in state 4, committed, until its wave closes it. -/
def State.commitRegion (s : State) (r : Region) : State :=
  let ws := r.dirtyWords
  let t := s.commitStamp r
  let s0 := s.touchPieces r.ctx (dieOf r.core) true (r.pieces.filter r.dirtyIn)
  let s1 := ws.foldl (fun s e =>
    let a := 4 * e.1
    let bs := s.lmRead r.core e.2 4
    ((s.memLog a bs).writeBytes a bs).stampWrite t a 4) s0
  let s2 := (s1.commitPoison r.core ws).releaseRegion r.id
  let s3 := { s2 with rgnClock := t }.putRegion
    { r with state := 4, status := 0, marks := [], reports := [], preds := [], pieces := [], binding := none }
  ws.foldl (fun s e => s.refresh (4 * e.1) 4) s3

/-- Settle an active region at its `rgend`: commit it if nothing stands before it, abort it with DURATION if it has been open too long or a
dirty copy has expired. -/
def State.settleRegion (s : State) (id : Nat) : State :=
  let s1 := (s.takeReports id).expireRegion id
  match s1.region? id with
  | none => s1
  | some r =>
    if !r.active || s1.commitWaits r || s1.commitHeld r then s1
    else if r.dirtyWords.any (fun e => s1.lmExpired (lmLineOf r.core e.2)) then s1.abortRegion id 6
    else s1.commitRegion r

/-- `rgend` (R246). Waits for predecessors, commits or closes the region and returns its status. -/
def execRgend (y : Bool) (d : Reg) (s : State) : Out :=
  s.onWave (fun s =>
    match s.wave.region with
    | none => s.trap .operand 0#64
    | some id =>
      if s.wave.beforeLeft && (match s.openRegion with | some r => r.active | none => false) then s.wait .other
      else
      let s1 := s.settleRegion id
      match s1.region? id with
      | none => s1.trap .operand 0#64
      | some r =>
        if r.active then s1.wait (if s1.commitWaits r then .rgend else .other)
        else
          let s2 := s1.closeRegion r
          let p := if r.state = 4 then Max.max s2.wave.pts (s1.rgnClock + 1) else s2.wave.pts
          ((s2.setWave { s2.wave with pts := p }).setS d (r.word 3)).advance y)

/-- `rgabort` (R247). Aborts and closes the open region. -/
def execRgabort (y : Bool) (s : State) : Out :=
  s.onWave (fun s =>
    match s.wave.region with
    | none => s.advance y
    | some id =>
      let s1 := s.abortRegion id 7
      match s1.region? id with
      | none => s1.advance y
      | some r => (s1.closeRegion r).advance y)

/-- The status word of the wave's open region, or of its last one (R242). -/
def State.regionStatus (s : State) : Word :=
  match s.openRegion with
  | some r => r.word (if r.state = 4 then 1 else r.state)
  | none => s.wave.rgLast

/-- `rgstat` (R248). Returns the region status word. -/
def execRgstat (y : Bool) (d : Reg) (s : State) : Out :=
  s.onWave (fun s0 =>
    let s := s0.expireOpen
    (s.setS d s.regionStatus).advance y)

/-- `rgwait` (R249). Waits until the region aborts or has no uncommitted predecessor. -/
def execRgwait (y : Bool) (d : Reg) (s : State) : Out :=
  s.onWave (fun s0 =>
    let s := s0.expireOpen
    match s.openRegion with
    | some r => if r.active && r.waits then s.wait .rgwait else (s.setS d s.regionStatus).advance y
    | none => (s.setS d s.regionStatus).advance y)

/-! ## Steps of the unit -/

/-- `RGN_BIT_REPORT` (R233, R234): the home takes the oldest report of a region on its way. -/
def execRgnBitReport (region : Nat) (s : State) : Out :=
  match s.region? region with
  | none => .next s
  | some r =>
    match r.reports with
    | [] => .next s
    | (w, wr) :: rest => .next ((s.putRegion { r with reports := rest }).takeReport region w wr)

/-- The word at which a wave stands. -/
def State.wordAtPc (s : State) : Lane :=
  match s.translate (dieOf s.crew.core) s.crew.ctx s.wave.pc.toNat .fetch false with
  | .ok x => BitVec.ofNat 32 (s.readMem x.fpa 4)
  | .error _ => 0#32

/-- `RGN_BIND_RESUME` (R232): a waiting `rgbind` goes on once its would-be source has settled. -/
def execRgnBindResume (crew : Nat) (wave : Nat) (s : State) : Out :=
  .next (s.atWave crew wave (fun t =>
    match t.wave.block with
    | some (.rgbind _) =>
      let w := t.wordAtPc
      if t.wave.live && w.extractLsb' 23 8 == 0xD1#8 then
        match execRgbind (w.getLsbD 31) (w.extractLsb' 16 7) (w.extractLsb' 9 7) (w.extractLsb' 2 7) t with
        | .next u => u
        | _ => t
      else t
    | _ => t))

/-- `RGN_COMMIT` (R235): a region whose wave waits in `rgend` commits once nothing stands before it. -/
def execRgnCommit (region : Nat) (s : State) : Out :=
  match s.region? region with
  | none => .next s
  | some r =>
    let ready : Bool := match s.crewAt r.crew with
      | some c => c.others.any (fun w => w.idx = r.wave && w.live && w.block = some .rgend)
      | none => false
    .next (if ready then s.settleRegion region else s)

/-- `RGN_DURATION` (R236): a region open for more than 1 ms aborts. -/
def execRgnDuration (region : Nat) (s : State) : Out :=
  .next (s.expireRegion region)

end Sys2Proof.Machine
end

