-- ==== Sys2Proof/Machine/Access.lean ====
section
/-! DEFINITION. Queue words and cross-crew barriers at their homes (R300 to R307), and the launch of a flow (R271, R273, R308). -/

namespace Sys2Proof.Machine

/-- The new value of a scalar atomic (R204, R205). -/
def atomicNew (o : AtomOp) (x b : Word) : Word :=
  match o with
  | .add => x + b
  | .min => if x.slt b then x else b
  | .max => if x.slt b then b else x
  | .minn => if x.ult b then x else b
  | .maxn => if x.ult b then b else x
  | .and => x &&& b
  | .or => x ||| b
  | .xor => x ^^^ b
  | .xchg => b
  | .cas e => if x = e then b else x
  | .fadd => zext64 (add32 (x.setWidth 32) (b.setWidth 32))

/-! ## Performing a request -/

/-- How a request ends: it waits, it meets a data fault, or it is done. -/
inductive QOut where
  | wait (b : Block)
  | data (c : Cause)
  | done (s : State)

/-- The timestamp of a group of writes at a home (R181, R193). -/
def State.groupStamp (s : State) (spans : List (Nat × Nat)) : Nat :=
  spans.foldl (fun w p => Max.max w (s.storeStamp s.wave.pts p.1 p.2)) s.wave.pts

def State.raisePts (s : State) (w : Nat) : State := s.setWave { s.wave with pts := Max.max s.wave.pts w }

/-- An ordinary load of a span at its home whose value is used at once (R180, R307, R308): the wave stands at the lines' timestamps or after
them, and every line is leased. -/
def State.homeRead (s : State) (x : Xl) (n : Nat) (write : Bool) : State :=
  let ls := linesOf x.fpa n
  let p := ls.foldl (fun p l => Max.max p (s.line l).wts) (Max.max s.wave.pts s.floor)
  (ls.foldl (fun s l => (s.recallLine none l).leaseLine p l) (s.touch x write)).raisePts p

/-- A group of writes at a home waits for its timestamp (R181). -/
def State.groupDue (s : State) (spans : List (Nat × Nat)) : Bool := s.stampDue (s.groupStamp spans)

/-- Take `n` more records of a queue into the crew's holding (R304). -/
def Crew.holdRecord (c : Crew) (hdr : Word) : Crew :=
  if c.held.any (fun h => h.hdr = hdr && !h.dispatch) then
    { c with held := c.held.map (fun h => if h.hdr = hdr && !h.dispatch then { h with count := h.count + 1 } else h) }
  else { c with held := c.held ++ [⟨hdr, 1, 0, false⟩] }

/-- Let one record go (R305). -/
def Crew.dropRecord (c : Crew) (p : HeldRec → Bool) : Crew :=
  { c with held := (c.held.map (fun h => if p h then { h with count := h.count - 1 } else h)).filter (fun h => h.count != 0) }

/-- A record to LM, its granules made full (R304). -/
def State.recordToLm (s : State) (core off : Nat) (bs : List Byte) : State :=
  (List.range (bs.length / 16)).foldl (fun s k => s.lmSetFull core (off + 16 * k) true)
    ((s.lmTouch core off bs.length true).lmWrite core off bs)

/-- `qpush` and `qpushw` (R303) at a sound header `xh`. A word that has read its record and waits does not read it again. -/
def State.doPush (s : State) (xh : Xl) (h : Hdr) (off : Nat) (data : List Byte) (bad : List Nat) (d : Reg) (wait : Bool) : QOut :=
  let core := s.crew.core
  if s.wave.qwait.isNone && (lmLines core off h.rsz).any s.lmExpired then .data .stale
  else if h.closed then .done ((s.homeRead xh 64 true).setS d 2#64)
  else if h.free = 0 then if wait then .wait .qpush else .done ((s.homeRead xh 64 true).setS d 1#64)
  else
    let a := xh.fpa
    match s.slotAt a h h.tail .store with
    | .error _ => .wait .other
    | .ok x =>
      if s.snapWaits x then .wait .snapWord
      else if !(s.homeOpen none x && s.groupDue [(a, 64), (x.fpa, h.rsz)]) then .wait .other
      else
        let w := s.groupStamp [(a, 64), (x.fpa, h.rsz)]
        let s1 := s.plainWrite w x.fpa (data.take h.rsz)
        let s2 := (bad.filter (fun k => 32 * k < h.rsz)).foldl (fun s k => s.setPoison (x.fpa + 32 * k) true) s1
        let s3 := (s2.plainWrite w (a + 8) (bytesLE 8 (h.tail + 1))).plainWrite w (a + 0x18) (bytesLE 4 (h.free - 1))
        .done ((((s3.touch xh true).touch x true).raisePts w).setS d 0#64)

/-- `qpop` (R304) at a sound header `xh`. -/
def State.doPop (s : State) (hdr : Word) (xh : Xl) (h : Hdr) (off : Nat) (d : Reg) : QOut :=
  let core := s.crew.core
  let a := xh.fpa
  if h.occ = 0 then
    if h.closed then .done ((s.homeRead xh 64 true).setS d (BitVec.allOnes 64)) else .wait (.qpop h.external)
  else
    match s.slotAt a h h.head .load with
    | .error _ => .wait .other
    | .ok x =>
      if !(s.homeOpen none x && s.groupDue [(a, 64), (x.fpa, h.rsz)]) then .wait .other
      else if s.anyPoison x.fpa h.rsz then .data .poison
      else
        let w := s.groupStamp [(a, 64), (x.fpa, h.rsz)]
        let s1 := s.plainWrite w a (bytesLE 8 (h.head + 1))
        let s2 := s1.recordToLm core off (s.readBytes x.fpa h.rsz)
        let s3 := ((s2.touch xh true).touch x false).setCrew (s2.crew.holdRecord hdr)
        .done ((s3.raisePts w).setS d (BitVec.ofNat 64 h.head))

/-- The status word of `qpeek` (R307). -/
def Hdr.peek (h : Hdr) : Word :=
  BitVec.ofNat 64 ((if h.closed then 2 ^ 63 else 0) + (if h.external then 2 ^ 62 else 0) + (if h.bound then 2 ^ 61 else 0)
    + h.free % 2 ^ 21 * 2 ^ 32 + h.occ % 2 ^ 21)

/-- `xbar` and `xbarv` (R300, R301): the arrival of the word at `pc`. A wave that must wait for the phase stands at the barrier after it, and
whether the wait is on an external object is settled by FLAGS as the arrival finds them. -/
def State.doXbar (s : State) (pc addr : Word) (a : Nat) (d : Reg) (wait : Bool) : State :=
  let count := s.readMem a 4 + 1
  let ph := s.readMem (a + 8) 4
  let last := count = s.readMem (a + 4) 4
  let w := s.groupStamp [(a, 64)]
  let s1 := if last then (s.plainWrite w a (bytesLE 4 0)).plainWrite w (a + 8) (bytesLE 4 (ph + 1)) else s.plainWrite w a (bytesLE 4 count)
  let s2 := (s1.raisePts w).setS d (BitVec.ofNat 64 ph)
  let ext := s.readMem (a + 12) 4 % 2 == 1
  let s3 := s2.setWave { s2.wave with xbarExt := ext, xbarPc := pc }
  if wait && !last then s3.wait (.xbar addr (BitVec.ofNat 32 ph) ext) else s3.setWave { s3.wave with block := none }

/-! ## Launching a flow (R271, R273, R308) -/

/-- A stage entry as it lies in a flow record (R271). -/
structure Entry where
  prog : Nat
  waves : Nat
  vregs : Nat
  accs : Nat
  prio : Nat
  lmb : Nat
  arg : Nat
  floor : Nat
  ceil : Nat
  weight : Nat
  kind : Nat
  rest : Nat
  deriving DecidableEq, Repr

/-- Entry `k` of a record of 256 bytes. -/
def entryOf (rec : List Byte) (k : Nat) : Entry :=
  let f := fun off n => ofBytesLE ((rec.drop (32 * k + off)).take n)
  ⟨f 0 8, f 8 1, f 9 1, f 10 1, f 11 1, f 12 4, f 16 8, f 24 2, f 26 2, f 28 1, f 29 1, f 30 2⟩

/-- A used entry keeps R271. -/
def Entry.ok (e : Entry) : Bool :=
  e.prog % 4 == 0 && decide (1 ≤ e.waves) && decide (e.waves ≤ 16) && decide (2 ≤ e.vregs) && decide (e.vregs ≤ 16)
    && decide (e.accs ≤ 16) && decide (e.prio ≤ 7) && e.lmb % 256 == 0 && decide (e.lmb ≤ 2 ^ 23)
    && (e.kind != 1 || decide (256 ≤ e.lmb)) && (e.kind != 2 || (decide (1 ≤ e.arg) && decide (e.arg ≤ 65535)))
    && decide (e.floor ≤ e.ceil) && decide (e.ceil ≤ 256) && decide (1 ≤ e.ceil) && decide (1 ≤ e.weight)
    && (e.kind == 1 || e.kind == 2) && e.rest == 0

/-- An unused entry keeps R271: its reserved fields are zero. -/
def Entry.unusedOk (e : Entry) : Bool := decide (e.prio ≤ 7) && e.rest == 0

/-- The first entry that breaks R271, or a used entry that an unused one precedes; a record with no used entry breaks it at 0. -/
def badEntry (es : List Entry) : Option Nat :=
  if es.all (fun e => e.kind == 0) then some 0
  else
    (es.zipIdx.find? (fun e => if e.1.kind = 0 then !e.1.unusedOk
      else !e.1.ok || (es.take e.2).any (fun f => f.kind == 0))).map (fun e => e.2)

/-- The queue header of an entry, where it can be reached. -/
def State.entryHdr (s : State) (die ctx : Nat) (e : Entry) : Option (Xl × Hdr) :=
  if e.kind ≠ 1 ∨ e.arg % 128 ≠ 0 then none
  else match s.translate die ctx e.arg .atomic false with
    | .error _ => none
    | .ok x => if s.anyPoison x.fpa 128 then none else some (x, s.hdr x.fpa)

/-- A header is bound, or its binding is on its way (R273). -/
def State.isBound (s : State) (a : Nat) (h : Hdr) : Bool :=
  h.bound || s.units.any (fun u => u.addr == a && (match u.act with | .bind _ => true | _ => false))

/-- The first queue entry whose header is broken, bound or named before (R273): one header may be named through two addresses. -/
def State.badQueue (s : State) (die ctx : Nat) (es : List Entry) : Option Nat :=
  (es.zipIdx.find? (fun e => e.1.kind == 1 &&
    (match s.entryHdr die ctx e.1 with
      | none => true
      | some h => !h.2.ok || s.isBound h.1.fpa h.2
          || (es.take e.2).any (fun f => ((s.entryHdr die ctx f).map (fun g => g.1.fpa)) == some h.1.fpa)))).map (fun e => e.2)

/-- QNUMs in use. -/
def State.qnums (s : State) : List Nat := s.flows.flatMap (fun f => f.stages.map (fun st => st.qnum))

/-- The `n` lowest free QNUMs (R273). -/
def State.freeQnums (s : State) (n : Nat) : List Nat := ((List.range 512).filter (fun q => !(s.qnums.contains q))).take n

/-- FLOORs of the live stages (R273). -/
def State.floorSum (s : State) : Nat :=
  (s.flows.flatMap (fun f => f.stages.map (fun st => if st.ended then 0 else st.floor))).sum

/-- The status word of a launch (R308). -/
def launchWord (flow entry code : Nat) : Word := BitVec.ofNat 64 (flow * 2 ^ 32 + entry * 2 ^ 16 + code)

/-- Decide a launch and start the flow (R273): the state and the status word. -/
def State.launchFlow (s : State) (die ctx : Nat) (rec : List Byte) : State × Word :=
  let all := (List.range 8).map (entryOf rec)
  match badEntry all with
  | some k => (s, launchWord 0 k 1)
  | none =>
    let es := all.filter (fun e => e.kind != 0)
    match es.zipIdx.find? (fun e => 4096 < e.1.waves * e.1.vregs * 32) with
    | some e => (s, launchWord 0 e.2 2)
    | none =>
      match s.badQueue die ctx es with
      | some k => (s, launchWord 0 k 3)
      | none =>
        let qs := s.freeQnums es.length
        match (List.range 256).find? (fun n => (s.flow? n).isNone) with
        | none => (s, launchWord 0 0 4)
        | some num =>
          if qs.length < es.length then (s, launchWord 0 0 4)
          else if s.availableCores < s.floorSum + (es.map (fun e => e.floor)).sum then (s, launchWord 0 0 5)
          else
            let stages := (es.zip qs).map (fun p => ({
              prog := BitVec.ofNat 64 p.1.prog, waves := p.1.waves, vregs := 32 * p.1.vregs, accs := p.1.accs, prio := p.1.prio,
              lmb := p.1.lmb, arg := BitVec.ofNat 64 p.1.arg, floor := p.1.floor, ceil := p.1.ceil, weight := p.1.weight,
              kind := p.1.kind, qnum := p.2, target := p.1.floor, formed := 0, broken := false, cores := [], draining := [],
              rose := false, ended := false } : Stage))
            let s1 := { s.putFlow ⟨num, ctx, stages⟩ with samples := s.nanos / 10000 }
            let s2 := (es.zip qs).zipIdx.foldl (fun s e =>
              match s.entryHdr die ctx e.1.1 with
              | some h => s.hdrAct h.1 (.bind (e.1.2 * 2 ^ 16 + e.2))
              | none => s) s1
            (s2.sample, launchWord num 0 0)

/-! ## A request as a whole -/

/-- Perform a request that has met no translation fault (R300 to R308), of the word at `pc`. -/
def State.queueRun (s : State) (pc : Word) (q : QReq) : QOut :=
  let k : Want := match q with | .launch _ _ => .load | _ => .atomic
  match s.xlateVa q.addr k false with
  | .error _ => .wait .other
  | .ok x =>
    let a := x.fpa
    if !(s.homeOpen none x) then .wait .other
    else
      match q with
      | .launch _ d =>
        if s.anyPoison a 256 then .data .poison
        else
          let r := s.launchFlow (dieOf s.crew.core) s.crew.ctx (s.readBytes a 256)
          .done ((r.1.homeRead x 256 false).setS d r.2)
      | .peek _ d =>
        if s.anyPoison a 128 then .data .poison
        else .done ((s.homeRead x 128 false).setS d (s.hdr a).peek)
      | .xbar addr d w =>
        if s.anyPoison a 64 then .data .poison
        else if s.snapWaits x then .wait .snapWord
        else if !(s.groupDue [(a, 64)]) then .wait .other
        else .done ((s.touch x true).doXbar pc addr a d w)
      | .push _ off data bad d w =>
        if s.anyPoison a 128 then .data .poison
        else if s.snapWaits x then .wait .snapWord
        else s.doPush x (s.hdr a) off data bad d w
      | .pop hdr off d =>
        if s.anyPoison a 128 then .data .poison
        else if s.snapWaits x then .wait .snapWord
        else s.doPop hdr x (s.hdr a) off d
      | .free hdr d =>
        if s.anyPoison a 128 then .data .poison
        else if s.snapWaits x then .wait .snapWord
        else if !(s.groupDue [(a, 64)]) then .wait .other
        else
          let w := s.groupStamp [(a, 64)]
          let s1 := (s.touch x true).plainWrite w (a + 0x18) (bytesLE 4 ((s.hdr a).free + 1))
          let dispatch := s.crew.held.any (fun h => h.hdr = hdr && h.dispatch) && !(s.crew.held.any (fun h => h.hdr = hdr && !h.dispatch))
          .done (((s1.setCrew (s1.crew.dropRecord (fun h => h.hdr = hdr && h.dispatch == dispatch))).raisePts w).setS d 1#64)
      | .close _ =>
        if s.anyPoison a 128 then .data .poison
        else if s.snapWaits x then .wait .snapWord
        else if !(s.groupDue [(a, 64)]) then .wait .other
        else
          let h := s.hdr a
          let w := s.groupStamp [(a, 64)]
          .done (((s.touch x true).plainWrite w (a + 0x1C) (bytesLE 4 (if h.closed then h.flags else h.flags + 1))).raisePts w)

end Sys2Proof.Machine
end

