-- ==== Sys2Proof/Machine/Control.lean ====
section
/-! DEFINITION. The words that end a wave, the crew and cross-crew barriers, the queue words, launches and windows (R292 to R310). -/

namespace Sys2Proof.Machine

/-! ## Ending a wave (R292, R293) -/

/-- Stores of the wave that have neither performed nor been recorded: what `drainst` and `exit` wait for (R208, R292). -/
def State.drainLeft (s : State) : Bool :=
  s.wave.storesLeft || (s.coreAt s.crew.core).mops.any (fun m => m.crew = s.crew.handle ∧ m.wave = s.wave.idx ∧ m.stores)

/-- Every live wave of a taken crew has executed its `eret` with RESTORE = 0: the crew is SAVED, and its resources return to the core
(R276, R362). -/
def State.finishSave (s : State) : State :=
  match s.crew.preempt with
  | some p =>
    if p.entered && s.crew.state = .taking && s.crewWaves.all (fun w => !w.live || w.ret.isSome) then
      let c := { s.crew with state := .saved, preempt := none, slot := some p.slot, accs := [], segs := [], tags := [] }
      (({ s with crew := c }).dropMops c true).settleFlows
    else s
  | none => s

/-- The wave ends: its regions abort with SELF, and it is no longer live. The crew ends with its last live wave; a halt or a taking
that waited for this wave goes on (R276, R358). -/
def State.endWave (s : State) (st : WStat) : State :=
  let s1 := match s.wave.region with | some id => (s.abortRegion id 7).releaseRegion id | none => s
  let s2 := match s.wave.retained with | some id => s1.releaseRegion id | none => s1
  let s3 := s2.restartWd
  let s4 := s3.setWave { s3.wave.finish st with issued := s.wave.issued + 1 }
  if s4.crew.others.any Wave.live then s4.finishHalt.finishSave else s4.endCrew

/-- `exit` (R292). Drains stores, aborts an open region and ends the wave, ending the crew if none remains live. -/
def execExit (_y : Bool) (s : State) : Out :=
  s.onWave (fun s => if s.drainLeft || s.faultFound then s.wait .other else s.endWave .exited)

/-! ## Crew barriers (R294 to R296) -/

/-- A phase that every member has reached completes (R294). -/
def Barrier.settle (b : Barrier) : Barrier :=
  if b.member &&& ~~~b.arrived = 0#16 then { b with phase := b.phase + 1#16, arrived := 0#16, timer := none, expired := false } else b

/-- Wave `w` arrives (R295). -/
def Barrier.arrive (b : Barrier) (w now clock : Nat) : Barrier :=
  let timer := if b.timer.isNone && !b.expired then some now else b.timer
  { b with arrived := b.arrived ||| (1#16 <<< w), timer := timer, clock := Max.max b.clock clock }.settle

/-- Wave `w` leaves the member set (R293); ARRIVED changes only where the phase completes (R294). -/
def Barrier.leave (b : Barrier) (w : Nat) : Barrier := { b with member := b.member &&& ~~~(1#16 <<< w) }.settle

def Crew.bar (c : Crew) (i : BitVec 3) : Barrier := c.bars[i.toNat]'i.isLt
def Crew.setBar (c : Crew) (i : BitVec 3) (b : Barrier) : Crew := { c with bars := c.bars.set i.toNat b i.isLt }

/-- What must stand before an arrival: the wave's ordinary accesses and LM events (R296), but for accesses at or behind one that faults in
translation, which take their places when `eret` performs them (R348, R349). -/
def State.arrivalLeft (s : State) : Bool :=
  s.wave.accs.any (fun a => !a.stream && a.left && !s.wave.accs.any (fun b => decide (b.id ≤ a.id) && s.transFaulty b)) || !s.wave.lmq.isEmpty

/-- The issuing wave arrives at barrier `i` and goes on with the phase it arrived in, or waits: for its own arrival in this phase, a
blocking point, or for its earlier accesses (R295, R296). -/
def State.arriveAt (s : State) (i : BitVec 3) (value : Bool) (k : State → BitVec 16 → State) : State :=
  let b := s.crew.bar i
  if b.arrived.getLsbD s.wave.idx then s.wait (.arrive i.toNat value)
  else if s.arrivalLeft then s.wait .other
  else k (s.setCrew (s.crew.setBar i (b.arrive s.wave.idx s.nanos s.wave.pts))) b.phase

/-- A wave that observes a completed phase is ordered after its arrivals (R296). -/
def State.observe (s : State) (i : BitVec 3) : State := s.raisePts (s.crew.bar i).clock

/-- `bar` (R295). Arrives at a crew barrier and waits for the phase. -/
def execBar (y : Bool) (i : BitVec 3) (s : State) : Out :=
  s.onWave (fun s => s.arriveAt i false (fun s ph =>
    if (s.crew.bar i).phase ≠ ph then (s.observe i).advance y else (s.advance y).wait (.bar i.toNat ph)))

/-- `barv` (R295). Arrives at a crew barrier and returns the phase. -/
def execBarv (y : Bool) (d : Reg) (i : BitVec 3) (s : State) : Out :=
  s.onWave (fun s => s.arriveAt i true (fun s ph => (s.setS d (ph.setWidth 64)).advance y))

/-- Phase `ph` has passed (R295). -/
def Barrier.passed (b : Barrier) (ph : BitVec 16) : Bool :=
  let n := (b.phase - ph).toNat
  decide (1 ≤ n) && decide (n ≤ 32767)

/-- `barw` (R295). Waits until a crew barrier passes a phase. -/
def execBarw (y : Bool) (a : Reg) (i : BitVec 3) (s : State) : Out :=
  s.onWave (fun s =>
    if (s.crew.bar i).passed ((s.getS a).setWidth 16) then (s.observe i).advance y else s.wait (.barw i.toNat))

/-- Every barrier of the crew without the wave (R293). -/
def Crew.leaveBars (c : Crew) (w : Nat) : Crew := { c with bars := c.bars.map (fun b => b.leave w) }

/-- `cleave` (R293). Ends the wave and removes it from every crew barrier. -/
def execCleave (_y : Bool) (s : State) : Out :=
  s.onWave (fun s =>
    if s.wave.region.isSome then s.trap .operand 0#64
    else if s.drainLeft || s.faultFound then s.wait .other
    else (s.setCrew (s.crew.leaveBars s.wave.idx)).endWave .left)

/-- `wdarm` (R310). Restarts the crew's barrier timers and the context watchdog. -/
def execWdarm (y : Bool) (s : State) : Out :=
  s.onWave (fun s =>
    let arm := fun (b : Barrier) => { b with timer := if b.arrived = 0#16 then none else some s.nanos, expired := false }
    (s.setCrew { s.crew with bars := s.crew.bars.map arm }).advance y)

/-- `npre` (R309). Opens, shortens or ends the no-pre-emption window. -/
def execNpre (y : Bool) (a : Reg) (s : State) : Out :=
  s.onWave (fun s =>
    let t := Min.min (s.getS a).toNat 500
    let stop := s.nanos + 1000 * t
    let preq := match s.crew.preempt with | some p => !p.entered | none => false
    let e := if t = 0 then 0
      else if preq then s.wave.npreEnd
      else if s.nanos < s.wave.npreEnd then Min.min s.wave.npreEnd stop
      else stop
    (s.setWave { s.wave with npreEnd := e }).advance y)

/-! ## Queue and cross-crew barrier words (R300 to R308) -/

/-- A request that stays an access of the wave: one that faults in translation, or stands behind one that does (R348, R349). -/
def State.pushRequest (s : State) (q : QReq) : State := s.pushAccess (.queue q) [⟨0, q.addr, 0#64, 0#32⟩] false

/-- A request that meets a data fault: it has performed nothing, and its destination is undefined (R198, R349). -/
def State.requestData (s : State) (q : QReq) (c : Cause) : State :=
  let w := s.wave
  let a : Access := ⟨w.nextId, w.pc, w.issued, .queue q, [⟨0, q.addr, 0#64, 0#32⟩], false, w.inh, .data c 0, s.nanos⟩
  (s.setWave { w with accs := w.accs ++ [a], nextId := w.nextId + 1 }).setDest q.dest (Config.undefWord s.fresh)

/-! ### Waiters at a queue (R302) -/

/-- A waiter: its place in line, its crew and wave, and whether it pushes. -/
structure Waiter where
  ticket : Nat
  crew : Nat
  wave : Nat
  pushes : Bool
  deriving DecidableEq, Repr

/-- A request that changes a queue's header (R302 to R306). -/
def QReq.changes (q : QReq) : Bool := match q with | .push _ _ _ _ _ _ | .pop _ _ _ | .free _ _ | .close _ => true | _ => false
def QReq.pushes (q : QReq) : Bool := match q with | .push _ _ _ _ _ _ => true | _ => false

/-- The waiters at the header at a fabric address, in no order. -/
def State.waitersAt (s : State) (fpa : Nat) : List Waiter :=
  (s.allCrews.filter Crew.live).flatMap (fun c => c.others.filterMap (fun w =>
    match w.qwait with
    | some q => if w.live && q.fpa == fpa then some ⟨q.ticket, c.handle, w.idx, q.req.pushes⟩ else none
    | none => none))

/-- The first of some waiters. -/
def firstWaiter (ws : List Waiter) : Option Waiter :=
  ws.foldl (fun b w => match b with | none => some w | some v => if w.ticket < v.ticket then some w else some v) none

/-- The request of the waiting wave in focus is served, if it can be. One that would fault is left to its wave, and so is that of a wave that
stops for its handler; a wave whose crew is being taken stops behind the word (R286, R304). -/
def State.serveHere (s : State) : State :=
  match s.wave.qwait with
  | none => s
  | some q =>
    if s.wave.stop.isSome || s.wave.halting.isSome || (s.queueFault q.req).isSome then s
    else
      let taken := decide (s.crew.state = .taking ∧ s.wave.npreEnd ≤ s.nanos)
      let go := fun (t : State) => let u := t.advance q.yield; u.setWave { u.wave with stopped := u.wave.stopped || taken }
      match s.queueRun s.wave.pc q.req with
      | .wait _ => s
      | .data c => go (s.requestData q.req c)
      | .done t => go t

/-- Serve the waiters `ws` of a queue in their order, as far as each side goes: behind a waiter that waits on no other of its side is served. -/
def State.serveFrom (s : State) (fuel fpa : Nat) (ws : List Waiter) : State :=
  match fuel with
  | 0 => s
  | fuel + 1 =>
    match firstWaiter ws with
    | none => s
    | some w =>
      let t := s.atWave w.crew w.wave State.serveHere
      let waits := (t.waitersAt fpa).any (fun v => v.ticket == w.ticket)
      State.serveFrom t fuel fpa (ws.filter (fun v => v.ticket != w.ticket && !(waits && v.pushes == w.pushes)))

/-- Serve the waiters of a queue in the order in which their requests reached the home (R302), again while any can be served: one that pushes
may serve one that pops. -/
def State.servePasses (s : State) (fuel fpa : Nat) : State :=
  match fuel with
  | 0 => s
  | fuel + 1 =>
    let ws := s.waitersAt fpa
    if ws.isEmpty then s else State.servePasses (s.serveFrom ws.length fpa ws) fuel fpa

def State.serveWaiters (s : State) (fpa : Nat) : State := s.servePasses (s.waitersAt fpa).length fpa

/-- A request that waits takes its place in line (R302). -/
def State.joinWaiters (s : State) (y : Bool) (q : QReq) (fpa : Nat) (b : Block) : State :=
  let t := s.wait b
  { t with tickets := s.tickets + 1, wave := { t.wave with qwait := some ⟨fpa, s.tickets, q, y⟩ } }

/-- What a request waits for behind earlier waiters of its side: a waiting word joins them, and a `qpush` of a queue that has room for it comes
after them. -/
def State.behind (s : State) (q : QReq) (fpa : Nat) : Option Block :=
  if (s.waitersAt fpa).any (fun w => w.pushes == q.pushes) then
    match q with
    | .push _ _ _ _ _ w => if w then some .qpush else if (s.hdr fpa).closed || (s.hdr fpa).free == 0 then none else some .other
    | .pop _ _ _ => some (.qpop (s.hdr fpa).external)
    | _ => none
  else none

/-- Take what a request has come to: a wait joins the line, and a header that has changed serves its waiters (R302, R305, R306). -/
def State.settleRequest (s : State) (y : Bool) (q : QReq) (fpa : Nat) (o : QOut) : State :=
  match o with
  | .wait b =>
    match b with
    | .qpush => s.joinWaiters y q fpa .qpush
    | .qpop e => s.joinWaiters y q fpa (.qpop e)
    | b => s.wait b
  | .data c => (s.requestData q c).advance y
  | .done s1 =>
    let s2 := s1.advance y
    match q, s1.wave.block with
    | .xbar _ _ true, some (.xbar a ph e) => s2.wait (.xbar a ph e)
    | _, _ => if q.changes then s2.serveWaiters fpa else s2

/-- The first issue of a request whose header is at `fpa`: what waits there and can be served comes first. -/
def State.firstRequest (s : State) (y : Bool) (q : QReq) (fpa : Nat) : State :=
  let t := if q.changes then s.serveWaiters fpa else s
  match t.behind q fpa with
  | some b => t.settleRequest y q fpa (.wait b)
  | none => t.settleRequest y q fpa (t.queueRun t.wave.pc q)

/-- The word of a waiter issues again: its request stands at its home, and goes on in its turn. -/
def State.waitOn (s : State) (q : QWait) : State :=
  let t := s.serveWaiters q.fpa
  if t.wave.qwait.isSome && (t.queueFault q.req).isSome then (t.pushRequest q.req).advance q.yield else t

/-- Issue a request: it performs at its home after the wave's earlier ordinary accesses and LM events (R300, R303, R304). -/
def State.queueWord (s : State) (y : Bool) (q : QReq) : State :=
  match s.wave.qwait with
  | some w => s.waitOn w
  | none =>
    if s.loadFaultPending then (s.pushRequest q).advance y
    else if s.wave.beforeLeft then s.wait .other
    else if (s.queueFault q).isSome then (s.pushRequest q).advance y
    else
      match s.xlateVa q.addr (match q with | .launch _ _ => .load | _ => .atomic) false with
      | .ok x => s.firstRequest y q x.fpa
      | .error _ => s.wait .other

/-- The precise checks of a queue word: the header's alignment, and for `off` the record buffer (R302). -/
def State.queueChecks (s : State) (a : Word) (n : Nat) (buf : Option (Word × Cause)) (k : State) : State :=
  if a.toNat % n ≠ 0 then s.trap .align a
  else
    match buf with
    | none => k
    | some (b, c) =>
      if b.toNat % 16 ≠ 0 then s.trap .align b
      else match s.crew.lmBad b.toNat 256 with
        | some off => s.trap c (BitVec.ofNat 64 off)
        | none => k

/-- The request of a push: the record as LM holds it now, with the sectors that are poisoned. -/
def State.pushReq (s : State) (hdr : Word) (off : Nat) (d : Reg) (wait : Bool) : QReq :=
  let core := s.crew.core
  let bad := (List.range 8).filter (fun k => s.lmPoisonAt core (off + 32 * k) || s.lmPoisonAt core (off + 32 * k + 31))
  .push hdr off (s.lmRead core off 256) bad d wait

/-- `qpush` and `qpushw` (R303). -/
def State.pushWord (s : State) (y : Bool) (d a b : Reg) (wait : Bool) : Out :=
  s.onWave (fun s =>
    let off := (s.getS b).toNat
    s.queueChecks (s.getS a) 128 (some (s.getS b, .protLd))
      (s.queueWord y (s.pushReq (s.getS a) off d wait)))

/-- `qpush` (R303). Pushes a record into a queue without waiting. -/
def execQpush (y : Bool) (d : Reg) (a : Reg) (b : Reg) (s : State) : Out := s.pushWord y d a b false

/-- `qpushw` (R303). Pushes a record, waiting while the queue is full. -/
def execQpushw (y : Bool) (d : Reg) (a : Reg) (b : Reg) (s : State) : Out := s.pushWord y d a b true

/-- `qpop` (R304). Pops a record into LM, waiting while the queue is empty. -/
def execQpop (y : Bool) (d : Reg) (a : Reg) (b : Reg) (s : State) : Out :=
  s.onWave (fun s => s.queueChecks (s.getS a) 128 (some (s.getS b, .protSt))
    (s.queueWord y (.pop (s.getS a) (s.getS b).toNat d)))

/-- `qfree` (R305). Releases a held record, raising FREE. -/
def execQfree (y : Bool) (d : Reg) (a : Reg) (s : State) : Out :=
  s.onWave (fun s =>
    let dispatch := s.getS a = 0#64
    match s.crew.held.find? (fun h => if dispatch then h.dispatch else !h.dispatch && h.hdr = s.getS a) with
    | some h => s.queueChecks h.hdr 128 none (s.queueWord y (.free h.hdr d))
    | none => s.queueChecks (s.getS a) 128 none ((s.setS d 0#64).advance y))

/-- `qclose` (R306). Sets CLOSED in a queue header. -/
def execQclose (y : Bool) (a : Reg) (s : State) : Out :=
  s.onWave (fun s => s.queueChecks (s.getS a) 128 none (s.queueWord y (.close (s.getS a))))

/-- `qpeek` (R307). Samples a queue header. -/
def execQpeek (y : Bool) (d : Reg) (a : Reg) (s : State) : Out :=
  s.onWave (fun s => s.queueChecks (s.getS a) 128 none (s.queueWord y (.peek (s.getS a) d)))

/-- `flaunch` (R308). Launches a flow from a record and returns the launch status. -/
def execFlaunch (y : Bool) (d : Reg) (a : Reg) (s : State) : Out :=
  s.onWave (fun s => s.queueChecks (s.getS a) 256 none (s.queueWord y (.launch (s.getS a) d)))

/-- `xbar` (R300). Arrives at a cross-crew barrier and waits for the phase. -/
def execXbar (y : Bool) (d : Reg) (a : Reg) (s : State) : Out :=
  s.onWave (fun s => s.queueChecks (s.getS a) 64 none (s.queueWord y (.xbar (s.getS a) d true)))

/-- `xbarv` (R300). Arrives at a cross-crew barrier and returns the phase. -/
def execXbarv (y : Bool) (d : Reg) (a : Reg) (s : State) : Out :=
  s.onWave (fun s => s.queueChecks (s.getS a) 64 none (s.queueWord y (.xbar (s.getS a) d false)))

/-! ## What ends a wait (R295, R300, R301, R353) -/

/-- The wait of a wave has ended: the wave is ready again. A re-issued word is always ready. -/
def State.waitOver (s : State) : Bool :=
  match s.wave.block with
  | some (.bar b ph) => (s.crew.bars.getD b (Barrier.fresh 0#16)).phase ≠ ph
  | _ => true

/-- One poll of PHASE by a wave that waits in `xbar` (R301): the wait ends, goes on, or ends in a load fault. -/
def State.pollXbar (s : State) : State :=
  match s.wave.block with
  | some (.xbar addr ph _) =>
    let fault := fun (c : Cause) (data : Bool) =>
      s.raisePrecise ⟨c, s.wave.pc, addr, s.wave.xbarPc, if data then 128#64 else 0#64, 0#64, true⟩
    if s.heldAtWait then s
    else
      match s.xlateVa (addr + 8#64) .load false with
      | .error c => fault c false
      | .ok x =>
        if s.isPoisoned x.fpa then fault .poison true
        else if !(s.homeOpen none x) then s
        else if s.readMem x.fpa 4 ≠ ph.toNat then (s.setWave { s.wave with block := none }).homeRead x 4 false
        else s
  | _ => s

end Sys2Proof.Machine
end

