-- ==== Sys2Proof/Machine/Fabric.lean ====
section
/-! DEFINITION. The fabric: communicators and their banks, the collective engine, and the words of R263 (R255 to R268, R417). -/

namespace Sys2Proof.Machine

/-! ## Communicators (R257, R417) -/

def commOff (c : Nat) : Nat := 0x140000 + 0x40 * c
def State.commCfg (s : State) (c : Nat) : Word := s.reg (commOff c)
def State.configured (s : State) (c : Nat) : Bool := decide (c < 64) && (s.commCfg c).getLsbD 63
def State.commSlots (s : State) (c : Nat) : Nat := (s.commCfg c).toNat % 2 ^ 17
def State.curBank (s : State) (c : Nat) : Nat := if (s.reg (commOff c + 8)).getLsbD 0 then 1 else 0
def State.bankTag (s : State) (c b : Nat) : BitVec 16 := BitVec.ofNat 16 ((s.reg (commOff c + 8)).toNat / 2 ^ (16 + 16 * b))
def State.bankValid (s : State) (c b : Nat) : Bool := (s.reg (commOff c + 8)).getLsbD (48 + b)
def State.bankCount (s : State) (c b : Nat) : Nat := (s.reg (commOff c + 16)).toNat / 2 ^ (32 * b) % 2 ^ 17

def vacant : BitVec 16 := 0xFFFF#16
def State.bankDev (s : State) (c b r : Nat) : BitVec 16 := Map.find (fun _ => vacant) s.fab.banks ((2 * c + b) * 65536 + r)
def State.slotDev (s : State) (c k : Nat) : BitVec 16 := Map.find (fun _ => 0#16) s.fab.slots (65536 * c + k)
def State.slotList (s : State) (c : Nat) : List (BitVec 16) := (List.range (s.commSlots c)).map (s.slotDev c)

/-- The device of each rank of the current bank. -/
def State.ranks (s : State) (c : Nat) : List Nat :=
  (List.range (s.bankCount c (s.curBank c))).map (fun r => (s.bankDev c (s.curBank c) r).toNat)

/-- This device's rank in the current bank (R257). -/
def State.myRank (s : State) (c : Nat) : Option Nat :=
  ((s.ranks c).zipIdx.find? (fun e => e.1 = s.devid.toNat)).map (fun e => e.2)

/-- Write a bank for a generation: the bound slots in ascending order (R387, R417). -/
def State.writeBank (s : State) (c b : Nat) (tag : BitVec 16) (slots : List (BitVec 16)) : State :=
  let devs := slots.filter (fun d => d != vacant)
  let base := (2 * c + b) * 65536
  let m0 := Map.keep (fun k => k / 65536 != 2 * c + b) s.fab.banks
  let m1 := devs.zipIdx.foldl (fun m e => Map.put (fun _ => vacant) m (base + e.2) e.1) m0
  let r := s.reg (commOff c + 8)
  let r1 := putField (putField r (16 + 16 * b) 16 tag.toNat) (48 + b) 1 1
  let n := putField (s.reg (commOff c + 16)) (32 * b) 17 devs.length
  (({ s with fab := { s.fab with banks := m1 } }).setReg (commOff c + 8) r1).setReg (commOff c + 16) n

/-- Make a bank current (R257). -/
def State.setCurBank (s : State) (c b : Nat) : State := s.setReg (commOff c + 8) (putField (s.reg (commOff c + 8)) 0 1 b)

/-! ## Packets of this device (R256, R373) -/

/-- A packet discarded for its generation counts in GENREJ (R255, R256). -/
def State.countReject (s : State) : State := s.setReg 0x130028 (s.reg 0x130028 + 1#64)

/-- The kinds of traffic of R252, and the classes of ports. -/
inductive Traffic where
  | access | coll | data | control
  deriving DecidableEq, Repr
inductive PortClass where
  | electrical | fixed | slotted
  deriving DecidableEq, Repr

/-- What a packet carries (R252). -/
def trafficOf (p : Payload) : Traffic :=
  match p with
  | .store _ _ _ | .load _ _ _ | .atomic _ _ _ _ | .laneAtomic _ _ _ _ | .own _ _ | .back _ _ _ => .access
  | .coll _ => .coll
  | .xdata _ => .data
  | .xend _ | .post _ | .stop _ _ | .cloned _ _ | .ack _ | .tagLost _ => .control

/-- The ports that carry a kind of traffic to a device, none where it has no way (R252): exchange data takes slotted ports; other traffic the
electrical ports within the group and fixed global ports to another group; beyond the pod only collective packets go. -/
def State.route (s : State) (k : Traffic) (dst : Nat) : Option PortClass :=
  let near := dst / 32 == s.devid.toNat / 32
  if near || s.podGroups.contains (dst / 32) then
    match k with
    | .data => some .slotted
    | _ => some (if near then .electrical else .fixed)
  else
    match k with
    | .coll => some .fixed
    | _ => none

/-- Send a packet to a device on the ports of its traffic, with the next sequence number of the pair (R252, R373); `conf` marks the data of a
confidential page, which waits for the pair's key (R339, R340). -/
def State.sendPacket (s : State) (dst : Nat) (p : Payload) (conf : Bool) : State :=
  if dst = s.devid.toNat ∨ s.route (trafficOf p) dst = none then s
  else
    let n := Map.find (fun _ => 0) s.fab.tx dst
    let f := { s.fab with
      tx := Map.put (fun _ => 0) s.fab.tx dst ((n + 1) % 65536)
      sent := s.fab.sent ++ [⟨dst, n, s.gen, p, s.nanos, conf⟩] }
    { s with fab := f }

/-! ## Bytes that an engine reads and writes through a context's pages (R190 to R192) -/

/-- The fabric pieces of a range of virtual addresses, or the cause of the first page that faults. -/
def State.enginePieces (s : State) (core ctx va n : Nat) (k : Want) : Except Cause (List (Xl × Nat × Nat)) :=
  (pageParts (n / 65536 + 2) va 0 n).foldl (fun acc p =>
    match acc with
    | .error e => .error e
    | .ok l =>
      match s.translate (dieOf core) ctx (p.1 % 2 ^ 64) k false with
      | .error e => .error e
      | .ok x => .ok (l ++ [(x, p.2.1, p.2.2)])) (.ok [])

/-- The lines of a list of pieces. -/
def pieceLines (ps : List (Xl × Nat × Nat)) : List Nat := (ps.flatMap (fun p => linesOf p.1.fpa p.2.2)).eraseDups

/-- The parts of the pieces line by line: where each lies, its offset in the range and its length. -/
def lineParts (ps : List (Xl × Nat × Nat)) : List (Xl × Nat × Nat) :=
  ps.flatMap (fun p => (linesOf p.1.fpa p.2.2).map (fun l =>
    let a := Max.max p.1.fpa (128 * l)
    let e := Min.min (p.1.fpa + p.2.2) (128 * l + 128)
    ({ p.1 with fpa := a }, p.2.1 + (a - p.1.fpa), e - a)))

/-- Every line of the pieces is open to the engine operation `id`. -/
def State.piecesFree (s : State) (id : Option Nat) (ps : List (Xl × Nat × Nat)) : Bool :=
  (lineParts ps).all (fun p => s.homeOpen (id.map .engine) p.1)

/-- The engine operation `id` with clock `pts` may write a line now: it is open, no view covers it, and its timestamp is granted (R181, R190, R199). -/
def State.partDue (s : State) (id pts : Nat) (p : Xl × Nat × Nat) : Bool :=
  s.homeOpen (some (.engine id)) p.1 && !(s.snapWaits p.1) && s.placeDue id pts (.mem p.1.fpa) p.2.2

def State.piecesDue (s : State) (id pts : Nat) (ps : List (Xl × Nat × Nat)) : Bool := (lineParts ps).all (s.partDue id pts)

/-- The bytes of the pieces. -/
def State.pieceBytes (s : State) (ps : List (Xl × Nat × Nat)) : List Byte := ps.flatMap (fun p => s.readBytes p.1.fpa p.2.2)

/-- The bytes of the pieces as an operation issued at write number `since` reads them (R191). -/
def State.piecePick (s : State) (since : Nat) (ps : List (Xl × Nat × Nat)) : List Byte := ps.flatMap (fun p => s.memPick since p.1.fpa p.2.2)

/-- A piece lies on a confidential page (R339). -/
def anyConf (ps : List (Xl × Nat × Nat)) : Bool := ps.any (fun p => pteConf p.1.pte)

/-- The words of the pieces, counted from the start of the range, that lie in poisoned sectors. -/
def State.pieceBad (s : State) (ps : List (Xl × Nat × Nat)) : List Nat :=
  ps.flatMap (fun p => ((List.range ((p.2.2 + 3) / 4)).filter (fun k => s.isPoisoned (p.1.fpa + 4 * k))).map (fun k => p.2.1 / 4 + k))

/-- The clock of an agent that reads the pieces: at or after their lines' timestamps (R180). -/
def State.readClock (s : State) (pts : Nat) (ps : List (Xl × Nat × Nat)) : Nat :=
  (pieceLines ps).foldl (fun p l => Max.max p (s.line l).wts) (Max.max pts s.floor)

/-- Set the A bits of the pieces and take leases for an agent with clock `pts` (R180, R332). -/
def State.readPieces (s : State) (pts : Nat) (ps : List (Xl × Nat × Nat)) : State :=
  let p := s.readClock pts ps
  ps.foldl (fun s q => (linesOf q.1.fpa q.2.2).foldl (fun s l => (s.recallLine none l).leaseLine p l) (s.touch q.1 false)) s

/-- The engine operation `id` with clock `pts` writes bytes through the pieces, line by line; the words in `bad` poison their sectors, and sectors
written whole with clean data become clean (R198, R365, R366). The second result is the latest timestamp. -/
def State.writePieces (s : State) (core id pts : Nat) (ps : List (Xl × Nat × Nat)) (bs : List Byte) (bad : List Nat) : State × Nat :=
  (lineParts ps).foldl (fun (r : State × Nat) p =>
    let o := (r.1.touch p.1 true).engWrite core id pts (.mem p.1.fpa) ((bs.drop p.2.1).take p.2.2)
    let t := (bad.filter (fun k => p.2.1 ≤ 4 * k && 4 * k < p.2.1 + p.2.2)).foldl (fun s k => s.setPoison (p.1.fpa + (4 * k - p.2.1)) true) o.1
    (t, Max.max r.2 o.2)) (s, pts)

/-- Free values for a range that an early end leaves undefined (R260, R322), in the lines that the operation may write now: a line in an open
view keeps its bytes, and so does one that another engine owns and is to write. -/
def State.spoilRange (s : State) (core ctx id va n pts : Nat) : State :=
  match s.enginePieces core ctx va n .store with
  | .error _ => s
  | .ok ps =>
    let due := (lineParts ps).filter (s.partDue id pts)
    { (s.writePieces core id pts due ((List.range n).map (fun k => Config.undefByte s.fresh k)) []).1 with fresh := s.fresh + 1 }

/-! ## Collectives (R258 to R262) -/

/-- Bytes of an element of an operation. -/
def collElem (op : Nat) : Nat := if op = 5 then 8 else if op < 6 then 4 else 1
/-- Bytes that one rank brings, and bytes of DST (R258). -/
def collIn (op count : Nat) : Nat := collElem op * count
def collOut (op count n : Nat) : Nat := if op = 7 then n * count else collElem op * count

/-- Combine values along the tree of R261; `fuel` bounds the levels. -/
def combineTree {α : Type} (f : α → α → α) (fuel : Nat) (xs : List α) : Option α :=
  match fuel, xs with
  | _, [] => none
  | _, [x] => some x
  | 0, _ => none
  | fuel + 1, xs => combineTree f fuel (pairUp f xs)
where
  /-- One level: neighbours are combined, and an odd last value moves up. -/
  pairUp {α : Type} (f : α → α → α) (xs : List α) : List α :=
    match xs with
    | a :: b :: rest => f a b :: pairUp f rest
    | l => l

/-- The combination of two elements for OP 0, 2, 3, 4 and 5, with every rounding RNE (R261). -/
def combine (op a b : Nat) : Nat :=
  match op with
  | 0 => (binary32.fadd .rne a b).1
  | 2 => (binary32.fminmax true a b).1
  | 3 => (binary32.fminmax false a b).1
  | 4 => (a + b) % 2 ^ 32
  | _ => (a + b) % 2 ^ 64

/-- floor(log2 |x|) of a finite nonzero number (R96). -/
def Num.expOf (x : Num) : Option Int :=
  match x with
  | .fin _ m e => if m = 0 then none else some ((Nat.log2 m : Int) + e)
  | _ => none

/-- The XS64 word of a number against E (R96); a special value adds 0 (R97). -/
def Num.xs64 (x : Num) (E : Int) : Int :=
  match x with
  | .fin neg m e => let r := ((roundInt .rne neg m (e + 46 - E)).1 : Int); if neg then -r else r
  | _ => 0

/-- The exact sum of one element over the ranks, against its block's E (R96, R97, R262). -/
def xsumElem (E : Int) (xs : List Num) : Nat :=
  let nan := xs.any Num.isNan
  let pos := xs.any (fun x => x = .inf false)
  let neg := xs.any (fun x => x = .inf true)
  if nan || (pos && neg) then binary32.nanCode.1
  else if pos then (binary32.round .rne (.inf false)).1
  else if neg then (binary32.round .rne (.inf true)).1
  else
    let S : Int := (xs.map (fun x => x.xs64 E)).sum
    if S = 0 then 0 else (binary32.round .rne (.fin (S < 0) S.natAbs (E - 46))).1

/-- The block exponent of R96 over a block's values at every rank, 0 when none is finite and nonzero. -/
def blockE (xs : List Num) : Int :=
  ((xs.filterMap Num.expOf).foldl (fun (m : Option Int) e => match m with | none => some e | some k => some (Max.max k e)) none).getD 0

/-- Element `k` of a rank's bytes. -/
def collValue (op : Nat) (bs : List Byte) (k : Nat) : Nat := ofBytesLE ((bs.drop (collElem op * k)).take (collElem op))

/-- The result of a collective from the ranks' inputs in rank order (R258, R261, R262). -/
def collResult (op count root : Nat) (ins : List (List Byte)) : List Byte :=
  if op = 6 then ins.getD root []
  else if op = 7 then ins.flatMap (fun b => b)
  else if op = 1 then
    (List.range count).flatMap (fun k =>
      let at' := fun j => ins.map (fun b => binary32.decode (collValue 1 b j))
      let block := (List.range (Min.min 32 (count - k / 32 * 32))).flatMap (fun j => at' (k / 32 * 32 + j))
      bytesLE 4 (xsumElem (blockE block) (at' k)))
  else
    (List.range count).flatMap (fun k =>
      bytesLE (collElem op) ((combineTree (combine op) 17 (ins.map (fun b => collValue op b k))).getD 0))

/-- What an engine writes at the end: DETAIL and FCAUSE, then STATUS (R258, R260). -/
def State.writeStatus (s : State) (pts desc status detail fcause : Nat) : State :=
  (s.putBytes pts desc 0x24 (bytesLE 2 (detail + 256 * fcause))).putBytes pts desc 0x20 (bytesLE 4 status)

/-- A packet belongs to a collective. -/
def Coll.sends (c : Coll) (p : Sent) : Bool := match p.payload with | .coll q => q.comm == c.comm && q.nth == c.nth | _ => false

/-- The waves that wait for the end of an engine operation on a descriptor learn its STATUS, and are ordered after its writes (R192, R265, R327). -/
def State.tellWaiters (s : State) (b : Block) (c : Nat) (va : Word) (pts status : Nat) : State :=
  let tell := fun (ctx : Nat) (w : Wave) =>
    if ctx = c ∧ w.block = some b ∧ w.collEnd = none ∧ w.collVa = va then
      { w with collEnd := some (BitVec.ofNat 64 status), pts := Max.max w.pts pts }
    else w
  { s with
    wave := tell s.crew.ctx s.wave
    crew := { s.crew with others := s.crew.others.map (tell s.crew.ctx) }
    crews := s.crews.map (fun k => { k with others := k.others.map (tell k.ctx) }) }

/-- A collective ends: its lines are released, its packets are sent no more (R256), its status is written through the captured translation (R260),
and the waves that wait for it go on (R265). -/
def State.endColl (s : State) (c : Coll) (status detail fcause : Nat) : State :=
  let s0 := if status = 0 then s else s.spoilRange c.core c.ctx c.id c.dst (collOut c.op c.count c.n) c.pts
  let s1 := c.owned.foldl (fun s l => s.dropLine c.id l) s0
  let f := { s1.fab with
    colls := s1.fab.colls.filter (fun k => k.id != c.id)
    collIn := s1.fab.collIn.filter (fun p => p.comm != c.comm || p.nth != c.nth)
    sent := s1.fab.sent.filter (fun p => status = 0 || !c.sends p) }
  let s2 := { s1 with fab := f }
  (s2.writeStatus c.pts c.desc status detail fcause).tellWaiters .cwait c.ctx c.descVa c.pts status

/-- Every collective in flight ends early (R255, R260). -/
def State.endColls (s : State) (status : Nat) : State := s.fab.colls.foldl (fun s c => s.endColl c status 0 0) s

/-- A contribution reaches this device (R256, R259): a wrong generation is counted and discarded; a repeated one, or one for a
collective that has ended here, is dropped. -/
def State.takeColl (s : State) (p : CollPacket) : State :=
  if p.gen ≠ s.gen then s.countReject
  else
    let counted := Map.find (fun _ => 0) s.fab.collCount p.comm
    let open' := s.fab.colls.any (fun c => c.comm = p.comm ∧ c.nth = p.nth) || decide (counted ≤ p.nth)
    let seen := s.fab.collIn.any (fun q => q.comm = p.comm ∧ q.nth = p.nth ∧ q.rank = p.rank)
    if open' && !seen then { s with fab := { s.fab with collIn := s.fab.collIn ++ [p] } } else s

/-- `COLL_PACKET` (R256). A collective packet arrives and is combined or discarded for a wrong generation. -/
def execCollPacket (p : CollPacket) (s : State) : Out := s.fromFabric (fun s => s.takeColl p)

/-- The descriptor of R258. -/
structure CollDesc where
  comm : Nat
  op : Nat
  count : Nat
  src : Nat
  dst : Nat
  gen : Nat
  root : Nat
  rest : Bool
  deriving DecidableEq, Repr

def collDesc (bs : List Byte) : CollDesc :=
  let f := fun off n => ofBytesLE ((bs.drop off).take n)
  ⟨f 0 2, f 2 1, f 4 4, f 8 8, f 0x10 8, f 0x18 2, f 0x1C 4,
    f 3 1 == 0 && f 0x1A 2 == 0 && ((bs.drop 0x26).take 26).all (fun b => b == 0#8)⟩

/-- The content rules of R258, DETAIL 1 to 4. -/
def State.collDetail (s : State) (d : CollDesc) : Nat :=
  let n := s.bankCount d.comm (s.curBank d.comm)
  let unit := if d.op < 6 then collElem d.op else 4
  if !d.rest || decide (7 < d.op) then 1
  else if !s.configured d.comm || (s.myRank d.comm).isNone then 2
  else if decide (n ≤ d.root) || (d.root != 0 && d.op != 6) then 3
  else if d.count == 0 || decide (2 ^ 28 < d.count) || (decide (6 ≤ d.op) && d.count % 4 != 0) then 4
  else if d.src % unit != 0 || d.dst % unit != 0 then 4
  else 0

/-- SRC and DST overlap other than by being equal in an operation of OP 0 to 5 (R260). -/
def CollDesc.overlaps (d : CollDesc) (n : Nat) : Bool :=
  !(decide (d.op < 6) && d.src == d.dst) && decide (d.src < d.dst + collOut d.op d.count n) && decide (d.dst < d.src + collIn d.op d.count)

/-- This device has been removed from its pod (R388, R399). -/
def State.removed (s : State) : Bool := (s.reg 0x130000).getLsbD 7

/-- A collective that ends as soon as it is read, with DETAIL 6 or PEERLOST: its place in the order counts (R259), and DST is undefined (R260). -/
def State.failColl (s : State) (y : Bool) (desc : Nat) (d : CollDesc) (status detail fcause : Nat) : State :=
  let n := s.bankCount d.comm (s.curBank d.comm)
  ((s.spoilRange s.crew.core s.crew.ctx s.nextCmd d.dst (collOut d.op d.count n) s.wave.pts).writeStatus s.wave.pts desc status detail fcause).advance y

/-- A collective joins the order of its communicator and takes its lines (R259, R260), or ends at once: with PEERLOST on a removed device (R255),
with FAULT, DETAIL 6, for a page of SRC or DST. It reads SRC between here and its completion. -/
def State.startColl (s : State) (y : Bool) (va : Word) (desc : Nat) (d : CollDesc) : State :=
  let core := s.crew.core
  let ctx := s.crew.ctx
  let pts := s.wave.pts
  let n := s.bankCount d.comm (s.curBank d.comm)
  let rank := (s.myRank d.comm).getD 0
  let nth := Map.find (fun _ => 0) s.fab.collCount d.comm
  let counted := { s with fab := { s.fab with collCount := Map.put (fun _ => 0) s.fab.collCount d.comm (nth + 1) } }
  let reads := d.op != 6 || rank == d.root
  if s.removed then counted.failColl y desc d 2 0 0
  else
    match s.enginePieces core ctx d.src (if reads then collIn d.op d.count else 0) .load,
        s.enginePieces core ctx d.dst (collOut d.op d.count n) .store with
    | .error e, _ => counted.failColl y desc d 3 6 (causeCode e)
    | _, .error e => counted.failColl y desc d 3 6 (causeCode e)
    | .ok _, .ok outs =>
      let id := s.nextCmd
      let c : Coll := ⟨id, s.crew.handle, s.wave.idx, core, ctx, d.comm, nth, rank, n, d.op, d.count, d.root, desc, va, d.dst, pieceLines outs, pts,
        d.overlaps n, d.src, s.wseq, false⟩
      let s1 := { counted with nextCmd := id + 1, fab := { counted.fab with colls := counted.fab.colls ++ [c] } }
      ((pieceLines outs).foldl (fun s l => s.ownLine id pts l) s1).advance y

/-- The check of W of a leaf, whatever device its frame is on (R264). -/
def State.wantsW (s : State) (va : Word) : Bool :=
  match s.lookup (dieOf s.crew.core) s.crew.ctx va.toNat with | .leaf l => !pteW l.pte | _ => false

/-- The issue checks of a descriptor's page (R264, R325): ALIGN, then XLATE_LD, PROT_LD and PROT_ST. A page on a lost device passes: the
engine's read meets it. -/
def State.descPage (s : State) (va : Word) : Except Cause (Option Xl) :=
  if va.toNat % 64 ≠ 0 then .error .align
  else
    match s.xlateVa va .load false with
    | .error .peerlost => if s.wantsW va then .error .protSt else .ok none
    | .error c => .error c
    | .ok x =>
      match s.xlateVa va .store false with
      | .error .peerlost => .ok none
      | .error c => .error (if c = .xlateSt then .xlateLd else c)
      | .ok _ => .ok (some x)

/-- `coll` (R264). Starts the collective of a descriptor. -/
def execColl (y : Bool) (a : Reg) (s : State) : Out :=
  s.onWave (fun s =>
    let va := s.getS a
    match s.descPage va with
    | .error c => s.trap c va
    | .ok none => s.advance y
    | .ok (some x) =>
      if s.wave.beforeLeft || !(s.homeOpen none x) || decide (64 ≤ s.fab.colls.length) then s.wait .other
      else
        let s1 := (s.touch x true).readPieces s.wave.pts [(x, 0, 64)]
        if s1.anyPoison x.fpa 64 then (s1.writeStatus s.wave.pts x.fpa 3 6 0x0A).advance y
        else
          let d := collDesc (s1.readBytes x.fpa 64)
          if d.gen ≠ s.gen.toNat then (s1.writeStatus s.wave.pts x.fpa 1 0 0).advance y
          else
            let detail := s.collDetail d
            if detail ≠ 0 then
              let n := Map.find (fun _ => 0) s1.fab.collCount d.comm
              let s2 := { s1 with fab := { s1.fab with collCount := Map.put (fun _ => 0) s1.fab.collCount d.comm (n + 1) } }
              (s2.writeStatus s.wave.pts x.fpa 3 detail 0).advance y
            else s1.startColl y va x.fpa d)

/-- Wait for the end of an engine operation on a descriptor. -/
def State.waitEnd (s : State) (b : Block) (va : Word) : State :=
  let t := s.wait b
  t.setWave { t.wave with collVa := va }

/-- `cwait` (R265). Waits for the collective on a descriptor and reads its STATUS. -/
def execCwait (y : Bool) (d : Reg) (a : Reg) (s : State) : Out :=
  s.onWave (fun s =>
    let va := s.getS a
    match s.wave.collEnd with
    | some v => (s.setS d v).advance y
    | none =>
      if s.fab.colls.any (fun c => c.ctx = s.crew.ctx ∧ c.descVa = va) then
        s.waitEnd .cwait va
      else
        let at' := va + 0x20#64
        if at'.toNat % 4 ≠ 0 then s.trap .align at'
        else (s.pushAccess (.ld d 4 false) [⟨0, at', 0#64, 0#32⟩] false).advance y)

/-- The ranks whose input a collective needs: ROOT's for a broadcast, every rank's otherwise. -/
def Coll.needs (c : Coll) : List Nat := if c.op = 6 then [c.root] else List.range c.n

def State.putColl (s : State) (c : Coll) : State :=
  { s with fab := { s.fab with colls := s.fab.colls.map (fun k => if k.id = c.id then c else k) } }

/-- The engine reads this rank's SRC, at a place after the issue (R191, R260), and sends it to every other rank. -/
def State.sendColl (s : State) (c : Coll) : State :=
  let reads := c.op != 6 || c.rank == c.root
  match s.enginePieces c.core c.ctx c.src (if reads then collIn c.op c.count else 0) .load with
  | .error e => s.endColl c 3 6 (causeCode e)
  | .ok ins =>
    if !(s.piecesFree (some c.id) ins) then s
    else if c.op < 6 && !(s.pieceBad ins).isEmpty then s.endColl c 3 6 0x0A
    else
      let p : CollPacket := ⟨c.comm, s.gen, c.nth, c.rank, c.op, c.count, c.root, s.piecePick c.since ins, s.pieceBad ins⟩
      let s1 := (({ s with fresh := s.fresh + 1 }.readPieces c.pts ins).putColl { c with sent := true, pts := s.readClock c.pts ins }).takeColl p
      (s1.ranks c.comm).foldl (fun s dev => s.sendPacket dev (.coll p) (anyConf ins)) s1

/-- `COLL_COMPLETE` (R259 to R262). The engine reads this rank's SRC and sends it; with every input in, it writes DST, then STATUS; ranks that
disagree end it with DETAIL 5. -/
def execCollComplete (coll : Nat) (s : State) : Out :=
  match s.fab.colls.find? (fun c => c.id = coll) with
  | none => .next s
  | some c =>
    let ps := s.fab.collIn.filter (fun p => p.comm = c.comm ∧ p.nth = c.nth)
    if ps.any (fun p => p.op != c.op || p.count != c.count || p.root != c.root) then .next (s.endColl c 3 5 0)
    else if !c.sent then .next (s.sendColl c)
    else if c.needs.any (fun r => ps.all (fun p => p.rank != r)) then .next s
    else
      match s.enginePieces c.core c.ctx c.dst (collOut c.op c.count c.n) .store with
      | .error e => .next (s.endColl c 3 6 (causeCode e))
      | .ok outs =>
        if !(s.piecesDue c.id c.pts outs) then .next s
        else
          let ins := c.needs.map (fun r => ps.find? (fun p => p.rank = r))
          let data := (List.range c.n).map (fun r => match ps.find? (fun p => p.rank = r) with | some p => p.data | none => [])
          let bad := if c.op = 7 then
              ins.zipIdx.flatMap (fun e => match e.1 with | some p => p.bad.map (fun k => e.2 * (c.count / 4) + k) | none => [])
            else if c.op = 6 then ins.flatMap (fun e => match e with | some p => p.bad | none => [])
            else []
          if c.overlaps then .next ((s.spoilRange c.core c.ctx c.id c.dst (collOut c.op c.count c.n) c.pts).endColl c 0 0 0)
          else
            let r := s.writePieces c.core c.id c.pts outs (collResult c.op c.count c.root data) bad
            .next (r.1.endColl { c with pts := r.2 } 0 0 0)

/-! ## Generations and heartbeats as programs see them (R266 to R268) -/

/-- The bank of a communicator that is tagged with the present generation. -/
def State.genBank (s : State) (c : Nat) : Option Nat :=
  [s.curBank c, 1 - s.curBank c].find? (fun b => s.bankValid c b && s.bankTag c b == s.gen)

/-- The word that `gfence` returns. -/
def State.gfenceWord (s : State) (c : Nat) : Word :=
  let rank := match s.myRank c with | some r => r | none => 0xFFFF
  BitVec.ofNat 64 (s.bankCount c (s.curBank c) % 65536 * 2 ^ 32 + rank * 2 ^ 16 + s.gen.toNat)

/-- The bank of a communicator is new: its rounds start at 0 again and its caps lapse (R315, R320). -/
def State.restartRounds (s : State) (c : Nat) : State :=
  let x := { s.xch with
    nextRound := Map.put (fun _ => 0) s.xch.nextRound c 0
    overs := s.xch.overs.filter (fun e => e.1 != c)
    gone := s.xch.gone.filter (fun r => r.comm != c)
    stops := s.xch.stops.filter (fun e => e.1 != c) }
  { s with xch := x }

/-- `gfence` (R266). Moves a communicator to a generation. -/
def execGfence (y : Bool) (d : Reg) (a : Reg) (b : Reg) (s : State) : Out :=
  s.onWave (fun s =>
    let c := (s.getS a).toNat
    let g := (s.getS b).toNat
    if !s.configured c || decide (65536 ≤ g) then s.trap .operand 0#64
    else if decide (32768 ≤ (s.gen.toNat + 65536 - g) % 65536) then s.wait .gfence
    else
      match s.genBank c with
      | none => s.wait .gfence
      | some k =>
        if k = s.curBank c then (s.setS d (s.gfenceWord c)).advance y
        else if s.fab.colls.any (fun x => x.comm = c) then s.wait .gfence
        else
          let s2 := (s.setCurBank c k).restartRounds c
          (s2.setS d (s2.gfenceWord c)).advance y)

/-- `gread` (R267). Reads the current bank's entry for a rank. -/
def execGread (y : Bool) (d : Reg) (a : Reg) (b : Reg) (s : State) : Out :=
  s.onWave (fun s =>
    let c := (s.getS a).toNat
    let r := (s.getS b).toNat
    if !s.configured c then s.trap .operand 0#64
    else
      let k := s.curBank c
      let v := if r < s.bankCount c k then 2 ^ 32 + (s.bankTag c k).toNat * 2 ^ 16 + (s.bankDev c k r).toNat else 0
      (s.setS d (BitVec.ofNat 64 v)).advance y)

/-! ## Heartbeat peers (R381, R382) -/

def peerDefault (_ : Nat) : Peer := ⟨0, 0, false, false, 0#16, false, 0⟩
def State.peer (s : State) (dev : Nat) : Peer := Map.find peerDefault s.memb.peers dev
def State.setPeer (s : State) (dev : Nat) (p : Peer) : State :=
  { s with memb := { s.memb with peers := Map.put peerDefault s.memb.peers dev p } }

/-- The heartbeat peers of this device: members of its group, and link partners, which may stand beyond the pod (R252, R381). -/
def State.hbPeers (s : State) : List Nat :=
  let near := s.members.filter (fun d => d ≠ s.devid.toNat && (d / 32 = s.devid.toNat / 32 || s.memb.partners.contains d))
  near ++ s.memb.partners.filter (fun d => d ≠ s.devid.toNat && !(near.contains d) && !(s.peer d).expelled)

/-- The word that `hbstat` returns (R268). -/
def State.hbWord (s : State) (dev : Nat) : Word :=
  let p := s.peer dev
  let state := if (s.hbPeers).contains dev then (if p.suspected then 2 else 1) else if p.expelled then 3 else 0
  let since := Min.min ((s.nanos - p.last) / 1000) (2 ^ 32 - 1)
  if state = 0 then BitVec.ofNat 64 (p.lgen.toNat * 2 ^ 16)
  else BitVec.ofNat 64 (since * 2 ^ 32 + p.lgen.toNat * 2 ^ 16 + Min.min p.miss 255 * 256 + state)

/-- `hbstat` (R268). Reads the membership unit's view of a device. -/
def execHbstat (y : Bool) (d : Reg) (a : Reg) (s : State) : Out :=
  s.onWave (fun s =>
    let v := (s.getS a).toNat
    if 65536 ≤ v then s.trap .operand 0#64 else (s.setS d (s.hbWord v)).advance y)

end Sys2Proof.Machine
end

