-- ==== Sys2Proof/Machine/Exchange.lean ====
section
/-! DEFINITION. Demand-scheduled exchange (R311 to R328): rounds and their words, the decomposition and the calendars of Anvil, and what
happens in a slot. -/

namespace Sys2Proof.Machine

/-! ## Slots (R311, R312) -/

/-- The slot capacity C in quanta, with the split in force (R253, R312). -/
def State.slotCapacity (s : State) : Nat :=
  let fixed := (s.reg 0x10008).toNat / 65536 % 64
  (48 - fixed) * 1125 / 8

/-- Quanta that the bundle carries in a slot (R312, R372, R376): 8 GB/s for each ACTIVE wavelength of each slotted port in service and not down.
The ports above the fixed ones are the slotted ones: DESIGN CHOICE, log entry 103. -/
def State.bundleQuanta (s : State) : Nat :=
  let fixed := (s.reg 0x10008).toNat / 65536 % 64
  let live := (List.range 48).filter (fun p => decide (fixed ≤ p) && getField (s.reg (0x100400 + 0x800 * p)) 0 2 == 0
    && !(s.links.down.contains (.global p)))
  (live.map (fun p => getField (s.reg (0x100400 + 0x800 * p)) 4 4)).sum * 1125 / 64

/-- Quanta of a number of bytes, rounded up. -/
def quanta (bytes : Nat) : Nat := (bytes + 4095) / 4096

/-! ## Decomposition (R316) -/

/-- A phase: its pairs (source, destination, quanta) and its length. -/
structure XPhase where
  pairs : List (Nat × Nat × Nat)
  len : Nat
  deriving DecidableEq, Repr

/-- An entry of a demand matrix. -/
def cell (D : List (List Nat)) (i j : Nat) : Nat := (D.getD i []).getD j 0

/-- The entries of cyclic shift `k`: source, destination and demand. -/
def shiftPairs (D : List (List Nat)) (n k : Nat) : List (Nat × Nat × Nat) :=
  (List.range n).map (fun i => (i, (i + k) % n, cell D i ((i + k) % n)))

def maxOf (l : List Nat) : Nat := l.foldl Max.max 0
def minOf (l : List Nat) : Nat := match l with | [] => 0 | x :: xs => xs.foldl Min.min x

/-- Entry (i, j, v) comes before another in a greedy matching: v descending, then i, then j ascending. -/
def beforePair (a b : Nat × Nat × Nat) : Bool :=
  decide (b.2.2 < a.2.2) || (a.2.2 == b.2.2 && (decide (a.1 < b.1) || (a.1 == b.1 && decide (a.2.1 < b.2.1))))

/-- Insert into a list that stands in the order of a greedy matching. -/
def insertPair (l : List (Nat × Nat × Nat)) (p : Nat × Nat × Nat) : List (Nat × Nat × Nat) :=
  match l with
  | [] => [p]
  | q :: rest => if beforePair p q then p :: q :: rest else q :: insertPair rest p

/-- One maximal matching, taken greedily from the sorted entries. -/
def matching (es : List (Nat × Nat × Nat)) : List (Nat × Nat × Nat) :=
  es.foldl (fun m e => if m.any (fun p => p.1 = e.1 ∨ p.2.1 = e.2.1) then m else m ++ [e]) []

/-- The greedy matchings of a residue; `fuel` bounds them. -/
def greedyPhases (fuel : Nat) (es : List (Nat × Nat × Nat)) : List XPhase :=
  match fuel with
  | 0 => []
  | fuel + 1 =>
    if es.isEmpty then []
    else
      let m := matching es
      ⟨m, maxOf (m.map (fun p => p.2.2))⟩ :: greedyPhases fuel (es.filter (fun e => !m.contains e))

/-- Slots of phases of the given lengths. -/
def phaseCost (C : Nat) (lens : List Nat) : Nat := (lens.map (fun l => (l + C - 1) / C)).sum

/-- The phases of a demand matrix for `n` ranks (R316). -/
def decompose (D : List (List Nat)) (n C : Nat) : List XPhase :=
  let ks := (List.range (n - 1)).map (fun k => k + 1)
  let shifts := ks.map (fun k => shiftPairs D n k)
  let phasesA := (shifts.map (fun ps => XPhase.mk ps (maxOf (ps.map (fun p => p.2.2))))).filter (fun p => p.len != 0)
  let b := fun (ps : List (Nat × Nat × Nat)) => minOf (ps.map (fun p => p.2.2))
  let base := (shifts.map (fun ps => XPhase.mk (ps.map (fun p => (p.1, p.2.1, b ps))) (b ps))).filter (fun p => p.len != 0)
  let res := (shifts.flatMap (fun ps => ps.map (fun p => (p.1, p.2.1, p.2.2 - b ps)))).filter (fun p => p.2.2 != 0)
  let phasesB := base ++ greedyPhases (n * n) (res.foldl insertPair [])
  if phaseCost C (phasesA.map (fun p => p.len)) ≤ phaseCost C (phasesB.map (fun p => p.len)) then phasesA else phasesB

/-- The slots of a phase: for each rank its destination and budget (R317). -/
def phaseSlots (n C : Nat) (p : XPhase) : List (List (Option (Nat × Nat))) :=
  (List.range ((p.len + C - 1) / C)).map (fun t =>
    (List.range n).map (fun r => (p.pairs.find? (fun e => e.1 = r)).map (fun e => (e.2.1, Min.min C (e.2.2 - t * C)))))

/-! ## Rounds -/

def State.setXch (s : State) (x : Xchg) : State := { s with xch := x }
def State.round? (s : State) (comm round : Nat) : Option Round :=
  s.xch.rounds.find? (fun r => r.comm = comm ∧ r.round = round ∧ !r.ended)
def State.putRound (s : State) (r : Round) : State :=
  s.setXch { s.xch with rounds := s.xch.rounds.map (fun q => if q.id = r.id then r else q) }

/-- FLAGS (R313). -/
def Round.flags (r : Round) : Nat := (if r.capped then 1 else 0) + (if r.residual then 2 else 0) + (if r.arbchg then 4 else 0)

/-- FLAGS and ARBGEN, DETAIL and FCAUSE, and STATUS last, of an exchange descriptor (R313, R321). -/
def State.writeEnd (s : State) (pts desc flags : Nat) (arb : BitVec 16) (status detail fcause : Nat) : State :=
  ((s.putBytes pts desc 0x2A (bytesLE 4 (flags + arb.toNat * 65536))).putBytes pts desc 0x28 (bytesLE 2 (detail + 256 * fcause))).putBytes
    pts desc 0x24 (bytesLE 4 status)

/-- A round that ends before it is posted (R315, R326): no calendar of it came. -/
def State.writeRefusal (s : State) (desc status detail fcause : Nat) : State := s.writeEnd s.wave.pts desc 0 s.xch.arbGen status detail fcause

/-- Send an end marker with the fault flag to every other rank of a communicator (R322). -/
def State.faultMarkers (s : State) (comm round rank : Nat) : State :=
  (s.ranks comm).foldl (fun s d => s.sendPacket d (.xend ⟨comm, round, s.gen, rank, 0, true⟩) false) s

/-- A packet belongs to a round. -/
def Round.sent (r : Round) (p : Sent) : Bool :=
  match p.payload with
  | .xdata d => d.comm == r.comm && d.round == r.round && p.gen == r.gen
  | .xend d => d.comm == r.comm && d.round == r.round && p.gen == r.gen && !d.fault
  | _ => false

/-- A round ends at this device (R321, R322): at an early end its receive buffers are undefined and its packets are sent no more (R256); its lines
are released, and GOT, FLAGS, ARBGEN and STATUS are written. Its calendars run on (R319). -/
def State.endRound (s : State) (r : Round) (status detail fcause : Nat) : State :=
  let early := decide (status ≠ 0 ∧ detail ≠ 8)
  let s0 := if early && r.started then r.recvs.foldl (fun s q => s.spoilRange r.core r.ctx r.id q.addr q.cap r.pts) s else s
  let s1 := r.owned.foldl (fun s l => s.dropLine r.id l) s0
  let s2 := r.recvs.foldl (fun s q => s.putBytes r.pts q.gotAt 0 (bytesLE 4 (Min.min q.got (2 ^ 32 - 1)))) s1
  let s3 := (s2.writeEnd r.pts r.desc r.flags r.calGen status detail fcause).tellWaiters .xchg r.ctx r.descVa r.pts status
  let rounds := if r.posting then s3.xch.rounds.map (fun q => if q.id = r.id then { r with ended := true } else q)
    else s3.xch.rounds.filter (fun q => q.id != r.id)
  let here := fun (c k : Nat) => c = r.comm ∧ k = r.round
  let s4 := if early then { s3 with fab := { s3.fab with sent := s3.fab.sent.filter (fun p => !r.sent p) } } else s3
  s4.setXch { s4.xch with
    rounds := rounds
    data := s4.xch.data.filter (fun p => !here p.comm p.round)
    ends := s4.xch.ends.filter (fun p => !here p.comm p.round)
    gone := s4.xch.gone ++ [⟨r.comm, r.round, r.rank, r.uncapped, r.first, r.entries.map (fun _ => 0)⟩] }

/-- A round ends with a fault on its own tables or buffers: the other ranks are told by end markers (R322). -/
def State.failRound (s : State) (r : Round) (detail fcause : Nat) : State :=
  let s1 := if detail = 6 then s.faultMarkers r.comm r.round r.rank else s
  s1.endRound r 3 detail fcause

/-- Every round ends early (R255, R322). -/
def State.endRounds (s : State) (status : Nat) : State :=
  (s.xch.rounds.filter (fun r => !r.ended)).foldl (fun s r => s.endRound r status 0 0) s

/-- A packet of the round is not yet acknowledged. -/
def State.unacked (s : State) (r : Round) : Bool := s.fab.sent.any r.sent

/-- The end of a round (R321): every queue drained and acknowledged, and an end marker from every source; DETAIL 8 where a source sent
more than its buffer holds (R314). -/
def State.settleRound (s : State) (comm round : Nat) : State :=
  match s.round? comm round with
  | none => s
  | some r =>
    if r.started && !r.stopped && r.sends.all (fun q => q.marked) && r.recvs.all (fun q => q.ended) && !(s.unacked r) then
      if r.recvs.any (fun q => q.cap < q.got) then s.endRound r 3 8 0 else s.endRound r 0 0 0
    else s

/-! ## The words (R313 to R315, R325 to R328) -/

/-- An exchange descriptor (R313). -/
structure XDesc where
  comm : Nat
  ndest : Nat
  round : Nat
  demand : Nat
  sendq : Nat
  recv : Nat
  gen : Nat
  rest : Bool
  deriving DecidableEq, Repr

def xdesc (bs : List Byte) : XDesc :=
  let f := fun off n => ofBytesLE ((bs.drop off).take n)
  ⟨f 0 2, f 2 2, f 4 4, f 8 8, f 0x10 8, f 0x18 8, f 0x20 2,
    f 0x22 2 == 0 && f 0x2A 2 / 8 == 0 && ((bs.drop 0x2E).take 18).all (fun b => b == 0#8)⟩

/-- The bytes of a table as the engine reads it, or the cause of its fault (R321, R366). -/
def State.readTable (s : State) (va n : Nat) : Except Cause (List (Xl × Nat × Nat) × List Byte) :=
  match s.enginePieces s.crew.core s.crew.ctx va n .load with
  | .error e => .error e
  | .ok ps => if (s.pieceBad ps).isEmpty then .ok (ps, s.pieceBytes ps) else .error .poison

/-- The lines of a table are open to the engine's read (R190). -/
def State.tableOpen (s : State) (va n : Nat) : Bool :=
  match s.enginePieces s.crew.core s.crew.ctx va n .load with | .ok ps => s.piecesFree none ps | .error _ => true

/-- 64-bit entry `k` of a table of `size`-byte entries, at `off` in it. -/
def tableWord (bs : List Byte) (size k off n : Nat) : Nat := ofBytesLE ((bs.drop (size * k + off)).take n)

/-- The caps of a communicator on this device (R320). -/
def State.caps (s : State) (c : Nat) : Option (List Nat) := (Map.find (fun _ => Over.mk [] 0 none) s.xch.overs c).caps

/-- The acting arbiter of the pod: the leader, or the standby leader once that has taken over (R323). -/
def State.arbiter (s : State) : Nat := if s.xch.taken then s.standby else s.leader

/-- The posts of a round that have come, and whether every rank's has. -/
def State.postsOf (s : State) (comm round : Nat) : List XPost := s.xch.posts.filter (fun p => p.comm = comm ∧ p.round = round)
def State.allPosted (s : State) (comm round : Nat) : Bool :=
  let n := (s.ranks comm).length
  n != 0 && (List.range n).all (fun r => (s.postsOf comm round).any (fun p => p.rank == r))

/-- An earlier round of the communicator is posted and not placed: rounds go in ascending order (R315). -/
def State.earlierRound (s : State) (comm round : Nat) : Bool :=
  s.xch.posts.any (fun p => p.comm = comm && p.round != round && decide ((round + 2 ^ 32 - p.round) % 2 ^ 32 < 2 ^ 31))

/-- On the acting arbiter the inputs of a calendar are complete: they join the order of placement (R315, R317). -/
def State.completeInputs (s : State) (comm round : Nat) : State :=
  if s.xch.acting && s.allPosted comm round && !(s.earlierRound comm round) then
    let ps := s.postsOf comm round
    let D := (List.range (s.ranks comm).length).map (fun r => match ps.find? (fun p => p.rank = r) with | some p => p.entries | none => [])
    s.setXch { s.xch with
      posts := s.xch.posts.filter (fun p => p.comm != comm || p.round != round)
      inputs := s.xch.inputs ++ [⟨comm, round, D, false, s.nanos⟩]
      placed := Map.put (fun _ => 0) s.xch.placed comm (round + 1) }
  else s

/-- The stop notice of a cancelled round to a rank (R328). -/
def State.tellStop (s : State) (comm round dev : Nat) : State := if dev = s.devid.toNat then s else s.tell (.stop dev comm round)

/-- An arbiter takes a demand post (R323, R326). A rank that posts a round which has been cancelled is told (R328). -/
def State.takePost (s : State) (p : XPost) : State :=
  if s.xch.stops.contains (p.comm, p.round) then
    if s.xch.acting then s.tellStop p.comm p.round ((s.ranks p.comm).getD p.rank s.devid.toNat) else s
  else if s.xch.posts.any (fun q => q.comm = p.comm ∧ q.round = p.round ∧ q.rank = p.rank) then s
  else (s.setXch { s.xch with posts := s.xch.posts ++ [p] }).completeInputs p.comm p.round

/-- The descriptor of an exchange word as its engine reads it (R321, R325): the checks of issue, the wave's earlier accesses, and the
descriptor's bytes. -/
def State.withXDesc (s : State) (y : Bool) (a : Reg) (zero : State → State) (k : Xl → XDesc → State → State) : State :=
  let va := s.getS a
  match s.descPage va with
  | .error c => s.trap c va
  | .ok none => (zero s).advance y
  | .ok (some x) =>
    if s.wave.beforeLeft || !(s.homeOpen none x) then s.wait .other
    else
      let s1 := (s.touch x true).readPieces s.wave.pts [(x, 0, 64)]
      if s1.anyPoison x.fpa 64 then ((zero s1).writeRefusal x.fpa 3 6 0x0A).advance y
      else k x (xdesc (s1.readBytes x.fpa 64)) s1

/-- The content rules of `dpost` (R313, R315): DETAIL and FCAUSE of the first that fails, or the demand entries. -/
def State.postCheck (s : State) (d : XDesc) : Except (Nat × Nat) (List Nat × List (Xl × Nat × Nat)) :=
  let n := s.bankCount d.comm (s.curBank d.comm)
  if !d.rest then .error (1, 0)
  else
    match s.configured d.comm, s.myRank d.comm with
    | true, some rank =>
      if d.ndest ≠ n ∨ n < 2 ∨ 256 < n then .error (3, 0)
      else
        match s.readTable d.demand (8 * n) with
        | .error e => .error (6, causeCode e)
        | .ok (ps, bs) =>
          let es := (List.range n).map (fun j => tableWord bs 8 j 0 8)
          if es.any (fun e => 2 ^ 32 ≤ e) || es.getD rank 0 != 0 then .error (3, 0)
          else if d.round ≠ Map.find (fun _ => 0) s.xch.nextRound d.comm % 2 ^ 32
              ∨ 4 ≤ s.xch.rounds.countP (fun r => r.comm = d.comm && !r.ended) then .error (4, 0)
          else .ok (es, ps)
    | _, _ => .error (2, 0)

/-- A rank's round ends with STOPPED (R322). -/
def State.stopRound (s : State) (comm round : Nat) : State :=
  match s.round? comm round with
  | none => s
  | some r => s.endRound r 4 0 0

/-- Post a round (R326): the capped entries go to both arbiters, and the word waits for their acknowledgements. -/
def State.postRound (s : State) (va : Word) (x : Xl) (d : XDesc) (entries : List Nat) (ps : List (Xl × Nat × Nat)) : State :=
  let caps := s.caps d.comm
  let es := match caps with | none => entries | some cs => entries.zipIdx.map (fun e => Min.min e.1 (cs.getD e.2 e.1))
  let rank := (s.myRank d.comm).getD 0
  let p : XPost := ⟨d.comm, d.round, rank, es⟩
  let me := s.devid.toNat
  let r : Round := {
    id := s.nextCmd, crew := s.crew.handle, wave := s.wave.idx, core := s.crew.core, ctx := s.crew.ctx, comm := d.comm,
    n := d.ndest, round := d.round, rank := rank, gen := s.gen, desc := x.fpa, descVa := va, sendq := d.sendq, recv := d.recv,
    entries := es, uncapped := entries.sum, ackPrimary := s.arbiter = me, ackStandby := s.standby = me, posting := true,
    started := false, ended := false, stopped := false, sends := [], recvs := [], first := es.map (fun _ => 0),
    capped := es != entries, residual := false, arbchg := false, calGen := s.xch.arbGen, pts := s.readClock s.wave.pts ps,
    owned := [], tables := [(va.toNat, 64)], since := 0 }
  let next := Map.put (fun _ => 0) s.xch.nextRound d.comm (Map.find (fun _ => 0) s.xch.nextRound d.comm + 1)
  let s1 := { s with nextCmd := s.nextCmd + 1 }
  let s2 := s1.setXch { s1.xch with rounds := s1.xch.rounds ++ [r], nextRound := next }
  let s3 := s2.readPieces s.wave.pts ps
  let s4 := if s.arbiter = me ∨ s.standby = me then s3.takePost p else s3
  let s5 := if s.arbiter = me then s4 else s4.tell (.post s.arbiter false p)
  let s6 := if s.standby = me ∨ s.xch.taken then s5 else s5.tell (.post s.standby true p)
  let s7 := if s.xch.acting && s.xch.stops.contains (d.comm, d.round) then s6.stopRound d.comm d.round else s6
  s7.wait .other

/-- `dpost` (R326). Posts a round's demand and returns the posted total. -/
def execDpost (y : Bool) (d : Reg) (a : Reg) (s : State) : Out :=
  s.onWave (fun s =>
    match s.xch.rounds.find? (fun r => r.posting && r.crew == s.crew.handle && r.wave == s.wave.idx && r.descVa == s.getS a) with
    | some r =>
      if (r.ackPrimary && r.ackStandby) || r.ended then
        let s1 := if r.ended then s.setXch { s.xch with rounds := s.xch.rounds.filter (fun q => q.id != r.id) }
          else s.putRound { r with posting := false }
        (s1.setS d (BitVec.ofNat 64 r.entries.sum)).advance y
      else s.wait .other
    | none =>
      s.withXDesc y a (fun s => s.setS d 0#64) (fun x k s =>
        if k.gen ≠ s.gen.toNat then ((s.writeRefusal x.fpa 1 0 0).setS d 0#64).advance y
        else if !(s.tableOpen k.demand (8 * Min.min k.ndest 256)) then s.wait .other
        else
          match s.postCheck k with
          | .error e =>
            let s1 := if e.1 = 6 then s.faultMarkers k.comm k.round ((s.myRank k.comm).getD 0) else s
            ((s1.writeRefusal x.fpa 3 e.1 e.2).setS d 0#64).advance y
          | .ok (es, ps) => s.postRound (s.getS a) x k es ps))

/-- Data that has arrived for a started round lands in its buffers (R314, R321): bytes past CAP are discarded. -/
def State.landData (s : State) (comm round : Nat) : State :=
  match s.round? comm round with
  | none => s
  | some r =>
    if !r.started then s
    else
      let mine := s.xch.data.filter (fun p => p.comm = comm ∧ p.round = round)
      mine.foldl (fun s p =>
        match s.round? comm round with
        | none => s
        | some r =>
          match r.recvs[p.src]? with
          | none => s
          | some q =>
            let n := Min.min p.data.length (q.cap - p.off)
            match s.enginePieces r.core r.ctx (q.addr + p.off) n .store with
            | .error e => s.failRound r 6 (causeCode e)
            | .ok ps =>
              if !(s.piecesDue r.id r.pts ps) then s
              else
                let whole := (pieceLines ps).filter (fun l => decide (128 * l + 128 ≤ (ps.foldl (fun m o => Max.max m (o.1.fpa + o.2.2)) 0)))
                let o := s.writePieces r.core r.id r.pts ps (p.data.take n) p.bad
                let s2 := whole.foldl (fun s l => s.dropLine r.id l) o.1
                let s3 := s2.putRound { r with pts := o.2, recvs := r.recvs.set p.src { q with got := q.got + p.data.length } }
                s3.setXch { s3.xch with data := s3.xch.data.erase p }) s

/-- End markers that have arrived count once the engine has started and their data has landed (R321, R322). -/
def State.landEnds (s : State) (comm round : Nat) : State :=
  match s.round? comm round with
  | none => s
  | some r =>
    let mine := s.xch.ends.filter (fun p => p.comm = comm ∧ p.round = round)
    if mine.any (fun p => p.fault) then s.endRound r 3 7 0
    else if !r.started then s
    else
      let ok := mine.filter (fun p => !(s.xch.data.any (fun q => q.comm = comm ∧ q.round = round ∧ q.src = p.src)))
      let rs := r.recvs.mapIdx (fun j q => if ok.any (fun p => p.src = j) then { q with ended := true } else q)
      (s.putRound { r with recvs := rs }).settleRound comm round

/-- Whatever has arrived for a round lands, and the round may end. -/
def State.landRound (s : State) (comm round : Nat) : State := (s.landData comm round).landEnds comm round

/-- The end marker of a queue that holds no more bytes (R318). -/
def State.markEmpty (s : State) (r : Round) : State :=
  let s1 := r.sends.zipIdx.foldl (fun s e =>
    if e.1.sent = e.1.len && !e.1.marked && e.2 != r.rank then
      s.sendPacket ((s.ranks r.comm).getD e.2 0) (.xend ⟨r.comm, r.round, r.gen, r.rank, e.1.len, false⟩) false
    else s) s
  s1.putRound { r with sends := r.sends.map (fun q => if q.sent = q.len then { q with marked := true } else q) }

/-- Start the engine of a posted round (R313, R314, R321, R327). -/
def State.startRound (s : State) (r : Round) : State :=
  match s.readTable r.sendq (16 * r.n), s.readTable r.recv (16 * r.n) with
  | .error e, _ => s.failRound r 6 (causeCode e)
  | _, .error e => s.failRound r 6 (causeCode e)
  | .ok (ps, sb), .ok (qs, rb) =>
    let sends := (List.range r.n).map (fun j => SendQ.mk (tableWord sb 16 j 0 8) (tableWord sb 16 j 8 8) 0 false)
    let gotOf := fun j => match qs.find? (fun p => p.2.1 ≤ 16 * j + 12 ∧ 16 * j + 12 < p.2.1 + p.2.2) with
      | some p => p.1.fpa + (16 * j + 12 - p.2.1)
      | none => 0
    let recvs := (List.range r.n).map (fun j => RecvQ.mk (tableWord rb 16 j 0 8) (tableWord rb 16 j 8 4) (gotOf j) 0 (j == r.rank))
    if sends.any (fun q => q.addr % 4 != 0 || q.len % 4 != 0 || decide (2 ^ 44 ≤ q.len)) || recvs.any (fun q => q.addr % 4 != 0)
        || (match sends[r.rank]? with | some q => q.len != 0 | none => false) then s.endRound r 3 3 0
    else
      match recvs.findSome? (fun q => match s.enginePieces r.core r.ctx q.addr q.cap .store with | .error e => some e | .ok _ => none) with
      | some e => s.failRound { r with started := true, recvs := recvs } 6 (causeCode e)
      | none =>
        let lines := (recvs.flatMap (fun q => match s.enginePieces r.core r.ctx q.addr q.cap .store with
          | .error _ => []
          | .ok os => pieceLines os)).eraseDups
        let pts := s.readClock r.pts (ps ++ qs)
        let s1 := lines.foldl (fun s l => s.ownLine r.id pts l) (s.readPieces r.pts (ps ++ qs))
        let r1 := { r with
          started := true, sends := sends, recvs := recvs, pts := pts, owned := lines, since := s.wseq, tables := r.tables ++ [(r.recv, 16 * r.n)] }
        ((s1.putRound r1).markEmpty r1).landRound r.comm r.round

/-- Whether a round of a communicator has been posted, running or not, since the bank changed (R315). -/
def State.wasPosted (s : State) (comm round : Nat) : Bool := decide (round < Map.find (fun _ => 0) s.xch.nextRound comm)

/-- The round of a descriptor address that is in flight on this device. -/
def State.roundOn (s : State) (va : Word) : Option Round :=
  s.xch.rounds.find? (fun r => !r.ended && r.ctx == s.crew.ctx && r.descVa == va)

/-- Wait for the end of the round on a descriptor, then read STATUS as an ordinary load (R327). -/
def State.waitRound (s : State) (y : Bool) (d : Reg) (va : Word) : State :=
  if (s.roundOn va).isSome then s.waitEnd .xchg va
  else (s.pushAccess (.ld d 4 false) [⟨0, va + 0x24#64, 0#64, 0#32⟩] false).advance y

/-- `xchg` (R327). Starts an exchange round's engine or waits for it. -/
def execXchg (y : Bool) (d : Reg) (a : Reg) (b : Reg) (s : State) : Out :=
  s.onWave (fun s =>
    let mode := (s.getS b).toNat
    let va := s.getS a
    if 2 < mode then s.trap .operand 0#64
    else
      match s.wave.collEnd with
      | some v => (s.setS d v).advance y
      | none =>
        if mode = 2 then
          match s.descPage va with
          | .error c => s.trap c va
          | .ok _ => s.waitRound y d va
        else if mode = 1 ∧ s.wave.block = some .xchg then s.waitRound y d va
        else
          s.withXDesc y a (fun s => s.setS d (if mode = 1 then 3#64 else 0#64)) (fun x k s =>
            match s.round? k.comm k.round with
            | some r =>
              if r.posting || !(r.started || (s.tableOpen r.sendq (16 * r.n) && s.tableOpen r.recv (16 * r.n))) then s.wait .other
              else
                let s1 := if r.started then s else s.startRound { r with pts := s.wave.pts, descVa := va, desc := x.fpa }
                if mode = 0 then (s1.setS d 0#64).advance y else s1.waitRound y d va
            | none =>
              let s1 := if s.wasPosted k.comm k.round then s else s.writeRefusal x.fpa 3 5 0
              if mode = 0 then (s1.setS d 0#64).advance y else s1.waitRound y d va))

/-- Anvil cancels a round (R328): its slots stay idle, every rank is told, and one that posts it later is told then. -/
def State.anvilStop (s : State) (comm round : Nat) : State :=
  let here := fun (c k : Nat) => c = comm ∧ k = round
  let s1 := s.setXch { s.xch with
    posts := s.xch.posts.filter (fun p => !here p.comm p.round)
    reports := s.xch.reports.filter (fun p => !here p.comm p.round)
    inputs := s.xch.inputs.filter (fun p => !here p.comm p.round)
    cals := s.xch.cals.filter (fun p => !here p.comm p.round)
    stops := if s.xch.stops.contains (comm, round) then s.xch.stops else s.xch.stops ++ [(comm, round)] }
  (s1.ranks comm).foldl (fun s dev => s.tellStop comm round dev) s1

/-- Anvil learns of a cancelled round from one of its ranks (R328); an arbiter that does not act passes it on. -/
def State.takeStop (s : State) (comm round : Nat) : State :=
  if s.xch.acting then (s.anvilStop comm round).stopRound comm round
  else s.sendPacket s.arbiter (.stop comm round) false

/-- `ROUND_STOP_NOTICE` (R322, R328). Anvil's notice of a cancelled round reaches this rank: its slots of it stay idle. -/
def execRoundStopNotice (comm : Nat) (round : Nat) (s : State) : Out :=
  s.fromFabric (fun s =>
    (s.setXch { s.xch with grants := s.xch.grants.filter (fun g => g.comm != comm || g.round != round) }).stopRound comm round)

/-- `xstop` (R328). Cancels the round that the descriptor names. -/
def execXstop (y : Bool) (a : Reg) (s : State) : Out :=
  s.onWave (fun s =>
    s.withXDesc y a (fun s => s) (fun _ k s =>
      match s.round? k.comm k.round with
      | none => s.advance y
      | some r =>
        let s1 := s.putRound { r with stopped := true, sends := r.sends.map (fun q => { q with len := q.sent, marked := true }) }
        if s1.xch.acting then (s1.takeStop k.comm k.round).advance y
        else (s1.sendPacket s1.arbiter (.stop k.comm k.round) false).advance y))

/-! ## Anvil (R316, R317, R319, R323) -/

/-- Two slot ranges meet. -/
def slotsMeet (a n b m : Nat) : Bool := decide (a < b + m) && decide (b < a + n)

/-- The first slot from `from'` on at which every device is free for `n` slots; `fuel` bounds the search. -/
def State.freeStart (s : State) (fuel from' n : Nat) (devs : List Nat) : Nat :=
  match fuel with
  | 0 => from'
  | fuel + 1 =>
    match s.xch.cals.find? (fun c => slotsMeet from' n c.start c.slots.length && c.devs.any (fun d => devs.contains d)) with
    | none => from'
    | some c => State.freeStart s fuel (c.start + c.slots.length) n devs

/-- The earliest slot boundary at least 5 microseconds after NANOS `since` (R317): one that is still to come. -/
def State.nextSlot (s : State) (since : Nat) : Nat := s.xch.slot + Max.max 1 ((since + 5000 + 9999 - s.xch.slotAt) / 10000)

/-- A device takes its part of a calendar (R317, R319, R323). -/
def State.takeGrant (s : State) (g : GrantMsg) : State :=
  if g.gen ≠ s.gen then s.countReject
  else if g.arbGen ≠ s.xch.arbGen then s
  else
    let s := s.setXch { s.xch with
      posts := if s.xch.acting then s.xch.posts else s.xch.posts.filter (fun p => p.comm != g.comm || p.round != g.round) }
    match s.round? g.comm g.round with
    | none =>
      if s.xch.gone.any (fun r => r.comm = g.comm ∧ r.round = g.round) then s.setXch { s.xch with grants := s.xch.grants ++ [g] } else s
    | some r =>
      let moves := g.receives || g.slots.any (fun p => match p with | some q => q.2 != 0 | none => false)
      let r1 := { r with residual := r.residual || (g.residual && moves), arbchg := r.arbchg || r.calGen != g.arbGen, calGen := g.arbGen }
      let s1 := s.putRound r1
      s1.setXch { s1.xch with grants := s1.xch.grants ++ [g] }

/-- `GRANT` (R317). A device receives its calendar grants from Anvil. -/
def execGrant (g : GrantMsg) (s : State) : Out := s.fromFabric (fun s => s.takeGrant g)

/-- Place a calendar for a demand matrix and send its grants (R316, R317). -/
def State.placeCalendar (s : State) (comm round : Nat) (D : List (List Nat)) (residual : Bool) (since : Nat) : State :=
  let devs := s.ranks comm
  let n := devs.length
  let C := s.slotCapacity
  let slots := (decompose D n C).flatMap (phaseSlots n C)
  let start := s.freeStart (s.xch.cals.length + 1) (s.nextSlot since) slots.length devs
  let s1 := s.setXch { s.xch with cals := s.xch.cals ++ [⟨comm, round, start, slots, devs, residual⟩] }
  let s2 := devs.zipIdx.foldl (fun s e =>
    let part := slots.map (fun l => l.getD e.2 none)
    let receives := slots.any (fun l => l.any (fun p => match p with | some q => q.1 = e.2 && q.2 != 0 | none => false))
    let g : GrantMsg := ⟨comm, round, s.gen, s.xch.arbGen, start, part, residual, receives⟩
    if e.1 = s.devid.toNat then s.takeGrant g else s.tell (.grant e.1 g)) s1
  -- the standby arbiter, where it is no rank, sees that the round is placed (R323)
  if s.xch.taken || devs.contains s.standby || s.standby = s.devid.toNat then s2
  else s2.tell (.grant s.standby ⟨comm, round, s.gen, s.xch.arbGen, start, [], residual, false⟩)

/-- `ANVIL_SCHEDULE` (R315 to R317). The first of the complete inputs is a round's: Anvil decomposes it and places its calendar. -/
def execAnvilSchedule (comm : Nat) (round : Nat) (s : State) : Out :=
  match s.xch.inputs with
  | x :: rest =>
    if s.xch.acting && x.comm == comm && x.round == round then
      .next ((s.setXch { s.xch with inputs := rest }).placeCalendar comm round x.demand x.residual x.since)
    else .next s
  | [] => .next s

/-- Anvil takes a residual report; with all of them in, and one not zero, the residual matrix joins the order of placement (R319). -/
def State.takeReport' (s : State) (p : XReport) : State :=
  if p.gen ≠ s.gen then s.countReject
  else if !s.xch.acting || s.xch.stops.contains (p.comm, p.round) then s
  else
    let n := (s.ranks p.comm).length
    let all := (s.xch.reports.filter (fun q => q.comm != p.comm || q.round != p.round || q.rank != p.rank)) ++ [p]
    let mine := all.filter (fun q => q.comm = p.comm ∧ q.round = p.round)
    if (List.range n).any (fun r => mine.all (fun q => q.rank != r)) then s.setXch { s.xch with reports := all }
    else
      let D := (List.range n).map (fun r => match mine.find? (fun q => q.rank = r) with | some q => q.left | none => [])
      let s1 := s.setXch { s.xch with reports := all.filter (fun q => q.comm != p.comm || q.round != p.round) }
      if D.all (fun l => l.all (fun k => k = 0)) then s1
      else s1.setXch { s1.xch with inputs := s1.xch.inputs ++ [⟨p.comm, p.round, D, true, s.nanos⟩] }

/-- `RESIDUAL_REPORT` (R319). An engine's report of what is left reaches Anvil. -/
def execResidualReport (p : XReport) (s : State) : Out := s.fromFabric (fun s => s.takeReport' p)

/-- A round whose post still waits is delivered to the new primary, unless that has it as the standby; one that `xstop` has cancelled is
cancelled there (R323, R326, R328). -/
def State.redeliver (s : State) (r : Round) : State :=
  let s1 := if r.posting && !r.ackStandby then s.tell (.post s.arbiter false ⟨r.comm, r.round, r.rank, r.entries⟩) else s
  if r.stopped && !r.ended then s1.sendPacket s1.arbiter (.stop r.comm r.round) false else s1

/-- Every round whose posts are all in joins the order of placement, as its posts came (R317, R323). -/
def State.completeAll (s : State) : State :=
  ((s.xch.posts.map (fun p => (p.comm, p.round))).eraseDups).foldl (fun s e => s.completeInputs e.1 e.2) s

/-- The arbiter generation rises and every engine accepts it; on the standby arbiter, it takes over (R323). Posts and stops that the lost primary
has not acknowledged go to its successor. -/
def State.takeArbiter (s : State) : State :=
  let g := s.xch.arbGen + 1#16
  let mine := !s.xch.acting && (s.standby == s.devid.toNat || s.leader == s.devid.toNat)
  let s1 := s.setXch { s.xch with arbGen := g, acting := s.xch.acting || mine, taken := s.xch.taken || s.leader != s.devid.toNat }
  let s2 := s1.xch.rounds.foldl (fun s r => s.redeliver r) s1
  let s3 := s2.setXch { s2.xch with rounds := s2.xch.rounds.map (fun r => if r.posting then { r with ackPrimary := r.ackStandby } else r) }
  if mine then (s3.members.foldl (fun s d => s.tell (.arbiter d g)) s3).completeAll else s3

/-- `ARBITER_TAKEOVER` (R323). The primary arbiter is lost. -/
def execArbiterTakeover (s : State) : Out := .next s.takeArbiter

/-- `POST_ACKNOWLEDGEMENT` (R326). An arbiter has taken a demand post of this device; after a takeover one arbiter stands for both. -/
def execPostAcknowledgement (comm : Nat) (round : Nat) (standby : Bool) (s : State) : Out :=
  s.fromFabric (fun s => s.setXch { s.xch with rounds := s.xch.rounds.map (fun r =>
    if r.comm = comm ∧ r.round = round ∧ r.posting then
      { r with ackStandby := r.ackStandby || standby || s.xch.taken, ackPrimary := r.ackPrimary || !standby || s.xch.taken }
    else r) })

/-! ## Slots as the engine runs them (R318 to R320) -/

/-- Send one slot's budget of a round to a rank (R318), as far as the bundle carries it (R312). -/
def State.sendSlot (s : State) (comm round dst budget : Nat) (first : Bool) : State :=
  match s.round? comm round with
  | none => s
  | some r =>
    match r.sends[dst]? with
    | none => s
    | some q =>
      let n := Min.min (Min.min budget s.bundleQuanta * 4096) (q.len - q.sent)
      if !r.started || r.stopped || n = 0 then s
      else
        match s.enginePieces r.core r.ctx (q.addr + q.sent) n .load with
        | .error e => s.failRound r 6 (causeCode e)
        | .ok ps =>
          if !(s.piecesFree (some r.id) ps) then s
          else
            let p : XData := ⟨comm, round, r.gen, r.rank, q.sent, s.piecePick r.since ps, s.pieceBad ps⟩
            let r1 := { r with
              sends := r.sends.set dst { q with sent := q.sent + n }
              first := if first then r.first.set dst (r.first.getD dst 0 + n) else r.first
              pts := s.readClock r.pts ps }
            let s1 := ({ s with fresh := s.fresh + 1 }.readPieces r.pts ps).sendPacket ((s.ranks comm).getD dst 0) (.xdata p) (anyConf ps)
            (s1.putRound r1).markEmpty r1

/-- Count a round's first calendar for R320: overstating when the posted total exceeds 1.25 times the quanta sent. -/
def Over.count (o : Over) (posted : Nat) (sent : List Nat) : Over :=
  if 5 * sent.sum < 4 * posted then
    let streak := (o.streak ++ [sent]).drop (o.streak.length - 3)
    let cap := fun j => Max.max 1 ((5 * maxOf (streak.map (fun l => l.getD j 0)) + 3) / 4)
    ⟨streak, 0, if streak.length = 4 then some ((List.range sent.length).map cap) else o.caps⟩
  else ⟨[], o.good + 1, if 4 ≤ o.good + 1 then none else o.caps⟩

/-- The engine's account of a round, running or ended at this device: its rank, its posted total, the bytes sent in the first calendar, and the
quanta left in its queues. A round that has ended leaves none. -/
def State.account (s : State) (comm round : Nat) : Option Gone :=
  match s.round? comm round with
  | some r => some ⟨comm, round, r.rank, r.uncapped, r.first, if r.started then r.sends.map (fun q => quanta (q.len - q.sent)) else r.entries⟩
  | none => s.xch.gone.find? (fun r => r.comm = comm ∧ r.round = round)

/-- A calendar has passed its last slot: the round counts for the caps (R320), and the engine reports what is left in its queues (R319). -/
def State.calendarOver (s : State) (g : GrantMsg) : State :=
  let s0 := s.setXch { s.xch with grants := s.xch.grants.erase g }
  match s0.account g.comm g.round with
  | none => s0
  | some r =>
    let o := Map.find (fun _ => Over.mk [] 0 none) s0.xch.overs g.comm
    let o1 := if g.residual then o else o.count r.uncapped (r.first.map quanta)
    let s1 := s0.setXch { s0.xch with overs := Map.put (fun _ => Over.mk [] 0 none) s0.xch.overs g.comm o1 }
    let p : XReport := ⟨g.comm, g.round, s1.gen, r.rank, r.left⟩
    if s1.xch.acting then s1.takeReport' p else s1.tell (.report s1.arbiter p)

/-- A slot begins (R311): calendars that have passed their last slot are reported. -/
def State.beginSlot (s : State) : State :=
  let k := s.xch.slot + 1
  let s0 := s.setXch { s.xch with slot := k, slotAt := s.xch.slotAt + 10000 }
  let s1 := (s0.xch.grants.filter (fun g => g.start + g.slots.length ≤ k)).foldl (fun s g => s.calendarOver g) s0
  s1.setXch { s1.xch with cals := s1.xch.cals.filter (fun c => k < c.start + c.slots.length) }

/-- The guard of a slot is over (R311): the engine sends the slot's budget to the granted destination. -/
def State.runSlot (s : State) : State :=
  let k := s.xch.slot
  let s1 := s.setXch { s.xch with ran := k }
  let s2 := s1.xch.rounds.foldl (fun s r => s.landRound r.comm r.round) s1
  s2.xch.grants.foldl (fun s g =>
    if g.start ≤ k then
      match g.slots.getD (k - g.start) none with
      | some d => (s.sendSlot g.comm g.round d.1 d.2 (!g.residual)).settleRound g.comm g.round
      | none => s
    else s) s2

/-- `SLOT_BOUNDARY` (R311, R317 to R319). A slot of 10 microseconds begins at its time, and 1 microsecond later its data goes. -/
def execSlotBoundary (s : State) : Out :=
  if s.xch.ran < s.xch.slot ∧ s.xch.slotAt + 1000 ≤ s.nanos then .next s.runSlot
  else if s.xch.slotAt + 10000 ≤ s.nanos then .next s.beginSlot
  else .next s

/-- Exchange data arrives (R256, R321). -/
def State.takeData (s : State) (p : XData) : State :=
  if p.gen ≠ s.gen then s.countReject
  else (s.setXch { s.xch with data := s.xch.data ++ [p] }).landRound p.comm p.round

/-- An end marker arrives (R256, R321, R322). -/
def State.takeEnd (s : State) (p : XEnd) : State :=
  if p.gen ≠ s.gen then s.countReject
  else (s.setXch { s.xch with ends := s.xch.ends ++ [p] }).landRound p.comm p.round

/-- `EXCHANGE_DATA` (R321). Exchange data lands in a receive buffer. -/
def execExchangeData (p : XData) (s : State) : Out := s.fromFabric (fun s => s.takeData p)

/-- `END_MARKER` (R321). An end marker arrives; the round may end and STATUS be written. -/
def execEndMarker (p : XEnd) (s : State) : Out := s.fromFabric (fun s => s.takeEnd p)

end Sys2Proof.Machine
end

