-- ==== Sys2Proof/Machine/Links.lean ====
section
/-! DEFINITION. The end-to-end transport, links and wavelengths, memory and on-die codes, ageing and heat (R283, R340, R341, R365 to R378,
R398, R406). -/

namespace Sys2Proof.Machine

/-- A member of the current generation other than this device (R379). -/
def State.isMember (s : State) (dev : Nat) : Bool := s.members.contains dev

/-! ## Export windows (R342, R415) -/

/-- A request of a peer lies in an export window that permits it. -/
def State.exported (s : State) (off n : Nat) (read write : Bool) : Bool :=
  (List.range 64).any (fun w =>
    let base := getField (s.reg (0x10400 + 16 * w)) 0 40 / 65536 * 65536
    let ctl := s.reg (0x10408 + 16 * w)
    let len := getField ctl 0 40 / 65536 * 65536
    ctl.getLsbD 63 && (!read || ctl.getLsbD 56) && (!write || ctl.getLsbD 57)
      && decide (base ≤ off) && decide (off + n ≤ base + len) && decide (base + len ≤ hbmBytes))

/-- A range of this device's HBM meets an open snapshot view (R338). -/
def State.viewed (s : State) (off n : Nat) : Bool := s.views.any (fun v => off < v.base + v.len ∧ v.base < off + n)

/-! ## Accesses at this home (R181, R190, R194, R195, R254, R338, R342) -/

/-- Every line of a span is open to an agent: nobody else holds it (R190). -/
def State.openTo (s : State) (o : Owner) (a n : Nat) : Bool := (linesOf a n).all (fun l => s.lineFree (some o) (128 * l))

/-- Hold a request until it can be served. -/
def State.hold (s : State) (w : Waiting) : State := { s with memb := { s.memb with held := s.memb.held ++ [w] } }

/-- A request that its window refuses: the requester is told, and nothing is performed. -/
def State.refuse (s : State) (src off : Nat) : State := s.tell (.refused src off)

/-- A peer's access as its home takes it: the HBM span, the clock of its agent, and what it does there. -/
structure PeerAccess where
  off : Nat
  len : Nat
  pts : Nat
  reads : Bool
  writes : Bool
  deriving DecidableEq, Repr

/-- The access of a packet, none where it makes none. -/
def peerAccess (p : Payload) : Option PeerAccess :=
  match p with
  | .store off data pts => some ⟨off, data.length, pts, false, true⟩
  | .load off len pts => some ⟨off, len, pts, true, false⟩
  | .atomic off op _ pts => some ⟨off, if op = .fadd then 4 else 8, pts, true, true⟩
  | .laneAtomic off _ _ pts => some ⟨off, 4, pts, true, true⟩
  | .own off pts => some ⟨off / 128 * 128, 128, pts, true, true⟩
  | _ => none

/-- The access keeps its window and its alignment, and only a device of the group takes a line (R194, R204, R206, R342); the spare of an open view
reads the frames of the view (R338). -/
def State.admitsPeer (s : State) (src : Nat) (p : Payload) (x : PeerAccess) : Bool :=
  (s.exported x.off x.len x.reads x.writes
      || (!x.writes && s.views.any (fun v => v.spare == src && decide (v.base ≤ x.off) && decide (x.off + x.len ≤ v.base + v.len))))
    && (match p with
      | .atomic _ _ _ _ => x.off % x.len == 0
      | .laneAtomic _ _ _ _ => x.off % 4 == 0
      | .own _ _ => src / 32 == s.devid.toNat / 32
      | _ => true)

/-- The stamps that go with the data of a span (R180): the latest wts and the earliest rts. -/
def State.spanStamps (s : State) (a n : Nat) : Nat × Nat :=
  let ls := (linesOf a n).map s.line
  ((ls.map (fun l => l.wts)).foldl Max.max 0, match ls with | [] => 0 | l :: rest => (rest.map (fun k => k.rts)).foldl Min.min l.rts)

/-- Answer a peer with bytes of this device and their stamps. -/
def State.answer (s : State) (src off : Nat) (bs : List Byte) (poisoned : Bool) : State :=
  let st := s.spanStamps (s.hbm off) bs.length
  s.tell (.loadData src off bs poisoned st.1 st.2)

/-- An atomic of a peer on `n` bytes performs at its home (R204, R206, R254): a poisoned sector is reported and left alone. -/
def State.peerAtomic (s : State) (src off n w : Nat) (f : Nat → Nat) : State :=
  let a := s.hbm off
  if s.anyPoison a n then s.answer src off [] true
  else (s.plainWrite w a (bytesLE n (f (s.readMem a n)))).answer src off (s.readBytes a n) false

/-- A peer gives a line back that it held (R181): its bytes stand at the home again. -/
def State.takeBack (s : State) (src off : Nat) (data : List Byte) (wts : Nat) : State :=
  let a := s.hbm (off / 128 * 128)
  let l := s.line (lineOf a)
  if l.owner = some (.peer src) ∨ l.owner = some (.recalled src) then
    let s1 := s.setLine (lineOf a) { l with owner := none }
    if data.length = 128 then s1.plainWrite (Max.max wts l.wts) a data else s1
  else s

/-- A peer's access performs now. -/
def State.peerDo (s : State) (src : Nat) (p : Payload) (x : PeerAccess) : State :=
  let a := s.hbm x.off
  let w := s.storeStamp x.pts a x.len
  match p with
  | .store _ data _ => s.plainWrite w a data
  | .load off len _ =>
    let s1 := (linesOf a len).foldl (fun s l => (s.recallLine none l).leaseLine (Max.max x.pts s.floor) l) s
    s1.answer src off (s1.readBytes a len) (s1.anyPoison a len)
  | .atomic off op v _ => s.peerAtomic src off x.len w (fun k => (atomicNew op (BitVec.ofNat 64 k) v).toNat)
  | .laneAtomic off float v _ =>
    s.peerAtomic src off 4 w (fun k => (if float then add32 (BitVec.ofNat 32 k) v else BitVec.ofNat 32 k + v).toNat)
  | .own off _ =>
    let s1 := s.stampWrite w a 128
    let s2 := s1.setLine (lineOf a) { s1.line (lineOf a) with owner := some (.peer src) }
    s2.tell (.owned src off (s2.readBytes a 128) w)
  | _ => s

/-- A peer's request performs at this home, or waits: for a line that somebody else holds, an open view, or its timestamp (R181, R190, R338). -/
def State.peerRun (s : State) (src : Nat) (p : Payload) : Option State :=
  match p, peerAccess p with
  | .back off data wts, _ => if s.viewed (off / 128 * 128) 128 then none else some (s.takeBack src off data wts)
  | _, some x =>
    let a := s.hbm x.off
    if s.openTo (.peer src) a x.len
        && (!x.writes || (!(s.viewed x.off x.len) && s.stampDue (s.storeStamp x.pts a x.len))) then some (s.peerDo src p x)
    else none
  | _, none => some s

/-! ### The host (R194, R195, R344) -/

/-- Bytes of the management window, which the host reaches at all times. -/
def mgmtBytes : Nat := 0x10000

/-- The aperture window of lowest index that holds a host range: its permissions R and W, its space and the offset. -/
def State.aperture (s : State) (addr n : Nat) : Option (Bool × Bool × Nat × Nat) :=
  (List.range 64).findSome? (fun a =>
    let r := fun k => (s.reg (0x10800 + 32 * a + k)).toNat
    let ctl := s.reg (0x10818 + 32 * a)
    let space := r 16 / 2 ^ 40 % 4
    let off := r 16 % 2 ^ 40
    if ctl.getLsbD 0 && decide (r 0 ≤ addr) && decide (addr + n ≤ r 0 + r 8)
        && (space == 2 || (space == 0 && decide (off + r 8 ≤ hbmBytes))) then
      some (ctl.getLsbD 1, ctl.getLsbD 2, space, off + (addr - r 0))
    else none)

/-- Where a host access goes: its space and offset, or none where it is refused. Before the device is ready only the management window is
open (R408). -/
def State.hostTarget (s : State) (addr n : Nat) (write : Bool) : Option (Nat × Nat) :=
  if addr + n ≤ mgmtBytes then some (2, addr)
  else if !s.ready then none
  else
    match s.aperture addr n with
    | some (r, w, space, off) => if (if write then w else r) then some (space, off) else none
    | none => none

/-- The host reads a span at its home (R180, R344). -/
def State.hostRead (s : State) (addr a n : Nat) : State :=
  let p := Max.max s.linkPts s.floor
  let s1 := (linesOf a n).foldl (fun s l => (s.recallLine none l).leaseLine p l) s
  let p' := (linesOf a n).foldl (fun p l => Max.max p (s.line l).wts) p
  { s1 with linkPts := p' }.post (.hostData addr (s1.readBytes a n) (s1.anyPoison a n))

/-- The host's write of a span may perform: nobody else holds a line of it, no view covers it, and its timestamp is granted. -/
def State.hostDue (s : State) (a n : Nat) : Bool :=
  s.openTo .host a n && !(fpaSpace a == 0 && s.viewed (fpaOff a) n) && s.stampDue (s.storeStamp s.linkPts a n)

/-- The host writes a span at its home (R181, R344), with the poison mark that the link carries (R365). -/
def State.hostStore (s : State) (a : Nat) (data : List Byte) (poisoned : Bool) : State :=
  let w := s.storeStamp s.linkPts a data.length
  let s1 := s.plainWrite w a data
  { (if poisoned then (sectors a data.length).foldl (fun s x => s.setPoison x true) s1 else s1) with linkPts := w }

/-- The host takes a line into its caches (R194, R195): it stands there exclusively. -/
def State.hostTake (s : State) (a : Nat) : State :=
  let w := s.storeStamp s.linkPts a 128
  let s1 := s.stampWrite w a 128
  { s1.setLine (lineOf a) { s1.line (lineOf a) with owner := some .host } with linkPts := w }

/-- A request of the host to memory performs at its home, or waits (R190, R195, R338). A request to device registers is none of these. -/
def State.hostRun (s : State) (req : HostReq) : Option State :=
  match req with
  | .read addr n =>
    match s.hostTarget addr n false with
    | some (_, off) => if s.openTo .host (s.hbm off) n then some (s.hostRead addr (s.hbm off) n) else none
    | none => some (s.post (.hostRefused addr))
  | .write addr data poisoned =>
    match s.hostTarget addr data.length true with
    | some (_, off) => if s.hostDue (s.hbm off) data.length then some (s.hostStore (s.hbm off) data poisoned) else none
    | none => some (s.post (.hostRefused addr))
  | .take addr =>
    match s.hostTarget (addr / 128 * 128) 128 true with
    | some (0, off) => if s.hostDue (s.hbm (off / 128 * 128)) 128 then some (s.hostTake (s.hbm (off / 128 * 128))) else none
    | _ => some (s.post (.hostRefused addr))
  | .ownRead off n => if s.openTo .host (s.hostAddr off) n then some (s.hostRead off (s.hostAddr off) n) else none
  | .ownWrite off data => if s.hostDue (s.hostAddr off) data.length then some (s.hostStore (s.hostAddr off) data false) else none
  | .ownTake off =>
    let a := s.hostAddr (off / 128 * 128)
    if s.hostDue a 128 then some (s.hostTake a) else none

/-! ### Requests that wait at this home -/

/-- The span that a waiting request writes. -/
def State.heldSpan (s : State) (w : Waiting) : Option (Nat × Nat) :=
  match w with
  | .peer _ (.back off _ _) => some (s.hbm (off / 128 * 128), 128)
  | .peer _ p => match peerAccess p with | some x => if x.writes then some (s.hbm x.off, x.len) else none | none => none
  | .host a data _ => some (a, data.length)
  | .hostMem (.ownWrite off data) => some (s.hostAddr off, data.length)
  | .hostMem (.ownTake off) => some (s.hostAddr (off / 128 * 128), 128)
  | .hostMem _ => none

/-- Writes to a common line are served in the order in which they reached the home (R338). -/
def State.standsBehind (s : State) (w : Waiting) (ahead : List Waiting) : Bool :=
  match s.heldSpan w with
  | none => false
  | some p => ahead.any (fun v => match s.heldSpan v with
    | some q => (linesOf p.1 p.2).any (fun l => (linesOf q.1 q.2).contains l)
    | none => false)

/-- Serve one request, if it can be served. -/
def State.serveHeld (s : State) (w : Waiting) : Option State :=
  match w with
  | .peer src p => s.peerRun src p
  | .host a data poisoned => if s.hostDue a data.length then some (s.hostStore a data poisoned) else none
  | .hostMem req => s.hostRun req

/-- Serve a list of requests in their order; what cannot be served waits on. -/
def State.serveList (s : State) (ws left : List Waiting) : State :=
  match ws with
  | [] => { s with memb := { s.memb with held := left } }
  | w :: rest =>
    match if s.standsBehind w left then none else s.serveHeld w with
    | some t => State.serveList t rest left
    | none => State.serveList s rest (left ++ [w])

/-- The requests that wait at this home go on (R181, R190, R195, R338). -/
def State.releaseHeld (s : State) : State := s.serveList s.memb.held []

/-- A request reaches this home: it is served, or takes its place in line. -/
def State.reachHome (s : State) (w : Waiting) : State :=
  match if s.standsBehind w s.memb.held then none else s.serveHeld w with
  | some t => t
  | none => s.hold w

/-! ## What a packet asks (R252, R254, R256, R342, R373) -/

/-- The leader hears how a clone has ended (R395, R396), from the spare or, that 5 s have passed, from a replica (R393): a complete one joins in the
next generation. -/
def State.takeCloned (s : State) (src lost : Nat) (ok : Bool) : State :=
  if s.leader ≠ s.devid.toNat ∨ !(s.memb.assigned.any (fun a => a.1 == lost && (a.2 == src || !ok))) then s
  else if ok then { s with memb := { s.memb with joining := s.memb.joining ++ [(src, lost)] } }
  else { s with memb := { s.memb with assigned := s.memb.assigned.filter (fun a => a.1 != lost) } }.post (.cloneFailed lost)

/-- The operation that a packet belongs to ends with PEERLOST (R255, R341). -/
def State.loseOperation (s : State) (p : Payload) : State :=
  let round := fun (c k : Nat) => match s.round? c k with | some r => s.endRound r 2 0 0 | none => s
  match p with
  | .coll q => match s.fab.colls.find? (fun c => c.comm = q.comm ∧ c.nth = q.nth) with | some c => s.endColl c 2 0 0 | none => s
  | .xdata q => round q.comm q.round
  | .xend q => round q.comm q.round
  | _ => s

/-- A peer has reported that a packet of this device failed its tag 4 times there (R255, R341). -/
def State.takeTagLost (s : State) (dst seq : Nat) : State :=
  match s.fab.sent.find? (fun p => p.dst = dst ∧ p.seq = seq) with
  | none => s
  | some p => ({ s with fab := { s.fab with sent := s.fab.sent.erase p } }).loseOperation p.payload

/-- Perform the payload of a packet in its turn. -/
def State.perform (s : State) (src : Nat) (p : Payload) : State :=
  match p with
  | .coll q => s.takeColl q
  | .xdata q => s.takeData q
  | .xend q => s.takeEnd q
  | .post q => if s.leader = s.devid.toNat ∨ s.standby = s.devid.toNat then s.takePost q else s
  | .stop c k => s.takeStop c k
  | .cloned lost ok => s.takeCloned src lost ok
  | .tagLost seq => s.takeTagLost src seq
  | .ack _ => s
  | p =>
    match peerAccess p with
    | some x => if s.admitsPeer src p x then s.reachHome (.peer src p) else s.refuse src x.off
    | none => s.reachHome (.peer src p)

def rxDefault (_ : Nat) : Rx := ⟨0, [], []⟩
def State.rxOf (s : State) (src : Nat) : Rx := Map.find rxDefault s.fab.rx src
def State.setRx (s : State) (src : Nat) (r : Rx) : State := { s with fab := { s.fab with rx := Map.put rxDefault s.fab.rx src r } }

/-- Perform the packets of a source in sequence from `next` on; `fuel` bounds those that wait ahead. -/
def State.drainRx (s : State) (fuel src : Nat) : State :=
  match fuel with
  | 0 => s
  | fuel + 1 =>
    let r := s.rxOf src
    match r.ahead.find? (fun p => p.seq = r.next) with
    | none => s
    | some p =>
      let r1 : Rx := ⟨(r.next + 1) % 65536, r.ahead.erase p, ((r.seen ++ [p.seq]).drop (r.seen.length + 1 - 4096))⟩
      State.drainRx ((s.setRx src r1).perform src p.payload) fuel src

/-- Acknowledge a packet end to end. -/
def State.acknowledge (s : State) (dst seq : Nat) : State := s.tell (.ack dst seq)

/-- The acknowledgement of a packet of this device (R321, R373): the rounds that waited for it may end. -/
def State.takeAck (s : State) (dst seq : Nat) : State :=
  let s1 := { s with fab := { s.fab with sent := s.fab.sent.filter (fun p => p.dst != dst || p.seq != seq) } }
  s1.xch.rounds.foldl (fun s r => s.settleRound r.comm r.round) s1

/-- A packet whose tag fails (R341): it is discarded and counted; the fourth failure of one packet is told to its sender and reported. -/
def State.tagFailed (s : State) (p : E2EPacket) : State :=
  let key := p.src * 65536 + p.seq
  let n := Map.find (fun _ => 0) s.fab.tagFails key + 1
  let f := { s.fab with tagDrops := s.fab.tagDrops + 1, tagFails := Map.put (fun _ => 0) s.fab.tagFails key (if n = 4 then 0 else n) }
  let s1 := { s with fab := f }
  if n = 4 then (s1.tell (.tagLost p.src p.seq)).post (.security p.src) else s1

/-- The generation of a packet is not one that this device takes (R255, R256). -/
def State.wrongGen (s : State) (p : E2EPacket) : Bool :=
  match p.payload with
  | .coll q => q.gen != s.gen
  | .xdata q => q.gen != s.gen
  | .xend q => q.gen != s.gen
  | .ack _ => false
  | .post _ => p.gen != s.gen
  | .stop _ _ => p.gen != s.gen
  | _ => !(s.isMember p.src)

/-- `E2E_PACKET` (R255, R256, R341, R373, R407). A packet is discarded for its tag or generation, discarded as a duplicate, held ahead of
a gap, or performed in sequence. -/
def execE2ePacket (p : E2EPacket) (s : State) : Out :=
  if !s.ready then .next s
  else if p.encrypted && !p.tagOk then .next (s.tagFailed p)
  else
    match p.payload with
    | .ack seq => .next (s.takeAck p.src seq)
    | _ =>
      if s.wrongGen p then .next s.countReject
      else
        let r := s.rxOf p.src
        if r.seen.contains p.seq then .next ((s.count 0x120010 1).acknowledge p.src p.seq)
        else if r.ahead.any (fun q => q.seq = p.seq) then .next (s.acknowledge p.src p.seq)
        else
          let s1 := (s.setRx p.src { r with ahead := r.ahead ++ [p] }).acknowledge p.src p.seq
          .next (s1.drainRx (r.ahead.length + 1) p.src)

/-- E2ETO in microseconds (R373). -/
def State.e2eto (s : State) : Nat := (s.reg 0x120000).toNat

/-- `E2E_TIMEOUT` (R256, R340, R373). An unacknowledged packet is sent again after E2ETO, until its operation has ended; one of a confidential
page waits for the pair's key. -/
def execE2eTimeout (dst : Nat) (seq : Nat) (s : State) : Out :=
  match s.fab.sent.find? (fun p => p.dst = dst ∧ p.seq = seq) with
  | none => .next s
  | some p =>
    if s.nanos < p.at' + 1000 * s.e2eto ∨ (p.conf ∧ !(s.fab.keys.contains (dst, s.gen))) then .next s
    else if p.gen ≠ s.gen then .next { s with fab := { s.fab with sent := s.fab.sent.erase p } }
    else
      let s1 := { s with fab := { s.fab with sent := s.fab.sent.map (fun q => if q = p then { q with at' := s.nanos } else q) } }
      .next (s1.count 0x120008 1)

/-- `KEY_EXCHANGE` (R340). A signed ephemeral key arrives; one that fails verification makes no key and is reported. -/
def execKeyExchange (peer : Nat) (gen : BitVec 16) (sigOk : Bool) (s : State) : Out :=
  if !s.ready then .next s
  else if !sigOk then .next (s.post (.badKey peer))
  else if gen ≠ s.gen ∨ s.fab.keys.contains (peer, gen) then .next s
  else .next { s with fab := { s.fab with keys := s.fab.keys ++ [(peer, gen)] } }

/-! ## Links (R372) -/

/-- LREPLAY of a port (R374). -/
def replayReg (p : Port) : Nat := match p with | .electrical e => 0x118000 + 0x40 * e | .global g => 0x100408 + 0x800 * g

/-- The port exists (R13). -/
def portOk (p : Port) : Bool := match p with | .electrical e => decide (e < 31) | .global g => decide (g < 48)

/-- `LINK_REPLAY` (R372). A flit failing its CRC is resent with its successors: the port counts a replay. -/
def execLinkReplay (port : Port) (s : State) : Out := .next (if portOk port then s.count (replayReg port) 1 else s)

/-- `LINK_DOWN` (R372). A replay exceeds its bound: the link is down until it has been retrained. -/
def execLinkDown (port : Port) (s : State) : Out :=
  .next (if portOk port && !(s.links.down.contains port) then { s with links := { s.links with down := s.links.down ++ [port] } } else s)

/-- `LINK_RETRAINED` (R372). A link that was down returns to service. -/
def execLinkRetrained (port : Port) (s : State) : Out := .next { s with links := { s.links with down := s.links.down.erase port } }

/-! ## Wavelengths (R374 to R376) -/

/-- The registers of a wavelength: LKCORR, then LKBER, LKSTATE and LKRETR. -/
def wlReg (p w : Nat) : Nat := 0x100000 + 0x800 * p + 0x40 * w
def State.wlState (s : State) (p w : Nat) : Nat := getField (s.reg (wlReg p w + 0x10)) 0 3
def State.setWl (s : State) (p w lo n v : Nat) : State := s.setReg (wlReg p w + 0x10) (putField (s.reg (wlReg p w + 0x10)) lo n v)
def State.attempt (s : State) (p w : Nat) : Nat := getField (s.reg (wlReg p w + 0x10)) 12 4
def State.fails (s : State) (p w : Nat) : Nat := getField (s.reg (wlReg p w + 0x18)) 24 8
def State.setFails (s : State) (p w n : Nat) : State := s.setReg (wlReg p w + 0x18) (putField (s.reg (wlReg p w + 0x18)) 24 8 n)
def State.addRetrain (s : State) (p w : Nat) : State :=
  let r := s.reg (wlReg p w + 0x18)
  s.setReg (wlReg p w + 0x18) (putField r 32 32 (getField r 32 32 + 1))
def State.setAbove (s : State) (p w n : Nat) : State := s.setReg (wlReg p w + 8) (putField (s.reg (wlReg p w + 8)) 32 16 n)

/-- ACTIVE wavelengths of a port, and those not SPARED. -/
def State.activeWls (s : State) (p : Nat) : Nat := (List.range 8).countP (fun w => s.wlState p w == 0)
def State.keptWls (s : State) (p : Nat) : Nat := (List.range 8).countP (fun w => s.wlState p w != 3)

/-- PSTATE follows the wavelengths (R374). -/
def State.refreshPort (s : State) (p : Nat) : State :=
  let off := 0x100400 + 0x800 * p
  let mask := ((List.range 8).map (fun w => if s.wlState p w = 3 then 2 ^ w else 0)).sum
  s.setReg off (putField (putField (s.reg off) 4 4 (s.activeWls p)) 8 8 mask)

/-- A port whose wavelengths fall below 6 through sparing is retired (R376): it is reported, and the device is DEGRADED. -/
def State.retirePort (s : State) (p : Nat) : State :=
  let off := 0x100400 + 0x800 * p
  let n := getField (s.reg svcOff) 24 6
  let s1 := (s.setReg off (putField (s.reg off) 0 2 1)).setReg svcOff (putField (s.reg svcOff) 24 6 (n + 1))
  ((s1.post (.portRetired p)).tell (.retired s1.leader p)).setCond 6

/-- Spared wavelengths of the device (R378). -/
def State.sparedWls (s : State) : Nat := ((List.range 48).map (fun p => 8 - s.keptWls p)).sum

/-- A wavelength is SPARED (R375 to R378). -/
def State.spare (s : State) (p w : Nat) : State :=
  let s1 := (s.setWl p w 0 3 3).refreshPort p
  let s2 := if s1.keptWls p < 6 ∧ getField (s1.reg (0x100400 + 0x800 * p)) 0 2 = 0 then s1.retirePort p else s1
  if 3 ≤ s2.sparedWls ∧ !((s2.reg svcOff).getLsbD 11) then s2.setCond 3 else s2

/-- A retraining attempt fails (R375): the third in a row spares the wavelength, with a link event. -/
def State.attemptFailed (s : State) (p w : Nat) (k : State → State) : State :=
  let s1 := s.setFails p w (Min.min (s.fails p w + 1) 3)
  if 3 ≤ s.attempt p w then ((s1.setFails p w 3).spare p w).post (.linkEvent p w) else k s1

def wlKey (p w : Nat) : Nat := 8 * p + w
def State.returnedAt (s : State) (p w : Nat) : Nat := Map.find (fun _ => 0) s.links.returned (wlKey p w)

/-- ABOVE of a wavelength (R374). -/
def State.aboveOf (s : State) (p w : Nat) : Nat := getField (s.reg (wlReg p w + 8)) 32 16

/-- The counters of a window that ends with `errs` bit errors. -/
def State.endWindow (s : State) (p w errs : Nat) : State :=
  let above := if 64 < errs then Min.min (s.aboveOf p w + 1) 65535 else 0
  let s1 := s.count (wlReg p w) (Min.min (Config.symbols s.fresh errs) errs)
  let s2 := s1.setReg (wlReg p w + 8) (BitVec.ofNat 64 (above * 2 ^ 32 + Min.min errs 0xFFFFFFFF))
  { s2 with fresh := s2.fresh + 1 }

/-- The wavelength leaves service for retraining (R375). -/
def State.handback (s : State) (p w : Nat) : State := (s.setWl p w 0 3 1).refreshPort p

/-- ATTEMPT and FAILS return to 0 once the wavelength has stayed ACTIVE for 100 ms (R375). -/
def State.settleWl (s : State) (p w : Nat) : State :=
  if s.returnedAt p w + 100000000 ≤ s.nanos then (s.setWl p w 12 4 0).setFails p w 0 else s

/-- The wavelength is handed back if its port keeps 6 ACTIVE ones without it (R375). -/
def State.leaveService (s : State) (p w : Nat) : State := if 7 ≤ s.activeWls p then (s.settleWl p w).handback p w else s

/-- ABOVE reaches 10 (R375): a return within the last 100 ms counts, once, as a failed attempt, and the wavelength is handed back if it can be. -/
def State.tooNoisy (s : State) (p w : Nat) : State :=
  let s1 := s.settleWl p w
  if s1.fails p w < s1.attempt p w then s1.attemptFailed p w (fun s => s.leaveService p w) else s1.leaveService p w

def State.windowStart (s : State) (p w : Nat) : Nat := Map.find (fun _ => 0) s.links.windowAt (wlKey p w)
def State.setWindow (s : State) (p w t : Nat) : State :=
  { s with links := { s.links with windowAt := Map.put (fun _ => 0) s.links.windowAt (wlKey p w) t } }

/-- `BER_WINDOW` (R374, R375). A 100 microsecond window of an ACTIVE wavelength ends, and the next begins: ERRW and ABOVE are updated, and when ABOVE
reaches 10 the wavelength is handed back if its port keeps 6 without it. A window that is not over stays open. -/
def execBerWindow (port : Nat) (wl : Nat) (errs : Nat) (s : State) : Out :=
  let t := s.windowStart port wl + 100000
  if 48 ≤ port ∨ 8 ≤ wl ∨ s.wlState port wl ≠ 0 ∨ s.nanos < t then .next s
  else
    let s1 := (s.endWindow port wl errs).setWindow port wl t
    .next (if s1.aboveOf port wl = 10 then s1.tooNoisy port wl else s1)

/-- Enter RETRAIN with the next attempt (R375). -/
def State.enterRetrain (s : State) (p w : Nat) : State :=
  let s1 := ((s.setWl p w 0 3 2).setWl p w 12 4 (s.attempt p w + 1)).addRetrain p w
  ({ s1 with links := { s1.links with entered := Map.put (fun _ => 0) s1.links.entered (wlKey p w) s1.nanos } }).refreshPort p

/-- `RETRAIN_START` (R375). At the agreed flit boundary a wavelength in HANDBACK enters RETRAIN. -/
def execRetrainStart (port : Nat) (wl : Nat) (s : State) : Out :=
  .next (if port < 48 ∧ wl < 8 ∧ s.wlState port wl = 1 then s.enterRetrain port wl else s)

def State.enteredAt (s : State) (p w : Nat) : Nat := Map.find (fun _ => 0) s.links.entered (wlKey p w)

/-- A wavelength returns to ACTIVE (R374, R375): its windows start afresh, with ABOVE = 0. -/
def State.returnWl (s : State) (p w : Nat) : State :=
  let s1 := ((s.setWl p w 0 3 0).setAbove p w 0).setWindow p w s.nanos
  ({ s1 with links := { s1.links with returned := Map.put (fun _ => 0) s1.links.returned (wlKey p w) s1.nanos } }).refreshPort p

/-- The wavelengths of a port that have stayed ACTIVE for want of others are handed back at the return of another, the lowest first (R375). -/
def State.handWaiting (s : State) (p w : Nat) : State :=
  ((List.range 8).filter (fun v => v != w)).foldl (fun s v => if s.wlState p v = 0 ∧ 10 ≤ s.aboveOf p v then s.leaveService p v else s) s

/-- `TRAINING_WINDOW` (R375). A training window with at most 6 errors, within 500 microseconds of the attempt, returns the wavelength. -/
def execTrainingWindow (port : Nat) (wl : Nat) (errs : Nat) (s : State) : Out :=
  let t := s.nanos - s.enteredAt port wl
  if port < 48 ∧ wl < 8 ∧ s.wlState port wl = 2 ∧ errs ≤ 6 ∧ 100000 ≤ t ∧ t ≤ 500000 then
    .next ((s.returnWl port wl).handWaiting port wl)
  else .next s

/-- `RETRAIN_TIMEOUT` (R375). 500 microseconds without success: another attempt, or the wavelength is SPARED. -/
def execRetrainTimeout (port : Nat) (wl : Nat) (s : State) : Out :=
  if port < 48 ∧ wl < 8 ∧ s.wlState port wl = 2 ∧ s.enteredAt port wl + 500000 ≤ s.nanos then
    .next (s.attemptFailed port wl (fun s => s.enterRetrain port wl))
  else .next s

/-- `RETRAIN_STABLE` (R375). A wavelength ACTIVE for 100 ms has ATTEMPT and FAILS reset. -/
def execRetrainStable (port : Nat) (wl : Nat) (s : State) : Out :=
  .next (if port < 48 ∧ wl < 8 ∧ s.wlState port wl = 0 then s.settleWl port wl else s)

/-! ## Memory and on-die codes (R368 to R371) -/

/-- The registers DRCORR and DRUNC of the stack that holds a stripe. -/
def drReg (stripe : Nat) : Nat := 0x121000 + 16 * (Config.stackOf stripe % 16)

/-- `DRAM_SCRUB` (R369). A stripe is read: `bad` lists the sectors whose check fails, data sectors 0 to 63 and parity sectors 64 and 65.
Up to two data sectors are corrected; what cannot be corrected is rewritten as read, poisoned. -/
def execDramScrub (stripe : Nat) (bad : List Nat) (s : State) : Out :=
  let data := (bad.filter (fun k => k < 64)).eraseDups
  let parity := bad.any (fun k => 64 ≤ k)
  if hbmBytes ≤ 2048 * stripe ∨ data = [] then .next s
  else if data.length ≤ 2 && !parity then .next (s.count (drReg stripe) data.length)
  else
    let s1 := data.foldl (fun s k =>
      let a := s.hbm (2048 * stripe + 32 * k)
      (s.writeBytes a ((List.range 32).map (fun j => Config.undefByte s.fresh (32 * k + j)))).setPoison a true) s
    .next (({ s1 with fresh := s1.fresh + 1 }).count (drReg stripe + 8) data.length)

def srReg (core : Nat) : Nat := 0x122800 + 16 * core

/-- `SOFT_ERROR` (R365, R370). An on-die error is corrected, the line dropped, the sector poisoned, or the crew ended with SRUNC. -/
def execSoftError (site : SoftSite) (s : State) : Out :=
  match site with
  | .correctable core => .next (if core < 256 then s.count (srReg core) 1 else s)
  | .cleanLine core line =>
    .next ({ s with copies := (Map.erase (Map.erase s.copies (copyKey core line)) (copyKey l2Agent line)) }.count (srReg core + 8) 1)
  | .dirtySector core addr => .next ((s.setPoison (s.fpaKey addr) true).count (srReg core + 8) 1)
  | .lmSector core off => .next ((s.lmSetPoison core (off % lmBytes) true).count (srReg core + 8) 1)
  | .crewState core crew => .next ((s.endCrewAt crew (fun c => some (.softEnd c.ctx c.id))).count (srReg core + 8) 1)

/-- `SHADOW_REPLAY` (R371). A flagged cycle is replayed in two: the core's CYCLE counts one more, SLREPLAY rises, and nothing else changes. -/
def execShadowReplay (core : Nat) (s : State) : Out :=
  .next (if core < 256 then (s.count (0x122000 + 8 * core) 1).updCore core (fun k => { k with extra := k.extra + 1 }) else s)

/-! ## Ageing (R377, R378) -/

/-- Take a wear action (R377). -/
def State.takeWear (s : State) (w : Wear) : State :=
  match w with
  | .short (.delay core) =>
    let v := (s.reg 0x120020).toNat
    if v < 50 then
      let s1 := s.setReg 0x120020 (BitVec.ofNat 64 (v + 5))
      if v + 5 = 50 then s1.setCond 0 else s1
    else s.failCore core
  | .short (.retention _ us) =>
    let r := Max.max 80 (us / 2 / 8 * 8)
    if r < s.lmretn then { s with lmretn := r } else s
  | .short (.bias p w) => if s.wlState p w = 3 then s else s.spare p w
  | .row core =>
    if (s.coreAt core).spareRows < 2 then
      s.updCore core (fun k => { k with spareRows := k.spareRows + 1, arrayAt := s.ps + s.remapPs })
    else s.failCore core
  | .core core => s.failCore core

/-- Wait for a step mark with a wear action. -/
def State.addWear (s : State) (w : Wear) : State := { s with links := { s.links with wear := s.links.wear ++ [(w, s.nanos)] } }

/-- `MARGIN_SHORTFALL` (R377, R378). A margin is found short: a saturated laser spares its wavelength at once; every other action waits for a
step mark. Retention below 160 microseconds is WORN, and below 96 fails the core. -/
def execMarginShortfall (what : Shortfall) (s : State) : Out :=
  match what with
  | .bias port wl =>
    if 48 ≤ port ∨ 8 ≤ wl then .next s
    else .next ((s.setWl port wl 16 16 65535).takeWear (.short what))
  | .delay _ => .next (s.addWear (.short what))
  | .retention core us =>
    let s1 := if us < 160 ∧ !((s.reg svcOff).getLsbD 9) then s.setCond 1 else s
    let s2 := if us < 2 * s.lmretn then s1.addWear (.short what) else s1
    .next (if us < 96 then s2.addWear (.core core) else s2)

/-- Take the wear actions that satisfy `p`. -/
def State.takeWears (s : State) (p : Wear × Nat → Bool) : State :=
  let due := s.links.wear.filter p
  let s1 := { s with links := { s.links with wear := s.links.wear.filter (fun e => !p e) } }
  due.foldl (fun s e => s.takeWear e.1) s1

/-- A step boundary (R374, R377, R393): the clone views of this replica open, and pending wear actions are taken. Views beyond
64 are not opened: DESIGN CHOICE, log entry 128. -/
def State.markStep (s : State) : State :=
  let opened := s.memb.toOpen.take (64 - s.views.length)
  let m := { s.memb with
    toOpen := []
    viewSince := if opened.isEmpty then s.memb.viewSince else s.memb.viewSince.or (some s.nanos) }
  { s with views := s.views ++ opened, memb := m }.takeWears (fun _ => true)

/-- `STEPMARK` (R374, R377, R393). A write marks a step boundary. -/
def execStepmark (s : State) : Out := .next s.markStep

/-- `WEAR_TIMEOUT` (R377). Wear actions that have waited 60 s for a step mark are taken at once. -/
def execWearTimeout (s : State) : Out := .next (s.takeWears (fun e => decide (e.2 + 60000000000 ≤ s.nanos)))

/-- `REPLACE_RESEND` (R398). REPLACE is sent again every 10 s until RETIRING begins. -/
def execReplaceResend (s : State) : Out :=
  .next (if (s.reg svcOff).getLsbD 3 && decide (s.memb.replaceAt + 10000000000 ≤ s.nanos) then s.sendReplace else s)

/-! ## Heat and power tokens (R283, R406) -/

/-- `TOKEN_REFILL` (R283, R406). Every microsecond the power manager adds a refill to a die's pool, never below 32 units and only 32 while the
device is hot, and caps the pool at its capacity. -/
def execTokenRefill (die : Nat) (units : Nat) (s : State) : Out :=
  let d := s.dieAt die
  if 8 ≤ die ∨ s.micros ≤ d.refills then .next s
  else
    let n := if s.links.hot then 32 else Max.max 32 units
    let cap := 512 + Config.poolCapacity die % 65024
    .next (s.setDie die { d with ptok := Min.min (d.ptok + n) cap, refills := d.refills + 1 })

/-- `THERMAL_SAMPLE` (R406). At 95 degrees the pools receive the minimum until all sensors fall below 93; at 105 the device stops issuing,
posts a thermal event and is held in reset. -/
def execThermalSample (celsius : Nat) (s : State) : Out :=
  let hot := if 95 ≤ celsius then true else if celsius < 93 then false else s.links.hot
  let s1 := { s with links := { s.links with hot := hot } }
  .next (if 105 ≤ celsius then (s1.setReg 0 (putField (s1.reg 0) 0 2 0)).post (.thermal celsius) else s1)

end Sys2Proof.Machine
end

