-- ==== Sys2Proof/Machine/Boot.lean ====
section
/-! DEFINITION. Device reset, secure boot and attestation (R329, R407 to R411, R414). -/

namespace Sys2Proof.Machine

/-! ## What a reset keeps -/

/-- Registers that a reset keeps: the fused minimum and the identity certificate (R408, R410), PODGRP, which is taken at the next reset
(R415), the counters and SPARED of the wear record (R374), and SVC, which the wear record holds (R397). E2ETO, VGUARD and CLKSTATE take
their Reset column. -/
def keptReg (off : Nat) : Bool :=
  off == 0x10 || off == 0x110 || (0x1000 ≤ off && off < 0x2000) || (0x10010 ≤ off && off < 0x10050)
    || (0x100000 ≤ off && off < 0x123000 && off != 0x120000 && off != 0x120020 && off != 0x120028) || off == svcOff

/-- A wavelength starts ACTIVE, with no window, attempt, failure or bias, unless it is SPARED: the wear record keeps that and RETRAINS (R374). -/
def State.resetWl (s : State) (p w : Nat) : State :=
  let s1 := (((s.setReg (wlReg p w + 8) 0#64).setWl p w 16 16 0).setWl p w 12 4 0).setFails p w 0
  if s1.wlState p w = 3 then s1 else s1.setWl p w 0 3 0

/-- Every wavelength and port after a reset. -/
def State.resetLinks (s : State) : State :=
  (List.range 48).foldl (fun s p => ((List.range 8).foldl (fun s w => s.resetWl p w) s).refreshPort p) s

/-- Core `n` after a reset: the spare rows in use and the fence are wear (R157, R377). -/
def Core.cleared (k : Core) : Core := { Core.reset with spareRows := k.spareRows, fenced := k.fenced }

def coreDefault (_ : Nat) : Core := Core.reset

/-- Step 1 of R407: every register at its Reset column, but for the wear record; contexts, flows, crews, caches, TLBs, LM and keys are
gone (R329). HBM is written zero in step 4. `posted` are the events that the host has been sent. -/
def State.startReset (s : State) : State :=
  let z := State.reset
  let running := (List.range 64).any s.ctxEnabled
  let cores := s.cores.foldl (fun (m : Map Core) (e : Nat × Core) => Map.put coreDefault m e.1 e.2.cleared) []
  let s1 := { z with
    fresh := s.fresh
    devid := s.devid
    mem := s.mem
    poison := s.poison
    lmretn := s.lmretn
    cores := cores
    links := { z.links with sparesUsed := s.links.sparesUsed }
    regs := s.regs.filter (fun e => keptReg e.1)
    nextHandle := s.nextHandle
    events := if running then s.events ++ [HostEvent.resetDone] else s.events
    agenda := s.agenda }
  (s1.setReg 0x10 (s.reg 0x10 &&& 0xFFFFFFFF00000000#64)).resetLinks

/-- The reset actions of R329: the visible HBM is zero, and no sector of it is poisoned. -/
def State.zeroHbm (s : State) : State :=
  let other := fun (a : Nat) => fpaDev a != s.devid.toNat || fpaSpace a != 0
  { s with mem := s.mem.filter (fun e => other e.1), poison := s.poison.filter (fun e => other (32 * e.1)) }

/-! ## Boot (R407, R408) -/

/-- The first check of step 2 or 3 that an image fails: BOOTSTAT.CAUSE, or 0 (R407, R414). -/
def imageFailure (img : BootImage) (min : Nat) : Nat :=
  if !img.found then 1 else if !img.wellFormed then 2 else if !img.signatureOk then 3 else if img.version.toNat < min then 4 else 0

/-- Steps 2 to 5 of R407 with what the ROM finds of the image: STATE 2 with the failing check, or the device is ready 60 ms after reset. -/
def State.boot (s : State) (img : BootImage) : State :=
  match imageFailure img ((s.reg 0x10).toNat / 2 ^ 32) with
  | 0 =>
    let s1 := (s.zeroHbm.setReg 0x10 (putField (s.reg 0x10) 0 32 img.version.toNat)).setReg 0 3#64
    let hash := (List.range 32).map (Config.digest 0 (bytesLE 8 s.fresh))
    let s2 := { s1 with fresh := s1.fresh + 1, links := { s1.links with fwHash := hash } }.elapse 60000000000
    { s2 with tickAt := s2.ps }
  | c => (s.setReg 0 (BitVec.ofNat 64 (256 * c + 2))).elapse 6000000000

/-- A device reset (R407, R409). -/
def State.deviceReset (s : State) (img : BootImage) : State := s.startReset.boot img

/-- `DEVICE_RESET` (R407, R408, R409, R329). Steps 1 to 5. -/
def execDeviceReset (img : BootImage) (s : State) : Out := .next (s.deviceReset img)

/-- `BOOTCMD_RESTART` (R408, R414). The host has another image loaded; taken only while STATE = 2. -/
def execBootcmdRestart (img : BootImage) (s : State) : Out := .next (if s.bootState = 2 then s.boot img else s)

/-- The fused minimum version rises to `v` (R408, R414). -/
def State.raiseMin (s : State) (v : Nat) : State :=
  let r := s.reg 0x10
  if s.bootState = 3 ∧ r.toNat / 2 ^ 32 < v ∧ v ≤ r.toNat % 2 ^ 32 then s.setReg 0x10 (putField r 32 32 v) else s

/-- `BOOTCMD_RAISE_MIN` (R408, R414). Raises the fused minimum; taken only while STATE = 3. -/
def execBootcmdRaiseMin (version : BitVec 32) (s : State) : Out := .next (s.raiseMin version.toNat)

/-- `BOOTCMD_RESET` (R409, R414). A device reset. -/
def execBootcmdReset (img : BootImage) (s : State) : Out := .next (s.deviceReset img)

/-- What the ROM finds after a write of BOOTCMD by a store: the image stands outside the device. -/
def foundImage (n : Nat) : BootImage := ⟨Config.imageCheck n 1, Config.imageCheck n 2, Config.imageCheck n 3, Config.imageVersion n⟩

/-- A write of BOOTCMD (R414): other values, and commands that are not taken, are ignored. -/
def State.bootCommand (s : State) (v : Word) : State :=
  let img := foundImage s.fresh
  let s1 := { s with fresh := s.fresh + 1 }
  match getField v 0 4 with
  | 1 => if s.bootState = 2 then s1.boot img else s
  | 2 => s.raiseMin (getField v 16 32)
  | 3 => s1.deviceReset img
  | _ => s

/-! ## Attestation (R411) -/

def attstat : Nat := 0x108
def attbuf : Nat := 0x200

/-- A write of ATTREQ: Glirex reads the nonce from the host's memory; ignored with BUSY while a report is in progress. -/
def State.attest (s : State) (addr : Nat) : State :=
  let r := s.reg attstat
  if getField r 0 2 = 1 then s.setReg attstat (putField r 2 1 1)
  else
    let nonce := s.readBytes (s.hostAddr (addr / 32 * 32 % 2 ^ 40)) 32
    { s.setReg attstat (putField r 0 2 1) with links := { s.links with nonce := nonce } }

/-- `ATTREQ` (R411, R414). The host asks for an attestation report. -/
def execAttreq (addr : Word) (s : State) : Out := .next (s.attest addr.toNat)

/-- The bytes of the configuration block that the report hashes. -/
def State.configBytes (s : State) : List Byte := (List.range 512).flatMap (fun k => bytesLE 8 (s.reg (0x10000 + 8 * k)).toNat)

/-- The first 128 bytes of the report. -/
def State.reportHead (s : State) : List Byte :=
  (s.links.nonce ++ List.replicate 32 0#8).take 32 ++ (s.links.fwHash ++ List.replicate 32 0#8).take 32
    ++ (List.range 32).map (Config.digest 1 s.configBytes)
    ++ bytesLE 2 s.devid.toNat ++ bytesLE 2 s.gen.toNat ++ bytesLE 4 ((s.reg 0x10).toNat % 2 ^ 32)
    ++ bytesLE 8 (s.reg svcOff).toNat ++ List.replicate 16 0#8

/-- The 256 bytes of the report, signed. -/
def State.report256 (s : State) : List Byte :=
  let head := s.reportHead
  head ++ (List.range 64).map (Config.digest 2 (bytesLE 8 s.fresh ++ head)) ++ List.replicate 64 0#8

/-- `ATTESTATION_DONE` (R411). Glirex writes the signed report to ATTBUF and sets STATE 2. -/
def execAttestationDone (s : State) : Out :=
  if getField (s.reg attstat) 0 2 ≠ 1 then .next s
  else
    let bs := s.report256
    let s1 := (List.range 32).foldl (fun t k => t.setReg (attbuf + 8 * k) (BitVec.ofNat 64 (ofBytesLE ((bs.drop (8 * k)).take 8)))) s
    .next { s1.setReg attstat (putField (s1.reg attstat) 0 2 2) with fresh := s1.fresh + 1 }

end Sys2Proof.Machine
end

