-- ==== Sys2Proof/Machine/Place.lean ====
section
/-! DEFINITION. The flow manager and the dispatcher at work: the launch queue (R273), samples (R277), and the forming and placing of crews
(R19, R275, R278 to R281, R336). -/

namespace Sys2Proof.Machine

/-! ## The launch queue (R273) -/

/-- Pop the record at HEAD of a context's launch queue as a consumer does, and release it. -/
def State.popLaunch (s : State) (a : Nat) (h : Hdr) : State :=
  (s.hdrWrite a 0 8 (h.head + 1)).hdrWrite a 0x18 4 (h.free + 1)

/-- The flow manager or the dispatcher may pop at a header now: nobody holds its line, no view covers it, and its timestamp is granted (R181,
R190, R199). -/
def State.popOpen (s : State) (x : Xl) : Bool := s.homeOpen none x && !(s.snapWaits x) && s.stampDue (s.storeStamp 0 x.fpa 64)

/-- The lines of a span are open to a read of the device's own units. -/
def State.readOpen (s : State) (x : Xl) (n : Nat) : Bool := (linesOf x.fpa n).all (fun l => s.homeOpen none { x with fpa := 128 * l })

/-- A unit reads a span as an ordinary load does: A is set and its lines are leased (R180, R332). -/
def State.unitRead (s : State) (x : Xl) (n : Nat) : State :=
  (linesOf x.fpa n).foldl (fun s l => (s.recallLine none l).leaseLine (Max.max s.floor (s.line l).wts) l) (s.touch x false)

/-- `FLOW_LAUNCH` (R273): the flow manager takes one record of a context's launch queue and launches its flow or refuses it. A record that
cannot be read is refused with CODE 6. -/
def execFlowLaunch (ctx : Nat) (s : State) : Out :=
  let va := (s.ctxReg ctx 0x18).toNat
  if !(s.ctxEnabled ctx) || va == 0 then .next s
  else
    match s.translate 0 ctx va .atomic false with
    | .error _ => .next s
    | .ok x =>
      let h := s.hdr x.fpa
      if s.anyPoison x.fpa 128 || !h.ok || h.rsz != 256 || h.occ == 0 || !(s.popOpen x) then .next s
      else
        let s1 := (s.touch x true).popLaunch x.fpa h
        match s.translate 0 ctx (h.slotVa h.head) .load false with
        | .error _ => .next (s1.post (.launchStatus ctx (launchWord 0 0 6)))
        | .ok r =>
          if !(s.readOpen r 256) then .next s
          else if s.anyPoison r.fpa 256 then .next (s1.post (.launchStatus ctx (launchWord 0 0 6)))
          else
            let o := (s1.unitRead r 256).launchFlow 0 ctx (s.readBytes r.fpa 256)
            .next (if o.2.toNat % 256 = 0 then o.1 else o.1.post (.launchStatus ctx o.2))

/-- `DEMAND_SAMPLE` (R277): at a multiple of 10 microseconds stages that are done end, demands are sampled, targets computed and cores marked
draining. -/
def execDemandSample (s : State) : Out :=
  if s.nanos / 10000 ≤ s.samples then .next s
  else .next ({ s with samples := s.nanos / 10000 }.settleFlows.sample)

/-! ## Room on a core (R19) -/

/-- What a crew takes of a core. -/
structure Shape where
  waves : Nat
  valloc : Nat
  accs : Nat
  lm : Nat
  held : Nat
  deriving DecidableEq, Repr

/-- The crews whose LM and accumulators a core still counts (R19, R227). -/
def State.tenants (s : State) (core : Nat) : List Crew :=
  s.allCrews.filter (fun c => c.core = core && c.state ≠ .saved && !(s.crewIdle c))

/-- The wave slots in use on a core. -/
def State.slotsUsed (s : State) (core : Nat) : List Nat :=
  ((s.tenants core).filter Crew.live).flatMap (fun c => c.others.map (fun w => w.slot))

/-- Free wave slots of a core, lowest first. -/
def State.slotsFree (s : State) (core : Nat) : List Nat := (List.range 16).filter (fun n => !(s.slotsUsed core).contains n)

/-- The place of an allocation of `n` LM bytes on a core, if the crew fits there (R19). -/
def State.roomOn (s : State) (core : Nat) (h : Shape) : Option Nat :=
  let all := s.tenants core
  let live := all.filter Crew.live
  let regs := (live.map (fun c => c.size * c.valloc)).sum
  let accs := (all.map (fun c => c.naccs)).sum
  if (s.slotsFree core).length < h.waves ∨ 4096 < regs + h.waves * h.valloc ∨ 16 < accs + h.accs
      ∨ lmHeldMax < s.heldBytes core + h.held then none
  else
    let segs := (all.filter (fun c => c.lmSize != 0)).foldl (fun l c => insertSeg l ⟨c.lmBase, c.lmSize, false⟩) []
    findGap 0 lmBytes h.lm segs

/-! ## The choice of a core and of a stage (R278 to R281) -/

/-- The core of a die for a crew of a stage, with the place of its LM: a core that the stage holds comes first, then the lowest COREID. A new
hold stays within the target, and after a rise waits for the last mark (R278, R279). -/
def State.coreFor (s : State) (die : Nat) (st : Stage) (h : Shape) : Option (Nat × Nat) :=
  let may := fun (c : Nat) => s.available c && !st.draining.contains c
    && (s.reserved.all (fun r => r.1 != c || r.2 == st.qnum))
    && (st.cores.contains c || (!st.rose && decide (st.cores.length < st.target)))
  let cores := (List.range 32).map (fun k => 32 * die + k)
  let order := cores.filter (fun c => st.cores.contains c) ++ cores.filter (fun c => !st.cores.contains c)
  order.findSome? (fun c => if may c then (s.roomOn c h).map (fun b => (c, b)) else none)

/-- The shape of a stage's new crews. -/
def Stage.shape (st : Stage) : Shape := ⟨st.waves, st.vregs, st.accs, st.lmb, 0⟩

/-- The shape of a SAVED crew, with the held segments that its control block lists. -/
def Crew.shape (c : Crew) : Shape :=
  ⟨c.size, c.valloc, c.naccs, c.lmSize, ((c.segs.filter (fun g => g.held)).map (fun g => g.size)).sum⟩

/-- The record at HEAD of a stage's queue can be popped now (R181, R190, R338). -/
def State.popDue (s : State) (ctx : Nat) (st : Stage) : Bool :=
  match s.stageXl ctx st with
  | none => false
  | some x =>
    let h := s.hdr x.fpa
    s.popOpen x && (match s.translate 0 ctx (h.slotVa h.head) .load false with | .ok y => s.readOpen y h.rsz | .error _ => true)

/-- A stage has a record ready or a crew still to form (R275, R278). -/
def State.newReady (s : State) (ctx : Nat) (st : Stage) : Bool :=
  !st.broken && decide (0 < s.occupancy ctx st) && (st.kind == 2 || s.popDue ctx st)

/-- The SAVED crews of a stage (R364). -/
def State.savedCrews (s : State) (flow idx : Nat) : List Crew := (s.stageCrews flow idx).filter (fun c => c.state = .saved)

/-- A stage that may be placed on a die now: where a new crew and where a SAVED crew would go. -/
structure Bid where
  flow : Nat
  ctx : Nat
  idx : Nat
  st : Stage
  fresh : Option (Nat × Nat)
  back : Option (Crew × Nat × Nat)
  deriving DecidableEq, Repr

/-- The bids on a die. -/
def State.bids (s : State) (die : Nat) : List Bid :=
  s.flows.flatMap (fun f => (f.stages.mapIdx (fun i st => (i, st))).filterMap (fun e =>
    if e.2.ended then none
    else
      let fresh := if s.newReady f.ctx e.2 then s.coreFor die e.2 e.2.shape else none
      let back := (s.savedCrews f.num e.1).findSome? (fun c => (s.coreFor die e.2 c.shape).map (fun p => (c, p.1, p.2)))
      if fresh.isNone && back.isNone then none else some ⟨f.num, f.ctx, e.1, e.2, fresh, back⟩))

/-- A stage holds fewer cores than its FLOOR (R280). -/
def Stage.belowFloor (st : Stage) : Bool := decide (st.cores.length < st.floor)

/-- Bid a comes before b: floor precedence, then priority, then the first QNUM at or after the die's pointer (R280). -/
def Bid.first (rr : Nat) (a b : Bid) : Bool :=
  let turn := fun (x : Bid) => (x.st.qnum + 512 - rr % 512) % 512
  if a.st.belowFloor != b.st.belowFloor then a.st.belowFloor
  else if a.st.prio ≠ b.st.prio then decide (b.st.prio < a.st.prio)
  else decide (turn a < turn b)

/-- The winner of a die. -/
def State.winner (s : State) (die : Nat) : Option Bid :=
  (s.bids die).foldl (fun (b : Option Bid) x =>
    match b with | none => some x | some y => if x.first (s.dieAt die).rr y then some x else some y) none

/-- The die's pointer moves past the winner (R280). -/
def State.moveRr (s : State) (die qnum : Nat) : State := s.setDie die { s.dieAt die with rr := (qnum + 1) % 512 }

def State.updStage (s : State) (flow idx : Nat) (g : Stage → Stage) : State :=
  s.mapStages (fun f i st => if f.num = flow ∧ i = idx then g st else st)

/-- A crew of a stage has been placed on a core: the stage holds it, and its reservation is done (R278, R281). -/
def State.takeHold (s : State) (flow idx qnum core : Nat) : State :=
  { s.updStage flow idx (fun st => { st with cores := insertNat st.cores core }) with
    reserved := s.reserved.filter (fun r => r.2 != qnum) }

/-- The shapes of the crews of a stage that are ready: a new one's, and those of SAVED crews. -/
def State.readyShapes (s : State) (f : Flow) (i : Nat) (st : Stage) : List Shape :=
  (if s.newReady f.ctx st then [st.shape] else []) ++ (s.savedCrews f.num i).map Crew.shape

/-- A floor-precedence stage without a reservation has a crew ready that fits on no core (R281). -/
def State.needsCore (s : State) (f : Flow) (i : Nat) (st : Stage) : Bool :=
  !st.ended && st.belowFloor && !(s.reserved.any (fun r => r.2 = st.qnum))
    && (s.readyShapes f i st).any (fun h => (List.range 8).all (fun d => (s.coreFor d st h).isNone))

/-- Reserve a core for every such stage (R281): the one with the most free wave slots, the lowest COREID first. -/
def State.reserveCores (s : State) : State :=
  let waits := s.flows.flatMap (fun f => (f.stages.mapIdx (fun i st => (i, st))).filterMap (fun e => if s.needsCore f e.1 e.2 then some e.2 else none))
  waits.foldl (fun s st =>
    let cores := (List.range 256).filter (fun c => s.available c && !st.draining.contains c && s.reserved.all (fun r => r.1 != c))
    match pickCore cores (fun a b => (s.slotsFree b).length < (s.slotsFree a).length) with
    | none => s
    | some c => { s with reserved := s.reserved ++ [(c, st.qnum)] }) s

/-! ## Forming a crew (R29, R213, R275, R336) -/

/-- A wave of a new crew (R29). -/
def newWave (c : Crew) (pc : Word) (arg slot idx pts : Nat) : Wave :=
  let w := { Wave.fresh with idx := idx, slot := slot, status := .live, pc := pc, pts := pts }
  let w1 := ((w.setS 3#7 (BitVec.ofNat 64 c.lmBase)).setS 4#7 (BitVec.ofNat 64 arg)).setS 5#7 (BitVec.ofNat 64 idx)
  (((w1.setS 6#7 (BitVec.ofNat 64 c.size)).setS 125#7 0xFFFFFFFF#64).setS 126#7 0xFFFFFFFF#64).setS 127#7 0xFFFFFFFF#64

/-- The member set of a crew of `n` waves (R294). -/
def memberSet (n : Nat) : BitVec 16 := BitVec.ofNat 16 (2 ^ n - 1)

def State.crewIdOf (s : State) (ctx : Nat) : Nat := Map.find (fun _ => 0) s.crewIds ctx

/-- A new crew on a core, before its waves have their registers. -/
def State.newCrew (s : State) (b : Bid) (core base : Nat) : Crew :=
  { Crew.fresh with
    handle := s.nextHandle, ctx := b.ctx, id := s.crewIdOf b.ctx, flow := b.flow, stage := b.idx, qnum := b.st.qnum, prio := b.st.prio,
    size := b.st.waves, core := core, valloc := b.st.vregs, naccs := b.st.accs, lmBase := base, lmSize := b.st.lmb, state := .running,
    bars := Vector.replicate 8 (Barrier.fresh (memberSet b.st.waves)) }

/-- The granules of an allocation's first 256 bytes are full at dispatch (R189). -/
def State.fillFirst (s : State) (core base n : Nat) : State :=
  (List.range (Min.min 256 n / 16)).foldl (fun s k => s.lmSetFull core (base + 16 * k) true) s

/-- Put a crew with its waves on its core: its LM is zeroed and stamped (R336), the granules of its first 256 bytes are full (R189), and the
context's watchdog starts afresh. -/
def State.addCrew (s : State) (c : Crew) (arg pts : Nat) (pc : Word) : State :=
  let slots := (s.slotsFree c.core).take c.size
  let waves := slots.mapIdx (fun i n => newWave c pc arg n i pts)
  let s1 := (s.lmZero c.core c.lmBase c.lmSize).fillFirst c.core c.lmBase c.lmSize
  { s1 with
    crews := s1.crews ++ [{ c with others := waves }]
    nextHandle := s1.nextHandle + 1
    crewIds := Map.put (fun _ => 0) s1.crewIds c.ctx (c.id + 1)
    wd := Map.put (fun _ => 0) s1.wd c.ctx s1.nanos
    wdStall := Map.put (fun _ => false) s1.wdStall c.ctx false }

/-- A queue record in a crew's LM: the first 256 bytes are full, with the record's poison (R189, R275, R366). -/
def State.putRecord (s : State) (core base : Nat) (bs : List Byte) (bad : List Nat) : State :=
  let s1 := s.recordToLm core base (bs ++ List.replicate (256 - bs.length) 0#8)
  bad.foldl (fun s k => s.lmSetPoison core (base + 32 * k) true) s1

/-- The queue of a stage is broken (R275): no further crew, and the host is told. -/
def State.breakQueue (s : State) (f idx : Nat) (st : Stage) : State :=
  ((s.updStage f idx (fun st => { st with broken := true })).post (.queueEvent f idx st.arg)).settleFlows

/-- The slot of the record at HEAD of a stage's queue, if the dispatcher can pop it. -/
def State.headSlot (s : State) (ctx a : Nat) (h : Hdr) : Option Nat :=
  match s.translate 0 ctx (h.slotVa h.head) .load false with
  | .ok x => if fpaDev x.fpa = fpaDev a then some x.fpa else none
  | .error _ => none

/-- The pop of a stage's record sets A and D of the header's page, and reads the record (R180, R332). -/
def State.touchRecord (s : State) (ctx : Nat) (st : Stage) (h : Hdr) : State :=
  let s1 := match s.translate 0 ctx st.arg.toNat .atomic false with | .ok x => s.touch x true | .error _ => s
  match s.translate 0 ctx (h.slotVa h.head) .load false with | .ok x => s1.unitRead x h.rsz | .error _ => s1

/-- A queue stage of a live flow whose header is unreachable or broken, or whose record cannot be popped (R275). -/
def State.brokenStage (s : State) : Option (Nat × Nat × Stage) :=
  s.flows.findSome? (fun f => (f.stages.mapIdx (fun i st => (i, st))).findSome? (fun e =>
    if e.2.ended || e.2.broken || e.2.kind != 1 then none
    else
      match s.stageHdr f.ctx e.2 with
      | none => some (f.num, e.1, e.2)
      | some (a, h) => if !h.ok || (h.occ != 0 && (s.headSlot f.ctx a h).isNone) then some (f.num, e.1, e.2) else none))

/-- Form a crew and place it (R275): a queue stage pops its record in the same step. -/
def State.formCrew (s : State) (b : Bid) (core base : Nat) : State :=
  let c := s.newCrew b core base
  if b.st.kind = 2 then
    ((s.addCrew c b.st.formed s.floor b.st.prog).updStage b.flow b.idx (fun st => { st with formed := st.formed + 1 })).takeHold b.flow b.idx
      b.st.qnum core
  else
    match s.stageHdr b.ctx b.st with
    | none => s
    | some (a, h) =>
      match s.headSlot b.ctx a h with
      | none => s
      | some slot =>
        let w := (linesOf slot h.rsz).foldl (fun w l => Max.max w (s.line l).wts) (s.storeStamp 0 a 64)
        let bad := (List.range (h.rsz / 32)).filter (fun k => s.isPoisoned (slot + 32 * k))
        let s1 := (s.touchRecord b.ctx b.st h).plainWrite w a (bytesLE 8 (h.head + 1))
        let held : HeldRec := ⟨b.st.arg, 1, b.st.qnum, true⟩
        let s2 := s1.addCrew { c with segs := [⟨base, 256, false⟩], held := [held] } base w b.st.prog
        (s2.putRecord core base (s.readBytes slot h.rsz) bad).takeHold b.flow b.idx b.st.qnum core

end Sys2Proof.Machine
end

