-- ==== Sys2Proof/Machine/Trap.lean ====
section
/-! DEFINITION. The trap words, the return from an exception and the records of failed stores (R353, R356 to R360). -/

namespace Sys2Proof.Machine

/-- `trap` (R356). Raises SWTRAP precisely with the immediate code. -/
def execTrap (_y : Bool) (i : BitVec 9) (s : State) : Out :=
  s.onWave (fun s => s.raisePrecise ⟨.swtrap, s.wave.pc + 4#64, 0#64, sext64 i, 0#64, 0#64, false⟩)

/-- `brk` (R357). Raises BRK precisely with TPC at the word. -/
def execBrk (_y : Bool) (i : BitVec 16) (s : State) : Out :=
  s.onWave (fun s => s.raisePrecise ⟨.brk, s.wave.pc, 0#64, zext64 i, 0#64, 0#64, false⟩)

/-- The wave holds accesses, and what its handler did to memory has not all performed: held accesses perform at `eret`, after it (R177, R349). -/
def State.repairsLeft (s : State) : Bool :=
  s.wave.accs.any (fun a => a.phase = .held) && s.wave.accs.any (fun a => a.inh && a.left)

/-- `eret` (R358). Returns from the handler, performing or dropping held accesses and resuming the wait. -/
def execEret (y : Bool) (a : Reg) (b : Reg) (s : State) : Out :=
  s.onWave (fun s =>
    let c := s.getS a
    if !s.wave.inh || (c >>> 3) != 0#64 || decide (4 < (s.getS 114#7).toNat % 16) then s.trap .operand 0#64
    else if c.getLsbD 1 && (s.getS b).toNat % 4 != 0 then s.trap .align (s.getS b)
    else if s.faultFound || (!c.getLsbD 0 && s.repairsLeft) then s.wait .other
    else
      let target := if c.getLsbD 1 then s.getS b else s.wave.tpc
      let w := { s.wave with
        inh := false
        ret := some ⟨target, c.getLsbD 0, c.getLsbD 2, y⟩
        issued := s.wave.issued + 1
        block := none
        parked := false }
      ((s.restartWd.setWave w).finishHalt).finishSave)

/-! ## Store-fault records (R353, R359) -/

/-- The 512 bytes of a record (R353). -/
def SfRec.bytes (r : SfRec) : List Byte :=
  bytesLE 8 r.va.toNat ++ bytesLE 8 r.pc.toNat
    ++ [BitVec.ofNat 8 r.wave, BitVec.ofNat 8 (causeCode r.cause), BitVec.ofNat 8 r.size,
        BitVec.ofNat 8 (r.kind + (if r.stream then 128 else 0))]
    ++ bytesLE 4 r.stride.toNat ++ bytesLE 12 r.mask.toNat ++ List.replicate 92 0#8
    ++ (r.data ++ List.replicate 384 0#8).take 384

/-- The pages of a store of 512 bytes at a 64-byte boundary. -/
def recordParts (va : Nat) : List (Nat × Nat × Nat) := pageParts 3 va 0 512

/-- `sfrpop` (R359). Pops the oldest store-fault record into memory. -/
def execSfrpop (y : Bool) (d : Reg) (a : Reg) (s : State) : Out :=
  s.onWave (fun s =>
    let va := s.getS a
    if va.toNat % 64 ≠ 0 then s.trap .align va
    else
      let parts := (recordParts va.toNat).map (fun p => (p, s.xlateVa (BitVec.ofNat 64 p.1) .store false))
      match parts.findSome? (fun p => match p.2 with | .error c => some (c, p.1.1) | .ok _ => none) with
      | some (c, at') => s.trap c (BitVec.ofNat 64 at')
      | none =>
        match s.crew.sfr with
        | [] => (s.setS d (BitVec.allOnes 64)).advance y
        | r :: rest =>
          if s.wave.beforeLeft then s.wait .other
          else
            let xs := parts.filterMap (fun p => match p.2 with | .ok x => some (p.1, x) | .error _ => none)
            let w := s.groupStamp (xs.map (fun p => (p.2.fpa, p.1.2.2)))
            if xs.any (fun p => s.snapWaits p.2) then s.wait .snapWord
            else if xs.any (fun p => !(s.keyed p.2) || (linesOf p.2.fpa p.1.2.2).any (fun l => !(s.lineFree none (128 * l)))) || !(s.stampDue w) then s.wait .other
            else
              let s1 := xs.foldl (fun s p => (s.touch p.2 true).plainWrite w p.2.fpa ((r.bytes.drop p.1.2.1).take p.1.2.2)) s
              (((s1.setCrew { s1.crew with sfr := rest }).raisePts w).setS d (BitVec.ofNat 64 rest.length)).advance y)

/-- A wave's stores that must drain before its crew ends (R360). -/
def Wave.mustDrain (w : Wave) : Bool := w.accs.any (fun a => (a.op.isStore || a.op.isAtomic) && a.left)

/-- An `mst` of the crew stores its rows. -/
def State.mstRuns (s : State) : Bool :=
  (s.coreAt s.crew.core).mops.any (fun m => m.crew == s.crew.handle && m.stores && m.stage == .running)

/-- `ctkill` (R360). Ends the issuing wave's crew: the crew's other waves issue no more, its stores drain as by `drainst`, and the crew ends. -/
def execCtkill (_y : Bool) (a : Reg) (s : State) : Out :=
  s.onWave (fun s =>
    if s.crewWaves.any Wave.mustDrain || s.mstRuns then
      let others := s.crew.others.map (fun w => { w with stopped := true })
      (s.setCrew { s.crew with others := others }).wait .kill
    else s.killCrew none (s.getS a))

end Sys2Proof.Machine
end

