-- ==== Sys2Proof/Machine/Save.lean ====
section
/-! DEFINITION. The crew control block of R363: its bytes, and a crew read back from them. -/

namespace Sys2Proof.Machine

/-! ## Writing the block -/

/-- A flag as a number. -/
def bitOf (b : Bool) : Nat := if b then 1 else 0

/-- A barrier entry (R363) at time `now` in NANOS. -/
def Barrier.bytes (b : Barrier) (now : Nat) : List Byte :=
  bytesLE 2 b.member.toNat ++ bytesLE 2 b.arrived.toNat ++ bytesLE 2 b.phase.toNat
    ++ bytesLE 2 (bitOf b.timer.isSome + 2 * bitOf b.expired)
    ++ bytesLE 8 (match b.timer with | some t => now - t | none => 0) ++ List.replicate 16 0#8

/-- A segment entry (R363): its offset counts from LMBASE. -/
def Seg.bytes (g : Seg) (base : Nat) : List Byte :=
  bytesLE 4 (g.off - base) ++ bytesLE 4 g.size ++ [if g.held then 2#8 else 1#8] ++ List.replicate 7 0#8

/-- A queue entry (R363). -/
def HeldRec.bytes (h : HeldRec) : List Byte :=
  bytesLE 8 (if h.dispatch then 0 else h.hdr.toNat) ++ bytesLE 4 h.count ++ bytesLE 2 (if h.dispatch then h.qnum else 0)
    ++ bytesLE 2 (1 + 2 * bitOf h.dispatch)

/-- A wave entry (R363): a live wave has the TPC and the wake record that its entry for PREEMPT gives it. -/
def Wave.bytes (w : Wave) : List Byte :=
  let state := match w.status with | .live => 1 | .exited => 2 | .left => 3 | .absent => 0
  let wake := if w.live then w.wake else (0#64, 0#64)
  [BitVec.ofNat 8 state, BitVec.ofNat 8 (bitOf w.region.isSome + 2 * bitOf w.retained.isSome)]
    ++ bytesLE 2 (w.region.getD 0) ++ bytesLE 2 (w.retained.getD 0) ++ [0#8, 0#8]
    ++ bytesLE 8 (if w.live then w.pc else w.tpc).toNat ++ bytesLE 8 wake.1.toNat ++ bytesLE 8 wake.2.toNat
    ++ bytesLE 8 w.wctl.toNat ++ bytesLE 8 w.fflags.toNat ++ bytesLE 8 w.vwb ++ bytesLE 8 w.tvec.toNat ++ bytesLE 8 w.mrwin.toNat
    ++ w.nf.toList.flatMap (fun v => bytesLE 4 v.toNat)
    ++ (List.range 64).flatMap (fun k => bytesLE 2 (Map.find (fun _ => 0#16) w.cb k).toNat) ++ List.replicate 40 0#8

/-- The first `n` items of a list as bytes of `size` each, the rest zero. -/
def table {α : Type} (n size : Nat) (xs : List α) (f : α → List Byte) : List Byte :=
  let bs := (xs.take n).flatMap f
  bs ++ List.replicate (n * size - bs.length) 0#8

/-- The wave entries of a crew, by index. -/
def Crew.waveBytes (c : Crew) : List Byte :=
  (List.range 16).flatMap (fun i =>
    match c.others.find? (fun w => w.idx = i) with | some w => w.bytes | none => List.replicate 256 0#8)

/-- The crew control block, 8 KiB (R363). -/
def Crew.block (c : Crew) (now : Nat) : List Byte :=
  bytesLE 8 now ++ bytesLE 4 c.id ++ [BitVec.ofNat 8 c.ctx, BitVec.ofNat 8 c.stage] ++ bytesLE 2 c.qnum
    ++ [BitVec.ofNat 8 c.size, BitVec.ofNat 8 (c.valloc / 32), BitVec.ofNat 8 c.naccs, 0#8] ++ bytesLE 4 c.lmSize
    ++ List.replicate 232 0#8
    ++ c.bars.toList.flatMap (fun b => b.bytes now)
    ++ table 16 16 (List.range c.naccs) (fun n =>
        let a := c.acc n
        bytesLE 2 a.ver.toNat ++ bytesLE 2 (bitOf a.suspect) ++ List.replicate 12 0#8)
    ++ table 16 16 c.segs (fun g => g.bytes c.lmBase)
    ++ table 32 16 c.held HeldRec.bytes
    ++ bytesLE 8 c.sfr.length ++ List.replicate 2552 0#8
    ++ c.waveBytes

/-- The full bits of an allocation (R363): bit g of the map is granule g. -/
def State.fullMap (s : State) (core base n : Nat) : List Byte :=
  (List.range (n / 128)).map (fun k =>
    BitVec.ofNat 8 (((List.range 8).map (fun j => bitOf (s.lmFullAt core (base + 128 * k + 16 * j)) * 2 ^ j)).sum))

/-- The record area: 16 slots of 512 bytes, oldest first. -/
def Crew.recordArea (c : Crew) : List Byte := table 16 512 c.sfr SfRec.bytes

/-! ## Reading the block -/

/-- A field of `n` bytes at an offset. -/
def fieldAt (bs : List Byte) (off n : Nat) : Nat := ofBytesLE ((bs.drop off).take n)

/-- A byte of the block that no field names, in a crew of `waves` waves and `accs` accumulators. -/
def blockReserved (waves accs i : Nat) : Bool :=
  if i < 0x100 then i == 0x13 || decide (0x18 ≤ i)
  else if i < 0x200 then decide (16 ≤ i % 32)
  else if i < 0x300 then decide (4 ≤ i % 16) || decide (accs ≤ (i - 0x200) / 16)
  else if i < 0x400 then decide (9 ≤ i % 16)
  else if i < 0x608 then false
  else if i < 0x1000 then true
  else
    let k := i % 256
    k == 6 || k == 7 || decide (0xD8 ≤ k) || decide (waves ≤ (i - 0x1000) / 256)

/-- A barrier entry read back at time `now`, with the clock of the arrivals that it holds (R296). -/
def readBarrier (bs : List Byte) (off now clock : Nat) : Barrier :=
  let f := fieldAt bs (off + 6) 2
  ⟨BitVec.ofNat 16 (fieldAt bs off 2), BitVec.ofNat 16 (fieldAt bs (off + 2) 2), BitVec.ofNat 16 (fieldAt bs (off + 4) 2),
    if f % 2 = 1 then some (now - fieldAt bs (off + 8) 8) else none, f / 2 % 2 = 1, clock⟩

/-- The segments read back for an allocation at `base`. -/
def readSegs (bs : List Byte) (base : Nat) : List Seg :=
  (List.range 16).filterMap (fun k =>
    let off := 0x300 + 16 * k
    let cls := fieldAt bs (off + 8) 1
    if cls = 0 then none else some ⟨base + fieldAt bs off 4, fieldAt bs (off + 4) 4, cls == 2⟩)

/-- The held queue records read back; the dispatch record's header is the stage's. -/
def readHeld (bs : List Byte) (arg : Word) : List HeldRec :=
  (List.range 32).filterMap (fun k =>
    let off := 0x400 + 16 * k
    let f := fieldAt bs (off + 14) 2
    if f % 2 = 0 then none
    else
      let d := f / 2 % 2 = 1
      some ⟨if d then arg else BitVec.ofNat 64 (fieldAt bs off 8), fieldAt bs (off + 8) 4, fieldAt bs (off + 12) 2, d⟩)

/-- A wake record and its address as an entry writes them (R355): each kind of wait fills its own fields, and the others are zero. -/
def wakeOk (wake addr : Nat) : Bool :=
  let kind := wake % 16
  let arg := wake / 2 ^ 32
  decide (kind ≤ 4) && wake / 256 % 2 ^ 24 == 0
    && (if kind = 1 then decide (wake / 16 % 16 < 8) && decide (arg < 2 ^ 16) else wake / 16 % 16 == 0)
    && (kind == 2 || addr == 0) && (decide (1 ≤ kind) && decide (kind ≤ 3) || arg == 0)

/-- A wave entry lies within its fields' ranges. -/
def waveOk (bs : List Byte) (off valloc : Nat) : Bool :=
  let wake := fieldAt bs (off + 0x10) 8
  let st := fieldAt bs off 1
  let vwb := fieldAt bs (off + 0x30) 8
  let wctl := fieldAt bs (off + 0x20) 8
  wakeOk wake (fieldAt bs (off + 0x18) 8) && decide (1 ≤ st) && decide (st ≤ 3) && decide (fieldAt bs (off + 1) 1 < 4) && decide (fieldAt bs (off + 2) 2 < 1024)
    && decide (fieldAt bs (off + 4) 2 < 1024)
    && decide (wctl < 16) && decide (wctl % 8 ≤ 4) && decide (fieldAt bs (off + 0x28) 8 < 64)
    && vwb % 32 == 0 && decide (vwb + 32 ≤ valloc) && fieldAt bs (off + 0x38) 8 % 4 == 0 && fieldAt bs (off + 0x40) 8 % 256 == 0

/-- Every field of a block lies within its range, and every reserved byte is zero (R363). -/
def blockOk (bs : List Byte) : Bool :=
  let waves := fieldAt bs 0x10 1
  let vregs := fieldAt bs 0x11 1
  let accs := fieldAt bs 0x12 1
  let lmb := fieldAt bs 0x14 4
  let segs := readSegs bs 0
  decide (fieldAt bs 0x0C 1 < 64) && decide (fieldAt bs 0x0D 1 < 8) && decide (fieldAt bs 0x0E 2 < 512)
    && decide (1 ≤ waves) && decide (waves ≤ 16) && decide (2 ≤ vregs) && decide (vregs ≤ 16) && decide (accs ≤ 16)
    && lmb % 256 == 0 && decide (lmb ≤ 2 ^ 23)
    && (bs.zipIdx.all (fun e => e.1 == 0#8 || !(blockReserved waves accs e.2)))
    && (List.range 8).all (fun b => decide (fieldAt bs (0x106 + 32 * b) 2 < 4))
    && (List.range 16).all (fun n => decide (fieldAt bs (0x202 + 16 * n) 2 < 2))
    && (List.range 16).all (fun k => decide (fieldAt bs (0x308 + 16 * k) 1 ≤ 2)
        && (fieldAt bs (0x308 + 16 * k) 1 != 0 || fieldAt bs (0x300 + 16 * k) 8 == 0))
    && segs.all (fun g => g.off % 256 == 0 && g.size % 256 == 0 && g.size != 0 && decide (g.off + g.size ≤ lmb))
    && (segs.zip (segs.drop 1)).all (fun p => decide (p.1.off + p.1.size ≤ p.2.off))
    && (List.range 32).all (fun k => decide (fieldAt bs (0x40E + 16 * k) 2 < 4) && decide (fieldAt bs (0x40C + 16 * k) 2 < 512))
    && decide (fieldAt bs 0x600 8 ≤ 16)
    && (List.range waves).all (fun i => waveOk bs (0x1000 + 256 * i) (32 * vregs))

/-- A wave read back (R364): other scalars are 0 and the mask is all ones; what no entry holds is as at dispatch, but for the wave's clock, the
status word of its last region, what its `xbar` found, and the word at which an exited wave ended. -/
def readWave (bs : List Byte) (old : Option Wave) (i slot : Nat) (mine : Nat → Bool) : Wave :=
  let off := 0x1000 + 256 * i
  let f := fieldAt bs (off + 1) 1
  let w : Wave := { Wave.fresh with
    idx := i
    slot := slot
    status := (match fieldAt bs off 1 with | 1 => .live | 2 => .exited | _ => .left)
    pc := (match fieldAt bs off 1, old with | 1, _ => BitVec.ofNat 64 (fieldAt bs (off + 8) 8) | _, some w => w.pc | _, none => 0#64)
    tpc := BitVec.ofNat 64 (fieldAt bs (off + 8) 8)
    wctl := BitVec.ofNat 4 (fieldAt bs (off + 0x20) 8)
    fflags := BitVec.ofNat 6 (fieldAt bs (off + 0x28) 8)
    vwb := fieldAt bs (off + 0x30) 8
    tvec := BitVec.ofNat 64 (fieldAt bs (off + 0x38) 8)
    mrwin := BitVec.ofNat 64 (fieldAt bs (off + 0x40) 8)
    nf := Vector.ofFn (fun k => BitVec.ofNat 32 (fieldAt bs (off + 0x48 + 4 * k.val) 4))
    cb := (List.range 64).foldl (fun m k => Map.put (fun _ => 0#16) m k (BitVec.ofNat 16 (fieldAt bs (off + 0x58 + 2 * k) 2))) []
    region := if f % 2 = 1 ∧ mine (fieldAt bs (off + 2) 2) then some (fieldAt bs (off + 2) 2) else none
    retained := if f / 2 % 2 = 1 ∧ mine (fieldAt bs (off + 4) 2) then some (fieldAt bs (off + 4) 2) else none
    rgLast := (match old with | some w => w.rgLast | none => 0#64)
    xbarExt := (match old with | some w => w.xbarExt | none => false)
    xbarPc := (match old with | some w => w.xbarPc | none => 0#64)
    pts := (match old with | some w => w.pts | none => 0) }
  let w1 := (w.setS 125#7 0xFFFFFFFF#64).setS 126#7 0xFFFFFFFF#64
  w1.setS 127#7 0xFFFFFFFF#64

/-- A cause of R351 by its code; ILLEGAL for a code that is none. -/
def causeOf (n : Nat) : Cause :=
  (([.illegal, .operand, .align, .xlateLd, .xlateSt, .protLd, .protSt, .stale, .lmfull, .poison, .tinteg, .mremote, .barto, .watchdog,
    .swtrap, .brk, .preempt, .halt, .peerlost, .format, .queue] : List Cause)[n - 1]?).getD .illegal

/-- A store-fault record read back (R353, R364). -/
def readRecord (bs : List Byte) : SfRec where
  va := BitVec.ofNat 64 (fieldAt bs 0 8)
  pc := BitVec.ofNat 64 (fieldAt bs 8 8)
  wave := fieldAt bs 0x10 1
  cause := causeOf (fieldAt bs 0x11 1)
  size := fieldAt bs 0x12 1
  kind := fieldAt bs 0x13 1 % 8
  stream := fieldAt bs 0x13 1 / 128 % 2 = 1
  stride := BitVec.ofNat 32 (fieldAt bs 0x14 4)
  mask := BitVec.ofNat 96 (fieldAt bs 0x18 12)
  data := (bs.drop 0x80).take 384

/-- The shape that a block gives. -/
def blockShape (bs : List Byte) : Shape :=
  ⟨fieldAt bs 0x10 1, 32 * fieldAt bs 0x11 1, fieldAt bs 0x12 1, fieldAt bs 0x14 4,
    (((readSegs bs 0).filter (fun g => g.held)).map (fun g => g.size)).sum⟩

end Sys2Proof.Machine
end

