-- ==== Sys2Proof/Machine/Preempt.lean ====
section
/-! DEFINITION. Pre-emption: requests and their limits (R284, R286, R309), the taking of a crew (R362), its restore (R364), and the placing of
crews by the dispatcher (R278, R364). -/

namespace Sys2Proof.Machine

/-! ## Where a wave stands (R284, R286) -/

/-- A wait that is a blocking point. -/
def Block.isPoint (b : Block) : Bool := match b with | .other => false | .kill => false | _ => true

/-- A pre-emption request is more than PEDL old. -/
def State.pastPedl (s : State) (c : Crew) : Bool :=
  match c.preempt with
  | some p => decide (p.since + 1000 * s.pedl c.ctx < s.nanos)
  | none => false

/-- A live wave stands where a pre-emption request stops it: at a blocking point, or after a Y-marked word once the request is past PEDL, and
in no no-pre-emption window. -/
def State.stands (s : State) (c : Crew) (w : Wave) : Bool :=
  decide (w.npreEnd ≤ s.nanos) &&
    (w.stopped || (match w.block with | some b => b.isPoint | none => false) || (w.parked && s.pastPedl c))

/-- `PREEMPT_REQUEST` (R286): PREQ is set, and a running crew enters TAKING. -/
def execPreemptRequest (crew : Nat) (s : State) : Out := .next (s.requestPreempt crew)

/-- Withdraw a request that has not been taken: PREQ is cleared and the stopped waves resume (R286). -/
def State.withdraw (s : State) (h : Nat) : State :=
  match s.crewAt h with
  | none => s
  | some c =>
    match c.preempt with
    | none => s
    | some p =>
      if p.entered then s
      else
        let s1 := s.updCrew h (fun c =>
          { c with
            preempt := none
            state := if c.state = .taking then .running else c.state
            others := c.others.map (fun w => { w with stopped := false }) })
        if s.crew.handle = h then s1.setWave { s1.wave with stopped := false } else s1

/-- `PREEMPT_WITHDRAW` (R286). -/
def execPreemptWithdraw (crew : Nat) (s : State) : Out := .next (s.withdraw crew)

/-- `PEDL_DEADLINE` (R284): with the request past PEDL, a wave at a Y-marked word stands at a blocking point and stops. -/
def execPedlDeadline (crew : Nat) (s : State) : Out :=
  match s.crewAt crew with
  | none => .next s
  | some c =>
    let entered := match c.preempt with | some p => p.entered | none => true
    if entered || c.state ≠ .taking || !s.pastPedl c then .next s
    else
      let stop := fun (w : Wave) => if w.live && w.parked && decide (w.npreEnd ≤ s.nanos) then { w with stopped := true } else w
      let s1 := s.updCrew crew (fun c => { c with others := c.others.map stop })
      .next (if s.crew.handle = crew then s1.setWave (stop s1.wave) else s1)

/-- `NPRE_WINDOW_END` (R309): a no-pre-emption window reaches its end. -/
def execNpreWindowEnd (crew : Nat) (wave : Nat) (s : State) : Out :=
  .next (s.atWave crew wave (fun t =>
    if t.wave.npreEnd ≠ 0 ∧ t.wave.npreEnd ≤ t.nanos then t.setWave { t.wave with npreEnd := 0 } else t))

/-- `PREEMPT_REPORT` (R286): a request not taken within PEDL + 10 ms is reported to the host, and stays pending. -/
def execPreemptReport (crew : Nat) (s : State) : Out :=
  match s.crewAt crew with
  | none => .next s
  | some c =>
    match c.preempt with
    | none => .next s
    | some p =>
      if p.entered || p.reported || decide (s.nanos < p.since + 1000 * s.pedl c.ctx + 10000000) then .next s
      else .next ((s.updCrew crew (fun c => { c with preempt := some { p with reported := true } })).post (.preemptReport c.ctx c.id))

/-- A load of the wave that names another device and has been outstanding for more than 1 microsecond (R254). -/
def State.remoteLoad (s : State) : Bool :=
  s.wave.accs.any (fun a => a.loadClass && a.left && decide (a.at' + 1000 < s.nanos) && a.lanes.any (fun l =>
    match s.lookup (dieOf s.crew.core) s.crew.ctx l.va.toNat with
    | .leaf e => fpaDev (s.fpaKey (pteFrame e.pte)) ≠ s.devid.toNat
    | _ => false))

/-- `REMOTE_LOAD_BLOCKING_POINT` (R254): a remote load has been outstanding for more than 1 microsecond; its wave stands at a blocking point. -/
def execRemoteLoadBlockingPoint (crew : Nat) (wave : Nat) (s : State) : Out :=
  .next (s.atWave crew wave (fun t => if t.wave.live && t.wave.block.isNone && t.remoteLoad then t.wait .remote else t))

/-! ## Taking a crew (R362) -/

/-- The save slots of a context that crews hold. -/
def State.slotsHeld (s : State) (ctx : Nat) : List Nat :=
  (s.allCrews.filter (fun c => c.ctx = ctx && c.live)).flatMap (fun c =>
    c.slot.toList ++ (match c.preempt with | some p => if p.entered then [p.slot] else [] | none => []))

/-- The lowest free save slot of a context (R362, R363). -/
def State.freeSlot (s : State) (ctx : Nat) : Option Nat :=
  (List.range ((s.ctxReg ctx 0x40).toNat % 65536)).find? (fun k => !(s.slotsHeld ctx).contains k)

/-- The virtual address of a save slot (R416). -/
def State.slotVa (s : State) (ctx k : Nat) : Nat := (s.ctxReg ctx 0x30).toNat + k * (s.ctxReg ctx 0x38).toNat

/-- The parts of a slot that the device writes or reads, by page: the control block with the full-bit map, and the record area. -/
def slotParts (va lmb : Nat) : List (Nat × Nat × Nat) := pageParts 3 va 0 (0x2000 + lmb / 128) ++ pageParts 2 (va + 0x12000) 0x12000 0x2000

/-- Translate the parts of a slot: each with its fabric address. -/
def State.slotPieces (s : State) (die ctx : Nat) (k : Want) (parts : List (Nat × Nat × Nat)) : Option (List (Xl × Nat × Nat)) :=
  match parts with
  | [] => some []
  | (va, off, n) :: rest =>
    match s.translate die ctx va k false, State.slotPieces s die ctx k rest with
    | .ok x, some ps => some ((x, off, n) :: ps)
    | _, _ => none

/-- A load of the crew that meets a fault (R362 step 2). -/
def State.takeFault (s : State) (c : Crew) : Option Cause :=
  c.others.findSome? (fun w =>
    match s.focus c.handle w.idx with
    | none => none
    | some t => t.wave.accs.findSome? (fun a =>
        match a.phase with
        | .data e _ => some e
        | .queued => if a.loadClass then (t.transFault a).map (fun f => f.1) else none
        | _ => none))

/-- Every store, load, command and accumulator operation of the crew is done (R362 steps 1 and 2). -/
def State.takeReady (s : State) (c : Crew) : Bool :=
  c.others.all (fun w => w.lmq.isEmpty
      && (!w.live || (w.accs.isEmpty && (w.mreq.isNone || w.block == some .version) && w.heldCauses.isEmpty)))
    && !(s.cmds.any (fun x => x.crew = c.handle)) && !((s.coreAt c.core).mops.any (fun m => m.crew = c.handle))
    && !((s.coreAt c.core).sfu.any (fun o => o.crew = c.handle))

/-- Renew the transient lines of an allocation that have not expired (R362 step 4). -/
def State.renewAll (s : State) (c : Crew) : State :=
  (lmLines c.core c.lmBase c.lmSize).foldl (fun s l => if s.heldLine l || s.lmExpired l then s else s.lmStampLine l) s

/-- The saved bytes at a slot offset. -/
def takenBytes (block map area : List Byte) (off n : Nat) : List Byte :=
  if off < 0x12000 then ((block ++ map).drop off).take n else (area.drop (off - 0x12000)).take n

/-- Abort the open regions of a crew with PREEMPT; they stay open (R240). -/
def State.preemptRegions (s : State) (h : Nat) : State :=
  ((s.regions.filter (fun r => r.crew = h && r.active)).map (fun r => r.id)).foldl (fun s i => s.abortRegion i 5) s

/-- Write the slot of a taken crew (R362 step 5). -/
def State.writeSlot (s : State) (c : Crew) (ps : List (Xl × Nat × Nat)) : State :=
  let block := c.block s.nanos
  let map := s.fullMap c.core c.lmBase c.lmSize
  ps.foldl (fun s p =>
    let bs := takenBytes block map c.recordArea p.2.1 p.2.2
    (s.touch p.1 true).plainWrite (s.storeStamp 0 p.1.fpa bs.length) p.1.fpa bs) s

/-- The pieces of a slot may be written now: nobody holds a line, no view covers them, and their timestamps are granted (R181, R190, R199). -/
def State.slotDue (s : State) (ps : List (Xl × Nat × Nat)) : Bool :=
  ps.all (fun q => s.readOpen q.1 q.2.2 && !(s.snapWaits q.1) && s.stampDue (s.storeStamp 0 q.1.fpa q.2.2))

/-- A crew with a region open is not taken for an in-field test (R289). -/
def Crew.testWaits (c : Crew) (p : Preempt) : Bool := p.test && c.others.any (fun w => w.live && w.region.isSome)

/-- Enter every live wave of a crew with PREEMPT (R362 step 6, R364 step 5). -/
def State.enterPreempt (s : State) (h : Nat) (slotVa restore deadline : Nat) : State :=
  match s.crewAt h with
  | none => s
  | some c =>
    (c.others.filter Wave.live).foldl (fun s w => s.atWave h w.idx (fun t =>
      if !t.wave.live then t
      else
        let wake := if restore = 1 then (t.wave.getS 114#7, t.wave.getS 115#7) else t.wave.wake
        let u := t.enter ⟨.preempt, t.wave.pc, 0#64, BitVec.ofNat 64 slotVa, BitVec.ofNat 64 restore, BitVec.ofNat 64 deadline, false⟩
        if u.wave.live then u.setWave ((u.wave.setS 114#7 wake.1).setS 115#7 wake.2) else u)) s

/-- Take a crew into a slot that passed the check of step 3 (R362 steps 4 to 6). -/
def State.takeCrew (s : State) (c : Crew) (p : Preempt) (k : Nat) (ps : List (Xl × Nat × Nat)) : State :=
  let deadline := s.nanos + 1000 * (s.lmretn - lmGuard)
  let s1 := ((s.renewAll c).writeSlot c ps).preemptRegions c.handle
  let s2 := s1.updCrew c.handle (fun c => { c with preempt := some { p with entered := true, slot := k } })
  s2.enterPreempt c.handle (s.slotVa c.ctx k) 0 deadline

/-- `CREW_TAKE` (R362): with every live wave stopped and everything of the crew drained, it is saved and entered with PREEMPT; a load that
faults ends it; a slot that cannot be written leaves the request pending. -/
def execCrewTake (crew : Nat) (s : State) : Out :=
  match s.crewAt crew with
  | none => .next s
  | some c =>
    match c.preempt with
    | none => .next s
    | some p =>
      if p.entered || c.state ≠ .taking || c.testWaits p || !(c.others.all (fun w => !w.live || s.stands c w)) then .next s
      else
        match s.takeFault c with
        | some e => .next (s.endCrewAt crew (fun c => some (.takeFault c.ctx c.id e)))
        | none =>
          if !s.takeReady c then .next s
          else
            match s.freeSlot c.ctx with
            | none => .next s
            | some k =>
              match s.slotPieces (dieOf c.core) c.ctx .store (slotParts (s.slotVa c.ctx k) c.lmSize) with
              | none =>
                if p.told = some k then .next s
                else .next ((s.updCrew crew (fun c => { c with preempt := some { p with told := some k } })).post (.saveSlot c.ctx k))
              | some ps =>
                if !(s.slotDue ps) then .next s
                else .next (s.takeCrew c p k ps)

/-! ## Restoring a crew (R364) -/

/-- The parts of a slot are open to the device's read, as far as they can be reached. -/
def State.slotOpen (s : State) (die ctx va off n : Nat) : Bool :=
  match s.slotPieces die ctx .load (pageParts 3 (va + off) off n) with
  | none => true
  | some ps => ps.all (fun p => s.readOpen p.1 p.2.2)

/-- The device reads the parts of a slot as an ordinary load does (R180, R332). -/
def State.slotRead (s : State) (die ctx va off n : Nat) : State :=
  match s.slotPieces die ctx .load (pageParts 3 (va + off) off n) with
  | none => s
  | some ps => ps.foldl (fun s p => s.unitRead p.1 p.2.2) s

/-- Read the parts of a slot; none where one cannot be reached or is poisoned. -/
def State.readSlot (s : State) (die ctx va off n : Nat) : Option (List Byte) :=
  match s.slotPieces die ctx .load (pageParts 3 (va + off) off n) with
  | none => none
  | some ps => if ps.any (fun p => s.anyPoison p.1.fpa p.2.2) then none else some (ps.flatMap (fun p => s.readBytes p.1.fpa p.2.2))

/-- The saved control block of a crew, if it can be read and every field is in its range. -/
def State.savedBlock (s : State) (c : Crew) : Option (List Byte) :=
  match c.slot with
  | none => none
  | some k =>
    match s.readSlot (dieOf c.core) c.ctx (s.slotVa c.ctx k) 0 0x2000 with
    | some bs => if blockOk bs then some bs else none
    | none => none

/-- Put a crew with all its waves back in its place. -/
def State.putCrew (s : State) (c : Crew) : State :=
  if s.crew.handle = c.handle then
    match c.others with
    | [] => { s with crew := c }
    | w :: rest => { s with crew := { c with others := rest }, wave := w }
  else { s with crews := s.crews.map (fun d => if d.handle = c.handle then c else d) }

/-- Set the full bits of an allocation from the saved map. -/
def State.setFullMap (s : State) (core base : Nat) (map : List Byte) : State :=
  (List.range (8 * map.length)).foldl (fun s g =>
    if (map.getD (g / 8) 0#8).getLsbD (g % 8) then s.lmSetFull core (base + 16 * g) true else s) s

/-- A crew as its block gives it, placed on a core (R364 steps 1 to 4). -/
def State.rebuilt (s : State) (c : Crew) (bs recs : List Byte) (core base : Nat) (arg : Word) : Crew :=
  let h := blockShape bs
  let mine := fun (i : Nat) (id : Nat) => s.regions.any (fun r => r.id = id ∧ r.crew = c.handle ∧ r.wave = i)
  let slots := s.slotsFree core
  { c with
    id := fieldAt bs 8 4
    size := h.waves
    valloc := h.valloc
    naccs := h.accs
    core := core
    lmBase := base
    lmSize := h.lm
    state := .halted
    accs := []
    bars := Vector.ofFn (fun b => readBarrier bs (0x100 + 32 * b.val) s.nanos c.bars[b].clock)
    segs := readSegs bs base
    sfr := (List.range (fieldAt bs 0x600 8)).map (fun k => readRecord ((recs.drop (512 * k)).take 512))
    held := readHeld bs arg
    tags := []
    preempt := none
    saved := (List.range h.accs).map (fun n => (BitVec.ofNat 16 (fieldAt bs (0x200 + 16 * n) 2), fieldAt bs (0x202 + 16 * n) 2 % 2 == 1))
    restoring := true
    others := (List.range h.waves).map (fun i => readWave bs (c.others.find? (fun w => w.idx = i)) i (slots.getD i 0) (mine i)) }

/-- The wake records of a restored crew's live waves, in s114 and s115. -/
def restoreWakes (bs : List Byte) (c : Crew) : Crew :=
  { c with others := c.others.map (fun w =>
      (w.setS 114#7 (BitVec.ofNat 64 (fieldAt bs (0x1010 + 256 * w.idx) 8))).setS 115#7 (BitVec.ofNat 64 (fieldAt bs (0x1018 + 256 * w.idx) 8))) }

/-- A block that cannot be restored ends its crew, and the host is told (R363). -/
def State.dropSaved (s : State) (c : Crew) : State :=
  (s.endCrewAt c.handle (fun c => some (.restoreFault c.ctx (c.slot.getD 0)))).updCrew c.handle (fun c => { c with slot := none })

/-- Restore a SAVED crew on a core (R364 steps 1 to 5). -/
def State.restoreOn (s : State) (c : Crew) (bs : List Byte) (st : Stage) (core base : Nat) : State :=
  let va := s.slotVa c.ctx (c.slot.getD 0)
  match s.readSlot (dieOf core) c.ctx va 0x2000 (fieldAt bs 0x14 4 / 128), s.readSlot (dieOf core) c.ctx va 0x12000 0x2000 with
  | some map, some recs =>
    let d := restoreWakes bs (s.rebuilt c bs recs core base st.arg)
    let read := ((s.slotRead (dieOf core) c.ctx va 0 0x2000).slotRead (dieOf core) c.ctx va 0x2000 (fieldAt bs 0x14 4 / 128)).slotRead
      (dieOf core) c.ctx va 0x12000 0x2000
    let s1 := (read.lmZero core base d.lmSize).setFullMap core base map
    ((s1.putCrew d).takeHold c.flow c.stage st.qnum core).enterPreempt c.handle va 1 0
  | _, _ => s.dropSaved c

/-- The stage of a crew, while its flow lives. -/
def State.stageOf (s : State) (c : Crew) : Option Stage :=
  match s.flow? c.flow with | some f => f.stages[c.stage]? | none => none

/-- Restore a crew on the core that the dispatcher of a die gives it (R364). -/
def State.restoreAt (s : State) (die : Nat) (c : Crew) : State :=
  match s.stageOf c with
  | none => s
  | some st =>
    let va := s.slotVa c.ctx (c.slot.getD 0)
    if !(s.slotOpen (dieOf c.core) c.ctx va 0 (0x2000 + c.lmSize / 128)) || !(s.slotOpen (dieOf c.core) c.ctx va 0x12000 0x2000) then s
    else match s.savedBlock c with
    | none => s.dropSaved c
    | some bs =>
      match s.coreFor die st (blockShape bs) with
      | none => s
      | some (core, base) => (s.restoreOn c bs st core base).moveRr die st.qnum

/-- `CREW_RESTORE` (R364): a SAVED crew whose stage comes first on a die is placed there, its state restored and its waves entered. -/
def execCrewRestore (crew : Nat) (s : State) : Out :=
  match s.crewAt crew with
  | none => .next s
  | some c =>
    if c.state ≠ .saved then .next s
    else
      match (List.range 8).find? (fun d =>
          match s.winner d with | some b => b.flow = c.flow && b.idx = c.stage && b.back.isSome | none => false) with
      | none => .next s
      | some d => .next (s.restoreAt d c)

/-- `RESTORE_FINISH` (R364): once every `eret` has passed and the handler's commands have completed, VER and SUSPECT are set, the tags are IDLE,
the slot is free and the crew runs. -/
def execRestoreFinish (crew : Nat) (s : State) : Out :=
  match s.crewAt crew with
  | none => .next s
  | some c =>
    let done := c.others.all (fun w => !w.live || (!w.inh && w.stop.isNone && w.halting.isNone))
    if !c.restoring || c.state ≠ .halted || !done || s.cmds.any (fun x => x.crew = crew)
        || (s.coreAt c.core).mops.any (fun m => m.crew = crew) then .next s
    else
      let s1 := s.updCrew crew (fun c =>
        let accs := c.saved.zipIdx.foldl (fun m e =>
          Map.put (fun _ => Acc.fresh) m e.2 { Map.find (fun _ => Acc.fresh) m e.2 with ver := e.1.1, suspect := e.1.2 }) c.accs
        { c with accs := accs, tags := [], slot := none, saved := [], restoring := false })
      match c.others.find? Wave.live with
      | none => .next s1
      | some w => .next (s1.atWave crew w.idx State.finishHalt)

/-! ## Placement (R275, R278, R364) -/

/-- `CREW_PLACE` (R278, R280, R281): the dispatcher of a die places one crew of the stage that comes first there; a broken queue is given up, and
a floor-precedence crew that fits nowhere reserves a core. -/
def execCrewPlace (die : Nat) (s : State) : Out :=
  if 8 ≤ die then .next s
  else
    match s.brokenStage with
    | some (f, i, st) => .next (s.breakQueue f i st)
    | none =>
      let t := s.reserveCores
      match t.winner die with
      | none => .next t
      | some b =>
        match b.fresh, b.back with
        | some (core, base), _ => .next ((t.formCrew b core base).moveRr die b.st.qnum)
        | none, some (c, _, _) => .next (t.restoreAt die c)
        | none, none => .next t

end Sys2Proof.Machine
end

