-- ==== Sys2Proof/Machine/Watch.lean ====
section
/-! DEFINITION. Barrier timeouts (R287, R297, R298), the context watchdog (R288) and in-field tests (R289, R377). -/

namespace Sys2Proof.Machine

/-! ## Barrier timeouts (R297, R298) -/

/-- A wave of crew `c` waits in `bar` or `barw` on barrier `b`. -/
def Wave.waitsBar (w : Wave) (c : Crew) (b : Nat) : Bool :=
  w.live && !w.barOver c
    && (match w.block with | some (.bar k _) => k == b | some (.barw k) => k == b | some (.arrive k value) => k == b && !value | _ => false)

/-- The word at which a blocked wave waits: the `bar` or `xbar` before its next word once it has arrived. -/
def Wave.waitPc (w : Wave) : Word :=
  match w.block with | some (.bar _ _) => w.pc - 4#64 | some (.xbar _ _ _) => w.xbarPc | _ => w.pc

/-- A WAVE entry of a diagnostic record (R298). -/
def Wave.diag (w : Wave) (c : Crew) (b : Nat) : Word :=
  let point : Bool := match w.block with | some k => k.isPoint && !w.barOver c | none => false
  let st := match w.status with
    | .absent => 0
    | .exited => 4
    | .left => 5
    | .live => if w.inh then 6 else if w.waitsBar c b then 2 else if point then 3 else 1
  let pc := if st = 0 then 0 else if st = 2 ∨ st = 3 then w.waitPc.toNat % 2 ^ 56 else w.pc.toNat % 2 ^ 56
  BitVec.ofNat 64 (st * 2 ^ 56 + pc)

/-- The waves of a crew that have neither exited nor left. -/
def Crew.liveMask (c : Crew) : Nat := ((c.others.filter Wave.live).map (fun w => 2 ^ w.idx)).sum

/-- The diagnostic record of a barrier (R298). -/
def Crew.diagRecord (c : Crew) (b : Nat) (bar : Barrier) (now : Nat) : List Byte :=
  bytesLE 8 now ++ bytesLE 4 c.id ++ [BitVec.ofNat 8 c.ctx, BitVec.ofNat 8 b] ++ bytesLE 2 bar.phase.toNat ++ bytesLE 2 bar.member.toNat
    ++ bytesLE 2 bar.arrived.toNat ++ bytesLE 2 c.liveMask ++ bytesLE 2 c.core ++ [BitVec.ofNat 8 c.stage] ++ List.replicate 7 0#8
    ++ (List.range 16).flatMap (fun i =>
        bytesLE 8 (match c.others.find? (fun w => w.idx = i) with | some w => (w.diag c b).toNat | none => 0))
    ++ List.replicate 96 0#8

/-- The next free slot of a context's ring: the slots are filled in turn. -/
def State.diagSlot (s : State) (ctx : Nat) : Option Nat :=
  let n := Map.find (fun _ => 0) s.diagNext ctx
  ((List.range 64).map (fun k => (n + k) % 64)).find? (fun k => !(s.ctxReg ctx 0x28).getLsbD k)

/-- Write a record into the ring: the virtual address of its slot, or 0 where none can be written (R297). -/
def State.writeDiag (s : State) (die ctx : Nat) (rec : List Byte) : State × Nat :=
  let ring := (s.ctxReg ctx 0x20).toNat
  if ring = 0 then (s, 0)
  else
    match s.diagSlot ctx with
    | none => (s, 0)
    | some k =>
      match s.translate die ctx (ring + 256 * k) .store false with
      | .error _ => (s, 0)
      | .ok x =>
        let s1 := (s.touch x true).plainWrite (s.storeStamp 0 x.fpa 256) x.fpa rec
        let s2 := s1.setReg (ctxOff ctx 0x28) (putField (s1.ctxReg ctx 0x28) k 1 1)
        ({ s2 with diagNext := Map.put (fun _ => 0) s2.diagNext ctx ((k + 1) % 64) }, ring + 256 * k)

/-- The timer of a barrier has reached BARTO: it stops, and EXPIRED is set (R297). -/
def Barrier.expire (b : Barrier) : Barrier := { b with timer := none, expired := true }

/-- The record's slot is one that the device would write, and cannot write now (R181, R190, R199). -/
def State.diagWaits (s : State) (die ctx : Nat) : Bool :=
  let ring := (s.ctxReg ctx 0x20).toNat
  match s.diagSlot ctx with
  | none => false
  | some k =>
    match s.translate die ctx (ring + 256 * k) .store false with
    | .error _ => false
    | .ok x => ring != 0 && (!(s.readOpen x 256) || s.snapWaits x || !(s.stampDue (s.storeStamp 0 x.fpa 256)))

/-- `BARTO` (R287, R297): the record is captured and written, the event posted, and BARTO raised in the crew. -/
def execBarto (crew : Nat) (bar : Nat) (s : State) : Out :=
  match s.crewAt crew with
  | none => .next s
  | some c =>
    let i : BitVec 3 := BitVec.ofNat 3 bar
    let b := c.bar i
    match b.timer with
    | none => .next s
    | some t =>
      if c.state = .saved ∨ c.state = .ended ∨ 8 ≤ bar ∨ s.nanos < t + 1000 * s.barto c.ctx ∨ s.diagWaits (dieOf c.core) c.ctx then .next s
      else
        let rec' := c.diagRecord bar b s.nanos
        let p := s.writeDiag (dieOf c.core) c.ctx rec'
        let s1 := (p.1.post (.barto rec')).updCrew crew (fun c => c.setBar i (c.bar i).expire)
        let at' := match c.others.find? (fun w => w.waitsBar c bar) with | some w => some w.idx | none => (c.others.find? Wave.live).map (fun w => w.idx)
        match at' with
        | none => .next s1
        | some w => .next (s1.raiseAsync crew w .barto 0#64 (BitVec.ofNat 64 p.2) (BitVec.ofNat 64 (b.phase.toNat * 2 ^ 16 + bar)))

/-! ## The context watchdog (R288) -/

/-- What a live wave waits on: `some true` for an external object, `some false` for anything else, none if it does not wait. -/
def Wave.waitsOn (w : Wave) (c : Crew) : Option Bool :=
  if !w.live || w.stopped || w.barOver c then none
  else
    match w.block with
    | some (.qpop ext) => some ext
    | some (.xbar _ _ ext) => some ext
    | some .cwait => some true
    | some .gfence => some true
    | some .xchg => some true
    | some .snap => some true
    | some .snapWord => some true
    | some _ => some false
    | none => if !w.lmq.isEmpty || w.accs.any Access.left || w.mreq.isSome then some false else none

/-- The crews of a context whose waves run or wait. -/
def State.ctxCrews (s : State) (ctx : Nat) : List Crew :=
  s.allCrews.filter (fun c => c.ctx = ctx && (c.state = .running || c.state = .halted || c.state = .taking))

/-- NANOS since the watchdog of a context last restarted. -/
def State.wdAge (s : State) (ctx : Nat) : Nat := s.nanos - Map.find (fun _ => 0) s.wd ctx

def State.restartCtx (s : State) (ctx : Nat) : State :=
  { s with wd := Map.put (fun _ => 0) s.wd ctx s.nanos, wdStall := Map.put (fun _ => false) s.wdStall ctx false }

/-- `WATCHDOG` (R288): the watchdog reaches WDTIME while a wave waits on something other than an external object. WATCHDOG is raised in each crew
that has such a wave, at its lowest such wave, and the host is told. -/
def execWatchdog (ctx : Nat) (s : State) : Out :=
  let hit := (s.ctxCrews ctx).filterMap (fun c =>
    (c.others.find? (fun w => w.waitsOn c == some false)).map (fun w => (c.handle, w.idx)))
  if hit.isEmpty ∨ s.wdAge ctx < 1000 * s.wdtime ctx then .next s
  else
    let s1 := (s.restartCtx ctx).post (.watchdog ctx)
    .next (hit.foldl (fun s e => s.raiseAsync e.1 e.2 .watchdog 0#64 0#64 0#64) s1)

/-- `EXTERNAL_STALL` (R288): every waiting wave of the context waits on an external object for 10 times WDTIME; the host is told once. -/
def execExternalStall (ctx : Nat) (s : State) : Out :=
  let ws := (s.ctxCrews ctx).flatMap (fun c => c.others.filterMap (fun w => w.waitsOn c))
  if ws.isEmpty || ws.contains false || Map.find (fun _ => false) s.wdStall ctx || decide (s.wdAge ctx < 10000 * s.wdtime ctx) then .next s
  else .next ({ s with wdStall := Map.put (fun _ => false) s.wdStall ctx true }.post (.externalStall ctx))

/-! ## In-field tests (R289, R377) -/

/-- The cores of a quad that take part: COREIDs that are in use. -/
def State.quadCores (s : State) (quad : Nat) : List Nat :=
  ((List.range 4).map (fun k => 4 * quad + k)).filter (fun c => !(s.coreAt c).fenced)

/-- Every core of the quad is held for its test; a core that failed one stays held alone until its wear action (R377). -/
def State.quadTesting (s : State) (quad : Nat) : Bool :=
  !(s.quadCores quad).isEmpty && (s.quadCores quad).all (fun c => (s.coreAt c).testing)

/-- Eight hours in nanoseconds. -/
def testPeriod : Nat := 28800000000000

/-- NANOS at which a quad's test last fell due. -/
def State.testAt (s : State) (quad : Nat) : Nat := Map.find (fun _ => 0) s.links.testAt quad

def State.setTesting (s : State) (quad : Nat) (b : Bool) : State :=
  (s.quadCores quad).foldl (fun s c => s.updCore c (fun k => { k with testing := b })) s

/-- `INFIELD_TEST_DUE` (R289): a quad's test falls due every 8 hours, or after a check that names no row (R157): placement on it stops, and its
crews are pre-empted. -/
def execInfieldTestDue (quad : Nat) (s : State) : Out :=
  if 64 ≤ quad ∨ s.quadTesting quad ∨ (!(s.testDue.contains quad) ∧ s.nanos < s.testAt quad + testPeriod) then .next s
  else
    let s1 := s.setTesting quad true
    let s2 := { s1 with
      testDue := s1.testDue.filter (fun q => q != quad)
      links := { s1.links with testAt := Map.put (fun _ => 0) s1.links.testAt quad s1.nanos } }
    .next ((s2.quadCores quad).foldl (fun s core => (s.crewsAt core).foldl State.requestTest s) s2)

/-- Crews that still stand on a quad. -/
def State.quadCrews (s : State) (quad : Nat) : List Nat := (s.quadCores quad).flatMap s.crewsAt

/-- Withdraw a request that only an in-field test has made (R289). -/
def State.withdrawTest (s : State) (h : Nat) : State :=
  match (s.crewAt h).bind (fun c => c.preempt) with
  | some p => if p.test then s.withdraw h else s
  | none => s

/-- `TEST_POSTPONE` (R289): the wait for the quad's crews has lasted 10 ms: the test is postponed and the quad returns to service. -/
def execTestPostpone (quad : Nat) (s : State) : Out :=
  if !(s.quadTesting quad) || (s.quadCrews quad).isEmpty || decide (s.nanos < s.testAt quad + 10000000) then .next s
  else .next ((s.quadCrews quad).foldl State.withdrawTest (s.setTesting quad false))

/-- `INFIELD_TEST_END` (R289, R377): the quad returns to service; a named row or core waits for a step mark, a failed core out of service. -/
def execInfieldTestEnd (quad : Nat) (result : TestResult) (s : State) : Out :=
  if !(s.quadTesting quad) || !(s.quadCrews quad).isEmpty then .next s
  else
    let s1 := s.setTesting quad false
    match result with
    | .pass => .next s1
    | .row core => .next (if quadOf core = quad then s1.addWear (.row core) else s1)
    | .core core =>
      .next (if quadOf core = quad then (s1.updCore core (fun k => { k with testing := true })).addWear (.core core) else s1)

end Sys2Proof.Machine
end

