-- ==== Sys2Proof/Machine/Contexts.lean ====
section
/-! DEFINITION. Contexts and communicators as the host sets them up: creation and termination (R330, R413, R416), invalidation (R334), the
diagnostic ring (R297, R416) and communicator control (R257, R417). -/

namespace Sys2Proof.Machine

/-! ## Creation and termination (R330, R416) -/

/-- A write of 1 to ROOT.ENABLE: it creates a context that is not enabled, once the device is ready; its watchdog starts. -/
def State.createContext (s : State) (ctx : Nat) (v : Word) : State :=
  if s.ready ∧ ctx < 64 ∧ !(s.ctxEnabled ctx) then (s.setReg (ctxOff ctx 0) (v &&& 0x03FFFFFFFFFF0001#64)).restartCtx ctx
  else s

/-- `CONTEXT_CREATE` (R330, R413, R416). A write of 1 to ROOT.ENABLE creates the context with this root. -/
def execContextCreate (ctx : Nat) (value : Word) (s : State) : Out :=
  .next (if value.getLsbD 0 then s.createContext ctx value else s)

/-- The flows of a context end without draining (R274). -/
def State.dropFlows (s : State) (ctx : Nat) : State :=
  let mine := s.flows.filter (fun f => f.ctx = ctx)
  let s1 := mine.foldl (fun s f => (s.unbind f).post (.flowEnd f.ctx f.num)) s
  { s1 with flows := s1.flows.filter (fun f => f.ctx != ctx) }.dropReserved.sample

/-- The crews of a context end; what a saved crew held ends with it. -/
def State.dropCrews (s : State) (ctx : Nat) : State :=
  ((s.allCrews.filter (fun c => c.ctx = ctx && c.live)).map (fun c => c.handle)).foldl (fun s h => s.endCrewAt h (fun _ => none)) s

/-- The steps of R330: the context is not enabled any more, so the releases of its crews are dropped (R272); its crews and flows end, its
translations and pins go, and its ring and root are released. -/
def State.terminate (s : State) (ctx : Nat) : State :=
  if !(s.ctxEnabled ctx) then s
  else
    let s1 := s.setReg (ctxOff ctx 0) (s.ctxReg ctx 0 &&& 0xFFFFFFFFFFFFFFFE#64)
    let s2 := (s1.dropCrews ctx).dropFlows ctx
    let s3 := { s2 with
      tlb := s2.tlb.filter (fun e => e.ctx != ctx)
      pins := s2.pins.filter (fun p => p.2 != ctx)
      diagNext := Map.put (fun _ => 0) s2.diagNext ctx 0 }
    ((s3.setReg (ctxOff ctx 0x20) 0#64).setReg (ctxOff ctx 0x28) 0#64).setReg (ctxOff ctx 0) 0#64

/-- `CONTEXT_TERMINATE` (R330, R274). The host writes 0 to ROOT.ENABLE. -/
def execContextTerminate (ctx : Nat) (s : State) : Out := .next (if ctx < 64 then s.terminate ctx else s)

/-! ## Invalidation (R236, R334, R416) -/

/-- A page of `2 ^ bits` bytes meets the range of the context's invalidation. -/
def State.inInv (s : State) (ctx va bits : Nat) : Bool :=
  let ctl := s.ctxReg ctx 0x10
  let base := (s.ctxReg ctx 0x08).toNat
  ctl.getLsbD 62 || (decide (va / 2 ^ bits * 2 ^ bits < base + 65536 * getField ctl 0 40) && decide (base < (va / 2 ^ bits + 1) * 2 ^ bits))

/-- Step 3 of R334: matching entries go, and regions with a range in the invalidated range abort with INTERFERE. -/
def State.invalidateNow (s : State) (ctx : Nat) : State :=
  let s1 := { s with tlb := s.tlb.filter (fun e => !(e.ctx == ctx && s.inInv ctx (e.page * 2 ^ e.bits) e.bits)) }
  let page := fun (r : Region) (p : RPiece) => match s.lookup (dieOf r.core) ctx p.va with | .leaf l => l.bits | _ => 16
  let hit := s.regions.filter (fun r => r.active && r.ctx == ctx
    && r.pieces.any (fun p => s.inInv ctx p.va 16 || s.inInv ctx (p.va / 2 ^ page r p * 2 ^ page r p) (page r p)))
  hit.foldl (fun s r => s.abortRegion r.id 4) s1

/-- A write of INVCTL: ignored while DONE = 0. -/
def State.startInvalidate (s : State) (ctx : Nat) (v : Word) : State :=
  if ctx < 64 ∧ (s.ctxReg ctx 0x10).getLsbD 63 then (s.setReg (ctxOff ctx 0x10) (v &&& 0x400000FFFFFFFFFF#64)).invalidateNow ctx
  else s

/-- `INVALIDATE` (R334, R416). The host writes a range into the invalidation register. -/
def execInvalidate (ctx : Nat) (value : Word) (s : State) : Out := .next (s.startInvalidate ctx value)

/-- An access of the context that was translated before and has not performed: a store at its home, or a descriptor of a collective or
round whose end is still to be written, a line that a copy has still to store, or a write of the device's units that waits (R260, R322, R334).
A unit's write names no context, so it is waited for in each. -/
def State.translatedLeft (s : State) (ctx : Nat) : Bool :=
  !s.units.isEmpty || s.cmds.any (fun c => c.ctx == ctx && !c.pend.isEmpty)
    || s.allCrews.any (fun c => c.ctx == ctx && c.others.any (fun w => w.accs.any (fun a => match a.phase with | .asked _ => true | _ => false)))
    || s.fab.colls.any (fun c => c.ctx == ctx && s.inInv ctx c.descVa.toNat 16)
    || s.xch.rounds.any (fun r => r.ctx == ctx && !r.ended && r.tables.any (fun t =>
        (List.range ((t.1 % 65536 + t.2 + 65535) / 65536)).any (fun k => s.inInv ctx (t.1 / 65536 * 65536 + 65536 * k) 16)))

/-- `INVALIDATE_DONE` (R334, R260). Nothing translated through a removed entry is left: DONE is set. -/
def execInvalidateDone (ctx : Nat) (s : State) : Out :=
  if ctx < 64 ∧ !((s.ctxReg ctx 0x10).getLsbD 63) ∧ !(s.translatedLeft ctx) then
    .next (s.setReg (ctxOff ctx 0x10) (s.ctxReg ctx 0x10 ||| 0x8000000000000000#64))
  else .next s

/-! ## The diagnostic ring (R297, R416) -/

/-- The host frees slots of the ring: a 1 in a bit of DIAGOCC clears it. -/
def State.freeDiag (s : State) (ctx : Nat) (mask : Word) : State :=
  if ctx < 64 then s.setReg (ctxOff ctx 0x28) (s.ctxReg ctx 0x28 &&& ~~~mask) else s

/-- `DIAGOCC_FREE` (R297, R416). -/
def execDiagoccFree (ctx : Nat) (mask : Word) (s : State) : Out := .next (s.freeDiag ctx mask)

/-! ## Communicators (R257, R387, R417) -/

/-- A write of CCFG: setting CONFIGURED from 0 to 1 fills bank 0 from the slot list, tags it with GEN and makes it current. -/
def State.configure (s : State) (c : Nat) (v : Word) : State :=
  if 64 ≤ c then s
  else
    let was := (s.commCfg c).getLsbD 63
    let s1 := s.setReg (commOff c) (v &&& 0x800000000001FFFF#64)
    if !was && v.getLsbD 63 then ((s1.writeBank c 0 s.gen (s1.slotList c)).setCurBank c 0).restartRounds c else s1

/-- `COMM_CONFIGURE` (R257, R417). The host writes a communicator's configuration. -/
def execCommConfigure (comm : Nat) (value : Word) (s : State) : Out := .next (s.configure comm value)

end Sys2Proof.Machine
end

