-- ==== Sys2Proof/Machine/Fences.lean ====
section
/-! DEFINITION. The fences and `drainst` (R186, R207, R208). -/

namespace Sys2Proof.Machine

/-- A fence: it waits until `left` is false, and completes with `after` (R207). With a load-class fault of the wave found and not yet reported
the wave stops before it (R348). -/
def State.fence (s : State) (y : Bool) (left : State → Bool) (after : State → State) : Out :=
  s.onWave (fun s => if s.faultFound || left s then s.wait .other else (after s).advance y)

/-! ## What the rows of R186 name -/

/-- Lines of the wave's streaming copies that have landed and not taken their places. -/
def State.placesLeft (s : State) : Bool := s.cmds.any (fun c => c.crew = s.crew.handle ∧ c.wave = s.wave.idx ∧ c.tagged)

/-- The engine operation can reach another device: every command with a side in memory, and every accumulator operation but `mzero` and an `mma`
whose suspension has been reported. -/
def State.engineRemote (s : State) : Bool :=
  let h := s.crew.handle
  let i := s.wave.idx
  s.cmds.any (fun c => c.crew = h ∧ c.wave = i ∧ !((xcwOf c.xcw).srcLm && (xcwOf c.xcw).dstLm))
    || (s.coreAt s.crew.core).mops.any (fun m => m.crew = h ∧ m.wave = i ∧ (m.moves ∨ (m.kind = .mma ∧ m.stage ≠ .parked)))

/-- The packet carries data of a collective or an exchange. -/
def carries (p : Payload) : Bool := match p with | .coll _ => true | .xdata _ => true | .xend _ => true | _ => false

/-- Packets of the wave's collectives and rounds that have not gone or are not yet acknowledged. The packets name no wave: those of every
collective and round of the device are waited for. DESIGN CHOICE, log entry 106. -/
def State.packetsLeft (s : State) : Bool :=
  let h := s.crew.handle
  let i := s.wave.idx
  s.fab.colls.any (fun c => c.crew = h ∧ c.wave = i ∧ !c.sent)
    || s.xch.rounds.any (fun r => r.crew = h ∧ r.wave = i ∧ r.started ∧ !r.ended ∧ r.sends.any (fun q => !q.marked))
    || s.fab.sent.any (fun p => carries p.payload)

/-- Accesses and packets of the wave addressed to other devices (R186, `fence.gen`). -/
def State.genLeft (s : State) : Bool := s.remoteLeft || s.engineRemote || s.packetsLeft

/-! ## What stands before the wave's later accesses -/

/-- The wave's later accesses stand after its streaming accesses (R184, R186). -/
def State.afterStreams (s : State) : State :=
  s.setWave { s.wave with pts := Max.max s.wave.pts s.wave.streamClock, seen := [] }

/-- They stand after the writes of its engine commands. -/
def State.afterEngines (s : State) : State := s.raisePts s.wave.engClock

/-- Its LM stores from now on carry the clock of its ordinary accesses so far (R186, R188). -/
def State.fenceLm (s : State) : State := s.setWave { s.wave with lmFence := s.wave.pts }

/-- `fence.st` (R186). Waits until earlier streaming accesses have taken their places. -/
def execFenceSt (y : Bool) (s : State) : Out :=
  s.fence y (fun s => s.wave.streamsLeft || s.placesLeft) State.afterStreams

/-- `fence.lm` (R186). Waits for earlier LM accesses and ordinary stores. -/
def execFenceLm (y : Bool) (s : State) : Out :=
  s.fence y (fun s => !s.wave.lmq.isEmpty || s.wave.storesLeft) State.fenceLm

/-- `fence.engine` (R186). Waits for earlier copies, packing commands, mst and mld of the wave. -/
def execFenceEngine (y : Bool) (s : State) : Out :=
  s.fence y State.engineLeft State.afterEngines

/-- `fence.host` (R186). Waits until earlier host-memory stores are visible at the host. -/
def execFenceHost (y : Bool) (s : State) : Out :=
  s.fence y State.hostLeft State.afterStreams

/-- `fence.gen` (R186). Waits until no access to another device remains in flight. -/
def execFenceGen (y : Bool) (s : State) : Out :=
  s.fence y State.genLeft (fun s => s.afterStreams.afterEngines)

/-- `fence.all` (R186). Waits for everything in every fence row. -/
def execFenceAll (y : Bool) (s : State) : Out :=
  s.fence y (fun s => s.wave.accessesLeft || !s.wave.lmq.isEmpty || s.engineLeft || s.genLeft)
    (fun s => s.afterStreams.afterEngines.fenceLm)

/-- `drainst` (R208). Waits until earlier stores are performed or recorded. -/
def execDrainst (y : Bool) (s : State) : Out :=
  s.fence y (fun s => s.wave.storesLeft || (s.coreAt s.crew.core).mops.any (fun m => m.crew = s.crew.handle ∧ m.wave = s.wave.idx ∧ m.stores)) id

end Sys2Proof.Machine
end

