-- ==== Sys2Proof/Machine/FloatWords.lean ====
section
/-! DEFINITION. The floating-point, narrow-format and special-function words (R121 to R140). -/

namespace Sys2Proof.Machine

/-- A truth value with flags as a scalar (R124). -/
def boolResult (r : Bool × Flags) : Word × Flags := (ofBool64 r.1, r.2)

/-- An integer result as a scalar. -/
def wordInt (r : Int × Flags) : Word × Flags := (BitVec.ofInt 64 r.1, r.2)

/-- An operation on the two halves of a lane, with the flags of both (R129). -/
def pairs2 (f : Nat → Nat → Nat × Flags) (a b : Lane) : Lane × Flags :=
  let h := f (half true a).toNat (half true b).toNat
  let l := f (half false a).toNat (half false b).toNat
  (BitVec.ofNat 16 h.1 ++ BitVec.ofNat 16 l.1, h.2 ||| l.2)

/-- The same with D as a third operand. -/
def pairs3 (f : Nat → Nat → Nat → Nat × Flags) (a b d : Lane) : Lane × Flags :=
  let h := f (half true a).toNat (half true b).toNat (half true d).toNat
  let l := f (half false a).toNat (half false b).toNat (half false d).toNat
  (BitVec.ofNat 16 h.1 ++ BitVec.ofNat 16 l.1, h.2 ||| l.2)

/-- The two element pairs of a dot form (R135). -/
def halfPairs (f : Fmt) (a b : Lane) : List (Num × Num) :=
  [(f.decode (half false a).toNat, f.decode (half false b).toNat), (f.decode (half true a).toNat, f.decode (half true b).toNat)]

/-- The three directed roundings to an integer raise no inexact flag (R130). -/
def noInexact (r : Nat × Flags) : Lane × Flags := (BitVec.ofNat 32 r.1, r.2 &&& fNV)

/-- Entry `c` of codebook table `t` (R38, R88). -/
def Wave.codebook (w : Wave) (t c : Nat) : BitVec 16 := Map.find (fun _ => 0#16) w.cb (16 * t + c)

/-- `fadd` (R122). binary64 addition rounded by rnd. -/
def execFadd (y : Bool) (d : Reg) (a : Reg) (b : Reg) (s : State) : Out :=
  s.fscalar3 y d a b (fun m a b => pack 64 (binary64.fadd m a.toNat b.toNat))

/-- `fsub` (R122). binary64 subtraction rounded by rnd. -/
def execFsub (y : Bool) (d : Reg) (a : Reg) (b : Reg) (s : State) : Out :=
  s.fscalar3 y d a b (fun m a b => pack 64 (binary64.fsub m a.toNat b.toNat))

/-- `fmul` (R122). binary64 multiplication rounded by rnd. -/
def execFmul (y : Bool) (d : Reg) (a : Reg) (b : Reg) (s : State) : Out :=
  s.fscalar3 y d a b (fun m a b => pack 64 (binary64.fmul m a.toNat b.toNat))

/-- `fdiv` (R122). Correctly rounded binary64 division. -/
def execFdiv (y : Bool) (d : Reg) (a : Reg) (b : Reg) (s : State) : Out :=
  s.fscalar3 y d a b (fun m a b => pack 64 (binary64.fdiv m a.toNat b.toNat))

/-- `ffma` (R122). Fused binary64 a x b + S[D] with one rounding. -/
def execFfma (y : Bool) (d : Reg) (a : Reg) (b : Reg) (s : State) : Out :=
  s.fscalarAcc y d a b (fun m a b d => pack 64 (binary64.ffma m a.toNat b.toNat d.toNat))

/-- `fmin` (R123). binary64 minimum passing over NaNs. -/
def execFmin (y : Bool) (d : Reg) (a : Reg) (b : Reg) (s : State) : Out :=
  s.fscalar3 y d a b (fun _ a b => pack 64 (binary64.fminmax false a.toNat b.toNat))

/-- `fmax` (R123). binary64 maximum passing over NaNs. -/
def execFmax (y : Bool) (d : Reg) (a : Reg) (b : Reg) (s : State) : Out :=
  s.fscalar3 y d a b (fun _ a b => pack 64 (binary64.fminmax true a.toNat b.toNat))

/-- `feq` (R124). binary64 equality compare into S[D]. -/
def execFeq (y : Bool) (d : Reg) (a : Reg) (b : Reg) (s : State) : Out :=
  s.fscalar3 y d a b (fun _ a b => boolResult (binary64.feq a.toNat b.toNat))

/-- `flt` (R124). binary64 less-than compare into S[D]. -/
def execFlt (y : Bool) (d : Reg) (a : Reg) (b : Reg) (s : State) : Out :=
  s.fscalar3 y d a b (fun _ a b => boolResult (binary64.flt false a.toNat b.toNat))

/-- `fle` (R124). binary64 less-or-equal compare into S[D]. -/
def execFle (y : Bool) (d : Reg) (a : Reg) (b : Reg) (s : State) : Out :=
  s.fscalar3 y d a b (fun _ a b => boolResult (binary64.flt true a.toNat b.toNat))

/-- `fsqrt` (R125). binary64 square root rounded by rnd. -/
def execFsqrt (y : Bool) (d : Reg) (a : Reg) (s : State) : Out :=
  s.fscalar2 y d a (fun m a => pack 64 (binary64.fsqrt m a.toNat))

/-- `fabs` (R125). Clears bit 63 of S[A]. -/
def execFabs (y : Bool) (d : Reg) (a : Reg) (s : State) : Out :=
  s.fscalar2 y d a (fun _ a => (a &&& 0x7FFFFFFFFFFFFFFF#64, 0#6))

/-- `fneg` (R125). Inverts bit 63 of S[A]. -/
def execFneg (y : Bool) (d : Reg) (a : Reg) (s : State) : Out :=
  s.fscalar2 y d a (fun _ a => (a ^^^ 0x8000000000000000#64, 0#6))

/-- `fclass` (R126). Writes the one-hot class mask of a binary64 value. -/
def execFclass (y : Bool) (d : Reg) (a : Reg) (s : State) : Out :=
  s.fscalar2 y d a (fun _ a => (BitVec.ofNat 64 (binary64.classOf a.toNat), 0#6))

/-- `cvt.f64.i64` (R125). Converts signed 64-bit integer to binary64. -/
def execCvtF64I64 (y : Bool) (d : Reg) (a : Reg) (s : State) : Out :=
  s.fscalar2 y d a (fun m a => pack 64 (binary64.ofInt m a.toInt))

/-- `cvt.f64.n64` (R125). Converts unsigned 64-bit integer to binary64. -/
def execCvtF64N64 (y : Bool) (d : Reg) (a : Reg) (s : State) : Out :=
  s.fscalar2 y d a (fun m a => pack 64 (binary64.ofInt m a.toNat))

/-- `cvt.i64.f64` (R125). Converts binary64 to i64 under R84. -/
def execCvtI64F64 (y : Bool) (d : Reg) (a : Reg) (s : State) : Out :=
  s.fscalar2 y d a (fun m a => wordInt (Num.toInt m (binary64.decode a.toNat) (-9223372036854775808) 9223372036854775807))

/-- `cvt.n64.f64` (R125). Converts binary64 to n64 under R84. -/
def execCvtN64F64 (y : Bool) (d : Reg) (a : Reg) (s : State) : Out :=
  s.fscalar2 y d a (fun m a => wordInt (Num.toInt m (binary64.decode a.toNat) 0 18446744073709551615))

/-- `cvt.f32.f64` (R125). Rounds binary64 to binary32, zero-extended. -/
def execCvtF32F64 (y : Bool) (d : Reg) (a : Reg) (s : State) : Out :=
  s.fscalar2 y d a (fun m a => pack 64 (binary64.convert binary32 m a.toNat))

/-- `cvt.f64.f32` (R125). Widens binary32 in S[A][31:0] to binary64 exactly. -/
def execCvtF64F32 (y : Bool) (d : Reg) (a : Reg) (s : State) : Out :=
  s.fscalar2 y d a (fun m a => pack 64 (binary32.convert binary64 m (low32 a).toNat))

/-- `vfadd` (R127). Lane-wise binary32 addition. -/
def execVfadd (y : Bool) (d : Reg) (a : Reg) (b : Reg) (la : Bool) (lb : Bool) (s : State) : Out :=
  s.flane3 y d a b la lb (fun m a b => lane32 (binary32.fadd m a.toNat b.toNat))

/-- `vfsub` (R127). Lane-wise binary32 subtraction. -/
def execVfsub (y : Bool) (d : Reg) (a : Reg) (b : Reg) (la : Bool) (lb : Bool) (s : State) : Out :=
  s.flane3 y d a b la lb (fun m a b => lane32 (binary32.fsub m a.toNat b.toNat))

/-- `vfmul` (R127). Lane-wise binary32 multiplication. -/
def execVfmul (y : Bool) (d : Reg) (a : Reg) (b : Reg) (la : Bool) (lb : Bool) (s : State) : Out :=
  s.flane3 y d a b la lb (fun m a b => lane32 (binary32.fmul m a.toNat b.toNat))

/-- `vfmin` (R123). Lane-wise binary32 minimum. -/
def execVfmin (y : Bool) (d : Reg) (a : Reg) (b : Reg) (la : Bool) (lb : Bool) (s : State) : Out :=
  s.flane3 y d a b la lb (fun _ a b => lane32 (binary32.fminmax false a.toNat b.toNat))

/-- `vfmax` (R123). Lane-wise binary32 maximum. -/
def execVfmax (y : Bool) (d : Reg) (a : Reg) (b : Reg) (la : Bool) (lb : Bool) (s : State) : Out :=
  s.flane3 y d a b la lb (fun _ a b => lane32 (binary32.fminmax true a.toNat b.toNat))

/-- `vfma` (R127). Lane-wise fused binary32 a x b + d. -/
def execVfma (y : Bool) (d : Reg) (a : Reg) (b : Reg) (la : Bool) (lb : Bool) (s : State) : Out :=
  s.flaneAcc y d a b la lb (fun m a b d => lane32 (binary32.ffma m a.toNat b.toNat d.toNat))

/-- `vfeq` (R128). Lane-wise binary32 equality into a scalar triple. -/
def execVfeq (y : Bool) (d : Reg) (a : Reg) (b : Reg) (la : Bool) (lb : Bool) (s : State) : Out :=
  s.compare y d a b la lb (fun a b => (binary32.feq a.toNat b.toNat).1) (fun a b => (binary32.feq a.toNat b.toNat).2)

/-- `vflt` (R128). Lane-wise binary32 less-than into a scalar triple. -/
def execVflt (y : Bool) (d : Reg) (a : Reg) (b : Reg) (la : Bool) (lb : Bool) (s : State) : Out :=
  s.compare y d a b la lb (fun a b => (binary32.flt false a.toNat b.toNat).1) (fun a b => (binary32.flt false a.toNat b.toNat).2)

/-- `vfle` (R128). Lane-wise binary32 less-or-equal into a scalar triple. -/
def execVfle (y : Bool) (d : Reg) (a : Reg) (b : Reg) (la : Bool) (lb : Bool) (s : State) : Out :=
  s.compare y d a b la lb (fun a b => (binary32.flt true a.toNat b.toNat).1) (fun a b => (binary32.flt true a.toNat b.toNat).2)

/-- `vfadd.h2` (R129). Packed binary16 addition. -/
def execVfaddH2 (y : Bool) (d : Reg) (a : Reg) (b : Reg) (la : Bool) (lb : Bool) (s : State) : Out :=
  s.flane3 y d a b la lb (fun m a b => pairs2 (fun a b => binary16.fadd m a b) a b)

/-- `vfmul.h2` (R129). Packed binary16 multiplication. -/
def execVfmulH2 (y : Bool) (d : Reg) (a : Reg) (b : Reg) (la : Bool) (lb : Bool) (s : State) : Out :=
  s.flane3 y d a b la lb (fun m a b => pairs2 (fun a b => binary16.fmul m a b) a b)

/-- `vfma.h2` (R129). Packed binary16 fused multiply-add. -/
def execVfmaH2 (y : Bool) (d : Reg) (a : Reg) (b : Reg) (la : Bool) (lb : Bool) (s : State) : Out :=
  s.flaneAcc y d a b la lb (fun m a b d => pairs3 (fun a b d => binary16.ffma m a b d) a b d)

/-- `vfdot.h2` (R135). Exact dot of two binary16 pairs added to the binary32 lane, rounded once. -/
def execVfdotH2 (y : Bool) (d : Reg) (a : Reg) (b : Reg) (la : Bool) (lb : Bool) (s : State) : Out :=
  s.flaneAcc y d a b la lb (fun m a b d => lane32 (dot32 m d.toNat (halfPairs binary16 a b)))

/-- `vfadd.bf2` (R129). Packed bfloat16 addition. -/
def execVfaddBf2 (y : Bool) (d : Reg) (a : Reg) (b : Reg) (la : Bool) (lb : Bool) (s : State) : Out :=
  s.flane3 y d a b la lb (fun m a b => pairs2 (fun a b => bfloat16.fadd m a b) a b)

/-- `vfmul.bf2` (R129). Packed bfloat16 multiplication. -/
def execVfmulBf2 (y : Bool) (d : Reg) (a : Reg) (b : Reg) (la : Bool) (lb : Bool) (s : State) : Out :=
  s.flane3 y d a b la lb (fun m a b => pairs2 (fun a b => bfloat16.fmul m a b) a b)

/-- `vfma.bf2` (R129). Packed bfloat16 fused multiply-add. -/
def execVfmaBf2 (y : Bool) (d : Reg) (a : Reg) (b : Reg) (la : Bool) (lb : Bool) (s : State) : Out :=
  s.flaneAcc y d a b la lb (fun m a b d => pairs3 (fun a b d => bfloat16.ffma m a b d) a b d)

/-- `vfdot.bf2` (R135). Exact dot of two bfloat16 pairs added to the binary32 lane, rounded once. -/
def execVfdotBf2 (y : Bool) (d : Reg) (a : Reg) (b : Reg) (la : Bool) (lb : Bool) (s : State) : Out :=
  s.flaneAcc y d a b la lb (fun m a b d => lane32 (dot32 m d.toNat (halfPairs bfloat16 a b)))

/-- `vfabs` (R130). Clears the sign bit of each lane. -/
def execVfabs (y : Bool) (d : Reg) (a : Reg) (la : Bool) (s : State) : Out :=
  s.flane2 y d a la (fun _ a => (a &&& 0x7FFFFFFF#32, 0#6))

/-- `vfneg` (R130). Inverts the sign bit of each lane. -/
def execVfneg (y : Bool) (d : Reg) (a : Reg) (la : Bool) (s : State) : Out :=
  s.flane2 y d a la (fun _ a => (a ^^^ 0x80000000#32, 0#6))

/-- `vfclass` (R126). Writes the binary32 class mask of each lane. -/
def execVfclass (y : Bool) (d : Reg) (a : Reg) (la : Bool) (s : State) : Out :=
  s.flane2 y d a la (fun _ a => (BitVec.ofNat 32 (binary32.classOf a.toNat), 0#6))

/-- `vfrint` (R130). Rounds each lane to an integer by rnd. -/
def execVfrint (y : Bool) (d : Reg) (a : Reg) (la : Bool) (s : State) : Out :=
  s.flane2 y d a la (fun m a => lane32 (rint32 m a.toNat))

/-- `vffloor` (R130). Rounds each lane towards minus infinity. -/
def execVffloor (y : Bool) (d : Reg) (a : Reg) (la : Bool) (s : State) : Out :=
  s.flane2 y d a la (fun _ a => noInexact (rint32 .rdn a.toNat))

/-- `vfceil` (R130). Rounds each lane towards plus infinity. -/
def execVfceil (y : Bool) (d : Reg) (a : Reg) (la : Bool) (s : State) : Out :=
  s.flane2 y d a la (fun _ a => noInexact (rint32 .rup a.toNat))

/-- `vftrunc` (R130). Rounds each lane towards zero. -/
def execVftrunc (y : Bool) (d : Reg) (a : Reg) (la : Bool) (s : State) : Out :=
  s.flane2 y d a la (fun _ a => noInexact (rint32 .rtz a.toNat))

/-- `vrcp` (R132). Correctly rounded reciprocal on the special-function unit. -/
def execVrcp (y : Bool) (d : Reg) (a : Reg) (la : Bool) (s : State) : Out :=
  s.sfuWord y d [(a, la)] (fun s i => special 0 s.rm ((s.readV 0 a).getD i 0#32))

/-- `vrsq` (R132). Correctly rounded reciprocal square root. -/
def execVrsq (y : Bool) (d : Reg) (a : Reg) (la : Bool) (s : State) : Out :=
  s.sfuWord y d [(a, la)] (fun s i => special 1 s.rm ((s.readV 0 a).getD i 0#32))

/-- `vsqrt` (R132). Correctly rounded square root. -/
def execVsqrt (y : Bool) (d : Reg) (a : Reg) (la : Bool) (s : State) : Out :=
  s.sfuWord y d [(a, la)] (fun s i => special 2 s.rm ((s.readV 0 a).getD i 0#32))

/-- `vexp2` (R132). 2^a within 1 ulp. -/
def execVexp2 (y : Bool) (d : Reg) (a : Reg) (la : Bool) (s : State) : Out :=
  s.sfuWord y d [(a, la)] (fun s i => special 3 s.rm ((s.readV 0 a).getD i 0#32))

/-- `vlog2` (R132). log2 a within 1 ulp. -/
def execVlog2 (y : Bool) (d : Reg) (a : Reg) (la : Bool) (s : State) : Out :=
  s.sfuWord y d [(a, la)] (fun s i => special 4 s.rm ((s.readV 0 a).getD i 0#32))

/-- `vexp` (R132). e^a within 1 ulp. -/
def execVexp (y : Bool) (d : Reg) (a : Reg) (la : Bool) (s : State) : Out :=
  s.sfuWord y d [(a, la)] (fun s i => special 5 s.rm ((s.readV 0 a).getD i 0#32))

/-- `vlog` (R132). ln a within 1 ulp. -/
def execVlog (y : Bool) (d : Reg) (a : Reg) (la : Bool) (s : State) : Out :=
  s.sfuWord y d [(a, la)] (fun s i => special 6 s.rm ((s.readV 0 a).getD i 0#32))

/-- `vsin` (R132). sin a within 2 ulp. -/
def execVsin (y : Bool) (d : Reg) (a : Reg) (la : Bool) (s : State) : Out :=
  s.sfuWord y d [(a, la)] (fun s i => special 7 s.rm ((s.readV 0 a).getD i 0#32))

/-- `vcos` (R132). cos a within 2 ulp. -/
def execVcos (y : Bool) (d : Reg) (a : Reg) (la : Bool) (s : State) : Out :=
  s.sfuWord y d [(a, la)] (fun s i => special 8 s.rm ((s.readV 0 a).getD i 0#32))

/-- `vtanh` (R132). tanh a within 2 ulp. -/
def execVtanh (y : Bool) (d : Reg) (a : Reg) (la : Bool) (s : State) : Out :=
  s.sfuWord y d [(a, la)] (fun s i => special 9 s.rm ((s.readV 0 a).getD i 0#32))

/-- `vsigm` (R132). Logistic sigmoid within 2 ulp. -/
def execVsigm (y : Bool) (d : Reg) (a : Reg) (la : Bool) (s : State) : Out :=
  s.sfuWord y d [(a, la)] (fun s i => special 10 s.rm ((s.readV 0 a).getD i 0#32))

/-- `verf` (R132). erf a within 2 ulp. -/
def execVerf (y : Bool) (d : Reg) (a : Reg) (la : Bool) (s : State) : Out :=
  s.sfuWord y d [(a, la)] (fun s i => special 11 s.rm ((s.readV 0 a).getD i 0#32))

/-- `vfdiv` (R134). Correctly rounded binary32 division on the special-function unit. -/
def execVfdiv (y : Bool) (d : Reg) (a : Reg) (b : Reg) (la : Bool) (lb : Bool) (s : State) : Out :=
  s.sfuWord y d [(a, la), (b, lb)] (fun s i =>
    lane32 (binary32.fdiv s.rm ((s.readV 0 a).getD i 0#32).toNat ((s.readV 1 b).getD i 0#32).toNat))

/-- `vcbx` (R136). Expands 4-bit code j of each lane through codebook T into binary32. -/
def execVcbx (y : Bool) (d : Reg) (a : Reg) (j : BitVec 3) (t : BitVec 2) (s : State) : Out :=
  s.onWave (fun s => s.vectorWord y [(a, false)] (some d) (fun s =>
    let va := s.readV 0 a
    let r := fun i => lane32 (bfloat16.convert binary32 .rne (s.wave.codebook t.toNat (elem 4 (va.getD i 0#32) j.toNat)).toNat)
    let fl := s.laneFlags (fun i => (r i).2)
    ((s.writeV (s.wave.phys d) (fun i => (r i).1)).orFlags fl).advance y))

/-- `vnadd.nf0` (R138). Element-wise addition in the nf0 format. -/
def execVnaddNf0 (y : Bool) (d : Reg) (a : Reg) (b : Reg) (la : Bool) (lb : Bool) (s : State) : Out :=
  s.nf3 y 0 d a b la lb (fun f w m a b => nfAdd f w m a b)

/-- `vnmul.nf0` (R138). Element-wise multiplication in the nf0 format. -/
def execVnmulNf0 (y : Bool) (d : Reg) (a : Reg) (b : Reg) (la : Bool) (lb : Bool) (s : State) : Out :=
  s.nf3 y 0 d a b la lb (fun f w m a b => nfMul f w m a b)

/-- `vndot.nf0` (R139). Exact dot of nf0 elements added to the binary32 lane, rounded once. -/
def execVndotNf0 (y : Bool) (d : Reg) (a : Reg) (b : Reg) (la : Bool) (lb : Bool) (s : State) : Out :=
  s.nfAcc y 0 d a b la lb (fun f w m a b d => nfDot f w m a b d)

/-- `vncvt.nf0` (R140). Widens or narrows element j between nf0 and binary32. -/
def execVncvtNf0 (y : Bool) (d : Reg) (a : Reg) (e : Bool) (j : BitVec 3) (s : State) : Out :=
  s.nfConvert y 0 d a e j.toNat

/-- `vnadd.nf1` (R138). Element-wise addition in the nf1 format. -/
def execVnaddNf1 (y : Bool) (d : Reg) (a : Reg) (b : Reg) (la : Bool) (lb : Bool) (s : State) : Out :=
  s.nf3 y 1 d a b la lb (fun f w m a b => nfAdd f w m a b)

/-- `vnmul.nf1` (R138). Element-wise multiplication in the nf1 format. -/
def execVnmulNf1 (y : Bool) (d : Reg) (a : Reg) (b : Reg) (la : Bool) (lb : Bool) (s : State) : Out :=
  s.nf3 y 1 d a b la lb (fun f w m a b => nfMul f w m a b)

/-- `vndot.nf1` (R139). Exact dot of nf1 elements added to the binary32 lane, rounded once. -/
def execVndotNf1 (y : Bool) (d : Reg) (a : Reg) (b : Reg) (la : Bool) (lb : Bool) (s : State) : Out :=
  s.nfAcc y 1 d a b la lb (fun f w m a b d => nfDot f w m a b d)

/-- `vncvt.nf1` (R140). Widens or narrows element j between nf1 and binary32. -/
def execVncvtNf1 (y : Bool) (d : Reg) (a : Reg) (e : Bool) (j : BitVec 3) (s : State) : Out :=
  s.nfConvert y 1 d a e j.toNat

/-- `vnadd.nf2` (R138). Element-wise addition in the nf2 format. -/
def execVnaddNf2 (y : Bool) (d : Reg) (a : Reg) (b : Reg) (la : Bool) (lb : Bool) (s : State) : Out :=
  s.nf3 y 2 d a b la lb (fun f w m a b => nfAdd f w m a b)

/-- `vnmul.nf2` (R138). Element-wise multiplication in the nf2 format. -/
def execVnmulNf2 (y : Bool) (d : Reg) (a : Reg) (b : Reg) (la : Bool) (lb : Bool) (s : State) : Out :=
  s.nf3 y 2 d a b la lb (fun f w m a b => nfMul f w m a b)

/-- `vndot.nf2` (R139). Exact dot of nf2 elements added to the binary32 lane, rounded once. -/
def execVndotNf2 (y : Bool) (d : Reg) (a : Reg) (b : Reg) (la : Bool) (lb : Bool) (s : State) : Out :=
  s.nfAcc y 2 d a b la lb (fun f w m a b d => nfDot f w m a b d)

/-- `vncvt.nf2` (R140). Widens or narrows element j between nf2 and binary32. -/
def execVncvtNf2 (y : Bool) (d : Reg) (a : Reg) (e : Bool) (j : BitVec 3) (s : State) : Out :=
  s.nfConvert y 2 d a e j.toNat

/-- `vnadd.nf3` (R138). Element-wise addition in the nf3 format. -/
def execVnaddNf3 (y : Bool) (d : Reg) (a : Reg) (b : Reg) (la : Bool) (lb : Bool) (s : State) : Out :=
  s.nf3 y 3 d a b la lb (fun f w m a b => nfAdd f w m a b)

/-- `vnmul.nf3` (R138). Element-wise multiplication in the nf3 format. -/
def execVnmulNf3 (y : Bool) (d : Reg) (a : Reg) (b : Reg) (la : Bool) (lb : Bool) (s : State) : Out :=
  s.nf3 y 3 d a b la lb (fun f w m a b => nfMul f w m a b)

/-- `vndot.nf3` (R139). Exact dot of nf3 elements added to the binary32 lane, rounded once. -/
def execVndotNf3 (y : Bool) (d : Reg) (a : Reg) (b : Reg) (la : Bool) (lb : Bool) (s : State) : Out :=
  s.nfAcc y 3 d a b la lb (fun f w m a b d => nfDot f w m a b d)

/-- `vncvt.nf3` (R140). Widens or narrows element j between nf3 and binary32. -/
def execVncvtNf3 (y : Bool) (d : Reg) (a : Reg) (e : Bool) (j : BitVec 3) (s : State) : Out :=
  s.nfConvert y 3 d a e j.toNat

end Sys2Proof.Machine
end

