-- ==== Sys2Proof/Machine/Membership.lean ====
section
/-! DEFINITION. Membership and cloning (R338, R379 to R399): heartbeats, suspicion, the leader's part, the adoption of generations,
snapshot views and Updraft. -/

namespace Sys2Proof.Machine

def State.setMemb (s : State) (m : Memb) : State := { s with memb := m }
def State.me (s : State) : Nat := s.devid.toNat

/-- PODLEAD or LEADERS names no leader: the two devices are one, which R379 rules out for a leader and its standby. -/
def State.noLeader (s : State) : Bool := s.leader == s.standby
def State.isLeader (s : State) : Bool := s.ready && !s.noLeader && s.leader == s.me
def State.isStandby (s : State) : Bool := s.ready && !s.noLeader && s.standby == s.me

/-- The pod's members, this device among them. -/
def State.allMembers (s : State) : List Nat := insertNat s.members s.me

/-! ## Roles (R379, R390) -/

def mroleOff : Nat := 0x130000

/-- MROLE after a change of roles; JGEN is set where the device has just become a member. -/
def State.setRoles (s : State) (member spare cloning : Bool) (join : Option (BitVec 16)) : State :=
  let r0 := s.reg mroleOff
  let r1 := putField (putField r0 0 1 (if member then 1 else 0)) 1 1 (if s.isLeader then 1 else 0)
  let r2 := putField (putField r1 2 1 (if s.isStandby then 1 else 0)) 3 1 (if spare then 1 else 0)
  let r3 := putField r2 4 1 (if cloning then 1 else 0)
  s.setReg mroleOff (match join with | some g => putField r3 16 16 g.toNat | none => r3)

def State.isSpareNow (s : State) : Bool := (s.reg mroleOff).getLsbD 3
def State.isMemberNow (s : State) : Bool := (s.reg mroleOff).getLsbD 0

/-! ## Snapshot views (R338) -/

/-- The views of a spare are released (R338, R393). -/
def State.releaseViews (s : State) (spare : Nat) : State :=
  let m := { s.memb with
    toOpen := s.memb.toOpen.filter (fun v => v.spare != spare)
    viewSince := if (s.views.filter (fun v => v.spare != spare)).isEmpty then none else s.memb.viewSince }
  ({ s with views := s.views.filter (fun v => v.spare != spare), memb := m }).releaseHeld

/-- `VIEW_RELEASE` (R338). A snapshot view is released and waiting writes perform in order. -/
def execViewRelease (spare : Nat) (s : State) : Out := .next (s.releaseViews spare)

/-! ## Clone plans (R391, R392) -/

/-- An extent of a plan: offset, length and replicas; none where it breaks R392. -/
def extentOf (bs : List Byte) : Option (Nat × Nat × List Nat) :=
  let f := fun off n => ofBytesLE ((bs.drop off).take n)
  let nrep := f 0x10 1
  let zero := fun (l : List Byte) => l.all (fun b => b == 0#8)
  if f 0 8 % 2 ^ 20 = 0 ∧ f 8 8 ≠ 0 ∧ f 8 8 % 2 ^ 20 = 0 ∧ f 0 8 + f 8 8 ≤ hbmBytes ∧ 1 ≤ nrep ∧ nrep ≤ 8
      ∧ zero ((bs.drop 0x11).take 7) ∧ zero ((bs.drop (0x18 + 2 * nrep)).take (16 - 2 * nrep)) ∧ zero ((bs.drop 0x28).take 24) then
    some (f 0 8, f 8 8, (List.range nrep).map (fun k => f (0x18 + 2 * k) 2))
  else none

/-- The extents of a plan of 4 KiB; none where it breaks R392. -/
def planOf (bs : List Byte) : Option (List (Nat × Nat × List Nat)) :=
  let n := ofBytesLE (bs.take 2)
  if n = 0 ∨ 63 < n ∨ !(((bs.drop 2).take 62).all (fun b => b == 0#8)) then none
  else
    let es := (List.range n).filterMap (fun e => extentOf ((bs.drop (0x40 * (e + 1))).take 0x40))
    let clash := es.zipIdx.any (fun a => es.zipIdx.any (fun b => a.2 < b.2 && overlaps a.1.1 a.1.2.1 b.1.1 b.1.2.1))
    if es.length < n || clash then none else some es

/-- The plan page of a device in the leader's table (R391): the index of its group in the pod-membership register gives its place. The
table's address is a virtual address of context 0. -/
def State.planPage (s : State) (dev : Nat) : List Byte :=
  match (s.podGroups.zipIdx.find? (fun e => e.1 = dev / 32)).map (fun e => e.2) with
  | none => []
  | some g =>
    let va := (s.reg 0x130100).toNat + 4096 * (32 * g + dev % 32)
    match s.enginePieces 0 0 va 4096 .load with
    | .error _ => []
    | .ok ps => s.pieceBytes ps

/-! ## Adoption (R385, R388) -/

/-- A device outside the new set is expelled in this device's view; members carry the new generation (R268), and the silence of one that becomes a
heartbeat peer counts from now (R388). -/
def State.viewMembers (s : State) (gen : BitVec 16) (members : List Nat) : State :=
  let s1 := members.foldl (fun s d =>
    let p := s.peer d
    s.setPeer d (if p.expelled then ⟨s.nanos, 0, false, false, gen, false, 0⟩
      else if s.hbPeers.contains d then { p with lgen := gen } else { p with last := s.nanos, lgen := gen })) s
  (s.members.filter (fun d => !members.contains d)).foldl (fun s d => s.setPeer d { s.peer d with expelled := true }) s1

/-- The clone on this spare fails (R395): the leader is told. -/
def State.failClone (s : State) (c : Clone) : State :=
  let s1 := (s.setMemb { s.memb with clone := none }).setReg 0x130018 (putField (s.reg 0x130018) 0 2 0)
  let s2 := s1.setReg mroleOff (putField (s1.reg mroleOff) 4 1 0)
  (s2.post (.cloneFailed c.lost)).sendPacket s.leader (.cloned c.lost false) false

/-- Every extent of a clone that still lacks stripes has a replica that is a member (R395). -/
def State.cloneOpen (s : State) (c : Clone) : Bool :=
  (c.extents.foldl (fun (acc : Bool × Nat) e =>
    let n := e.2.1 / 2 ^ 20
    (acc.1 && (e.2.2.any s.isMember || decide (n ≤ c.done.countP (fun k => acc.2 ≤ k ∧ k < acc.2 + n))), acc.2 + n)) (true, 0)).1

/-- Start, keep or end this spare's clone as a notice says (R391, R395, R396). -/
def State.followClone (s : State) (n : Notice) (wasSpare : Bool) : State :=
  match n.assigned.find? (fun a => a.2 = s.me) with
  | some a =>
    match s.memb.clone.filter (fun c => c.lost == a.1) with
    | some c => if s.cloneOpen c then s else s.failClone c
    | none =>
      match (n.plans.find? (fun p => p.1 = a.1)).bind (fun p => planOf p.2) with
      | none => (s.setMemb { s.memb with clone := none }).post (.badPlan a.1)
      | some es =>
        let es' := if n.retiring.contains a.1 then es.map (fun e => (e.1, e.2.1, a.1 :: e.2.2)) else es
        let total := (es.map (fun e => e.2.1 / 2 ^ 20)).sum
        ({ s with memb := { s.memb with clone := some ⟨a.1, es', [], []⟩ } }).setReg 0x130018 (BitVec.ofNat 64 (total * 2 ^ 24 + 1))
  | none =>
    match s.memb.clone with
    | none => s
    | some _ =>
      let s1 := s.setMemb { s.memb with clone := none }
      if wasSpare && !(n.spares.contains s.me) then
        (s1.setReg 0x130018 (putField (s1.reg 0x130018) 0 2 3)).post (.joined s.me)
      else s1.setReg 0x130018 (putField (s1.reg 0x130018) 0 2 0)

/-- The views that the leader has this replica open at its next step mark (R393, R399), and those of assignments that are over. -/
def State.followViews (s : State) (n : Notice) : State :=
  let fresh := n.assigned.filter (fun a => !(s.memb.assigned.contains a))
  let gone := s.memb.assigned.filter (fun a => !(n.assigned.contains a))
  let s1 := gone.foldl (fun s a => s.releaseViews a.2) s
  let views := fresh.flatMap (fun a =>
    match (n.plans.find? (fun p => p.1 = a.1)).bind (fun p => planOf p.2) with
    | none => []
    | some es => (es.filter (fun e => e.2.2.contains s.me || (a.1 == s.me && n.retiring.contains a.1))).map (fun e => View.mk a.2 e.1 e.2.1))
  s1.setMemb { s1.memb with toOpen := s1.memb.toOpen ++ views, assigned := n.assigned }

/-- What a device outside the member set has asked of this home is never performed (R255), and it holds no line any more. -/
def State.forgetLost (s : State) : State :=
  let gone := fun (o : Option Owner) =>
    match o with | some (.peer d) => !(s.isMember d) | some (.recalled d) => !(s.isMember d) | _ => false
  let theirs := fun (w : Waiting) => match w with | .peer src _ => !(s.isMember src) | _ => false
  let s1 := s.lines.foldl (fun s e => if gone e.2.owner then s.setLine e.1 { e.2 with owner := none } else s) s
  let s2 := (s.memb.held.filter theirs).foldl (fun s _ => s.countReject) s1
  (s2.setMemb { s2.memb with held := s2.memb.held.filter (fun w => !theirs w) }).releaseHeld

/-- A member adopts a notice that includes it, in the order of R385. -/
def State.adopt (s : State) (n : Notice) : State :=
  let wasSpare := s.isSpareNow
  let wasMember := s.isMemberNow
  -- step 1: the standby banks, and the slot lists
  let s1 := n.slots.foldl (fun s e =>
    if s.configured e.1 then
      let m := e.2.zipIdx.foldl (fun m k => Map.put (fun _ => 0#16) m (65536 * e.1 + k.2) k.1) s.fab.slots
      { s with fab := { s.fab with slots := m } }.writeBank e.1 (1 - s.curBank e.1) n.gen e.2
    else s) s
  -- step 2: the member set
  let others := n.members.filter (fun d => d != s.me)
  let s2 := { s1.viewMembers n.gen others with members := others }
  -- step 3: GEN; collectives and rounds of the old generation end
  let s3 := ({ s2 with gen := n.gen }.endColls 1).endRounds 1
  let s4 := ({ s3 with fab := { s3.fab with collIn := [], collCount := [], tx := [], sent := [], rx := [], tagFails := [] } }).forgetLost
  let s5 := s4.setXch { s4.xch with
    grants := [], posts := [], reports := [], cals := [], data := [], ends := [], arbGen := n.arbGen,
    gone := [], inputs := [], stops := [], placed := [], taken := false, acting := n.leader.toNat == s.me }
  let s6 := (s5.setReg 0x130008 (BitVec.ofNat 64 (n.leader.toNat + n.standby.toNat * 65536))).setReg 0x10008
    (putField (s5.reg 0x10008) 16 6 n.split)
  let spare := n.spares.contains s.me
  let cloning := n.assigned.any (fun a => a.2 = s.me)
  let s7 := s6.setRoles true spare cloning (if !wasMember || (wasSpare && !spare) then some n.gen else none)
  let s8 := if n.retiring.contains s.me then s7.setReg svcOff (putField (putField (s7.reg svcOff) 0 3 3) 3 1 0) else s7
  let s9 := ((s8.setMemb { s8.memb with spares := n.spares, retiring := n.retiring }).followViews n).followClone n wasSpare
  -- step 4: the acknowledgement and the keys
  let s10 := { s9 with fab := { s9.fab with keys := s9.fab.keys.filter (fun k => k.2 = n.gen) } }.tell (.acknowledge n.leader.toNat n.gen)
  others.foldl (fun s d => s.tell (.key d n.gen)) s10

/-- The device has been removed (R388). -/
def State.remove (s : State) : State :=
  let s1 := (s.endColls 2).endRounds 2
  let s2 := s1.setReg mroleOff (putField (putField (s1.reg mroleOff) 7 1 1) 0 5 0)
  { s2 with members := [] }.post .removed

/-- `GENERATION_NOTICE` (R385, R388). A member adopts a newer notice that includes it; one that omits it removes it. -/
def execGenerationNotice (n : Notice) (s : State) : Out :=
  let ahead := (n.gen - s.gen).toNat
  if !s.ready ∨ ahead = 0 ∨ 32768 ≤ ahead ∨ (s.reg mroleOff).getLsbD 7 then .next s
  else if n.members.contains s.me then .next (s.adopt n)
  else .next s.remove

/-- Heartbeat peers from which nothing has come for 1 ms. -/
def State.silentPeers (s : State) : Nat := s.hbPeers.countP (fun d => (s.peer d).last + 1000000 ≤ s.nanos)

/-- `REMOVAL` (R388). The device learns that it has been removed, from a notice or from the silence of more than half of its peers. -/
def execRemoval (notice : Bool) (s : State) : Out :=
  if (s.reg mroleOff).getLsbD 7 || !s.memb.up then .next s
  else if notice || decide (s.hbPeers.length < 2 * s.silentPeers) then .next s.remove
  else .next s

/-! ## Heartbeats and beacons (R380 to R382) -/

/-- Tell the leader and the standby leader of a suspicion or of its withdrawal (R382). -/
def State.report (s : State) (target : Nat) (withdraw : Bool) : State :=
  (s.tell (.suspicion s.leader target withdraw)).tell (.suspicion s.standby target withdraw)

/-- The leader's probe of a suspected device (R383), once enough reports stand; the standby leader probes the leader (R386). -/
def State.considerProbe (s : State) (target : Nat) : State :=
  let rs := ((s.memb.reports.filter (fun r => r.2 = target)).map (fun r => r.1)).eraseDups
  let outside := rs.any (fun r => r / 32 != target / 32)
  let group := s.allMembers.filter (fun d => d / 32 = target / 32 && d != target)
  let enough := outside && (decide (3 ≤ rs.length) || (decide (group.length < 3) && group.all (fun d => rs.contains d)))
  let mine := s.isLeader || (s.isStandby && target == s.leader)
  if mine && enough && s.isMember target && !(s.memb.probes.any (fun p => p.1 = target)) && !(s.memb.leaving.contains target) then
    (s.setMemb { s.memb with probes := s.memb.probes ++ [(target, s.nanos)] }).tell (.probe target)
  else s

/-- A suspicion report or its withdrawal at the leader or the standby leader (R382, R383). -/
def State.takeSuspicion (s : State) (reporter target : Nat) (withdraw : Bool) : State :=
  if !s.isLeader && !s.isStandby then s
  else
    let rest := s.memb.reports.filter (fun r => r != (reporter, target))
    if withdraw then s.setMemb { s.memb with reports := rest }
    else (s.setMemb { s.memb with reports := rest ++ [(reporter, target)] }).considerProbe target

/-- `SUSPICION_REPORT` (R383). A suspicion report or withdrawal reaches the leader, which may probe. -/
def execSuspicionReport (reporter : Nat) (target : Nat) (withdraw : Bool) (s : State) : Out :=
  .next (s.takeSuspicion reporter target withdraw)

/-- The pod registers as they are taken at bring-up, before the first heartbeat (R250, R379, R415). -/
def State.bringUp (s : State) : State :=
  let spares := (List.range 32).filterMap (fun k =>
    let r := s.reg (0x10100 + 8 * k)
    if r.getLsbD 16 then some (r.toNat % 65536) else none)
  let s1 := { s with pod := some s.podGroups }.setReg 0x130008 (s.reg 0x10050 &&& 0xFFFFFFFF#64)
  let s2 := s1.setMemb { s1.memb with up := true, hbPeriod := s.nanos / 20000, spares := spares }
  let s3 := (s2.setXch { s2.xch with acting := s2.isLeader }).setRoles true (spares.contains s.me) false (some s.gen)
  if s3.noLeader then s3.post .noLeader else s3

/-- One peer at the end of a heartbeat period (R382). -/
def State.periodPeer (s : State) (d : Nat) : State :=
  let p := s.peer d
  if p.heard then s.setPeer d { p with heard := false }
  else
    let miss := p.miss + 1
    if miss = 5 then
      let s1 := (s.setPeer d { p with miss := miss, suspected := true }).report d false
      s1.takeSuspicion s1.me d false
    else s.setPeer d { p with miss := miss }

/-- The leader and the standby leader are lost in this device's view (R386): suspected, or outside the member set. -/
def State.leadersGone (s : State) : Bool :=
  let gone := fun (d : Nat) => d != s.me && (!(s.isMember d) || (s.peer d).suspected)
  !s.noLeader && gone s.leader && gone s.standby

/-- `HEARTBEAT_PERIOD` (R381, R382, R407). Each 20 microseconds a member counts misses and sends heartbeats; the first of them brings the
membership unit up. -/
def execHeartbeatPeriod (s : State) : Out :=
  if !s.ready || (s.reg mroleOff).getLsbD 7 || (s.memb.up && decide (s.nanos / 20000 ≤ s.memb.hbPeriod)) then .next s
  else
    let s1 := if s.memb.up then s.hbPeers.foldl (fun s d => s.periodPeer d) (s.setMemb { s.memb with hbPeriod := s.nanos / 20000 })
      else s.bringUp
    let s2 := if s.memb.up && s1.leadersGone && !s.leadersGone then s1.post .noLeader else s1
    let svc := (s2.reg svcOff).toNat
    .next (s2.hbPeers.foldl (fun s d => s.tell (.heartbeat d s.gen svc s.floor s.xch.slot)) s2)

/-- `HEARTBEAT` (R381, R382). A heartbeat clears misses, withdraws a suspicion, shows a link partner, and keeps the clocks in step. -/
def execHeartbeat (dev : Nat) (gen : BitVec 16) (svc : Nat) (floor : Nat) (slotClock : Nat) (s : State) : Out :=
  if !s.ready || dev == s.me then .next s
  else
    let p := s.peer dev
    let s1 := s.setPeer dev { p with last := s.nanos, miss := 0, heard := true, suspected := false, svc := svc }
    let s2 := if p.suspected then (s1.report dev true).takeSuspicion s1.me dev true else s1
    let partners := if dev / 32 = s.me / 32 ∨ s.memb.partners.contains dev then s2.memb.partners else insertNat s2.memb.partners dev
    let s3 := { s2.setMemb { s2.memb with partners := partners } with floor := Max.max s.floor floor }
    let _ := gen
    .next (if s3.xch.slot < slotClock then s3.setXch { s3.xch with slot := slotClock, slotAt := s3.nanos } else s3)

/-- Members from which a beacon has come within the last 2 ms, the leader itself among them (R380). -/
def State.quorum (s : State) : Bool :=
  let heard := s.members.countP (fun d => s.memb.beacons.any (fun b => b.1 = d ∧ s.nanos < b.2 + 2000000))
  decide (s.members.length + 1 < 2 * (heard + 1))

/-- `BEACON_PERIOD` (R380). Each 1 ms a member sends a beacon, and the leader reassesses its quorum and reports its loss. -/
def execBeaconPeriod (s : State) : Out :=
  if !s.memb.up || decide (s.nanos / 1000000 ≤ s.memb.beaconPeriod) then .next s
  else
    let suspects := s.hbPeers.filter (fun d => (s.peer d).suspected)
    let svc := (s.reg svcOff).toNat
    let s1 := ((s.setMemb { s.memb with beaconPeriod := s.nanos / 1000000 }).tell (.beacon s.leader svc suspects)).tell (.beacon s.standby svc suspects)
    if s1.isLeader then
      if s1.quorum then .next (s1.setMemb { s1.memb with quorumLost := false })
      else if s1.memb.quorumLost then .next s1
      else .next ((s1.setMemb { s1.memb with quorumLost := true }).post .noQuorum)
    else .next s1

/-- `BEACON` (R380). A beacon reaches the leader or standby leader: a device of the pod that has never been expelled and is no member yet
will join. -/
def execBeacon (dev : Nat) (svc : Nat) (suspects : List Nat) (s : State) : Out :=
  if !s.isLeader && !s.isStandby then .next s
  else
    let m := { s.memb with beacons := (s.memb.beacons.filter (fun b => b.1 != dev)) ++ [(dev, s.nanos)] }
    let s1 := (s.setMemb m).setPeer dev { s.peer dev with svc := svc }
    let new := !(s.isMember dev) && dev != s.me && s.podGroups.contains (dev / 32) && !(s.peer dev).expelled
      && !(s.memb.joining.any (fun j => j.1 = dev))
    let s2 := if new then s1.setMemb { s1.memb with joining := s1.memb.joining ++ [(dev, dev)] } else s1
    .next (suspects.foldl (fun s t => s.takeSuspicion dev t false) s2)

/-! ## Expulsion (R383) -/

/-- A member's expulsion is confirmed: the next notice covers it. -/
def State.expel (s : State) (dev : Nat) : State :=
  let m := { s.memb with
    reports := s.memb.reports.filter (fun r => r.2 != dev)
    probes := s.memb.probes.filter (fun p => p.1 != dev)
    answers := s.memb.answers.filter (fun p => p.1 != dev)
    leaving := if s.isMember dev then insertNat s.memb.leaving dev else s.memb.leaving }
  s.setMemb m

/-- `PROBE_TIMEOUT` (R383). A probe unanswered for 20 microseconds confirms the expulsion. -/
def execProbeTimeout (target : Nat) (s : State) : Out :=
  if s.memb.probes.any (fun p => p.1 = target ∧ p.2 + 20000 ≤ s.nanos) then .next (s.expel target) else .next s

/-- `PROBE_ANSWER` (R383). The reports are discarded, with a link event; the third answer within 10 ms expels the device. -/
def execProbeAnswer (target : Nat) (s : State) : Out :=
  if s.memb.probes.all (fun p => p.1 != target) then .next s
  else
    let answers := (s.memb.answers.filter (fun a => s.nanos < a.2 + 10000000)) ++ [(target, s.nanos)]
    let m := { s.memb with
      reports := s.memb.reports.filter (fun r => r.2 != target)
      probes := s.memb.probes.filter (fun p => p.1 != target)
      answers := answers }
    let s1 := (s.setMemb m).post (.unreachable target)
    .next (if 3 ≤ answers.countP (fun a => a.1 = target) then s1.expel target else s1)

/-- `FAILURE_DECLARATION` (R383, R386). A device that declares its own failure is expelled without reports: by the leader, or the leader itself by
the standby leader. -/
def execFailureDeclaration (dev : Nat) (s : State) : Out :=
  .next (if s.isLeader || (s.isStandby && dev == s.leader) then s.expel dev else s)

/-- A device that RETIREREQ may name (R390). -/
def State.retirable (s : State) (dev : Nat) : Bool := s.allMembers.contains dev && !(s.memb.spares.contains dev)

/-- A write of RETIREREQ (R390): on the leader the device is expelled at once, or its planned handoff starts. The leader leaves its own expulsion to
the standby leader (R386). -/
def State.retire (s : State) (dev : Nat) (force : Bool) : State :=
  if !s.isLeader then s
  else if !s.retirable dev then s.post (.retireIgnored dev)
  else if force then (if dev = s.me then s.tell (.failure s.standby dev) else s.expel dev)
  else s.setMemb { s.memb with handoffs := insertNat s.memb.handoffs dev }

/-- `RETIRE_FORCE` (R383, R390). The leader expels the device at once. -/
def execRetireForce (dev : Nat) (s : State) : Out := .next (s.retire dev true)

/-- `RETIRE_HANDOFF` (R390, R399). A planned handoff starts. -/
def execRetireHandoff (dev : Nat) (s : State) : Out := .next (s.retire dev false)

/-! ## Issuing a generation (R384, R387, R391) -/

/-- The free spare for a device: the lowest of its group, or else of the pod (R391). -/
def freeSpare (spares taken : List Nat) (dev : Nat) : Option Nat :=
  let free := spares.filter (fun d => !taken.contains d)
  let least := fun (l : List Nat) => match l with | [] => none | x :: xs => some (xs.foldl Min.min x)
  match least (free.filter (fun d => d / 32 = dev / 32)) with | some d => some d | none => least free

/-- Assign spares to devices that have none, one after another. The order of the devices is DESIGN CHOICE, log entry 128. -/
def assignAll (spares : List Nat) (devs : List Nat) (held : List (Nat × Nat)) : List (Nat × Nat) :=
  devs.foldl (fun acc d =>
    if acc.any (fun a => a.1 = d) then acc
    else match freeSpare spares (acc.map (fun a => a.2)) d with | some x => acc ++ [(d, x)] | none => acc) held

/-- A slot after the departures and joins of a notice (R387). -/
def State.bindSlot (s : State) (c k : Nat) (leave : List Nat) (joins : List (Nat × Nat)) : BitVec 16 :=
  let d := (s.slotDev c k).toNat
  let joined := joins.find? (fun j => j.1 != j.2 && (j.2 == d || s.memb.vacated.contains (j.2, c, k)))
  match joined with
  | some j => BitVec.ofNat 16 j.1
  | none => if leave.contains d then vacant else s.slotDev c k

/-- The standby leader of a notice: the present one, or the eligible member with the lowest DEVID in another group (R379, R386). -/
def State.pickStandby (s : State) (members spares retiring : List Nat) (leader : Nat) : Nat :=
  if members.contains s.standby && s.standby != leader then s.standby
  else
    let ok := members.filter (fun d => d / 32 != leader / 32 && !(spares.contains d) && !(retiring.contains d) && (s.peer d).svc % 8 == 0)
    match ok with | [] => leader | x :: xs => xs.foldl Min.min x

/-- The next notice (R384). -/
def State.nextNotice (s : State) : Notice :=
  let m := s.memb
  let joins := m.joining.filter (fun j => !(m.leaving.contains j.1))
  let handed := (joins.filter (fun j => m.retiring.contains j.2 && j.1 != j.2)).map (fun j => j.2)
  let leave := m.leaving ++ handed
  let members := (joins.foldl (fun l j => insertNat l j.1) s.allMembers).filter (fun d => !(leave.contains d))
  let spares := m.spares.filter (fun d => members.contains d && !(joins.any (fun j => j.1 = d ∧ j.1 ≠ j.2)))
  let asked := m.handoffs.filter (fun d => members.contains d)
  let retiring := asked.foldl insertNat (m.retiring.filter (fun d => members.contains d))
  let kept := m.assigned.filter (fun a => spares.contains a.2)
  let orphans := (m.assigned.filter (fun a => !(spares.contains a.2) && m.leaving.contains a.2)).map (fun a => a.1)
  let lost := m.leaving.filter (fun d => !(m.spares.contains d))
  let assigned := assignAll spares (lost ++ orphans ++ asked) kept
  let leader := if members.contains s.leader then s.leader else s.standby
  { gen := s.gen + 1#16
    members := members
    spares := spares
    slots := ((List.range 64).filter s.configured).map (fun c =>
      (c, (List.range (s.commSlots c)).map (fun k => s.bindSlot c k leave joins)))
    leader := BitVec.ofNat 16 leader
    standby := BitVec.ofNat 16 (s.pickStandby members spares retiring leader)
    split := getField (s.reg 0x10008) 0 6
    arbGen := if leader = s.leader then s.xch.arbGen else s.xch.arbGen + 1#16
    retiring := retiring
    assigned := assigned
    plans := assigned.map (fun a => (a.1, s.planPage a.1)) }

/-- Something has changed that a notice would say. -/
def State.noticeDue (s : State) : Bool :=
  let m := s.memb
  !m.leaving.isEmpty || !m.joining.isEmpty || !m.handoffs.isEmpty
    || getField (s.reg 0x10008) 0 6 != getField (s.reg 0x10008) 16 6

/-- Issue the next generation (R384): devices without a spare are reported, slots that devices leave are remembered for their clones, and
the notice goes to every member and to those it removes; a leader whose own departure it says is removed (R388, R399). -/
def State.issue (s : State) : State :=
  let n := s.nextNotice
  let gone := s.allMembers.filter (fun d => !(n.members.contains d))
  let unserved := (s.memb.leaving.filter (fun d => !(s.memb.spares.contains d)) ++ s.memb.handoffs).filter (fun d => !(n.assigned.any (fun a => a.1 = d)))
  let left := n.slots.flatMap (fun e => (List.range e.2.length).filterMap (fun k =>
    let d := (s.slotDev e.1 k).toNat
    if s.memb.leaving.contains d then some (d, e.1, k) else none))
  let s1 := unserved.foldl (fun s d => s.post (.noSpare d)) s
  let s2 := s.memb.joining.foldl (fun s j => s.post (.joined j.1)) s1
  let m := { s2.memb with
    leaving := [], joining := [], handoffs := [], acks := [], issuedAt := s.nanos,
    vacated := (s2.memb.vacated ++ left).filter (fun v => n.assigned.any (fun a => a.1 = v.1)) }
  let s3 := ((n.members.filter (fun d => d != s.me)) ++ gone).foldl (fun s d => s.tell (.notice d n)) (s2.setMemb m)
  if n.members.contains s.me then s3.adopt n else s3.remove

/-- A further generation may be issued (R384). -/
def State.maySpace (s : State) : Bool :=
  s.members.all (fun d => s.memb.acks.contains d) || decide (s.memb.issuedAt + 1000000 ≤ s.nanos)

/-- `GENERATION_ISSUE` (R380, R384). The leader, with its quorum, issues the next generation notice. -/
def execGenerationIssue (s : State) : Out :=
  .next (if s.memb.up && s.isLeader && s.quorum && s.noticeDue && s.maySpace then s.issue else s)

/-- `NOTICE_ACKNOWLEDGEMENT` (R384). A member's acknowledgement reaches the leader. -/
def execNoticeAcknowledgement (dev : Nat) (gen : BitVec 16) (s : State) : Out :=
  .next (if s.isLeader && gen == s.gen then s.setMemb { s.memb with acks := insertNat s.memb.acks dev } else s)

/-- `LEADER_TAKEOVER` (R386). The standby leader, which has confirmed the leader's expulsion and holds a quorum, issues the generation that
removes the old leader and names itself. -/
def execLeaderTakeover (s : State) : Out :=
  if s.memb.up && s.isStandby && s.memb.leaving.contains s.leader && s.quorum then
    let s0 := if s.xch.acting then s else s.takeArbiter
    let s1 := s0.setReg 0x130008 (BitVec.ofNat 64 (s.me + 65536 * s.leader))
    .next s1.issue
  else .next s

/-! ## Updraft (R393 to R396) -/

/-- The place of stripe `k`: its extent's working list and its HBM offset (R394). -/
def stripePlace (es : List (Nat × Nat × List Nat)) (k : Nat) : Option (Nat × List Nat) :=
  match es with
  | [] => none
  | e :: rest => if k < e.2.1 / 2 ^ 20 then some (e.1 + k * 2 ^ 20, e.2.2) else stripePlace rest (k - e.2.1 / 2 ^ 20)

/-- Stripes of a plan. -/
def stripeTotal (es : List (Nat × Nat × List Nat)) : Nat := (es.map (fun e => e.2.1 / 2 ^ 20)).sum

/-- A stripe may be written now: no other agent owns a line of it, no view covers it, and its timestamp is granted (R181, R190, R338). -/
def State.landDue (s : State) (off : Nat) : Bool :=
  let a := s.hbm off
  (linesOf a (2 ^ 20)).all (fun l => (s.line l).owner.isNone) && !(s.viewed off (2 ^ 20)) && s.stampDue (s.storeStamp 0 a (2 ^ 20))

/-- `STRIPE_LAND` (R394, R395, R396). A stripe lands in this spare's HBM; one with poisoned sectors is fetched again from the next healthy
replica, and written with its poison once every replica has given poison. -/
def execStripeLand (stripe : Nat) (data : List Byte) (poison : List Nat) (s : State) : Out :=
  match s.memb.clone with
  | none => .next s
  | some c =>
    match stripePlace c.extents stripe with
    | none => .next s
    | some (off, reps) =>
      let healthy := reps.filter s.isMember
      let tries := Map.find (fun _ => 0) c.tries stripe
      if c.done.contains stripe then .next s
      else if healthy.isEmpty then .next (s.failClone c)
      else if !poison.isEmpty && tries + 1 < healthy.length then
        let r := s.reg 0x130018
        let c1 := { c with tries := Map.put (fun _ => 0) c.tries stripe (tries + 1) }
        .next ((s.setMemb { s.memb with clone := some c1 }).setReg 0x130018
          (putField (putField r 16 8 (Min.min (getField r 16 8 + 1) 255)) 0 2 2))
      else if !(s.landDue off) then .next s
      else
        let a := s.hbm off
        let bytes := (data ++ List.replicate (2 ^ 20) 0#8).take (2 ^ 20)
        let s1 := s.plainWrite (s.storeStamp 0 a bytes.length) a bytes
        let s2 := poison.foldl (fun s k => s.setPoison (a + 32 * k) true) s1
        let s3 := if poison.isEmpty then s2 else s2.post (.clonePoison off)
        let done := insertNat c.done stripe
        let r := s3.reg 0x130018
        let s4 := (s3.setMemb { s3.memb with clone := some { c with done := done } }).setReg 0x130018
          (putField (putField r 44 20 done.length) 0 2 2)
        .next (if done.length = stripeTotal c.extents then s4.sendPacket s4.leader (.cloned c.lost true) false else s4)

/-- `CLONE_TIMEOUT` (R393, R395). 5 s after the first view opened the clone fails: its views are released, and the leader is told. -/
def execCloneTimeout (s : State) : Out :=
  match s.memb.viewSince with
  | none => .next s
  | some t =>
    if s.nanos < t + 5000000000 then .next s
    else
      let s1 := match s.memb.clone with | some c => s.failClone c | none => s
      let spares := (s1.views.map (fun v => v.spare)).eraseDups
      let told := s1.memb.assigned.filter (fun a => spares.contains a.2)
      let s2 := spares.foldl (fun s d => s.releaseViews d) (told.foldl (fun s a => s.sendPacket s.leader (.cloned a.1 false) false) s1)
      let lost := if s2.isLeader then s2.memb.assigned else []
      let s3 := lost.foldl (fun s a => s.post (.cloneFailed a.1)) s2
      .next (s3.setMemb { s3.memb with viewSince := none, assigned := if s3.isLeader then [] else s3.memb.assigned })

end Sys2Proof.Machine
end

