-- ==== Sys2Proof/Machine/Regs.lean ====
section
/-! DEFINITION. The device-register space (R3, R8, R412 to R417, R374, R390): what a read returns and what a write does. -/

namespace Sys2Proof.Machine

/-! ## Reads -/

/-- Four entries of two bytes as one word. -/
def quadWord (f : Nat → BitVec 16) : Word := BitVec.ofNat 64 (ofBytesLE ((List.range 4).flatMap (fun k => bytesLE 2 (f k).toNat)))

/-- Slot lists and banks (R412): the communicator and the first entry of an 8-byte word. -/
def slotPlace (off : Nat) : Option (Nat × Nat) :=
  if 0x01000000 ≤ off ∧ off < 0x01000000 + 64 * 0x20000 then some ((off - 0x01000000) / 0x20000, (off - 0x01000000) % 0x20000 / 2) else none
def bankPlace (off : Nat) : Option (Nat × Nat × Nat) :=
  if 0x02000000 ≤ off ∧ off < 0x02000000 + 64 * 0x40000 then
    let o := off - 0x02000000
    some (o / 0x40000, o % 0x40000 / 0x20000, o % 0x20000 / 2)
  else none

/-- A read of the 8-byte word at an 8-byte-aligned offset: WO registers and offsets that no block assigns read as zero. -/
def State.regRead (s : State) (off : Nat) : Word :=
  match slotPlace off with
  | some (c, k) => quadWord (fun j => s.slotDev c (k + j))
  | none =>
    match bankPlace off with
    | some (c, b, r) => quadWord (fun j => s.bankDev c b (r + j))
    | none => s.reg off

/-- An aligned read of 4 or 8 bytes: 4 bytes give the half that the address names. -/
def State.devRead (s : State) (off size : Nat) : Word :=
  let v := s.regRead (off / 8 * 8)
  if size = 8 then v else if off % 8 = 4 then v >>> 32 else v &&& 0xFFFFFFFF#64

/-! ## Writes -/

/-- Bits of a plain RW register that a write sets, by offset; 0 for a register that is RO or not assigned, or that acts in another way. -/
def rwMask (off : Nat) : Word :=
  if off = 0x18 then 0xFFFFFFFFFFFFF000#64
  else if off = 0x20 then 0xFFFFFFFFFFFFFFFF#64
  else if 0x10010 ≤ off ∧ off < 0x10050 then 0x87FF#64
  else if off = 0x10050 then 0xFFFFFFFF#64
  else if 0x10100 ≤ off ∧ off < 0x10200 then 0x1FFFF#64
  else if 0x10400 ≤ off ∧ off < 0x10800 then (if off % 16 = 0 then 0xFFFFFF0000#64 else 0x830000FFFFFF0000#64)
  else if 0x10800 ≤ off ∧ off < 0x11000 then
    match off % 32 with
    | 0 => 0xFFFFFFFFFFFF0000#64
    | 8 => 0xFFFFFFFFFFFF0000#64
    | 16 => 0x3FFFFFF0000#64
    | _ => 7#64
  else if 0x20000 ≤ off ∧ off < 0x24000 then
    match off % 0x100 with
    | 0x08 => 0x00FFFFFFFFFF0000#64
    | 0x18 => 0xFFFFFFFFFFFFFF80#64
    | 0x20 => 0xFFFFFFFFFFFFC000#64
    | 0x30 => 0xFFFFFFFFFFFF0000#64
    | 0x38 => 0xFFFFFFFFFFFF0000#64
    | 0x40 => 0xFFFF#64
    | _ => 0#64
  else if off = 0x130028 then 0xFFFFFFFFFFFFFFFF#64
  else if off = 0x130100 then 0xFFFFFFFFFFFF0000#64
  else 0#64

/-- Clamp a written value to a range. -/
def clampWord (lo hi : Nat) (v : Word) : Word := BitVec.ofNat 64 (clampTo lo hi v.toNat)

/-- The ranges of the registers that clamp what is written (R180, R285, R373). -/
def clampRange (off : Nat) : Option (Nat × Nat) :=
  if off = 0x10000 then some (1, 10)
  else if off = 0x120000 then some (32, 10000)
  else if 0x20000 ≤ off ∧ off < 0x24000 then
    match off % 0x100 with
    | 0x48 => some (100, 10000000)
    | 0x50 => some (1000, 60000000)
    | 0x58 => some (10, 10000)
    | _ => none
  else none

/-- PODLEAD names the leaders at bring-up, and later only while the pod has none, or has lost both in this device's view (R386, R415). -/
def State.takePodlead (s : State) : State :=
  if s.memb.up && (s.noLeader || s.leadersGone) then
    let s0 := s.setReg 0x130008 (s.reg 0x10050)
    let s1 := s0.setXch { s0.xch with acting := s0.isLeader }
    s1.setRoles s1.isMemberNow s1.isSpareNow ((s1.reg mroleOff).getLsbD 4) none
  else s

/-- A write of all 8 bytes of an RW register (R412). -/
def State.writeRw (s : State) (off : Nat) (v : Word) : State :=
  match slotPlace off with
  | some (c, k) =>
    let m := (List.range 4).foldl (fun m j => Map.put (fun _ => 0#16) m (65536 * c + k + j) (v.extractLsb' (16 * j) 16)) s.fab.slots
    { s with fab := { s.fab with slots := m } }
  | none =>
    match clampRange off with
    | some (lo, hi) => s.setReg off (clampWord lo hi (if off = 0x10000 then v &&& 15#64 else v))
    | none =>
      if off = 0x10008 then
        let f := getField v 0 6
        if f % 8 = 0 ∧ 8 ≤ f ∧ f ≤ 40 then s.setReg off (putField (s.reg off) 0 6 f) else s
      else if rwMask off = 0#64 then s
      else
        let s1 := s.setReg off (v &&& rwMask off)
        if off = 0x10050 then s1.takePodlead else s1

/-- Registers whose writes start an action, which a 4-byte write does not reach: WO registers, ROOT, INVCTL and CCFG (R412). -/
def State.writeAct (s : State) (off : Nat) (v : Word) : Option State :=
  if off = 0x08 then some (s.bootCommand v)
  else if off = 0x100 then some (s.attest v.toNat)
  else if off = 0x120018 then some s.markStep
  else if off = 0x130020 then some (s.retire (getField v 0 16) (v.getLsbD 16))
  else if 0x20000 ≤ off ∧ off < 0x24000 ∧ off % 0x100 = 0 then
    let ctx := (off - 0x20000) / 0x100
    some (if v.getLsbD 0 then s.createContext ctx v else s.terminate ctx)
  else if 0x20000 ≤ off ∧ off < 0x24000 ∧ off % 0x100 = 0x10 then some (s.startInvalidate ((off - 0x20000) / 0x100) v)
  else if 0x140000 ≤ off ∧ off < 0x141000 ∧ off % 0x40 = 0 then some (s.configure ((off - 0x140000) / 0x40) v)
  else none

/-- W1C registers (R412): ATTSTAT.BUSY and DIAGOCC. -/
def State.writeW1c (s : State) (off : Nat) (v : Word) : Option State :=
  if off = attstat then some (s.setReg off (s.reg off &&& ~~~(v &&& 4#64)))
  else if 0x20000 ≤ off ∧ off < 0x24000 ∧ off % 0x100 = 0x28 then some (s.freeDiag ((off - 0x20000) / 0x100) v)
  else none

/-- A write of 4 or 8 bytes at an offset of space 2 (R412). -/
def State.devWrite (s : State) (off size : Nat) (v : Word) : State :=
  let base := off / 8 * 8
  let half := v &&& 0xFFFFFFFF#64
  let high := off % 8 == 4
  if size = 8 then
    match s.writeAct base v with
    | some t => t
    | none => match s.writeW1c base v with | some t => t | none => s.writeRw base v
  else
    match s.writeAct base v with
    | some _ => s
    | none =>
      match s.writeW1c base (if high then half <<< 32 else half) with
      | some t => t
      | none =>
        let old := s.regRead base
        s.writeRw base (if high then (old &&& 0xFFFFFFFF#64) ||| (half <<< 32) else (old &&& 0xFFFFFFFF00000000#64) ||| half)

/-- An access that the register space takes: aligned, of 4 or 8 bytes. -/
def regAligned (off size : Nat) : Bool := (size == 8 && off % 8 == 0) || (size == 4 && off % 4 == 0)

/-- `REGISTER_WRITE` (R412). A device register is written, with the effect that its rule gives. -/
def execRegisterWrite (off : Nat) (size : Nat) (value : Word) (s : State) : Out :=
  .next (if regAligned off size then s.devWrite off size value else s)

end Sys2Proof.Machine
end

