-- ==== Sys2Proof/Machine/Host.lean ====
section
/-! DEFINITION. The host's accesses over the Iasil link (R338, R344, R365), recalls and back-invalidations (R181, R195), page walks (R331 to
R335), the floor clock (R179) and the ages of LM lines (R210, R214). -/

namespace Sys2Proof.Machine

/-! ## Host accesses (R194, R344, R414, R415) -/

/-- `HOST_ACCESS` (R194, R344). A host access is checked against the aperture; one to device registers is made at once, and one to memory reaches
the home of its line, where it is performed or waits. -/
def execHostAccess (req : HostReq) (s : State) : Out :=
  match req with
  | .read addr n =>
    match s.hostTarget addr n false with
    | none => .next (s.post (.hostRefused addr))
    | some (space, off) =>
      if space ≠ 2 then .next (s.reachHome (.hostMem req))
      else if regAligned off n then .next (s.post (.hostData addr (bytesLE n (s.devRead off n).toNat) false))
      else .next (s.post (.hostRefused addr))
  | .write addr data poisoned =>
    match s.hostTarget addr data.length true with
    | none => .next (s.post (.hostRefused addr))
    | some (space, off) =>
      if space ≠ 2 then .next (s.reachHome (.host (s.hbm off) data poisoned))
      else if regAligned off data.length then .next (s.devWrite off data.length (BitVec.ofNat 64 (ofBytesLE data)))
      else .next (s.post (.hostRefused addr))
  | req => .next (s.reachHome (.hostMem req))

/-! ## Recalls and back-invalidations (R181, R190, R195) -/

/-- Drop every copy that the device's caches hold of a line. -/
def State.dropCopies (s : State) (line : Nat) : State := { s with copies := s.copies.filter (fun e => e.1 % 2 ^ 51 != line) }

/-- A line has a new owner, or none. -/
def State.setOwner (s : State) (line : Nat) (o : Option Owner) : State := s.setLine line { s.line line with owner := o }

/-- The home takes a line back that nobody else owns: the device's caches give it up (R181). -/
def State.giveUp (s : State) (line : Nat) : State := (s.recallLine none line).dropCopies line

/-- `RECALL` (R181, R190). The home takes a line back from its owner: another device is told to give it up, and a core of this one does so at
once. An engine that owns it keeps it until it has written it, and the host's copy goes by a back-invalidation. -/
def execRecall (line : Nat) (s : State) : Out :=
  match (s.line line).owner with
  | some (.peer d) => .next ((s.setOwner line (some (.recalled d))).tell (.recall d line))
  | some _ => .next s
  | none => .next (s.giveUp line)

/-- The access of a wave, where it has not performed yet. -/
def State.accessAt (s : State) (crew wave k : Nat) : Bool :=
  match s.crewAt crew with
  | some c => c.others.any (fun w => w.idx == wave && w.accs.any (fun a => a.id == k && a.left))
  | none => false

/-- `BACK_INVALIDATION` (R195). The host's copy of a line goes: the access of this device that has caused it is performed next, and the host's
own requests for the line are served after it. A line that the host does not hold leaves the device's caches. -/
def execBackInvalidation (line : Nat) (s : State) : Out :=
  match (s.line line).owner with
  | some (.hostBack c w k) =>
    if s.accessAt c w k then .next (s.setOwner line (some (.granted c w k))) else .next (s.setOwner line none).releaseHeld
  | some .host => .next (s.setOwner line none).releaseHeld
  | some _ => .next s
  | none => .next (s.giveUp line)

/-! ## Page walks (R331 to R335) -/

/-- The access that a walk is made for, as its leaf allows it: a walk for no write serves a load or a fetch. -/
def State.walkAccess (s : State) (die ctx va : Nat) (write : Bool) : Option Xl :=
  match s.translate die ctx va (if write then .store else .load) true with
  | .ok x => some x
  | .error _ =>
    if write then none
    else match s.translate die ctx va .fetch false with | .ok x => some x | .error _ => none

/-- `PAGE_WALK` (R331, R332, R333, R335). A walk completes: the entry is kept for its die and context, and A and D are set for an access
that it allows; an entry that cannot be read is told to the host. -/
def execPageWalk (die : Nat) (ctx : Nat) (va : Nat) (write : Bool) (s : State) : Out :=
  if 64 ≤ ctx ∨ 8 ≤ die ∨ !(s.ctxEnabled ctx) then .next s
  else if s.tlb.any (fun e => e.die = die ∧ e.ctx = ctx ∧ va / 2 ^ e.bits = e.page) then .next s
  else
    match s.walk ctx va with
    | .fail => .next s
    | .table => .next (s.post (.tableFault ctx (BitVec.ofNat 64 va)))
    | .leaf l =>
      let s1 := { s with tlb := s.tlb ++ [⟨die, ctx, va / 2 ^ l.bits, l.bits, l.pte, l.addr⟩] }
      .next (match s.walkAccess die ctx va write with | some x => s1.touch x write | none => s1)

/-! ## The floor clock and what waits at the homes (R179, R181, R190, R195) -/

/-- One tick of F in picoseconds (R179). -/
def tickPs : Nat := 320000

/-- A tick has passed since F last advanced. -/
def State.tickDue (s : State) : Bool := decide (s.tickAt + tickPs ≤ s.ps)

/-- Somebody of this device may want a line that another party holds: an engine, a unit, a wave with an access or a wait, or a request that
waits at this home. -/
def State.busy (s : State) : Bool :=
  s.racing || !s.units.isEmpty || !s.memb.held.isEmpty
    || s.allCrews.any (fun c => c.others.any (fun w => w.live && (w.block.isSome || !w.accs.isEmpty)))

/-- What a home does of itself about a line that somebody holds: a grant that its access has used or lost ends, a back-invalidation arrives, and
what the device may want is recalled. When it does so the spec leaves open: DESIGN CHOICE, log entry 107. -/
def State.tendLine (s : State) (line : Nat) : State :=
  match (s.line line).owner with
  | some (.granted c w k) => if s.accessAt c w k then s else s.setOwner line none
  | some (.hostBack c w k) => s.setOwner line (if s.accessAt c w k then some (.granted c w k) else none)
  | some (.peer d) => if s.busy then (s.setOwner line (some (.recalled d))).tell (.recall d line) else s
  | some .host => if s.busy then s.setOwner line (some (.hostBack 0 0 0)) else s
  | _ => s

/-- The homes go on: the lines that somebody holds, the writes of the device's units, and the requests that wait. -/
def State.tendHomes (s : State) : State :=
  let held := (s.lines.filter (fun e => e.2.owner.isSome)).map (fun e => e.1)
  let s1 := (held.foldl State.tendLine s).drainUnits
  if s1.memb.held.isEmpty then s1 else s1.releaseHeld

/-- `FLOOR_TICK` (R179). F advances by one tick, and what waits at the homes for it goes on (R181). -/
def execFloorTick (s : State) : Out := .next { s with floor := s.floor + 1, tickAt := s.tickAt + tickPs }.tendHomes

/-- `LM_LINE_EXPIRE` (R210). The scanner marks a line whose age has reached LMRETN - LMGUARD. -/
def execLmLineExpire (core : Nat) (line : Nat) (s : State) : Out :=
  let l := lmLineOf core (256 * line)
  .next (if core < 256 ∧ line < 32768 ∧ s.lmExpired l then { s with lmMark := Map.put noPoison s.lmMark l true } else s)

/-- `HELD_LINE_RENEWAL` (R214). The core renews a line of a held segment. -/
def execHeldLineRenewal (core : Nat) (line : Nat) (s : State) : Out :=
  let l := lmLineOf core (256 * line)
  .next (if core < 256 ∧ line < 32768 ∧ s.heldLine l then s.lmStampLine l else s)

end Sys2Proof.Machine
end

