-- ==== Sys2Proof/Machine/Integer.lean ====
section
/-! DEFINITION. The scalar integer words (R99 to R106). -/

namespace Sys2Proof.Machine

/-- `add` (R99). Sets S[D] to S[A] + S[B] modulo 2^64. -/
def execAdd (y : Bool) (d : Reg) (a : Reg) (b : Reg) (s : State) : Out :=
  s.scalar3 y d a b (fun a b => a + b)

/-- `sub` (R99). Sets S[D] to S[A] - S[B] modulo 2^64. -/
def execSub (y : Bool) (d : Reg) (a : Reg) (b : Reg) (s : State) : Out :=
  s.scalar3 y d a b (fun a b => a - b)

/-- `mul` (R99). Sets S[D] to the low 64 bits of S[A] x S[B]. -/
def execMul (y : Bool) (d : Reg) (a : Reg) (b : Reg) (s : State) : Out :=
  s.scalar3 y d a b (fun a b => a * b)

/-- `mulh` (R99). Sets S[D] to the high 64 bits of the signed 128-bit product. -/
def execMulh (y : Bool) (d : Reg) (a : Reg) (b : Reg) (s : State) : Out :=
  s.scalar3 y d a b (fun a b => mulhS a b)

/-- `mulhn` (R99). Sets S[D] to the high 64 bits of the unsigned product. -/
def execMulhn (y : Bool) (d : Reg) (a : Reg) (b : Reg) (s : State) : Out :=
  s.scalar3 y d a b (fun a b => mulhU a b)

/-- `div` (R99). Signed division truncated towards zero, never trapping (R100 corner cases). -/
def execDiv (y : Bool) (d : Reg) (a : Reg) (b : Reg) (s : State) : Out :=
  s.scalar3 y d a b (fun a b => divS a b)

/-- `divn` (R99). Unsigned division truncated, never trapping. -/
def execDivn (y : Bool) (d : Reg) (a : Reg) (b : Reg) (s : State) : Out :=
  s.scalar3 y d a b (fun a b => divU a b)

/-- `rem` (R99). Signed remainder with the dividend's sign. -/
def execRem (y : Bool) (d : Reg) (a : Reg) (b : Reg) (s : State) : Out :=
  s.scalar3 y d a b (fun a b => remS a b)

/-- `remn` (R99). Unsigned remainder. -/
def execRemn (y : Bool) (d : Reg) (a : Reg) (b : Reg) (s : State) : Out :=
  s.scalar3 y d a b (fun a b => remU a b)

/-- `and` (R99). Bitwise AND of S[A] and S[B]. -/
def execAnd (y : Bool) (d : Reg) (a : Reg) (b : Reg) (s : State) : Out :=
  s.scalar3 y d a b (fun a b => a &&& b)

/-- `or` (R99). Bitwise OR of S[A] and S[B]. -/
def execOr (y : Bool) (d : Reg) (a : Reg) (b : Reg) (s : State) : Out :=
  s.scalar3 y d a b (fun a b => a ||| b)

/-- `xor` (R99). Bitwise XOR of S[A] and S[B]. -/
def execXor (y : Bool) (d : Reg) (a : Reg) (b : Reg) (s : State) : Out :=
  s.scalar3 y d a b (fun a b => a ^^^ b)

/-- `andn` (R99). S[A] AND NOT S[B]. -/
def execAndn (y : Bool) (d : Reg) (a : Reg) (b : Reg) (s : State) : Out :=
  s.scalar3 y d a b (fun a b => a &&& ~~~b)

/-- `shl` (R99). Shifts S[A] left by S[B][5:0]. -/
def execShl (y : Bool) (d : Reg) (a : Reg) (b : Reg) (s : State) : Out :=
  s.scalar3 y d a b (fun a b => Machine.shl a (amount64 b))

/-- `shr` (R99). Logical right shift of S[A] by S[B][5:0]. -/
def execShr (y : Bool) (d : Reg) (a : Reg) (b : Reg) (s : State) : Out :=
  s.scalar3 y d a b (fun a b => Machine.shr a (amount64 b))

/-- `sha` (R99). Arithmetic right shift of S[A] by S[B][5:0]. -/
def execSha (y : Bool) (d : Reg) (a : Reg) (b : Reg) (s : State) : Out :=
  s.scalar3 y d a b (fun a b => Machine.sha a (amount64 b))

/-- `min` (R99). Signed minimum of S[A] and S[B]. -/
def execMin (y : Bool) (d : Reg) (a : Reg) (b : Reg) (s : State) : Out :=
  s.scalar3 y d a b (fun a b => minS a b)

/-- `max` (R99). Signed maximum of S[A] and S[B]. -/
def execMax (y : Bool) (d : Reg) (a : Reg) (b : Reg) (s : State) : Out :=
  s.scalar3 y d a b (fun a b => maxS a b)

/-- `minn` (R99). Unsigned minimum of S[A] and S[B]. -/
def execMinn (y : Bool) (d : Reg) (a : Reg) (b : Reg) (s : State) : Out :=
  s.scalar3 y d a b (fun a b => minU a b)

/-- `maxn` (R99). Unsigned maximum of S[A] and S[B]. -/
def execMaxn (y : Bool) (d : Reg) (a : Reg) (b : Reg) (s : State) : Out :=
  s.scalar3 y d a b (fun a b => maxU a b)

/-- `seq` (R99). Sets S[D] to 1 if S[A] = S[B], else 0. -/
def execSeq (y : Bool) (d : Reg) (a : Reg) (b : Reg) (s : State) : Out :=
  s.scalar3 y d a b (fun a b => ofBool64 (a == b))

/-- `slt` (R99). Sets S[D] to 1 if S[A] < S[B] signed. -/
def execSlt (y : Bool) (d : Reg) (a : Reg) (b : Reg) (s : State) : Out :=
  s.scalar3 y d a b (fun a b => ofBool64 (ltS a b))

/-- `sltn` (R99). Sets S[D] to 1 if S[A] < S[B] unsigned. -/
def execSltn (y : Bool) (d : Reg) (a : Reg) (b : Reg) (s : State) : Out :=
  s.scalar3 y d a b (fun a b => ofBool64 (ltU a b))

/-- `sel` (R101). Selects S[A] if S[D] is nonzero, else S[B], into S[D]. -/
def execSel (y : Bool) (d : Reg) (a : Reg) (b : Reg) (s : State) : Out :=
  s.onWave (fun s => (s.setS d (if s.getS d ≠ 0#64 then s.getS a else s.getS b)).advance y)

/-- `nop` (R102). Does nothing; with Y set it waits for every outstanding register result of the wave. -/
def execNop (y : Bool) (s : State) : Out :=
  s.onWave (fun s => s.advance y)

/-- `addi` (R103). Adds the sign-extended IMM9 to S[A] into S[D]. -/
def execAddi (y : Bool) (d : Reg) (a : Reg) (i : BitVec 9) (s : State) : Out :=
  s.scalar2 y d a (fun a => a + sext64 i)

/-- `andi` (R103). S[A] AND the sign-extended IMM9. -/
def execAndi (y : Bool) (d : Reg) (a : Reg) (i : BitVec 9) (s : State) : Out :=
  s.scalar2 y d a (fun a => a &&& sext64 i)

/-- `ori` (R103). S[A] OR the sign-extended IMM9. -/
def execOri (y : Bool) (d : Reg) (a : Reg) (i : BitVec 9) (s : State) : Out :=
  s.scalar2 y d a (fun a => a ||| sext64 i)

/-- `xori` (R103). S[A] XOR the sign-extended IMM9. -/
def execXori (y : Bool) (d : Reg) (a : Reg) (i : BitVec 9) (s : State) : Out :=
  s.scalar2 y d a (fun a => a ^^^ sext64 i)

/-- `shli` (R103). Shifts S[A] left by the unsigned IMM9[5:0]. -/
def execShli (y : Bool) (d : Reg) (a : Reg) (i : BitVec 6) (s : State) : Out :=
  s.scalar2 y d a (fun a => Machine.shl a i.toNat)

/-- `shri` (R103). Logical right shift of S[A] by IMM9[5:0]. -/
def execShri (y : Bool) (d : Reg) (a : Reg) (i : BitVec 6) (s : State) : Out :=
  s.scalar2 y d a (fun a => Machine.shr a i.toNat)

/-- `shai` (R103). Arithmetic right shift of S[A] by IMM9[5:0]. -/
def execShai (y : Bool) (d : Reg) (a : Reg) (i : BitVec 6) (s : State) : Out :=
  s.scalar2 y d a (fun a => Machine.sha a i.toNat)

/-- `slti` (R103). Sets S[D] to 1 if S[A] < sign-extended IMM9, signed. -/
def execSlti (y : Bool) (d : Reg) (a : Reg) (i : BitVec 9) (s : State) : Out :=
  s.scalar2 y d a (fun a => ofBool64 (ltS a (sext64 i)))

/-- `sltni` (R103). Sets S[D] to 1 if S[A] < sign-extended IMM9, unsigned. -/
def execSltni (y : Bool) (d : Reg) (a : Reg) (i : BitVec 9) (s : State) : Out :=
  s.scalar2 y d a (fun a => ofBool64 (ltU a (sext64 i)))

/-- `seqi` (R103). Sets S[D] to 1 if S[A] equals sign-extended IMM9. -/
def execSeqi (y : Bool) (d : Reg) (a : Reg) (i : BitVec 9) (s : State) : Out :=
  s.scalar2 y d a (fun a => ofBool64 (a == sext64 i))

/-- `clz` (R104). Counts leading zero bits of S[A]. -/
def execClz (y : Bool) (d : Reg) (a : Reg) (s : State) : Out :=
  s.scalar2 y d a (fun a => BitVec.ofNat 64 (Machine.clz a))

/-- `ctz` (R104). Counts trailing zero bits of S[A]. -/
def execCtz (y : Bool) (d : Reg) (a : Reg) (s : State) : Out :=
  s.scalar2 y d a (fun a => BitVec.ofNat 64 (Machine.ctz a))

/-- `popc` (R104). Counts set bits of S[A]. -/
def execPopc (y : Bool) (d : Reg) (a : Reg) (s : State) : Out :=
  s.scalar2 y d a (fun a => BitVec.ofNat 64 (Machine.popc a))

/-- `brev` (R104). Reverses the bits of S[A]. -/
def execBrev (y : Bool) (d : Reg) (a : Reg) (s : State) : Out :=
  s.scalar2 y d a (fun a => Machine.brev a)

/-- `bswap` (R104). Reverses the bytes of S[A]. -/
def execBswap (y : Bool) (d : Reg) (a : Reg) (s : State) : Out :=
  s.scalar2 y d a (fun a => Machine.bswap a)

/-- `sext8` (R104). Sign-extends the low 8 bits of S[A]. -/
def execSext8 (y : Bool) (d : Reg) (a : Reg) (s : State) : Out :=
  s.scalar2 y d a (fun a => sext64 (a.setWidth 8))

/-- `sext16` (R104). Sign-extends the low 16 bits of S[A]. -/
def execSext16 (y : Bool) (d : Reg) (a : Reg) (s : State) : Out :=
  s.scalar2 y d a (fun a => sext64 (a.setWidth 16))

/-- `sext32` (R104). Sign-extends the low 32 bits of S[A]. -/
def execSext32 (y : Bool) (d : Reg) (a : Reg) (s : State) : Out :=
  s.scalar2 y d a (fun a => sext64 (a.setWidth 32))

/-- `zext8` (R104). Zero-extends the low 8 bits of S[A]. -/
def execZext8 (y : Bool) (d : Reg) (a : Reg) (s : State) : Out :=
  s.scalar2 y d a (fun a => zext64 (a.setWidth 8))

/-- `zext16` (R104). Zero-extends the low 16 bits of S[A]. -/
def execZext16 (y : Bool) (d : Reg) (a : Reg) (s : State) : Out :=
  s.scalar2 y d a (fun a => zext64 (a.setWidth 16))

/-- `zext32` (R104). Zero-extends the low 32 bits of S[A]. -/
def execZext32 (y : Bool) (d : Reg) (a : Reg) (s : State) : Out :=
  s.scalar2 y d a (fun a => zext64 (a.setWidth 32))

/-- `abs` (R104). Absolute value of signed S[A] modulo 2^64. -/
def execAbs (y : Bool) (d : Reg) (a : Reg) (s : State) : Out :=
  s.scalar2 y d a (fun a => absS a)

/-- `neg` (R104). Sets S[D] to 0 - S[A]. -/
def execNeg (y : Bool) (d : Reg) (a : Reg) (s : State) : Out :=
  s.scalar2 y d a (fun a => 0#64 - a)

/-- `not` (R104). Sets S[D] to NOT S[A]. -/
def execNot (y : Bool) (d : Reg) (a : Reg) (s : State) : Out :=
  s.scalar2 y d a (fun a => ~~~a)

/-- `set0` (R105). Sets S[D] to the sign-extended IMM16. -/
def execSet0 (y : Bool) (d : Reg) (i : BitVec 16) (s : State) : Out :=
  s.scalar1 y d (fun _ _ => sext64 i)

/-- `set16` (R105). Replaces bits [31:16] of S[D] with IMM16. -/
def execSet16 (y : Bool) (d : Reg) (i : BitVec 16) (s : State) : Out :=
  s.scalar1 y d (fun old _ => setHalf old 16 i)

/-- `set32` (R105). Replaces bits [47:32] of S[D] with IMM16. -/
def execSet32 (y : Bool) (d : Reg) (i : BitVec 16) (s : State) : Out :=
  s.scalar1 y d (fun old _ => setHalf old 32 i)

/-- `set48` (R105). Replaces bits [63:48] of S[D] with IMM16. -/
def execSet48 (y : Bool) (d : Reg) (i : BitVec 16) (s : State) : Out :=
  s.scalar1 y d (fun old _ => setHalf old 48 i)

/-- `adpc` (R106). Sets S[D] to the word's own address plus 4 x IMM16. -/
def execAdpc (y : Bool) (d : Reg) (i : BitVec 16) (s : State) : Out :=
  s.scalar1 y d (fun _ pc => pc + (sext64 i <<< 2))

end Sys2Proof.Machine
end

