-- ==== Sys2Proof/Machine/Scoreboard.lean ====
section
/-! DEFINITION. When a wave may issue its next word (R50, R51, R282, R345, R348): the registers that a word names, the registers whose
results are outstanding, and the waits. -/

namespace Sys2Proof.Machine

/-! ## The registers that a word names (R43, R44, R50) -/

/-- The opcode of a word (R43). -/
def opOf (w : Lane) : Nat := (w.extractLsb' 23 8).toNat

/-- Opcodes whose bits [15:9] are no register field of the scoreboard: FL and FJ words, `vlaneid`, and `mver`, whose A names an accumulator
(R43, R109, R166). -/
def noFieldA : List Nat := [0xC4, 0x22, 0x23, 0x24, 0x25, 0x26, 0x33, 0x34, 0x35, 0x36, 0x38, 0x3A, 0x3B, 0x53, 0xF8]

/-- Opcodes whose bits [8:2] are no register field: FI and FS words and `vbcast` besides. -/
def noFieldB : List Nat := noFieldA ++ [0x04, 0x10, 0x11, 0x12, 0x16, 0x17, 0x18, 0x20, 0x27, 0x2F, 0x3C, 0x3D, 0x50, 0x51, 0x52, 0x5B, 0x5C, 0x5F,
  0x6F, 0x70, 0x74, 0x8C, 0x8D, 0x8E, 0x8F, 0x90, 0x91, 0x92, 0x93, 0x94, 0x95, 0x96, 0x99, 0x9A, 0x9D, 0x9E, 0xAC, 0xAE, 0xB0, 0xB4, 0xC6,
  0xE0, 0xE1, 0xE2, 0xF0, 0xF1, 0xF2, 0xF3]

/-- Vector-class opcodes (R45). -/
def vectorOp (op : Nat) : Bool := (0x40 ≤ op && op ≤ 0x8F) || (0x97 ≤ op && op ≤ 0x9E) || op == 0xAB || op == 0xAF

/-- Compares into a scalar triple (R110, R128). -/
def tripleOp (op : Nat) : Bool := (0x54 ≤ op && op ≤ 0x59) || (0x66 ≤ op && op ≤ 0x68)

/-- Vector-class opcodes whose D, A and B name scalars. -/
def scalarD (op : Nat) : Bool := op == 0x5C || op == 0x5D || tripleOp op
def scalarA (op : Nat) : Bool := op == 0x52 || op == 0x5E || (0x97 ≤ op && op ≤ 0x9E) || op == 0xAB || op == 0xAF
def scalarB (op : Nat) : Bool := op == 0x5D || op == 0x5E

/-- The registers that a word reads or writes, with the wave's window base. -/
def wordRegs (vwb : Nat) (w : Lane) : List RegName :=
  let op := opOf w
  let d := (w.extractLsb' 16 7).toNat
  let a := (w.extractLsb' 9 7).toNat
  let b := (w.extractLsb' 2 7).toNat
  let v := vectorOp op
  let name := fun (scalar : Bool) (n : Nat) => if v && !scalar then RegName.v (vwb + n) else RegName.s n
  let rd := if op = 0x35 ∨ op = 0xC8 ∨ op = 0xC9 then [] else if op = 0x36 then [RegName.s 1] else [name (scalarD op) d]
  let rt := if tripleOp op ∨ op = 0x3A ∨ op = 0x3B then [RegName.s (d + 1), RegName.s (d + 2)] else []
  let ra := if noFieldA.contains op then [] else [name (scalarA op) a]
  let rb := if noFieldB.contains op then [] else [name (scalarB op) b]
  let mask := if v then [RegName.s 125, RegName.s 126, RegName.s 127] else []
  let cbs := (List.range 4).map RegName.cb
  let cb := if op = 0xC8 then [RegName.cb d] else if op = 0x74 then [RegName.cb (w.extractLsb' 3 2).toNat]
    else if op = 0xC0 ∨ op = 0xBE ∨ op = 0xB6 then cbs else []
  -- `eret` reads its wake record (R30, R358)
  let wake := if op = 0xF4 then [RegName.s 114, RegName.s 115] else []
  rd ++ rt ++ ra ++ rb ++ mask ++ cb ++ wake

/-! ## Outstanding results (R50, R51) -/

/-- The registers that an access writes when it lands. -/
def AccOp.dests (o : AccOp) : List RegName :=
  match o with
  | .ld d _ _ => if d = 0#7 then [] else [.s d.toNat]
  | .vld p => [.v p]
  | .atomic _ d => if d = 0#7 then [] else [.s d.toNat]
  | .vatomic _ p => [.v p]
  | .cb k => [.cb k]
  | .queue q => match q.dest with | some d => if d = 0#7 then [] else [.s d.toNat] | none => []
  | .st _ _ _ => []
  | .cmd _ => []

/-- Registers of the issuing wave whose results have not landed. A held access is none of them, and in a handler neither is a faulted access
that waits for `eret`. -/
def State.outstanding (s : State) : List RegName :=
  let w := s.wave
  w.accs.flatMap (fun a =>
      match a.phase with
      | .held => []
      | .data _ _ => if w.inh && !a.inh then [] else a.op.dests
      | _ => a.op.dests)
    ++ (w.lmq.filter (fun l => l.load)).map (fun l => RegName.v l.phys)
    ++ ((s.coreAt s.crew.core).sfu.filter (fun o => o.crew = s.crew.handle ∧ o.wave = w.idx)).map (fun o => RegName.v o.phys)

/-! ## Readiness (R282) -/

/-- A load-class access of the wave has not performed and 63 words have issued after it (R348). -/
def Wave.runEnds (w : Wave) : Bool :=
  w.accs.any (fun a => a.loadClass && a.inh == w.inh && decide (64 ≤ w.issued - a.seq)
    && (match a.phase with | .done _ => false | .held => false | _ => true))

/-- The wait at which the wave stands has ended, or is one that its word tries again. -/
def State.blockOpen (s : State) : Bool :=
  match s.wave.block with
  | some (.bar _ _) => s.waitOver
  | some (.xbar _ _ _) => false
  | some .remote => false
  | some .snap => !(s.wave.accs.any (fun a => a.writes && (match a.phase with | .queued => true | _ => false)
      && a.lanes.any (fun l => match a.xlate s l with | .ok x => s.snapWaits x | .error _ => false)))
  | _ => true

/-- Nothing but the scoreboard keeps the wave from its next word. -/
def State.free (s : State) : Bool :=
  let w := s.wave
  w.live && !w.stopped && w.stop.isNone && w.ret.isNone && w.mreq.isNone
    && s.crew.state != .saved && s.crew.state != .ended
    && !(w.drain && w.accs.any Access.left)
    && !(s.crew.state == .taking && s.stands s.crew w)
    && (match w.halting with | some (_, _, n) => decide (w.issued - n < 16) && w.block.isNone && !w.parked | none => true)
    && s.blockOpen
    && s.bootState != 0

/-- The scoreboard lets word `i` of the wave issue (R50, R51, R348): behind a Y-marked word no word issues past a load-class fault that is
found. -/
def State.scoreOk (s : State) (i : Lane) : Bool :=
  let out := s.outstanding
  !(s.wave.parked && (!out.isEmpty || s.faultFound)) && !s.wave.runEnds && (wordRegs s.wave.vwb i).all (fun r => !out.contains r)

/-- Nobody holds the line of the word at the pc (R190), and it can be fetched over its links (R340). -/
def State.fetchFree (s : State) : Bool :=
  match s.xlateVa s.wave.pc .fetch false with
  | .ok x => s.homeOpen none x
  | .error _ => true

/-- The issuing wave is ready: only the core's issue opportunities may keep the word at its pc (R282). -/
def State.waveReady (s : State) : Bool := s.free && s.fetchFree && s.scoreOk s.wordAtPc

/-! ## Issue opportunities of a cycle (R282) -/

/-- A vector word that runs on a vector pipe: one that neither goes to the special-function unit nor to memory (R127, R131, R282). -/
def pipeOp (op : Nat) : Bool := vectorOp op && op != 0x70 && op != 0x71 && op < 0x97

/-- What a core has issued in the present cycle. -/
def State.issueUse (s : State) (core : Nat) : IssueUse :=
  let u := (s.coreAt core).issue
  if u.cycle = s.cycles then u else ⟨s.cycles, 0, 0, []⟩

/-- The round-robin pointer of a core in the present cycle: past the last wave that issued in the last one. -/
def State.issuePtr (s : State) (core : Nat) : Nat :=
  let k := s.coreAt core
  if k.issue.cycle = s.cycles then k.rr
  else match k.issue.slots.getLast? with | some n => (n + 1) % 16 | none => k.rr

/-- Pipes of a core that are busy in the present cycle. -/
def State.pipesBusy (s : State) (core : Nat) : Nat := (s.coreAt core).pipes.countP (fun n => decide (s.cycles < n))

/-- The core has an issue opportunity left for a word of opcode `op` from the wave in slot `n`: one scalar-class word and two vector-class words
in a cycle, from three waves, and a vector pipe where the word runs on one. -/
def State.slotFree (s : State) (core n op : Nat) : Bool :=
  let u := s.issueUse core
  !u.slots.contains n && decide (u.slots.length < 3)
    && (if vectorOp op then decide (u.vectors < 2) && (!pipeOp op || decide (s.pipesBusy core < 2)) else decide (u.scalars < 1))

/-- The issuing wave may issue the word at its pc in this cycle. -/
def State.canIssue (s : State) : Bool := s.waveReady && s.slotFree s.crew.core s.wave.slot (opOf s.wordAtPc)

/-- The word at the pc takes its issue opportunity, and the pipe that it runs on for 3 cycles. -/
def State.markIssue (s : State) : State :=
  let n := s.crew.core
  let op := opOf s.wordAtPc
  let u := s.issueUse n
  let u1 : IssueUse := if vectorOp op then { u with vectors := u.vectors + 1 } else { u with scalars := u.scalars + 1 }
  let p := s.issuePtr n
  s.updCore n (fun k => { k with
    rr := p
    issue := { u1 with slots := u.slots ++ [s.wave.slot] }
    pipes := if pipeOp op then k.pipes.filter (fun c => decide (s.cycles < c)) ++ [s.cycles + 3] else k.pipes })

end Sys2Proof.Machine
end

