-- ==== Sys2Proof/Machine/Perform.lean ====
section
/-! DEFINITION. How the outstanding accesses of a wave perform, land and fault: loads at their homes or from leased copies (R177 to R180),
stores and atomics (R181, R198 to R206), load-class faults (R348 to R350), store-fault records (R352, R353), fetch faults (R48),
words that are no instruction (R62, R63), and the entry of a handler (R354). -/

namespace Sys2Proof.Machine

/-! ## An access of the wave in focus -/

/-- Bytes of a lane. -/
def AccOp.laneBytes (o : AccOp) : Nat :=
  match o with
  | .ld _ n _ => n
  | .st _ _ n => n
  | .atomic .fadd _ => 4
  | .atomic _ _ => 8
  | .cb _ => 32
  | _ => 4

def AccOp.isLoad (o : AccOp) : Bool := match o with | .ld _ _ _ => true | .vld _ => true | .cb _ => true | _ => false

/-- The lanes that translate, with their addresses, in ascending order. -/
def State.lanesOk (s : State) (a : Access) : List (LaneReq × Xl) :=
  a.lanes.filterMap (fun l => match a.xlate s l with | .ok x => some (l, x) | .error _ => none)

/-- The lanes that fault in translation (R198). -/
def State.lanesBad (s : State) (a : Access) : List (LaneReq × Cause) :=
  a.lanes.filterMap (fun l => match a.xlate s l with | .ok _ => none | .error c => some (l, c))

/-- A request at a queue's home, or a held command: it keeps its place among all the wave's accesses. -/
def Access.whole (a : Access) : Bool := match a.op with | .queue _ => true | .cmd _ => true | _ => false

/-- Two accesses name a common byte, by one virtual address or through two mappings (R185). -/
def State.meets (s : State) (a b : Access) : Bool :=
  let n := a.op.laneBytes
  let m := b.op.laneBytes
  let ys := s.lanesOk b
  a.whole || b.whole || a.lanes.any (fun l => b.lanes.any (fun k => overlaps l.va.toNat n k.va.toNat m))
    || (s.lanesOk a).any (fun x => ys.any (fun y => overlaps x.2.fpa n y.2.fpa m))

/-- A load of the wave stands behind its earlier LM loads: it observes what another wave fences in its own order (R186, R188). -/
def State.behindLm (s : State) (a : Access) : Bool :=
  a.stream || !a.loadClass || s.wave.lmq.all (fun l => decide (a.id ≤ l.id) || !l.load || l.inh != a.inh)

/-- The lines that the lanes touch. -/
def laneLines (n : Nat) (xs : List (LaneReq × Xl)) : List Nat := (xs.flatMap (fun e => linesOf e.2.fpa n)).eraseDups

/-- An access stands behind the wave's earlier streaming copies to its lines (R185). -/
def State.behindCopies (s : State) (a : Access) : Bool :=
  s.cmds.all (fun c => !(decide (c.crew = s.crew.handle ∧ c.wave = s.wave.idx ∧ c.seq ≤ a.id) && c.xcw.getLsbD 39)
    || (laneLines a.op.laneBytes (s.lanesOk a)).all (fun l => !c.owned.contains l))

/-- What an access waits for: no earlier load-class access faults in translation (R349); an ordinary access performs after every earlier
ordinary one (R177), and a streaming one only after those to the same bytes (R184, R185). -/
def State.inTurn (s : State) (a : Access) : Bool :=
  s.wave.accs.all (fun b => decide (a.id ≤ b.id) ||
    (!s.transFaulty b && (!b.left || ((a.stream || b.stream) && !s.meets a b))))
    && s.behindLm a && s.behindCopies a

/-- The grant that the home of a line of the host's may hold for an access of this wave (R195). -/
def State.grantOf (s : State) (a : Access) : Owner := .granted s.crew.handle s.wave.idx a.id

/-- The access may be made at the homes of its lines: nobody else holds them (R190, R195), and their packets have their keys (R340). -/
def State.lanesFree (s : State) (a : Access) (xs : List (LaneReq × Xl)) : Bool :=
  xs.all (fun e => s.keyed e.2 && (linesOf e.2.fpa a.op.laneBytes).all (fun l => s.lineFree (some (s.grantOf a)) (128 * l)))

/-- The home of a line that another party holds exclusively takes it back for an access (R181, R195). -/
def State.callLine (s : State) (a : Access) (l : Nat) : State :=
  match (s.line l).owner with
  | some .host => s.setOwner l (some (.hostBack s.crew.handle s.wave.idx a.id))
  | some (.peer d) => (s.setOwner l (some (.recalled d))).tell (.recall d l)
  | _ => s

def State.callLanes (s : State) (a : Access) (xs : List (LaneReq × Xl)) : State :=
  (laneLines a.op.laneBytes xs).foldl (fun s l => s.callLine a l) s

/-- The access has performed: what its home has held for it is open again, and the host's requests go on (R195). -/
def State.freeGrants (s : State) (a : Access) (xs : List (LaneReq × Xl)) : State :=
  let mine := (laneLines a.op.laneBytes xs).filter (fun l => (s.line l).owner == some (s.grantOf a))
  if mine.isEmpty then s else (mine.foldl (fun s l => s.setOwner l none) s).releaseHeld

/-- Set A, and D for a write, once in each entry that the lanes use (R332). -/
def State.touchAll (s : State) (xs : List (LaneReq × Xl)) (write : Bool) : State :=
  ((xs.map (fun e => e.2.addr)).eraseDups).foldl (fun s p => s.touch ⟨0, 0#64, p⟩ write) s

/-- The clock of the wave: never below F (R179). -/
def State.clock (s : State) : Nat := Max.max s.wave.pts s.floor

/-- Its clock towards some lines: not below its streaming accesses to them (R185). -/
def State.clockOf (s : State) (ls : List Nat) : Nat := ls.foldl (fun p l => Max.max p (Map.find (fun _ => 0) s.wave.seen l)) s.clock

/-- The wave's streaming access has taken its place at its lines (R184, R185, R186). -/
def State.noteStream (s : State) (ls : List Nat) : State :=
  let at' := fun (l : Nat) => Max.max (Map.find (fun _ => 0) s.wave.seen l) (s.line l).wts
  s.setWave { s.wave with
    seen := ls.foldl (fun m l => Map.put (fun _ => 0) m l (at' l)) s.wave.seen
    streamClock := ls.foldl (fun p l => Max.max p (at' l)) s.wave.streamClock }

/-- The access has performed and met poison: it delivers no data (R198, R349). -/
def State.poisoned (s : State) (a : Access) (lane : Nat) : State := (s.putAccess { a with phase := .data .poison lane }).undefine a

/-- The lowest lane that reads a poisoned sector. -/
def State.poisonLane (s : State) (n : Nat) (xs : List (LaneReq × Xl)) : Option Nat :=
  (xs.find? (fun e => s.anyPoison e.2.fpa n)).map (fun e => e.1.lane)

/-! ## Loads (R177, R178, R180, R184, R200 to R202) -/

/-- The values of a load: one for each lane, the entries of a `cbload`. -/
def loadVals (op : AccOp) (lanes : List (Nat × List Byte)) : List (Nat × Word) :=
  match op with
  | .cb _ => lanes.flatMap (fun e => (List.range 16).map (fun c => (c, BitVec.ofNat 64 (ofBytesLE ((e.2.drop (2 * c)).take 2)))))
  | _ => lanes.map (fun e => (e.1, BitVec.ofNat 64 (ofBytesLE e.2)))

/-- A load of a device register (R250, R412): the register of another device stands there. -/
def State.loadReg (s : State) (a : Access) (x : Xl) : State :=
  if fpaDev x.fpa = s.devid.toNat then s.putAccess { a with phase := .done [(0, s.devRead (fpaOff x.fpa) a.op.laneBytes)] }
  else { s with fresh := s.fresh + 1 }.putAccess { a with phase := .done [(0, Config.peerReg s.fresh x.fpa)] }

/-- A load of a line at clock `p` (R180, R181): in place where the wave's core holds it exclusively; else any other core gives it up, and the
wave has a lease. -/
def State.loadLine (s : State) (p line : Nat) : State :=
  let l := s.line line
  if l.excl = some s.crew.core then s.setLine line { l with rts := Max.max l.rts p } else (s.recallLine none line).leaseLine p line

/-- Leases and copies for a load that stands at clock `p` (R180): a streaming load takes none (R184). -/
def State.leaseAll (s : State) (p n : Nat) (a : Access) (xs : List (LaneReq × Xl)) : State :=
  let ls := laneLines n xs
  if a.stream then (ls.foldl (fun s l => s.recallLine (some s.crew.core) l) s).noteStream ls
  else
    let s1 := ls.foldl (fun s l => s.loadLine p l) s
    let cached := (laneLines n (xs.filter (fun e => s.cacheable e.2))).filter (fun l => (s1.line l).excl.isNone)
    let s2 := cached.foldl (fun s l => s.fetchCopy s.crew.core l) s1
    s2.setWave { s2.wave with pts := p }

/-- A load performs at its homes: all lanes at one timestamp (R178, R180). -/
def State.homeLoad (s : State) (a : Access) : State :=
  let n := a.op.laneBytes
  let xs := s.lanesOk a
  if a.phase ≠ .queued ∨ !a.op.isLoad ∨ !(s.inTurn a) ∨ (s.transFault a).isSome then s
  else if !(s.lanesFree a xs) then s.callLanes a xs
  else
    match xs.find? (fun e => fpaSpace e.2.fpa = 2) with
    | some e => (s.touchAll xs false).loadReg a e.2
    | none =>
      let s1 := s.touchAll xs false
      let p := (laneLines n xs).foldl (fun p l => Max.max p (s1.line l).wts) (s1.clockOf (laneLines n xs))
      let s2 := s1.leaseAll p n a xs
      let s3 := match s2.poisonLane n xs with
        | some lane => s2.poisoned a lane
        | none => s2.putAccess { a with phase := .done (loadVals a.op (xs.map (fun (e : LaneReq × Xl) => (e.1.lane, s2.readBytes e.2.fpa n)))) }
      s3.freeGrants a xs

/-- `HOME_LOAD` (R180, R175). A load request reaches its home. -/
def execHomeLoad (crew : Nat) (wave : Nat) (k : Nat) (s : State) : Out :=
  .next (s.atWave crew wave (fun t => match t.access? k with | some a => t.homeLoad a | none => t))

/-- The copy that serves a clock: the core's, or else the device's L2 copy (R180). -/
def State.liveCopy (s : State) (p line : Nat) : Option Copy :=
  let fits := fun (c : Copy) => !c.data.isEmpty && decide (p ≤ c.rts)
  let own := s.copyAt s.crew.core line
  if fits own then some own else if fits (s.copyAt l2Agent line) then some (s.copyAt l2Agent line) else none

/-- The bytes of a span in a copy of its line. -/
def Copy.bytes (c : Copy) (a n : Nat) : List Byte := (c.data.drop (a % 128)).take n

/-- A load that hits leased copies in all its lanes: its values and its clock (R180). -/
def State.hits (s : State) (a : Access) (xs : List (LaneReq × Xl)) : Option (List (Nat × Word) × Nat) :=
  let n := a.op.laneBytes
  let q := s.clockOf (laneLines n xs)
  let cs := xs.map (fun e => (e, s.liveCopy q (lineOf e.2.fpa)))
  let p := cs.foldl (fun p e => match e.2 with | some c => Max.max p c.wts | none => p) q
  if cs.all (fun e => s.cacheable e.1.2 && (match e.2 with | some c => decide (p ≤ c.rts) | none => false)) then
    some (loadVals a.op (cs.map (fun e => (e.1.1.lane, match e.2 with | some c => c.bytes e.1.2.fpa n | none => []))), p)
  else none

/-- A load performs from leased copies, without traffic (R180). -/
def State.copyLoad (s : State) (a : Access) : State :=
  let xs := s.lanesOk a
  if !a.op.isLoad ∨ a.stream ∨ !(s.inTurn a) ∨ (s.transFault a).isSome then s
  else
    match s.hits a xs with
    | none => s
    | some (vals, p) =>
      let s1 := s.touchAll xs false
      (s1.setWave { s1.wave with pts := p }).putAccess { a with phase := .done vals }

/-- The results of an access land in its registers (R50, R200, R204, R206); a wave that stood behind a remote load goes on (R254). -/
def State.land (s : State) (a : Access) (vals : List (Nat × Word)) : State :=
  let v := (vals.map (fun e => e.2)).headD 0#64
  let lanes := vals.map (fun e => (e.1, e.2.setWidth 32))
  let s1 := match a.op with
    | .ld d n signed => s.setS d (if signed && n == 4 then (v.setWidth 32).signExtend 64 else v)
    | .atomic _ d => s.setS d v
    | .vld p => s.setWave (s.wave.landV p lanes)
    | .vatomic _ p => s.setWave (s.wave.landV p lanes)
    | .cb k =>
      let m := vals.foldl (fun (m : Map (BitVec 16)) (e : Nat × Word) => Map.put (fun _ => 0#16) m (16 * k + e.1) (e.2.setWidth 16)) s.wave.cb
      s.setWave { s.wave with cb := m }
    | _ => s
  let s2 : State := s1.dropAccess a.id
  if s2.wave.block = some .remote ∧ !s2.remoteLoad then s2.setWave { s2.wave with block := none } else s2

/-- The first waiting LM word of the wave goes on in its turn: with `whole` in every lane that can, else in one lane (R187, R189). -/
def State.lmHead (s : State) (k : Nat) (whole : Bool) : State :=
  match s.wave.lmq with
  | l :: rest =>
    if l.id ≠ k ∨ !(s.lmTurn l) then s
    else
      match if whole then s.lmRun l else s.lmStep l with
      | (s1, none) => s1.setWave { s1.wave with lmq := rest }
      | (s1, some l') => s1.setWave { s1.wave with lmq := l' :: rest }
  | [] => s

/-- `LOAD_RETURN` (R177, R50, R187). The result of a load or atomic lands in its destination; a load that hits leased copies performs and
lands, and a waiting LM word goes on. -/
def execLoadReturn (crew : Nat) (wave : Nat) (k : Nat) (s : State) : Out :=
  .next (s.atWave crew wave (fun t =>
    match t.access? k with
    | none => t.lmHead k true
    | some a =>
      match a.phase with
      | .done vals => t.land a vals
      | .queued =>
        let u := t.copyLoad a
        match u.access? k with
        | some b => match b.phase with | .done vals => u.land b vals | _ => t
        | none => t
      | _ => t))

/-! ## Stores and atomics (R181, R198, R199, R204 to R206) -/

/-- The timestamp that the home asks for a word's lanes (R178, R181): above every lease, but for a line that the wave's core holds exclusively,
of which no lease of another agent is out. -/
def State.laneStamp (s : State) (n : Nat) (xs : List (LaneReq × Xl)) : Nat :=
  let ls := laneLines n xs
  ls.foldl (fun w l => Max.max w (if (s.line l).excl = some s.crew.core then (s.line l).rts else (s.line l).rts + 1)) (s.clockOf ls)

/-- The wave's core holds the cacheable lines of a store exclusively from now on (R181), but not a line of host memory on which the link has
performed an atomic itself (R196): it has one copy of each, which is the home's. -/
def State.holdLanes (s : State) (a : Access) (xs : List (LaneReq × Xl)) : State :=
  let mine := xs.filter (fun e => s.cacheable e.2 && !(a.op.isAtomic && fpaSpace e.2.fpa == 1))
  (laneLines a.op.laneBytes mine).foldl (fun s l =>
    ((s.setLine l { s.line l with excl := some s.crew.core }).setCopy s.crew.core l (copyDefault 0)).setCopy l2Agent l (copyDefault 0)) s

/-- Where the wave stands after a store or atomic at `w` (R181, R184): a streaming one leaves its clock. -/
def State.storeClock (s : State) (a : Access) (w : Nat) : State := if a.stream then s else s.raisePts w

/-- The lines after a store or atomic. -/
def State.storeLines (s : State) (a : Access) (xs : List (LaneReq × Xl)) : State :=
  if a.stream then s.noteStream (laneLines a.op.laneBytes xs) else s.holdLanes a xs

/-- Stand at a blocking point, unless the wave waits already. -/
def State.standAt (s : State) (b : Block) : State := if s.wave.block.isNone ∧ b ≠ .other then s.wait b else s

/-- A store or atomic asks for its lines (R181): it waits for an open view (R199), and for an engine that owns a line (R190). -/
def State.homeStore (s : State) (a : Access) : State :=
  let n := a.op.laneBytes
  let xs := s.lanesOk a
  if a.phase ≠ .queued ∨ !(a.op.isStore || a.op.isAtomic) ∨ !(s.inTurn a) ∨ (s.transFault a).isSome then s
  else if xs.any (fun e => s.snapWaits e.2) then s.standAt .snap
  else if !(s.lanesFree a xs) then s.callLanes a xs
  else s.putAccess { a with phase := .asked (s.laneStamp n xs) }

/-- `HOME_STORE` (R181). A store or atomic request reaches its home. -/
def execHomeStore (crew : Nat) (wave : Nat) (k : Nat) (s : State) : Out :=
  .next (s.atWave crew wave (fun t => match t.access? k with | some a => t.homeStore a | none => t))

/-- Sectors that the lanes cover together become clean (R198). -/
def State.cleanLanes (s : State) (xs : List (LaneReq × Xl)) : State :=
  xs.foldl (fun s e =>
    if e.2.fpa % 32 = 0 ∧ (List.range 8).all (fun k => xs.any (fun f => f.2.fpa == e.2.fpa + 4 * k)) then s.setPoison e.2.fpa false else s) s

/-- The lanes of a store are written in ascending order at one timestamp (R178). -/
def State.storeLanes (s : State) (a : Access) (w : Nat) (xs : List (LaneReq × Xl)) : State :=
  let n := a.op.laneBytes
  let s1 := (s.touchAll xs true).storeClock a w
  let s2 := (xs.foldl (fun s e => s.plainWrite w e.2.fpa (bytesLE n (e.1.data.toNat % 2 ^ (8 * n)))) s1).cleanLanes xs
  s2.storeLines a xs

/-- The new value of one lane of an atomic (R204, R206). -/
def AccOp.atomNew (o : AccOp) (x b : Word) : Word :=
  match o with
  | .atomic p _ => atomicNew p x b
  | .vatomic false _ => zext64 (x.setWidth 32 + b.setWidth 32)
  | _ => zext64 (add32 (x.setWidth 32) (b.setWidth 32))

/-- The lanes of an atomic in ascending order: each reads and writes at its place (R206). -/
def State.atomLanes (s : State) (w n : Nat) (op : AccOp) (xs : List (LaneReq × Xl)) : State × List (Nat × Word) :=
  match xs with
  | [] => (s, [])
  | e :: rest =>
    let x : Word := BitVec.ofNat 64 (s.readMem e.2.fpa n)
    let s1 := s.plainWrite w e.2.fpa (bytesLE n (op.atomNew x e.1.data).toNat)
    let r := State.atomLanes s1 w n op rest
    (r.1, (e.1.lane, x) :: r.2)

/-- A store or atomic performs with its timestamp (R181, R198, R204). -/
def State.performAt (s : State) (a : Access) (w : Nat) (xs : List (LaneReq × Xl)) : State :=
  let n := a.op.laneBytes
  if a.op.isStore then
    match xs.find? (fun e => fpaSpace e.2.fpa = 2) with
    | some e =>
      let s1 := (s.touchAll xs true).dropAccess a.id
      if fpaDev e.2.fpa = s.devid.toNat then s1.devWrite (fpaOff e.2.fpa) n e.1.data else s1
    | none => ((s.storeLanes a w xs).dropAccess a.id).freeGrants a xs
  else
    match s.poisonLane n xs with
    | some lane => (((s.touchAll xs true).raisePts w).poisoned a lane).freeGrants a xs
    | none =>
      let r := ((s.touchAll xs true).raisePts w).atomLanes w n a.op xs
      ((r.1.storeLines a xs).putAccess { a with phase := .done r.2 }).freeGrants a xs

/-- A store at its home performs once its timestamp is due (R181): its translation and the line's stamps are those of now. -/
def State.storeDue (s : State) (a : Access) (w : Nat) : State :=
  let n := a.op.laneBytes
  let xs := s.lanesOk a
  if (s.transFault a).isSome then s.putAccess { a with phase := .queued }
  else if xs.any (fun e => s.snapWaits e.2) then s.standAt .snap
  else if !(s.lanesFree a xs) then s.callLanes a xs
  else
    let w' := Max.max w (s.laneStamp n xs)
    if s.stampDue w' then s.performAt a w' xs else s

/-- A wait in which a held request stood is over. -/
def Wave.leaveQueueWait (w : Wave) : Wave :=
  match w.block with
  | some .qpush => { w with block := none }
  | some (.qpop _) => { w with block := none }
  | some .snapWord => { w with block := none }
  | _ => w

/-- What a request that stays an access waits for behind the waiters of its queue (R302). -/
def State.behindWaiters (s : State) (q : QReq) (x : Xl) : Option Block := if q.changes then s.behind q x.fpa else none

/-- A queue or barrier request that was held performs in its turn (R349, R358), after the requests that wait at its queue; a header that it has
changed serves them (R302, R305, R306). -/
def State.requestDue (s : State) (a : Access) (q : QReq) : State :=
  if !(s.inTurn a) ∨ (s.queueFault q).isSome then s
  else
    match s.xlateVa q.addr (match q with | .launch _ _ => .load | _ => .atomic) false with
    | .error _ => s
    | .ok x =>
      match s.behindWaiters q x with
      | some b => s.standAt b
      | none =>
        match s.queueRun a.pc q with
        | .wait b => s.standAt b
        | .data c => (s.putAccess { a with phase := .data c 0 }).undefine a
        | .done s1 =>
          let s2 := (s1.setWave s1.wave.leaveQueueWait).dropAccess a.id
          if q.changes then s2.serveWaiters x.fpa else s2

/-- `STORE_PERFORM` (R181, R182, R187, R349). A store or atomic that waits at its home performs; so does a held request or copy command in its
turn, and a lane of an LM word. -/
def execStorePerform (crew : Nat) (wave : Nat) (k : Nat) (s : State) : Out :=
  .next (s.atWave crew wave (fun t =>
    match t.access? k with
    | none => t.lmHead k false
    | some a =>
      match a.phase, a.op with
      | .asked w, _ => t.storeDue a w
      | .queued, .queue q => t.requestDue a q
      | .queued, .cmd c => if t.inTurn a then (match t.performCmd c with | some u => u.dropAccess a.id | none => t) else t
      | _, _ => t))

/-! ## Load-class faults (R347 to R350) -/

/-- A wait that lasts while an access of the wave is held: its word is of the last kind of R348, or waits for a command that is held. -/
def Block.heldWait (b : Block) : Bool :=
  match b with | .other => true | .xwait => true | .tag => true | .gfence => true | .remote => true | _ => false

/-- A load-class fault does not stop the wave yet (R348): it can issue its next word, or waits in a word that has issued. One that is met as
`eret` performs the held accesses is reported at once (R358). -/
def State.runsOn (s : State) : Bool :=
  s.wave.halting.isNone && !(s.wave.drain && s.wave.accs.any Access.left) && (match s.wave.block with | none => s.waveReady | some b => !b.heldWait)

/-- Report the oldest load-class fault of the wave in focus (R347, R348): of a word of its handler it ends the crew; one found in the
handler is held for it; else the wave stops once it can issue no further word. A crew that drains for `ctkill` takes no cause (R360). -/
def State.reportFault (s : State) : State :=
  match s.foundFault with
  | none => s
  | some (a, f) =>
    if !s.wave.live then s.dropAccess a.id
    else if s.focusCrew.dying then s.settleFault a f
    else if a.inh then s.killCrew (some f.1) 0#64
    else if s.wave.inh ∨ s.wave.ret.isSome then
      (s.settleFault a f).raiseLater (loadStop a s.wave.pc f 0)
    else if s.runsOn then s
    else s.raiseFault (a, f)

/-- `LOAD_FAULT_REPORT` (R348, R349, R350). A load-class fault found after issue stops the wave at its report point. -/
def execLoadFaultReport (crew : Nat) (wave : Nat) (s : State) : Out := .next (s.atWave crew wave State.reportFault)

/-! ## Store-fault records (R352, R353) -/

/-- The records of the failed lanes of a store. -/
def Access.records (a : Access) (wave : Nat) (bad : List (LaneReq × Cause)) : List SfRec :=
  match a.op, bad with
  | .st kind stride n, (l, c) :: _ =>
    let mask : BitVec 96 := BitVec.ofNat 96 ((bad.map (fun e => 2 ^ e.1.lane)).sum)
    let va := match kind with
      | 0 => l.va
      | 1 => l.va - 4#64 * sext64 stride * BitVec.ofNat 64 l.lane
      | _ => l.va - zext64 l.off
    let words (f : LaneReq → Nat) : List Byte :=
      (List.range 96).flatMap (fun i => match bad.find? (fun e => e.1.lane = i) with | some e => bytesLE 4 (f e.1) | none => bytesLE 4 0)
    let data := if kind = 0 then bytesLE n (l.data.toNat % 2 ^ (8 * n)) else words (fun e => e.data.toNat)
    let r : SfRec := ⟨va, a.pc, wave, c, n, kind, a.stream, if kind = 1 then stride else 0#32, mask, data⟩
    if kind = 2 then [r, { r with kind := 3, data := words (fun e => e.off.toNat) }] else [r]
  | _, _ => []

/-- A store faults after issue: its good lanes perform, and its failed lanes enter the crew's queue once it has room (R352). A store of a
crew that has ended, or that drains for `ctkill`, is discarded in the lanes that fail (R360), and one of a handler ends the crew (R347). -/
def State.recordStore (s : State) (a : Access) : State :=
  let bad := s.lanesBad a
  let good := s.lanesOk a
  let n := a.op.laneBytes
  let recs := a.records s.wave.idx bad
  let w := s.laneStamp n good
  if !a.op.isStore ∨ !(a.left) ∨ !(s.inTurn a) ∨ bad = [] then s
  else if good.any (fun e => s.snapWaits e.2) then s.standAt .snap
  else if !(s.lanesFree a good) then s.callLanes a good
  else if good ≠ [] ∧ !(s.stampDue w) then s
  else
    if !s.discards ∧ 16 < s.crew.sfr.length + recs.length then s
    else
      let s1 := ((if good = [] then s else s.storeLanes a w good).dropAccess a.id).freeGrants a good
      match recs with
      | [] => s1
      | r :: _ =>
        if s.discards then s1
        else
          let s2 := (s1.setCrew { s1.crew with sfr := s1.crew.sfr ++ recs }).tellTable (bad.head?.elim 0#64 (fun e => e.1.va))
          if a.inh then s2.killCrew (some r.cause) 0#64
          else s2.raiseLater ⟨r.cause, s2.wave.pc, r.va, a.pc, BitVec.ofNat 64 s2.crew.sfr.length, 0#64, false⟩

/-- `STORE_FAULT_RECORD` (R352, R353). A store that faults after issue enters a record and raises its cause. -/
def execStoreFaultRecord (crew : Nat) (wave : Nat) (k : Nat) (s : State) : Out :=
  .next (s.atWave crew wave (fun t => match t.access? k with | some a => t.recordStore a | none => t))

/-! ## Words that are no instruction, fetch faults and handler entry (R46, R48, R62, R63, R354) -/

/-- `ILLEGAL` (R46, R62, R63). A fetched word that is no instruction: one of a vector-class opcode has no effect but its Y bit with an empty
mask; any other raises ILLEGAL precisely. -/
def execIllegal (word : BitVec 32) (s : State) : Out :=
  s.onWave (fun s =>
    if vectorOp (opOf word) && s.wave.maskEmpty then s.advance (word.getLsbD 31) else s.trap .illegal 0#64)

/-- `FETCH_FAULT` (R48). A fetch that faults traps precisely, with the fetch address in TPC and TADDR. -/
def execFetchFault (cause : Cause) (addr : Word) (s : State) : Out :=
  s.onWave (fun s => (s.tellTable addr).raisePrecise ⟨cause, addr, addr, 0#64, 0#64, 0#64, false⟩)

/-- `HANDLER_ENTRY` (R345, R354). A wave that has stopped enters its handler. -/
def execHandlerEntry (crew : Nat) (wave : Nat) (s : State) : Out := .next (s.atWave crew wave State.enterNext)

end Sys2Proof.Machine
end

