-- ==== Sys2Proof/Machine/System.lean ====
section
/-! DEFINITION. Control registers, the window and the branch words (R118 to R120, R169, R291). -/

namespace Sys2Proof.Machine

/-- TSTATE (R42). -/
def State.tstate (s : State) : Word :=
  let w := s.wave
  let rg := match w.region with | some id => id * 2 ^ 16 + 4 | none => 0
  let sfrp := if s.crew.sfr.isEmpty then 0 else 16
  let preq := match s.crew.preempt with | some p => if p.entered then 0 else 8 | none => 0
  let npre := if s.nanos < w.npreEnd then 2 else 0
  BitVec.ofNat 64 (rg + sfrp + preq + npre + (if w.inh then 1 else 0))

/-- The value of a control register, none for an id that R39 does not list (R118). -/
def State.csr (s : State) (id : Nat) : Option Word :=
  let w := s.wave
  let c := s.crew
  match id with
  | 0x000 => some (BitVec.ofNat 64 w.slot)
  | 0x001 => some (BitVec.ofNat 64 c.id)
  | 0x002 => some (BitVec.ofNat 64 c.size)
  | 0x003 => some (BitVec.ofNat 64 c.core)
  | 0x004 => some (s.devid.setWidth 64)
  | 0x005 => some (BitVec.ofNat 64 c.ctx)
  | 0x006 => some (BitVec.ofNat 64 s.cycles)
  | 0x007 => some (BitVec.ofNat 64 s.nanos)
  | 0x008 => some (s.gen.setWidth 64)
  | 0x009 => some (BitVec.ofNat 64 c.stage)
  | 0x010 => some (BitVec.ofNat 64 w.vwb)
  | 0x011 => some (BitVec.ofNat 64 c.valloc)
  | 0x012 => some (w.wctl.setWidth 64)
  | 0x013 => some (w.fflags.setWidth 64)
  | 0x018 => some (zext64 (w.nf.getD 0 0#32))
  | 0x019 => some (zext64 (w.nf.getD 1 0#32))
  | 0x01A => some (zext64 (w.nf.getD 2 0#32))
  | 0x01B => some (zext64 (w.nf.getD 3 0#32))
  | 0x020 => some (BitVec.ofNat 64 c.lmBase)
  | 0x021 => some (BitVec.ofNat 64 c.lmSize)
  | 0x022 => some (BitVec.ofNat 64 s.lmretn)
  | 0x023 => some (BitVec.ofNat 64 lmGuard)
  | 0x024 => some (BitVec.ofNat 64 lmHeldMax)
  | 0x028 => some w.mrwin
  | 0x029 => some (s.coreAt c.core).mchkn
  | 0x030 => some w.tcause
  | 0x031 => some w.tpc
  | 0x032 => some w.taddr
  | 0x033 => some w.tskid
  | 0x034 => some w.tvec
  | 0x035 => some w.tdeadline
  | 0x036 => some (BitVec.ofNat 64 c.sfr.length)
  | 0x037 => some s.tstate
  | 0x040 => some (s.ctxReg c.ctx 0x48)
  | 0x041 => some (s.ctxReg c.ctx 0x50)
  | 0x042 => some (s.ctxReg c.ctx 0x58)
  | 0x048 => some (BitVec.ofNat 64 (s.dieAt (dieOf c.core)).ptok)
  | 0x050 => some w.pfdrop
  | 0x051 => some (s.reg 0x130028)
  | 0x052 => some w.stalecnt
  | _ => none

/-- What reading a control register leaves: the RC registers are cleared (R8, R118). -/
def Wave.afterRead (w : Wave) (id : Nat) : Wave :=
  if id = 0x050 then { w with pfdrop := 0#64 } else if id = 0x052 then { w with stalecnt := 0#64 } else w

/-- A write of a control register (R119): RO and RC registers and reserved bits are left as they are. -/
def Wave.csrWrite (w : Wave) (id : Nat) (v : Word) : Wave :=
  match id with
  | 0x012 => { w with wctl := v.setWidth 4 }
  | 0x013 => { w with fflags := v.setWidth 6 }
  | 0x028 => { w with mrwin := v &&& 0xFFFFFFFFFFFFFF00#64 }
  | 0x034 => { w with tvec := v &&& 0xFFFFFFFFFFFFFFFC#64 }
  | _ => w

/-- The OR of the low halves of a scalar triple (R291). -/
def State.triple (s : State) (d : Reg) : Lane :=
  low32 (s.getS d) ||| low32 (s.getS (d + 1#7)) ||| low32 (s.getS (d + 2#7))

/-- `csrr` (R118). Reads a control register into S[D]. -/
def execCsrr (y : Bool) (d : Reg) (i : BitVec 9) (s : State) : Out :=
  s.onWave (fun s =>
    match s.csr i.toNat with
    | none => s.trap .illegal 0#64
    | some v =>
      if i = 0x013#9 ∧ s.sfuPending then s.wait .other
      else (({ s with wave := s.wave.afterRead i.toNat }).setS d v).advance y)

/-- `csrw` (R119). Writes S[A] to a control register. -/
def execCsrw (y : Bool) (a : Reg) (i : BitVec 9) (s : State) : Out :=
  s.onWave (fun s =>
    let v := s.getS a
    match s.csr i.toNat with
    | none => s.trap .illegal 0#64
    | some _ =>
      if i = 0x012#9 ∧ 4 < (v.setWidth 3).toNat then s.trap .operand 0#64
      else if i = 0x013#9 ∧ s.sfuPending then s.wait .other
      else ({ s with wave := s.wave.csrWrite i.toNat v }).advance y)

/-- `vwin` (R120). Sets the vector window base VWB. -/
def execVwin (y : Bool) (i : BitVec 9) (s : State) : Out :=
  s.onWave (fun s =>
    if i.toNat % 32 ≠ 0 ∨ s.crew.valloc < i.toNat + 32 then s.trap .operand 0#64
    else ({ s with wave := { s.wave with vwb := i.toNat } }).advance y)

/-- `br` (R291). Branches by IMM16 words if S[D] is nonzero. -/
def execBr (y : Bool) (d : Reg) (i : BitVec 16) (s : State) : Out :=
  s.onWave (fun s => s.branch y (s.getS d != 0#64) (s.target16 i))

/-- `brz` (R291). Branches by IMM16 words if S[D] is zero. -/
def execBrz (y : Bool) (d : Reg) (i : BitVec 16) (s : State) : Out :=
  s.onWave (fun s => s.branch y (s.getS d == 0#64) (s.target16 i))

/-- `jmp` (R291). Jumps by IMM23 words. -/
def execJmp (y : Bool) (i : BitVec 23) (s : State) : Out :=
  s.onWave (fun s => s.advanceTo y (s.target23 i))

/-- `call` (R291). Writes pc + 4 to s1 and jumps by IMM23 words. -/
def execCall (y : Bool) (i : BitVec 23) (s : State) : Out :=
  s.onWave (fun s => (s.setS 1#7 (s.wave.pc + 4#64)).advanceTo y (s.target23 i))

/-- `jr` (R291). Jumps to S[A], raising ALIGN if it is not a multiple of 4. -/
def execJr (y : Bool) (a : Reg) (s : State) : Out :=
  s.onWave (fun s =>
    let t := s.getS a
    if t.toNat % 4 ≠ 0 then s.trap .align t else s.advanceTo y t)

/-- `loop` (R291). Decrements S[D] and branches while the result is nonzero. -/
def execLoop (y : Bool) (d : Reg) (i : BitVec 16) (s : State) : Out :=
  s.onWave (fun s =>
    let n := s.getS d - 1#64
    (s.setS d n).branch y (n != 0#64) (s.target16 i))

/-- `bany` (R291). Branches if any bit of the scalar triple at D is set. -/
def execBany (y : Bool) (d : Reg) (i : BitVec 16) (s : State) : Out :=
  s.onWave (fun s =>
    if 125 < d.toNat then s.trap .operand 0#64 else s.branch y (s.triple d != 0#32) (s.target16 i))

/-- `bnone` (R291). Branches if no bit of the scalar triple at D is set. -/
def execBnone (y : Bool) (d : Reg) (i : BitVec 16) (s : State) : Out :=
  s.onWave (fun s =>
    if 125 < d.toNat then s.trap .operand 0#64 else s.branch y (s.triple d == 0#32) (s.target16 i))

/-- `nfset` (R169). Writes an nf register unchecked. -/
def execNfset (y : Bool) (d : Reg) (a : Reg) (s : State) : Out :=
  s.onWave (fun s =>
    if 3 < d.toNat then s.trap .operand 0#64
    else ({ s with wave := { s.wave with nf := s.wave.nf.setIfInBounds d.toNat (low32 (s.getS a)) } }).advance y)

end Sys2Proof.Machine
end

