-- ==== Sys2Proof/Machine/VectorInt.lean ====
section
/-! DEFINITION. The vector integer words, lane moves, reductions, single lanes, conversions and packed lanes (R107 to R117). -/

namespace Sys2Proof.Machine

/-- Fold an operation over the lanes of a reduction (R113); 0 for no lane, which never reaches it. -/
def foldLanes (f : Lane → Lane → Lane) (xs : List Lane) : Lane :=
  match xs with
  | [] => 0#32
  | x :: rest => rest.foldl f x

/-- One level of the addition tree: neighbours in pairs (R114). -/
def addPairs (m : RMode) (xs : List Nat) : List Nat × Flags :=
  match xs with
  | a :: b :: rest =>
    let r := binary32.fadd m a b
    let t := addPairs m rest
    (r.1 :: t.1, r.2 ||| t.2)
  | xs => (xs, 0#6)

/-- The tree of R114: 96, 48, 24, 12, 6, 3 values, then the last two additions. -/
def addTree (m : RMode) (xs : List Nat) : Nat × Flags :=
  let l1 := addPairs m xs
  let l2 := addPairs m l1.1
  let l3 := addPairs m l2.1
  let l4 := addPairs m l3.1
  let l5 := addPairs m l4.1
  let a := binary32.fadd m (l5.1.getD 0 0) (l5.1.getD 1 0)
  let b := binary32.fadd m a.1 (l5.1.getD 2 0)
  (b.1, l1.2 ||| l2.2 ||| l3.2 ||| l4.2 ||| l5.2 ||| a.2 ||| b.2)

/-- The extremum of binary32 lanes (R114): NaNs are passed over, a signalling one raises NV. -/
def minmaxLanes (top : Bool) (xs : List Nat) : Nat × Flags :=
  let fl := xs.foldl (fun acc x => acc ||| (binary32.decode x).sig) 0#6
  match xs.filter (fun x => !(binary32.decode x).isNan) with
  | [] => (nan32.toNat, fl)
  | x :: rest => (rest.foldl (fun b v => (binary32.fminmax top b v).1) x, fl)

/-- An integer result as a lane. -/
def laneInt (r : Int × Flags) : Lane × Flags := (BitVec.ofInt 32 r.1, r.2)

/-- A 16-bit result in one half of a lane (R116). -/
def halfResult (hi : Bool) (d : Lane) (r : Nat × Flags) : Lane × Flags := (putHalf hi d (BitVec.ofNat 16 r.1), r.2)

/-- `vadd` (R107). Lane-wise 32-bit addition. -/
def execVadd (y : Bool) (d : Reg) (a : Reg) (b : Reg) (la : Bool) (lb : Bool) (s : State) : Out :=
  s.lane3 y d a b la lb (fun a b => a + b)

/-- `vsub` (R107). Lane-wise 32-bit subtraction. -/
def execVsub (y : Bool) (d : Reg) (a : Reg) (b : Reg) (la : Bool) (lb : Bool) (s : State) : Out :=
  s.lane3 y d a b la lb (fun a b => a - b)

/-- `vmul` (R107). Lane-wise low 32 bits of the product. -/
def execVmul (y : Bool) (d : Reg) (a : Reg) (b : Reg) (la : Bool) (lb : Bool) (s : State) : Out :=
  s.lane3 y d a b la lb (fun a b => a * b)

/-- `vmulh` (R107). Lane-wise signed high product. -/
def execVmulh (y : Bool) (d : Reg) (a : Reg) (b : Reg) (la : Bool) (lb : Bool) (s : State) : Out :=
  s.lane3 y d a b la lb (fun a b => mulhS a b)

/-- `vmulhn` (R107). Lane-wise unsigned high product. -/
def execVmulhn (y : Bool) (d : Reg) (a : Reg) (b : Reg) (la : Bool) (lb : Bool) (s : State) : Out :=
  s.lane3 y d a b la lb (fun a b => mulhU a b)

/-- `vand` (R107). Lane-wise AND. -/
def execVand (y : Bool) (d : Reg) (a : Reg) (b : Reg) (la : Bool) (lb : Bool) (s : State) : Out :=
  s.lane3 y d a b la lb (fun a b => a &&& b)

/-- `vor` (R107). Lane-wise OR. -/
def execVor (y : Bool) (d : Reg) (a : Reg) (b : Reg) (la : Bool) (lb : Bool) (s : State) : Out :=
  s.lane3 y d a b la lb (fun a b => a ||| b)

/-- `vxor` (R107). Lane-wise XOR. -/
def execVxor (y : Bool) (d : Reg) (a : Reg) (b : Reg) (la : Bool) (lb : Bool) (s : State) : Out :=
  s.lane3 y d a b la lb (fun a b => a ^^^ b)

/-- `vshl` (R107). Lane-wise left shift by b[4:0]. -/
def execVshl (y : Bool) (d : Reg) (a : Reg) (b : Reg) (la : Bool) (lb : Bool) (s : State) : Out :=
  s.lane3 y d a b la lb (fun a b => shl a (amount32 b))

/-- `vshr` (R107). Lane-wise logical right shift. -/
def execVshr (y : Bool) (d : Reg) (a : Reg) (b : Reg) (la : Bool) (lb : Bool) (s : State) : Out :=
  s.lane3 y d a b la lb (fun a b => shr a (amount32 b))

/-- `vsha` (R107). Lane-wise arithmetic right shift. -/
def execVsha (y : Bool) (d : Reg) (a : Reg) (b : Reg) (la : Bool) (lb : Bool) (s : State) : Out :=
  s.lane3 y d a b la lb (fun a b => sha a (amount32 b))

/-- `vmin` (R107). Lane-wise signed minimum. -/
def execVmin (y : Bool) (d : Reg) (a : Reg) (b : Reg) (la : Bool) (lb : Bool) (s : State) : Out :=
  s.lane3 y d a b la lb (fun a b => minS a b)

/-- `vmax` (R107). Lane-wise signed maximum. -/
def execVmax (y : Bool) (d : Reg) (a : Reg) (b : Reg) (la : Bool) (lb : Bool) (s : State) : Out :=
  s.lane3 y d a b la lb (fun a b => maxS a b)

/-- `vminn` (R107). Lane-wise unsigned minimum. -/
def execVminn (y : Bool) (d : Reg) (a : Reg) (b : Reg) (la : Bool) (lb : Bool) (s : State) : Out :=
  s.lane3 y d a b la lb (fun a b => minU a b)

/-- `vmaxn` (R107). Lane-wise unsigned maximum. -/
def execVmaxn (y : Bool) (d : Reg) (a : Reg) (b : Reg) (la : Bool) (lb : Bool) (s : State) : Out :=
  s.lane3 y d a b la lb (fun a b => maxU a b)

/-- `vhadd` (R117). Packed 16-bit addition. -/
def execVhadd (y : Bool) (d : Reg) (a : Reg) (b : Reg) (la : Bool) (lb : Bool) (s : State) : Out :=
  s.lane3 y d a b la lb (fun a b => halves (fun a b => a + b) a b)

/-- `vhsub` (R117). Packed 16-bit subtraction. -/
def execVhsub (y : Bool) (d : Reg) (a : Reg) (b : Reg) (la : Bool) (lb : Bool) (s : State) : Out :=
  s.lane3 y d a b la lb (fun a b => halves (fun a b => a - b) a b)

/-- `vhmul` (R117). Packed 16-bit low product. -/
def execVhmul (y : Bool) (d : Reg) (a : Reg) (b : Reg) (la : Bool) (lb : Bool) (s : State) : Out :=
  s.lane3 y d a b la lb (fun a b => halves (fun a b => a * b) a b)

/-- `vhmin` (R117). Packed signed 16-bit minimum. -/
def execVhmin (y : Bool) (d : Reg) (a : Reg) (b : Reg) (la : Bool) (lb : Bool) (s : State) : Out :=
  s.lane3 y d a b la lb (fun a b => halves minS a b)

/-- `vhmax` (R117). Packed signed 16-bit maximum. -/
def execVhmax (y : Bool) (d : Reg) (a : Reg) (b : Reg) (la : Bool) (lb : Bool) (s : State) : Out :=
  s.lane3 y d a b la lb (fun a b => halves maxS a b)

/-- `vhminn` (R117). Packed unsigned 16-bit minimum. -/
def execVhminn (y : Bool) (d : Reg) (a : Reg) (b : Reg) (la : Bool) (lb : Bool) (s : State) : Out :=
  s.lane3 y d a b la lb (fun a b => halves minU a b)

/-- `vhmaxn` (R117). Packed unsigned 16-bit maximum. -/
def execVhmaxn (y : Bool) (d : Reg) (a : Reg) (b : Reg) (la : Bool) (lb : Bool) (s : State) : Out :=
  s.lane3 y d a b la lb (fun a b => halves maxU a b)

/-- `vbadd` (R117). Packed 8-bit addition. -/
def execVbadd (y : Bool) (d : Reg) (a : Reg) (b : Reg) (la : Bool) (lb : Bool) (s : State) : Out :=
  s.lane3 y d a b la lb (fun a b => quarters (fun a b => a + b) a b)

/-- `vbsub` (R117). Packed 8-bit subtraction. -/
def execVbsub (y : Bool) (d : Reg) (a : Reg) (b : Reg) (la : Bool) (lb : Bool) (s : State) : Out :=
  s.lane3 y d a b la lb (fun a b => quarters (fun a b => a - b) a b)

/-- `vbmin` (R117). Packed signed 8-bit minimum. -/
def execVbmin (y : Bool) (d : Reg) (a : Reg) (b : Reg) (la : Bool) (lb : Bool) (s : State) : Out :=
  s.lane3 y d a b la lb (fun a b => quarters minS a b)

/-- `vbmax` (R117). Packed signed 8-bit maximum. -/
def execVbmax (y : Bool) (d : Reg) (a : Reg) (b : Reg) (la : Bool) (lb : Bool) (s : State) : Out :=
  s.lane3 y d a b la lb (fun a b => quarters maxS a b)

/-- `vmad` (R107). Lane-wise a x b + d into D. -/
def execVmad (y : Bool) (d : Reg) (a : Reg) (b : Reg) (la : Bool) (lb : Bool) (s : State) : Out :=
  s.laneAcc y d a b la lb (fun a b d => a * b + d)

/-- `vaddi` (R107). Lane-wise addition of the sign-extended IMM9. -/
def execVaddi (y : Bool) (d : Reg) (a : Reg) (i : BitVec 9) (s : State) : Out :=
  s.lane2 y d a false (fun a => a + i.signExtend 32)

/-- `vabs` (R108). Lane-wise absolute value. -/
def execVabs (y : Bool) (d : Reg) (a : Reg) (la : Bool) (s : State) : Out :=
  s.lane2 y d a la (fun a => absS a)

/-- `vneg` (R108). Lane-wise negation. -/
def execVneg (y : Bool) (d : Reg) (a : Reg) (la : Bool) (s : State) : Out :=
  s.lane2 y d a la (fun a => 0#32 - a)

/-- `vnot` (R108). Lane-wise NOT. -/
def execVnot (y : Bool) (d : Reg) (a : Reg) (la : Bool) (s : State) : Out :=
  s.lane2 y d a la (fun a => ~~~a)

/-- `vclz` (R108). Lane-wise leading zero count. -/
def execVclz (y : Bool) (d : Reg) (a : Reg) (la : Bool) (s : State) : Out :=
  s.lane2 y d a la (fun a => BitVec.ofNat 32 (clz a))

/-- `vpopc` (R108). Lane-wise population count. -/
def execVpopc (y : Bool) (d : Reg) (a : Reg) (la : Bool) (s : State) : Out :=
  s.lane2 y d a la (fun a => BitVec.ofNat 32 (popc a))

/-- `vbrev` (R108). Lane-wise bit reversal. -/
def execVbrev (y : Bool) (d : Reg) (a : Reg) (la : Bool) (s : State) : Out :=
  s.lane2 y d a la (fun a => brev a)

/-- `vmov` (R108). Lane-wise move. -/
def execVmov (y : Bool) (d : Reg) (a : Reg) (la : Bool) (s : State) : Out :=
  s.lane2 y d a la (fun a => a)

/-- `vsext16` (R108). Lane-wise sign extension of the low 16 bits. -/
def execVsext16 (y : Bool) (d : Reg) (a : Reg) (la : Bool) (s : State) : Out :=
  s.lane2 y d a la (fun a => Machine.sext32 (a.setWidth 16))

/-- `vbcast` (R109). Writes S[A][31:0] into every active lane of V[D]. -/
def execVbcast (y : Bool) (d : Reg) (a : Reg) (s : State) : Out :=
  s.onWave (fun s => s.vectorWord y [] (some d) (fun s =>
    let v := low32 (s.getS a)
    (s.writeV (s.wave.phys d) (fun _ => v)).advance y))

/-- `vlaneid` (R109). Writes each active lane's number into it. -/
def execVlaneid (y : Bool) (d : Reg) (s : State) : Out :=
  s.onWave (fun s => s.vectorWord y [] (some d) (fun s =>
    (s.writeV (s.wave.phys d) (fun i => BitVec.ofNat 32 i)).advance y))

/-- `vseq` (R110). Lane-wise equality compare into a scalar triple. -/
def execVseq (y : Bool) (d : Reg) (a : Reg) (b : Reg) (la : Bool) (lb : Bool) (s : State) : Out :=
  s.compare y d a b la lb (fun a b => a == b) (fun _ _ => 0#6)

/-- `vsne` (R110). Lane-wise inequality compare into a scalar triple. -/
def execVsne (y : Bool) (d : Reg) (a : Reg) (b : Reg) (la : Bool) (lb : Bool) (s : State) : Out :=
  s.compare y d a b la lb (fun a b => a != b) (fun _ _ => 0#6)

/-- `vslt` (R110). Lane-wise signed less-than into a scalar triple. -/
def execVslt (y : Bool) (d : Reg) (a : Reg) (b : Reg) (la : Bool) (lb : Bool) (s : State) : Out :=
  s.compare y d a b la lb (fun a b => ltS a b) (fun _ _ => 0#6)

/-- `vsle` (R110). Lane-wise signed less-or-equal into a scalar triple. -/
def execVsle (y : Bool) (d : Reg) (a : Reg) (b : Reg) (la : Bool) (lb : Bool) (s : State) : Out :=
  s.compare y d a b la lb (fun a b => leS a b) (fun _ _ => 0#6)

/-- `vsltn` (R110). Lane-wise unsigned less-than into a scalar triple. -/
def execVsltn (y : Bool) (d : Reg) (a : Reg) (b : Reg) (la : Bool) (lb : Bool) (s : State) : Out :=
  s.compare y d a b la lb (fun a b => ltU a b) (fun _ _ => 0#6)

/-- `vslen` (R110). Lane-wise unsigned less-or-equal into a scalar triple. -/
def execVslen (y : Bool) (d : Reg) (a : Reg) (b : Reg) (la : Bool) (lb : Bool) (s : State) : Out :=
  s.compare y d a b la lb (fun a b => leU a b) (fun _ _ => 0#6)

/-- `vperm` (R111). Gathers lanes of V[A] by the indices in V[B]. -/
def execVperm (y : Bool) (d : Reg) (a : Reg) (b : Reg) (la : Bool) (lb : Bool) (s : State) : Out :=
  s.permute y d a [(a, la), (b, lb)] (fun s i =>
    let j := ((s.readV 1 b).getD i 0#32).toNat
    if j ≤ 95 then some j else none)

/-- `vxshf` (R112). Each lane receives lane i XOR amt. -/
def execVxshf (y : Bool) (d : Reg) (a : Reg) (i : BitVec 7) (s : State) : Out :=
  s.permute y d a [(a, false)] (fun _ k => if k ^^^ i.toNat ≤ 95 then some (k ^^^ i.toNat) else none)

/-- `vrotu` (R112). Rotates lanes towards higher lanes by amt. -/
def execVrotu (y : Bool) (d : Reg) (a : Reg) (i : BitVec 7) (s : State) : Out :=
  s.permute y d a [(a, false)] (fun _ k => some ((k + 192 - i.toNat) % 96))

/-- `vrotd` (R112). Rotates lanes towards lower lanes by amt. -/
def execVrotd (y : Bool) (d : Reg) (a : Reg) (i : BitVec 7) (s : State) : Out :=
  s.permute y d a [(a, false)] (fun _ k => some ((k + i.toNat) % 96))

/-- `vblane` (R112). Broadcasts lane amt to every active lane. -/
def execVblane (y : Bool) (d : Reg) (a : Reg) (i : BitVec 7) (s : State) : Out :=
  s.permute y d a [(a, false)] (fun _ _ => if i.toNat ≤ 95 then some i.toNat else none)

/-- `vred.add` (R113). Exact signed sum of active lanes into S[D]. -/
def execVredAdd (y : Bool) (d : Reg) (a : Reg) (la : Bool) (s : State) : Out :=
  s.reduce y d a la (fun xs => BitVec.ofInt 64 (xs.foldl (fun acc x => acc + x.toInt) 0))

/-- `vred.min` (R113). Signed minimum of active lanes. -/
def execVredMin (y : Bool) (d : Reg) (a : Reg) (la : Bool) (s : State) : Out :=
  s.reduce y d a la (fun xs => sext64 (foldLanes minS xs))

/-- `vred.max` (R113). Signed maximum of active lanes. -/
def execVredMax (y : Bool) (d : Reg) (a : Reg) (la : Bool) (s : State) : Out :=
  s.reduce y d a la (fun xs => sext64 (foldLanes maxS xs))

/-- `vred.minn` (R113). Unsigned minimum of active lanes. -/
def execVredMinn (y : Bool) (d : Reg) (a : Reg) (la : Bool) (s : State) : Out :=
  s.reduce y d a la (fun xs => zext64 (foldLanes minU xs))

/-- `vred.maxn` (R113). Unsigned maximum of active lanes. -/
def execVredMaxn (y : Bool) (d : Reg) (a : Reg) (la : Bool) (s : State) : Out :=
  s.reduce y d a la (fun xs => zext64 (foldLanes maxU xs))

/-- `vred.and` (R113). AND of active lanes. -/
def execVredAnd (y : Bool) (d : Reg) (a : Reg) (la : Bool) (s : State) : Out :=
  s.reduce y d a la (fun xs => zext64 (foldLanes (fun a b => a &&& b) xs))

/-- `vred.or` (R113). OR of active lanes. -/
def execVredOr (y : Bool) (d : Reg) (a : Reg) (la : Bool) (s : State) : Out :=
  s.reduce y d a la (fun xs => zext64 (foldLanes (fun a b => a ||| b) xs))

/-- `vred.xor` (R113). XOR of active lanes. -/
def execVredXor (y : Bool) (d : Reg) (a : Reg) (la : Bool) (s : State) : Out :=
  s.reduce y d a la (fun xs => zext64 (foldLanes (fun a b => a ^^^ b) xs))

/-- `vred.fadd` (R114). binary32 sum of lanes along a fixed tree. -/
def execVredFadd (y : Bool) (d : Reg) (a : Reg) (la : Bool) (s : State) : Out :=
  s.onWave (fun s => s.vectorWord y [(a, la)] none (fun s =>
    let va := s.readV 0 a
    let xs := (List.range 96).map (fun i => if s.wave.active i then (va.getD i 0#32).toNat else 0)
    let r := addTree s.rm xs
    (((s.setS d (BitVec.ofNat 64 r.1)).freeUsed [(a, la)] none).orFlags r.2).advance y))

/-- `vred.fmin` (R114). binary32 minimum of active lanes. -/
def execVredFmin (y : Bool) (d : Reg) (a : Reg) (la : Bool) (s : State) : Out :=
  s.onWave (fun s => s.vectorWord y [(a, la)] none (fun s =>
    let va := s.readV 0 a
    let r := minmaxLanes false (s.wave.lanes.map (fun i => (va.getD i 0#32).toNat))
    (((s.setS d (BitVec.ofNat 64 r.1)).freeUsed [(a, la)] none).orFlags r.2).advance y))

/-- `vred.fmax` (R114). binary32 maximum of active lanes. -/
def execVredFmax (y : Bool) (d : Reg) (a : Reg) (la : Bool) (s : State) : Out :=
  s.onWave (fun s => s.vectorWord y [(a, la)] none (fun s =>
    let va := s.readV 0 a
    let r := minmaxLanes true (s.wave.lanes.map (fun i => (va.getD i 0#32).toNat))
    (((s.setS d (BitVec.ofNat 64 r.1)).freeUsed [(a, la)] none).orFlags r.2).advance y))

/-- `vext` (R115). Copies lane S[B] of V[A] into S[D]. -/
def execVext (y : Bool) (d : Reg) (a : Reg) (b : Reg) (la : Bool) (s : State) : Out :=
  s.onWave (fun s => s.vectorWord y [(a, la)] none (fun s =>
    let j := (s.getS b).toNat
    if 95 < j then s.trap .operand 0#64
    else ((s.setS d (zext64 ((s.readV 0 a).getD j 0#32))).freeUsed [(a, la)] none).advance y))

/-- `vins` (R115). Writes S[A][31:0] into lane S[B] of V[D] if active. -/
def execVins (y : Bool) (d : Reg) (a : Reg) (b : Reg) (s : State) : Out :=
  s.onWave (fun s => s.vectorWord y [] (some d) (fun s =>
    let j := (s.getS b).toNat
    if 95 < j then s.trap .operand 0#64
    else
      let x := low32 (s.getS a)
      let phys := s.wave.phys d
      let old := s.oldV phys
      let v : Lanes := Vector.ofFn (fun i => if i.val = j && s.wave.active j then x else old.getD i.val 0#32)
      ({ s with wave := (s.wave.revive phys).setVreg phys v }).advance y))

/-- `vcvt.f32.i32` (R116). Converts i32 lanes to binary32. -/
def execVcvtF32I32 (y : Bool) (d : Reg) (a : Reg) (la : Bool) (s : State) : Out :=
  s.flane2 y d a la (fun m a => lane32 (binary32.ofInt m a.toInt))

/-- `vcvt.f32.n32` (R116). Converts n32 lanes to binary32. -/
def execVcvtF32N32 (y : Bool) (d : Reg) (a : Reg) (la : Bool) (s : State) : Out :=
  s.flane2 y d a la (fun m a => lane32 (binary32.ofInt m a.toNat))

/-- `vcvt.i32.f32` (R116). Converts binary32 lanes to i32. -/
def execVcvtI32F32 (y : Bool) (d : Reg) (a : Reg) (la : Bool) (s : State) : Out :=
  s.flane2 y d a la (fun m a => laneInt (Num.toInt m (binary32.decode a.toNat) (-2147483648) 2147483647))

/-- `vcvt.n32.f32` (R116). Converts binary32 lanes to n32. -/
def execVcvtN32F32 (y : Bool) (d : Reg) (a : Reg) (la : Bool) (s : State) : Out :=
  s.flane2 y d a la (fun m a => laneInt (Num.toInt m (binary32.decode a.toNat) 0 4294967295))

/-- `vcvt.h.f32.lo` (R116). Rounds binary32 to binary16 into the low half. -/
def execVcvtHF32Lo (y : Bool) (d : Reg) (a : Reg) (la : Bool) (s : State) : Out :=
  s.flaneAcc2 y d a la (fun m a d => halfResult false d (binary32.convert binary16 m a.toNat))

/-- `vcvt.f32.h.lo` (R116). Widens the low binary16 half to binary32. -/
def execVcvtF32HLo (y : Bool) (d : Reg) (a : Reg) (la : Bool) (s : State) : Out :=
  s.flane2 y d a la (fun m a => lane32 (binary16.convert binary32 m (half false a).toNat))

/-- `vcvt.bf.f32.lo` (R116). Rounds binary32 to bfloat16 into the low half. -/
def execVcvtBfF32Lo (y : Bool) (d : Reg) (a : Reg) (la : Bool) (s : State) : Out :=
  s.flaneAcc2 y d a la (fun m a d => halfResult false d (binary32.convert bfloat16 m a.toNat))

/-- `vcvt.f32.bf.lo` (R116). Widens the low bfloat16 half to binary32. -/
def execVcvtF32BfLo (y : Bool) (d : Reg) (a : Reg) (la : Bool) (s : State) : Out :=
  s.flane2 y d a la (fun m a => lane32 (bfloat16.convert binary32 m (half false a).toNat))

/-- `vcvt.i16.i32.lo` (R116). Saturates i32 to i16 into the low half. -/
def execVcvtI16I32Lo (y : Bool) (d : Reg) (a : Reg) (la : Bool) (s : State) : Out :=
  s.flaneAcc2 y d a la (fun _ a d => (putHalf false d (satS 16 a.toInt), 0#6))

/-- `vcvt.i32.i16.lo` (R116). Sign-extends the low i16 half to i32. -/
def execVcvtI32I16Lo (y : Bool) (d : Reg) (a : Reg) (la : Bool) (s : State) : Out :=
  s.flane2 y d a la (fun _ a => (sext32 (half false a), 0#6))

/-- `vcvt.h.f32.hi` (R116). Rounds binary32 to binary16 into the high half. -/
def execVcvtHF32Hi (y : Bool) (d : Reg) (a : Reg) (la : Bool) (s : State) : Out :=
  s.flaneAcc2 y d a la (fun m a d => halfResult true d (binary32.convert binary16 m a.toNat))

/-- `vcvt.f32.h.hi` (R116). Widens the high binary16 half to binary32. -/
def execVcvtF32HHi (y : Bool) (d : Reg) (a : Reg) (la : Bool) (s : State) : Out :=
  s.flane2 y d a la (fun m a => lane32 (binary16.convert binary32 m (half true a).toNat))

/-- `vcvt.bf.f32.hi` (R116). Rounds binary32 to bfloat16 into the high half. -/
def execVcvtBfF32Hi (y : Bool) (d : Reg) (a : Reg) (la : Bool) (s : State) : Out :=
  s.flaneAcc2 y d a la (fun m a d => halfResult true d (binary32.convert bfloat16 m a.toNat))

/-- `vcvt.f32.bf.hi` (R116). Widens the high bfloat16 half to binary32. -/
def execVcvtF32BfHi (y : Bool) (d : Reg) (a : Reg) (la : Bool) (s : State) : Out :=
  s.flane2 y d a la (fun m a => lane32 (bfloat16.convert binary32 m (half true a).toNat))

/-- `vcvt.i16.i32.hi` (R116). Saturates i32 to i16 into the high half. -/
def execVcvtI16I32Hi (y : Bool) (d : Reg) (a : Reg) (la : Bool) (s : State) : Out :=
  s.flaneAcc2 y d a la (fun _ a d => (putHalf true d (satS 16 a.toInt), 0#6))

/-- `vcvt.i32.i16.hi` (R116). Sign-extends the high i16 half to i32. -/
def execVcvtI32I16Hi (y : Bool) (d : Reg) (a : Reg) (la : Bool) (s : State) : Out :=
  s.flane2 y d a la (fun _ a => (sext32 (half true a), 0#6))

end Sys2Proof.Machine
end

