-- ==== Sys2Proof/Machine/Dispatch.lean ====
section
/-! DEFINITION. One arm for every instruction: the words of R58 to R61, then the steps of engines, fabric and host, in the order of the
opcode table. -/

namespace Sys2Proof.Machine

/-- What one instruction does to the machine. -/
def exec (i : Instr) (s : State) : Host.Outcome State Fault Refusal :=
  match i with
  | .nop y => Sys2Proof.Machine.execNop y s
  | .add y d a b => Sys2Proof.Machine.execAdd y d a b s
  | .sub y d a b => Sys2Proof.Machine.execSub y d a b s
  | .addi y d a im => Sys2Proof.Machine.execAddi y d a im s
  | .mul y d a b => Sys2Proof.Machine.execMul y d a b s
  | .mulh y d a b => Sys2Proof.Machine.execMulh y d a b s
  | .mulhn y d a b => Sys2Proof.Machine.execMulhn y d a b s
  | .div y d a b => Sys2Proof.Machine.execDiv y d a b s
  | .divn y d a b => Sys2Proof.Machine.execDivn y d a b s
  | .rem y d a b => Sys2Proof.Machine.execRem y d a b s
  | .remn y d a b => Sys2Proof.Machine.execRemn y d a b s
  | .and y d a b => Sys2Proof.Machine.execAnd y d a b s
  | .or y d a b => Sys2Proof.Machine.execOr y d a b s
  | .xor y d a b => Sys2Proof.Machine.execXor y d a b s
  | .andn y d a b => Sys2Proof.Machine.execAndn y d a b s
  | .andi y d a im => Sys2Proof.Machine.execAndi y d a im s
  | .ori y d a im => Sys2Proof.Machine.execOri y d a im s
  | .xori y d a im => Sys2Proof.Machine.execXori y d a im s
  | .shl y d a b => Sys2Proof.Machine.execShl y d a b s
  | .shr y d a b => Sys2Proof.Machine.execShr y d a b s
  | .sha y d a b => Sys2Proof.Machine.execSha y d a b s
  | .shli y d a im => Sys2Proof.Machine.execShli y d a im s
  | .shri y d a im => Sys2Proof.Machine.execShri y d a im s
  | .shai y d a im => Sys2Proof.Machine.execShai y d a im s
  | .min y d a b => Sys2Proof.Machine.execMin y d a b s
  | .max y d a b => Sys2Proof.Machine.execMax y d a b s
  | .minn y d a b => Sys2Proof.Machine.execMinn y d a b s
  | .maxn y d a b => Sys2Proof.Machine.execMaxn y d a b s
  | .seq y d a b => Sys2Proof.Machine.execSeq y d a b s
  | .slt y d a b => Sys2Proof.Machine.execSlt y d a b s
  | .sltn y d a b => Sys2Proof.Machine.execSltn y d a b s
  | .clz y d a => Sys2Proof.Machine.execClz y d a s
  | .ctz y d a => Sys2Proof.Machine.execCtz y d a s
  | .popc y d a => Sys2Proof.Machine.execPopc y d a s
  | .brev y d a => Sys2Proof.Machine.execBrev y d a s
  | .bswap y d a => Sys2Proof.Machine.execBswap y d a s
  | .sext8 y d a => Sys2Proof.Machine.execSext8 y d a s
  | .sext16 y d a => Sys2Proof.Machine.execSext16 y d a s
  | .sext32 y d a => Sys2Proof.Machine.execSext32 y d a s
  | .zext8 y d a => Sys2Proof.Machine.execZext8 y d a s
  | .zext16 y d a => Sys2Proof.Machine.execZext16 y d a s
  | .zext32 y d a => Sys2Proof.Machine.execZext32 y d a s
  | .abs y d a => Sys2Proof.Machine.execAbs y d a s
  | .neg y d a => Sys2Proof.Machine.execNeg y d a s
  | .not y d a => Sys2Proof.Machine.execNot y d a s
  | .sel y d a b => Sys2Proof.Machine.execSel y d a b s
  | .set0 y d im => Sys2Proof.Machine.execSet0 y d im s
  | .set16 y d im => Sys2Proof.Machine.execSet16 y d im s
  | .set32 y d im => Sys2Proof.Machine.execSet32 y d im s
  | .set48 y d im => Sys2Proof.Machine.execSet48 y d im s
  | .adpc y d im => Sys2Proof.Machine.execAdpc y d im s
  | .slti y d a im => Sys2Proof.Machine.execSlti y d a im s
  | .fadd y d a b => Sys2Proof.Machine.execFadd y d a b s
  | .fsub y d a b => Sys2Proof.Machine.execFsub y d a b s
  | .fmul y d a b => Sys2Proof.Machine.execFmul y d a b s
  | .ffma y d a b => Sys2Proof.Machine.execFfma y d a b s
  | .fdiv y d a b => Sys2Proof.Machine.execFdiv y d a b s
  | .fmin y d a b => Sys2Proof.Machine.execFmin y d a b s
  | .fmax y d a b => Sys2Proof.Machine.execFmax y d a b s
  | .fsqrt y d a => Sys2Proof.Machine.execFsqrt y d a s
  | .fabs y d a => Sys2Proof.Machine.execFabs y d a s
  | .fneg y d a => Sys2Proof.Machine.execFneg y d a s
  | .fclass y d a => Sys2Proof.Machine.execFclass y d a s
  | .cvtF64I64 y d a => Sys2Proof.Machine.execCvtF64I64 y d a s
  | .cvtF64N64 y d a => Sys2Proof.Machine.execCvtF64N64 y d a s
  | .cvtI64F64 y d a => Sys2Proof.Machine.execCvtI64F64 y d a s
  | .cvtN64F64 y d a => Sys2Proof.Machine.execCvtN64F64 y d a s
  | .cvtF32F64 y d a => Sys2Proof.Machine.execCvtF32F64 y d a s
  | .cvtF64F32 y d a => Sys2Proof.Machine.execCvtF64F32 y d a s
  | .feq y d a b => Sys2Proof.Machine.execFeq y d a b s
  | .flt y d a b => Sys2Proof.Machine.execFlt y d a b s
  | .fle y d a b => Sys2Proof.Machine.execFle y d a b s
  | .br y d im => Sys2Proof.Machine.execBr y d im s
  | .brz y d im => Sys2Proof.Machine.execBrz y d im s
  | .jmp y im => Sys2Proof.Machine.execJmp y im s
  | .call y im => Sys2Proof.Machine.execCall y im s
  | .jr y a => Sys2Proof.Machine.execJr y a s
  | .loop y d im => Sys2Proof.Machine.execLoop y d im s
  | .exit y => Sys2Proof.Machine.execExit y s
  | .bany y d im => Sys2Proof.Machine.execBany y d im s
  | .bnone y d im => Sys2Proof.Machine.execBnone y d im s
  | .sltni y d a im => Sys2Proof.Machine.execSltni y d a im s
  | .seqi y d a im => Sys2Proof.Machine.execSeqi y d a im s
  | .vadd y d a b la lb => Sys2Proof.Machine.execVadd y d a b la lb s
  | .vsub y d a b la lb => Sys2Proof.Machine.execVsub y d a b la lb s
  | .vmul y d a b la lb => Sys2Proof.Machine.execVmul y d a b la lb s
  | .vmulh y d a b la lb => Sys2Proof.Machine.execVmulh y d a b la lb s
  | .vmulhn y d a b la lb => Sys2Proof.Machine.execVmulhn y d a b la lb s
  | .vmad y d a b la lb => Sys2Proof.Machine.execVmad y d a b la lb s
  | .vand y d a b la lb => Sys2Proof.Machine.execVand y d a b la lb s
  | .vor y d a b la lb => Sys2Proof.Machine.execVor y d a b la lb s
  | .vxor y d a b la lb => Sys2Proof.Machine.execVxor y d a b la lb s
  | .vshl y d a b la lb => Sys2Proof.Machine.execVshl y d a b la lb s
  | .vshr y d a b la lb => Sys2Proof.Machine.execVshr y d a b la lb s
  | .vsha y d a b la lb => Sys2Proof.Machine.execVsha y d a b la lb s
  | .vmin y d a b la lb => Sys2Proof.Machine.execVmin y d a b la lb s
  | .vmax y d a b la lb => Sys2Proof.Machine.execVmax y d a b la lb s
  | .vminn y d a b la lb => Sys2Proof.Machine.execVminn y d a b la lb s
  | .vmaxn y d a b la lb => Sys2Proof.Machine.execVmaxn y d a b la lb s
  | .vaddi y d a im => Sys2Proof.Machine.execVaddi y d a im s
  | .vabs y d a la => Sys2Proof.Machine.execVabs y d a la s
  | .vneg y d a la => Sys2Proof.Machine.execVneg y d a la s
  | .vnot y d a la => Sys2Proof.Machine.execVnot y d a la s
  | .vclz y d a la => Sys2Proof.Machine.execVclz y d a la s
  | .vpopc y d a la => Sys2Proof.Machine.execVpopc y d a la s
  | .vbrev y d a la => Sys2Proof.Machine.execVbrev y d a la s
  | .vmov y d a la => Sys2Proof.Machine.execVmov y d a la s
  | .vsext16 y d a la => Sys2Proof.Machine.execVsext16 y d a la s
  | .vbcast y d a => Sys2Proof.Machine.execVbcast y d a s
  | .vlaneid y d => Sys2Proof.Machine.execVlaneid y d s
  | .vseq y d a b la lb => Sys2Proof.Machine.execVseq y d a b la lb s
  | .vsne y d a b la lb => Sys2Proof.Machine.execVsne y d a b la lb s
  | .vslt y d a b la lb => Sys2Proof.Machine.execVslt y d a b la lb s
  | .vsle y d a b la lb => Sys2Proof.Machine.execVsle y d a b la lb s
  | .vsltn y d a b la lb => Sys2Proof.Machine.execVsltn y d a b la lb s
  | .vslen y d a b la lb => Sys2Proof.Machine.execVslen y d a b la lb s
  | .vperm y d a b la lb => Sys2Proof.Machine.execVperm y d a b la lb s
  | .vxshf y d a im => Sys2Proof.Machine.execVxshf y d a im s
  | .vrotu y d a im => Sys2Proof.Machine.execVrotu y d a im s
  | .vrotd y d a im => Sys2Proof.Machine.execVrotd y d a im s
  | .vblane y d a im => Sys2Proof.Machine.execVblane y d a im s
  | .vredAdd y d a la => Sys2Proof.Machine.execVredAdd y d a la s
  | .vredMin y d a la => Sys2Proof.Machine.execVredMin y d a la s
  | .vredMax y d a la => Sys2Proof.Machine.execVredMax y d a la s
  | .vredMinn y d a la => Sys2Proof.Machine.execVredMinn y d a la s
  | .vredMaxn y d a la => Sys2Proof.Machine.execVredMaxn y d a la s
  | .vredAnd y d a la => Sys2Proof.Machine.execVredAnd y d a la s
  | .vredOr y d a la => Sys2Proof.Machine.execVredOr y d a la s
  | .vredXor y d a la => Sys2Proof.Machine.execVredXor y d a la s
  | .vredFadd y d a la => Sys2Proof.Machine.execVredFadd y d a la s
  | .vredFmin y d a la => Sys2Proof.Machine.execVredFmin y d a la s
  | .vredFmax y d a la => Sys2Proof.Machine.execVredFmax y d a la s
  | .vext y d a b la => Sys2Proof.Machine.execVext y d a b la s
  | .vins y d a b => Sys2Proof.Machine.execVins y d a b s
  | .vcvtF32I32 y d a la => Sys2Proof.Machine.execVcvtF32I32 y d a la s
  | .vcvtF32N32 y d a la => Sys2Proof.Machine.execVcvtF32N32 y d a la s
  | .vcvtI32F32 y d a la => Sys2Proof.Machine.execVcvtI32F32 y d a la s
  | .vcvtN32F32 y d a la => Sys2Proof.Machine.execVcvtN32F32 y d a la s
  | .vcvtHF32Lo y d a la => Sys2Proof.Machine.execVcvtHF32Lo y d a la s
  | .vcvtHF32Hi y d a la => Sys2Proof.Machine.execVcvtHF32Hi y d a la s
  | .vcvtF32HLo y d a la => Sys2Proof.Machine.execVcvtF32HLo y d a la s
  | .vcvtF32HHi y d a la => Sys2Proof.Machine.execVcvtF32HHi y d a la s
  | .vcvtBfF32Lo y d a la => Sys2Proof.Machine.execVcvtBfF32Lo y d a la s
  | .vcvtBfF32Hi y d a la => Sys2Proof.Machine.execVcvtBfF32Hi y d a la s
  | .vcvtF32BfLo y d a la => Sys2Proof.Machine.execVcvtF32BfLo y d a la s
  | .vcvtF32BfHi y d a la => Sys2Proof.Machine.execVcvtF32BfHi y d a la s
  | .vcvtI16I32Lo y d a la => Sys2Proof.Machine.execVcvtI16I32Lo y d a la s
  | .vcvtI16I32Hi y d a la => Sys2Proof.Machine.execVcvtI16I32Hi y d a la s
  | .vcvtI32I16Lo y d a la => Sys2Proof.Machine.execVcvtI32I16Lo y d a la s
  | .vcvtI32I16Hi y d a la => Sys2Proof.Machine.execVcvtI32I16Hi y d a la s
  | .vfadd y d a b la lb => Sys2Proof.Machine.execVfadd y d a b la lb s
  | .vfsub y d a b la lb => Sys2Proof.Machine.execVfsub y d a b la lb s
  | .vfmul y d a b la lb => Sys2Proof.Machine.execVfmul y d a b la lb s
  | .vfma y d a b la lb => Sys2Proof.Machine.execVfma y d a b la lb s
  | .vfmin y d a b la lb => Sys2Proof.Machine.execVfmin y d a b la lb s
  | .vfmax y d a b la lb => Sys2Proof.Machine.execVfmax y d a b la lb s
  | .vfeq y d a b la lb => Sys2Proof.Machine.execVfeq y d a b la lb s
  | .vflt y d a b la lb => Sys2Proof.Machine.execVflt y d a b la lb s
  | .vfle y d a b la lb => Sys2Proof.Machine.execVfle y d a b la lb s
  | .vfaddH2 y d a b la lb => Sys2Proof.Machine.execVfaddH2 y d a b la lb s
  | .vfmulH2 y d a b la lb => Sys2Proof.Machine.execVfmulH2 y d a b la lb s
  | .vfmaH2 y d a b la lb => Sys2Proof.Machine.execVfmaH2 y d a b la lb s
  | .vfaddBf2 y d a b la lb => Sys2Proof.Machine.execVfaddBf2 y d a b la lb s
  | .vfmulBf2 y d a b la lb => Sys2Proof.Machine.execVfmulBf2 y d a b la lb s
  | .vfmaBf2 y d a b la lb => Sys2Proof.Machine.execVfmaBf2 y d a b la lb s
  | .vfabs y d a la => Sys2Proof.Machine.execVfabs y d a la s
  | .vfneg y d a la => Sys2Proof.Machine.execVfneg y d a la s
  | .vfclass y d a la => Sys2Proof.Machine.execVfclass y d a la s
  | .vfrint y d a la => Sys2Proof.Machine.execVfrint y d a la s
  | .vffloor y d a la => Sys2Proof.Machine.execVffloor y d a la s
  | .vfceil y d a la => Sys2Proof.Machine.execVfceil y d a la s
  | .vftrunc y d a la => Sys2Proof.Machine.execVftrunc y d a la s
  | .vrcp y d a la => Sys2Proof.Machine.execVrcp y d a la s
  | .vrsq y d a la => Sys2Proof.Machine.execVrsq y d a la s
  | .vsqrt y d a la => Sys2Proof.Machine.execVsqrt y d a la s
  | .vexp2 y d a la => Sys2Proof.Machine.execVexp2 y d a la s
  | .vlog2 y d a la => Sys2Proof.Machine.execVlog2 y d a la s
  | .vexp y d a la => Sys2Proof.Machine.execVexp y d a la s
  | .vlog y d a la => Sys2Proof.Machine.execVlog y d a la s
  | .vsin y d a la => Sys2Proof.Machine.execVsin y d a la s
  | .vcos y d a la => Sys2Proof.Machine.execVcos y d a la s
  | .vtanh y d a la => Sys2Proof.Machine.execVtanh y d a la s
  | .vsigm y d a la => Sys2Proof.Machine.execVsigm y d a la s
  | .verf y d a la => Sys2Proof.Machine.execVerf y d a la s
  | .vfdiv y d a b la lb => Sys2Proof.Machine.execVfdiv y d a b la lb s
  | .vfdotH2 y d a b la lb => Sys2Proof.Machine.execVfdotH2 y d a b la lb s
  | .vfdotBf2 y d a b la lb => Sys2Proof.Machine.execVfdotBf2 y d a b la lb s
  | .vcbx y d a j t => Sys2Proof.Machine.execVcbx y d a j t s
  | .vhadd y d a b la lb => Sys2Proof.Machine.execVhadd y d a b la lb s
  | .vhsub y d a b la lb => Sys2Proof.Machine.execVhsub y d a b la lb s
  | .vhmul y d a b la lb => Sys2Proof.Machine.execVhmul y d a b la lb s
  | .vhmin y d a b la lb => Sys2Proof.Machine.execVhmin y d a b la lb s
  | .vhmax y d a b la lb => Sys2Proof.Machine.execVhmax y d a b la lb s
  | .vhminn y d a b la lb => Sys2Proof.Machine.execVhminn y d a b la lb s
  | .vhmaxn y d a b la lb => Sys2Proof.Machine.execVhmaxn y d a b la lb s
  | .vbadd y d a b la lb => Sys2Proof.Machine.execVbadd y d a b la lb s
  | .vbsub y d a b la lb => Sys2Proof.Machine.execVbsub y d a b la lb s
  | .vbmin y d a b la lb => Sys2Proof.Machine.execVbmin y d a b la lb s
  | .vbmax y d a b la lb => Sys2Proof.Machine.execVbmax y d a b la lb s
  | .vnaddNf0 y d a b la lb => Sys2Proof.Machine.execVnaddNf0 y d a b la lb s
  | .vnaddNf1 y d a b la lb => Sys2Proof.Machine.execVnaddNf1 y d a b la lb s
  | .vnaddNf2 y d a b la lb => Sys2Proof.Machine.execVnaddNf2 y d a b la lb s
  | .vnaddNf3 y d a b la lb => Sys2Proof.Machine.execVnaddNf3 y d a b la lb s
  | .vnmulNf0 y d a b la lb => Sys2Proof.Machine.execVnmulNf0 y d a b la lb s
  | .vnmulNf1 y d a b la lb => Sys2Proof.Machine.execVnmulNf1 y d a b la lb s
  | .vnmulNf2 y d a b la lb => Sys2Proof.Machine.execVnmulNf2 y d a b la lb s
  | .vnmulNf3 y d a b la lb => Sys2Proof.Machine.execVnmulNf3 y d a b la lb s
  | .vndotNf0 y d a b la lb => Sys2Proof.Machine.execVndotNf0 y d a b la lb s
  | .vndotNf1 y d a b la lb => Sys2Proof.Machine.execVndotNf1 y d a b la lb s
  | .vndotNf2 y d a b la lb => Sys2Proof.Machine.execVndotNf2 y d a b la lb s
  | .vndotNf3 y d a b la lb => Sys2Proof.Machine.execVndotNf3 y d a b la lb s
  | .vncvtNf0 y d a e j => Sys2Proof.Machine.execVncvtNf0 y d a e j s
  | .vncvtNf1 y d a e j => Sys2Proof.Machine.execVncvtNf1 y d a e j s
  | .vncvtNf2 y d a e j => Sys2Proof.Machine.execVncvtNf2 y d a e j s
  | .vncvtNf3 y d a e j => Sys2Proof.Machine.execVncvtNf3 y d a e j s
  | .ldw y d a im => Sys2Proof.Machine.execLdw y d a im s
  | .ldwn y d a im => Sys2Proof.Machine.execLdwn y d a im s
  | .ldd y d a im => Sys2Proof.Machine.execLdd y d a im s
  | .ldbn y d a im => Sys2Proof.Machine.execLdbn y d a im s
  | .stw y d a im => Sys2Proof.Machine.execStw y d a im s
  | .std y d a im => Sys2Proof.Machine.execStd y d a im s
  | .stb y d a im => Sys2Proof.Machine.execStb y d a im s
  | .vld y d a b lb => Sys2Proof.Machine.execVld y d a b lb s
  | .vst y d a b lb => Sys2Proof.Machine.execVst y d a b lb s
  | .vldc y d a sx im => Sys2Proof.Machine.execVldc y d a sx im s
  | .vstc y d a sx im => Sys2Proof.Machine.execVstc y d a sx im s
  | .vlld y d a b lb => Sys2Proof.Machine.execVlld y d a b lb s
  | .vlst y d a b lb => Sys2Proof.Machine.execVlst y d a b lb s
  | .vlldc y d a e im => Sys2Proof.Machine.execVlldc y d a e im s
  | .vlstc y d a e im => Sys2Proof.Machine.execVlstc y d a e im s
  | .aadd y d a b => Sys2Proof.Machine.execAadd y d a b s
  | .amin y d a b => Sys2Proof.Machine.execAmin y d a b s
  | .amax y d a b => Sys2Proof.Machine.execAmax y d a b s
  | .aminn y d a b => Sys2Proof.Machine.execAminn y d a b s
  | .amaxn y d a b => Sys2Proof.Machine.execAmaxn y d a b s
  | .aand y d a b => Sys2Proof.Machine.execAand y d a b s
  | .aor y d a b => Sys2Proof.Machine.execAor y d a b s
  | .axor y d a b => Sys2Proof.Machine.execAxor y d a b s
  | .axchg y d a b => Sys2Proof.Machine.execAxchg y d a b s
  | .acas y d a b => Sys2Proof.Machine.execAcas y d a b s
  | .afadd y d a b => Sys2Proof.Machine.execAfadd y d a b s
  | .vaadd y d a b lb => Sys2Proof.Machine.execVaadd y d a b lb s
  | .fenceAll y => Sys2Proof.Machine.execFenceAll y s
  | .fenceSt y => Sys2Proof.Machine.execFenceSt y s
  | .fenceEngine y => Sys2Proof.Machine.execFenceEngine y s
  | .fenceLm y => Sys2Proof.Machine.execFenceLm y s
  | .fenceHost y => Sys2Proof.Machine.execFenceHost y s
  | .fenceGen y => Sys2Proof.Machine.execFenceGen y s
  | .drainst y => Sys2Proof.Machine.execDrainst y s
  | .prefL2 y a => Sys2Proof.Machine.execPrefL2 y a s
  | .prefL1 y a => Sys2Proof.Machine.execPrefL1 y a s
  | .prefEvict y a => Sys2Proof.Machine.execPrefEvict y a s
  | .prefPin y a => Sys2Proof.Machine.execPrefPin y a s
  | .prefUnpin y a => Sys2Proof.Machine.execPrefUnpin y a s
  | .vafadd y d a b lb => Sys2Proof.Machine.execVafadd y d a b lb s
  | .lmallocT y d a => Sys2Proof.Machine.execLmallocT y d a s
  | .lmallocH y d a => Sys2Proof.Machine.execLmallocH y d a s
  | .lmfree y a => Sys2Proof.Machine.execLmfree y a s
  | .lmrenew y a b => Sys2Proof.Machine.execLmrenew y a b s
  | .lmage y d a => Sys2Proof.Machine.execLmage y d a s
  | .fefillEmpty y d a => Sys2Proof.Machine.execFefillEmpty y d a s
  | .fefillFull y d a => Sys2Proof.Machine.execFefillFull y d a s
  | .xcopy y d a b => Sys2Proof.Machine.execXcopy y d a b s
  | .xpack y d a b => Sys2Proof.Machine.execXpack y d a b s
  | .xgath y d a b => Sys2Proof.Machine.execXgath y d a b s
  | .xscat y d a b => Sys2Proof.Machine.execXscat y d a b s
  | .xback y d a b => Sys2Proof.Machine.execXback y d a b s
  | .xwait y d a => Sys2Proof.Machine.execXwait y d a s
  | .xstat y d a => Sys2Proof.Machine.execXstat y d a s
  | .xunpack y d a b => Sys2Proof.Machine.execXunpack y d a b s
  | .xfill y d a b => Sys2Proof.Machine.execXfill y d a b s
  | .xcbexp y d a b => Sys2Proof.Machine.execXcbexp y d a b s
  | .mma y d a b => Sys2Proof.Machine.execMma y d a b s
  | .mzero y d => Sys2Proof.Machine.execMzero y d s
  | .mst y d a b => Sys2Proof.Machine.execMst y d a b s
  | .mld y d a b => Sys2Proof.Machine.execMld y d a b s
  | .mver y d a => Sys2Proof.Machine.execMver y d a s
  | .mwait y d => Sys2Proof.Machine.execMwait y d s
  | .mchkForce y => Sys2Proof.Machine.execMchkForce y s
  | .mchkStatus y d => Sys2Proof.Machine.execMchkStatus y d s
  | .mchkPeriod y a => Sys2Proof.Machine.execMchkPeriod y a s
  | .cbload y d a => Sys2Proof.Machine.execCbload y d a s
  | .nfset y d a => Sys2Proof.Machine.execNfset y d a s
  | .rgbeg y d a => Sys2Proof.Machine.execRgbeg y d a s
  | .rgbind y d a b => Sys2Proof.Machine.execRgbind y d a b s
  | .rgend y d => Sys2Proof.Machine.execRgend y d s
  | .rgabort y => Sys2Proof.Machine.execRgabort y s
  | .rgstat y d => Sys2Proof.Machine.execRgstat y d s
  | .rgwait y d => Sys2Proof.Machine.execRgwait y d s
  | .qpush y d a b => Sys2Proof.Machine.execQpush y d a b s
  | .qpushw y d a b => Sys2Proof.Machine.execQpushw y d a b s
  | .qpop y d a b => Sys2Proof.Machine.execQpop y d a b s
  | .qfree y d a => Sys2Proof.Machine.execQfree y d a s
  | .qclose y a => Sys2Proof.Machine.execQclose y a s
  | .flaunch y d a => Sys2Proof.Machine.execFlaunch y d a s
  | .qpeek y d a => Sys2Proof.Machine.execQpeek y d a s
  | .bar y im => Sys2Proof.Machine.execBar y im s
  | .barv y d im => Sys2Proof.Machine.execBarv y d im s
  | .barw y a im => Sys2Proof.Machine.execBarw y a im s
  | .cleave y => Sys2Proof.Machine.execCleave y s
  | .xbar y d a => Sys2Proof.Machine.execXbar y d a s
  | .xbarv y d a => Sys2Proof.Machine.execXbarv y d a s
  | .coll y a => Sys2Proof.Machine.execColl y a s
  | .cwait y d a => Sys2Proof.Machine.execCwait y d a s
  | .dpost y d a => Sys2Proof.Machine.execDpost y d a s
  | .xchg y d a b => Sys2Proof.Machine.execXchg y d a b s
  | .gfence y d a b => Sys2Proof.Machine.execGfence y d a b s
  | .gread y d a b => Sys2Proof.Machine.execGread y d a b s
  | .hbstat y d a => Sys2Proof.Machine.execHbstat y d a s
  | .xstop y a => Sys2Proof.Machine.execXstop y a s
  | .csrr y d im => Sys2Proof.Machine.execCsrr y d im s
  | .csrw y a im => Sys2Proof.Machine.execCsrw y a im s
  | .vwin y im => Sys2Proof.Machine.execVwin y im s
  | .trap y im => Sys2Proof.Machine.execTrap y im s
  | .eret y a b => Sys2Proof.Machine.execEret y a b s
  | .npre y a => Sys2Proof.Machine.execNpre y a s
  | .sfrpop y d a => Sys2Proof.Machine.execSfrpop y d a s
  | .ctkill y a => Sys2Proof.Machine.execCtkill y a s
  | .brk y im => Sys2Proof.Machine.execBrk y im s
  | .wdarm y => Sys2Proof.Machine.execWdarm y s
  | .illegal word => Sys2Proof.Machine.execIllegal word s
  | .fetchFault cause addr => Sys2Proof.Machine.execFetchFault cause addr s
  | .loadReturn crew wave k => Sys2Proof.Machine.execLoadReturn crew wave k s
  | .sfuResult core => Sys2Proof.Machine.execSfuResult core s
  | .loadFaultReport crew wave => Sys2Proof.Machine.execLoadFaultReport crew wave s
  | .storeFaultRecord crew wave k => Sys2Proof.Machine.execStoreFaultRecord crew wave k s
  | .handlerEntry crew wave => Sys2Proof.Machine.execHandlerEntry crew wave s
  | .tokenRefill die units => Sys2Proof.Machine.execTokenRefill die units s
  | .tokenGrant die => Sys2Proof.Machine.execTokenGrant die s
  | .matrixQueueEntry crew wave => Sys2Proof.Machine.execMatrixQueueEntry crew wave s
  | .matrixOpStart core => Sys2Proof.Machine.execMatrixOpStart core s
  | .mmaComplete core crew acc => Sys2Proof.Machine.execMmaComplete core crew acc s
  | .mmaSuspend core crew acc => Sys2Proof.Machine.execMmaSuspend core crew acc s
  | .checkMismatch core crew acc => Sys2Proof.Machine.execCheckMismatch core crew acc s
  | .checkEnd core crew acc third => Sys2Proof.Machine.execCheckEnd core crew acc third s
  | .mzeroComplete core crew acc => Sys2Proof.Machine.execMzeroComplete core crew acc s
  | .mstComplete core crew acc => Sys2Proof.Machine.execMstComplete core crew acc s
  | .mldComplete core crew acc => Sys2Proof.Machine.execMldComplete core crew acc s
  | .mldDiscard core crew acc => Sys2Proof.Machine.execMldDiscard core crew acc s
  | .copyLineWrite cmd => Sys2Proof.Machine.execCopyLineWrite cmd s
  | .copyComplete cmd => Sys2Proof.Machine.execCopyComplete cmd s
  | .copyFault cmd => Sys2Proof.Machine.execCopyFault cmd s
  | .lmLineExpire core line => Sys2Proof.Machine.execLmLineExpire core line s
  | .heldLineRenewal core line => Sys2Proof.Machine.execHeldLineRenewal core line s
  | .floorTick => Sys2Proof.Machine.execFloorTick s
  | .homeLoad crew wave k => Sys2Proof.Machine.execHomeLoad crew wave k s
  | .homeStore crew wave k => Sys2Proof.Machine.execHomeStore crew wave k s
  | .storePerform crew wave k => Sys2Proof.Machine.execStorePerform crew wave k s
  | .recall line => Sys2Proof.Machine.execRecall line s
  | .backInvalidation line => Sys2Proof.Machine.execBackInvalidation line s
  | .hostAccess req => Sys2Proof.Machine.execHostAccess req s
  | .pageWalk die ctx va write => Sys2Proof.Machine.execPageWalk die ctx va write s
  | .viewRelease spare => Sys2Proof.Machine.execViewRelease spare s
  | .dramScrub stripe bad => Sys2Proof.Machine.execDramScrub stripe bad s
  | .softError site => Sys2Proof.Machine.execSoftError site s
  | .shadowReplay core => Sys2Proof.Machine.execShadowReplay core s
  | .rgnBitReport region => Sys2Proof.Machine.execRgnBitReport region s
  | .rgnBindResume crew wave => Sys2Proof.Machine.execRgnBindResume crew wave s
  | .rgnCommit region => Sys2Proof.Machine.execRgnCommit region s
  | .rgnDuration region => Sys2Proof.Machine.execRgnDuration region s
  | .flowLaunch ctx => Sys2Proof.Machine.execFlowLaunch ctx s
  | .demandSample => Sys2Proof.Machine.execDemandSample s
  | .crewPlace die => Sys2Proof.Machine.execCrewPlace die s
  | .preemptRequest crew => Sys2Proof.Machine.execPreemptRequest crew s
  | .preemptWithdraw crew => Sys2Proof.Machine.execPreemptWithdraw crew s
  | .pedlDeadline crew => Sys2Proof.Machine.execPedlDeadline crew s
  | .npreWindowEnd crew wave => Sys2Proof.Machine.execNpreWindowEnd crew wave s
  | .preemptReport crew => Sys2Proof.Machine.execPreemptReport crew s
  | .crewTake crew => Sys2Proof.Machine.execCrewTake crew s
  | .crewRestore crew => Sys2Proof.Machine.execCrewRestore crew s
  | .restoreFinish crew => Sys2Proof.Machine.execRestoreFinish crew s
  | .barto crew bar => Sys2Proof.Machine.execBarto crew bar s
  | .watchdog ctx => Sys2Proof.Machine.execWatchdog ctx s
  | .externalStall ctx => Sys2Proof.Machine.execExternalStall ctx s
  | .infieldTestDue quad => Sys2Proof.Machine.execInfieldTestDue quad s
  | .testPostpone quad => Sys2Proof.Machine.execTestPostpone quad s
  | .collPacket p => Sys2Proof.Machine.execCollPacket p s
  | .collComplete coll => Sys2Proof.Machine.execCollComplete coll s
  | .e2ePacket p => Sys2Proof.Machine.execE2ePacket p s
  | .e2eTimeout dst seq => Sys2Proof.Machine.execE2eTimeout dst seq s
  | .keyExchange peer gen sigOk => Sys2Proof.Machine.execKeyExchange peer gen sigOk s
  | .linkReplay port => Sys2Proof.Machine.execLinkReplay port s
  | .linkDown port => Sys2Proof.Machine.execLinkDown port s
  | .berWindow port wl errs => Sys2Proof.Machine.execBerWindow port wl errs s
  | .retrainStart port wl => Sys2Proof.Machine.execRetrainStart port wl s
  | .trainingWindow port wl errs => Sys2Proof.Machine.execTrainingWindow port wl errs s
  | .retrainTimeout port wl => Sys2Proof.Machine.execRetrainTimeout port wl s
  | .retrainStable port wl => Sys2Proof.Machine.execRetrainStable port wl s
  | .heartbeatPeriod => Sys2Proof.Machine.execHeartbeatPeriod s
  | .heartbeat dev gen svc floor slotClock => Sys2Proof.Machine.execHeartbeat dev gen svc floor slotClock s
  | .beaconPeriod => Sys2Proof.Machine.execBeaconPeriod s
  | .beacon dev svc suspects => Sys2Proof.Machine.execBeacon dev svc suspects s
  | .suspicionReport reporter target withdraw => Sys2Proof.Machine.execSuspicionReport reporter target withdraw s
  | .probeTimeout target => Sys2Proof.Machine.execProbeTimeout target s
  | .generationIssue => Sys2Proof.Machine.execGenerationIssue s
  | .generationNotice n => Sys2Proof.Machine.execGenerationNotice n s
  | .removal notice => Sys2Proof.Machine.execRemoval notice s
  | .leaderTakeover => Sys2Proof.Machine.execLeaderTakeover s
  | .stripeLand stripe data poison => Sys2Proof.Machine.execStripeLand stripe data poison s
  | .cloneTimeout => Sys2Proof.Machine.execCloneTimeout s
  | .replaceResend => Sys2Proof.Machine.execReplaceResend s
  | .stepmark => Sys2Proof.Machine.execStepmark s
  | .wearTimeout => Sys2Proof.Machine.execWearTimeout s
  | .retireForce dev => Sys2Proof.Machine.execRetireForce dev s
  | .retireHandoff dev => Sys2Proof.Machine.execRetireHandoff dev s
  | .anvilSchedule comm round => Sys2Proof.Machine.execAnvilSchedule comm round s
  | .grant g => Sys2Proof.Machine.execGrant g s
  | .slotBoundary => Sys2Proof.Machine.execSlotBoundary s
  | .exchangeData p => Sys2Proof.Machine.execExchangeData p s
  | .endMarker p => Sys2Proof.Machine.execEndMarker p s
  | .residualReport p => Sys2Proof.Machine.execResidualReport p s
  | .arbiterTakeover => Sys2Proof.Machine.execArbiterTakeover s
  | .deviceReset img => Sys2Proof.Machine.execDeviceReset img s
  | .bootcmdRestart img => Sys2Proof.Machine.execBootcmdRestart img s
  | .bootcmdRaiseMin version => Sys2Proof.Machine.execBootcmdRaiseMin version s
  | .bootcmdReset img => Sys2Proof.Machine.execBootcmdReset img s
  | .attreq addr => Sys2Proof.Machine.execAttreq addr s
  | .attestationDone => Sys2Proof.Machine.execAttestationDone s
  | .contextCreate ctx value => Sys2Proof.Machine.execContextCreate ctx value s
  | .contextTerminate ctx => Sys2Proof.Machine.execContextTerminate ctx s
  | .invalidate ctx value => Sys2Proof.Machine.execInvalidate ctx value s
  | .invalidateDone ctx => Sys2Proof.Machine.execInvalidateDone ctx s
  | .diagoccFree ctx mask => Sys2Proof.Machine.execDiagoccFree ctx mask s
  | .commConfigure comm value => Sys2Proof.Machine.execCommConfigure comm value s
  | .thermalSample celsius => Sys2Proof.Machine.execThermalSample celsius s
  | .registerWrite off size value => Sys2Proof.Machine.execRegisterWrite off size value s
  | .remoteLoadBlockingPoint crew wave => Sys2Proof.Machine.execRemoteLoadBlockingPoint crew wave s
  | .linkRetrained port => Sys2Proof.Machine.execLinkRetrained port s
  | .probeAnswer target => Sys2Proof.Machine.execProbeAnswer target s
  | .noticeAcknowledgement dev gen => Sys2Proof.Machine.execNoticeAcknowledgement dev gen s
  | .failureDeclaration dev => Sys2Proof.Machine.execFailureDeclaration dev s
  | .infieldTestEnd quad result => Sys2Proof.Machine.execInfieldTestEnd quad result s
  | .marginShortfall what => Sys2Proof.Machine.execMarginShortfall what s
  | .postAcknowledgement comm round standby => Sys2Proof.Machine.execPostAcknowledgement comm round standby s
  | .roundStopNotice comm round => Sys2Proof.Machine.execRoundStopNotice comm round s

end Sys2Proof.Machine
end

