-- ==== Sys2Proof/Machine/Tick.lean ====
section
/-! DEFINITION. What the device does of itself as time passes (R23, R183, R236, R254, R273 to R289, R297, R311, R364, R373): each duty is done at
the first tick of F at which it is due. DESIGN CHOICE, log entry 108. -/

namespace Sys2Proof.Machine

/-- Do a step of the device, if there is one to do. -/
def State.doing (s : State) (f : State → Out) : State := match f s with | .next t => t | _ => s

/-- Do a step for each member of a list. -/
def State.doAll (s : State) (xs : List Nat) (f : Nat → State → Out) : State := xs.foldl (fun s x => s.doing (f x)) s

/-- Do a step for each pair of a list. -/
def State.doPairs (s : State) (xs : List (Nat × Nat)) (f : Nat → Nat → State → Out) : State := xs.foldl (fun s x => s.doing (f x.1 x.2)) s

/-- The handles of the crews that have not ended. -/
def State.crewKeys (s : State) : List Nat := (s.allCrews.filter Crew.live).map (fun c => c.handle)

/-- The live waves of the device, by crew and index. -/
def State.waveKeys (s : State) : List (Nat × Nat) :=
  (s.allCrews.filter (fun c => c.state != .ended && c.state != .saved)).flatMap (fun c => (c.others.filter Wave.live).map (fun w => (c.handle, w.idx)))

/-- The contexts that have crews. -/
def State.busyCtxs (s : State) : List Nat := ((s.allCrews.filter Crew.live).map (fun c => c.ctx)).eraseDups

/-- Regions settle, expire and learn of each other (R232 to R236). -/
def State.tickRegions (s : State) : State :=
  if s.regions.isEmpty then s
  else
    let ids := s.regions.map (fun r => r.id)
    let s1 := ((s.doAll ids execRgnDuration).doAll ids execRgnBitReport).doAll ids execRgnCommit
    s1.doPairs s1.waveKeys execRgnBindResume

/-- Tokens are refilled and granted (R283). -/
def State.tickTokens (s : State) : State :=
  let dies := List.range 8
  (s.doAll dies (fun d => execTokenRefill d (Config.refillUnits s.micros d))).doAll dies execTokenGrant

/-- Pre-emption of crews, and their timers (R254, R284, R286, R297, R309, R362, R364). -/
def State.tickCrews (s : State) : State :=
  let ws := s.waveKeys
  let cs := s.crewKeys
  let s1 := (s.doPairs ws execNpreWindowEnd).doPairs ws execRemoteLoadBlockingPoint
  let s2 := (s1.doAll cs execPedlDeadline).doAll cs execPreemptReport
  let s3 := s2.doPairs (cs.flatMap (fun h => (List.range 8).map (fun b => (h, b)))) execBarto
  (s3.doAll cs execCrewTake).doAll cs execRestoreFinish

/-- The watchdogs and the in-field tests (R288, R289). -/
def State.tickWatch (s : State) : State :=
  let s1 := (s.doAll s.busyCtxs execWatchdog).doAll s.busyCtxs execExternalStall
  let s2 := if s1.testDue.isEmpty ∧ s1.nanos < testPeriod then s1 else s1.doAll (List.range 64) execInfieldTestDue
  if s2.cores.any (fun e => e.2.testing) then s2.doAll (List.range 64) execTestPostpone else s2

/-- The flow manager and the dispatcher (R273 to R281, R364). -/
def State.tickFlows (s : State) : State :=
  let s1 := (s.doing execDemandSample).doAll ((List.range 64).filter s.ctxEnabled) execFlowLaunch
  if s1.flows.isEmpty then s1
  else (s1.doAll s1.crewKeys execCrewRestore).doAll (List.range 8) execCrewPlace

/-- The fabric and the exchange (R259, R311, R317, R321, R373). -/
def State.tickFabric (s : State) : State :=
  let s1 := s.doAll (s.fab.colls.map (fun c => c.id)) execCollComplete
  let s2 := s1.doPairs (s1.fab.sent.map (fun p => (p.dst, p.seq))) execE2eTimeout
  let s3 := if s2.memb.up then s2.doing execSlotBoundary else s2
  let s4 := s3.doPairs ((s3.xch.inputs.take 1).map (fun x => (x.comm, x.round))) execAnvilSchedule
  (s4.xch.rounds.map (fun r => (r.comm, r.round))).foldl (fun s e => s.landRound e.1 e.2) s4

/-- Membership (R380 to R384, R386, R388, R395) and invalidations (R334). The first heartbeat period stands for the bring-up, which waits for the host's
registers. -/
def State.tickMembers (s : State) : State :=
  let s1 := (s.doAll (s.memb.probes.map (fun p => p.1)) execProbeTimeout).doing execCloneTimeout
  let s2 := if s1.memb.up then
      ((((s1.doing execHeartbeatPeriod).doing execBeaconPeriod).doing (execRemoval false)).doing execGenerationIssue).doing execLeaderTakeover
    else s1
  s2.doAll ((List.range 64).filter (fun c => s2.ctxEnabled c)) execInvalidateDone

/-- Wavelengths in training and after it, wear, and REPLACE (R375, R377, R398). -/
def State.tickLinks (s : State) : State :=
  let wl := fun (m : Map Nat) => m.map (fun e => (e.1 / 8, e.1 % 8))
  let s1 := (s.doPairs (wl s.links.entered) execRetrainTimeout).doPairs (wl s.links.returned) execRetrainStable
  (if s1.links.wear.isEmpty then s1 else s1.doing execWearTimeout).doing execReplaceResend

/-- What has fallen due by a tick; nothing in a device that heat holds in reset (R406). -/
def State.tickDuties (s : State) : State :=
  if s.bootState = 0 then s
  else (((((((s.tickRegions).tickTokens).tickCrews).tickWatch).tickFlows).tickFabric).tickMembers).tickLinks

/-- A tick of F, with everything that has fallen due by it. -/
def State.tickTurn (s : State) : State := (s.doing execFloorTick).tickDuties

end Sys2Proof.Machine
end

