-- ==== Sys2Proof/Machine/Issue.lean ====
section
/-! DEFINITION. How the wave in focus issues: the fetch of its word (R43, R48), the wave that each core takes in a cycle (R282), the work that
stands ready for a wave and its core, and the turn of the next wave. The order in which agents act that R282 does not order is the model's; the
agenda of the state overrides it. -/

namespace Sys2Proof.Machine

/-! ## Fetching (R43, R48) -/

/-- The four bytes of the word at the pc, or the cause of a fetch fault. -/
def State.fetch (s : State) : Except Cause (List Byte) :=
  match s.xlateVa s.wave.pc .fetch false with
  | .error c => .error c
  | .ok x => if s.isPoisoned x.fpa then .error .poison else .ok (s.readBytes x.fpa 4)

/-- One cycle passes. -/
def State.elapseCycle (s : State) : State := s.elapse s.cyclePs

/-- A wave that goes on after its `bar` observes the completed phase (R296). -/
def State.wakeBar (s : State) : State := s.setWave (s.wave.passBar s.crew)

/-- The fetch sets A of its page (R332). -/
def State.touchFetch (s : State) : State :=
  match s.xlateVa s.wave.pc .fetch false with | .ok x => s.touch x false | .error _ => s

/-- The state in which the fetched word runs: it has taken its issue opportunity. -/
def State.issuing (s : State) : State := s.markIssue.wakeBar.touchFetch

/-- A wait in which the word at the pc has issued, and is tried again. -/
def Block.again (b : Block) : Bool :=
  match b with | .bar _ _ => false | .xbar _ _ _ => false | .snap => false | .remote => false | _ => true

/-- The wave stands in such a wait. -/
def State.retries (s : State) : Bool := match s.wave.block with | some b => b.again | none => false

/-- The wave in focus in `t` comes before that of `s` for an opportunity of their core (R282): the higher PRIO, then the first slot at or after the
round-robin pointer. -/
def State.comesAfter (s t : State) : Bool :=
  let core := s.crew.core
  let turn := fun (n : Nat) => (n + 16 - s.issuePtr core % 16) % 16
  decide (s.crew.prio < t.crew.prio) || (s.crew.prio == t.crew.prio && decide (turn t.wave.slot < turn s.wave.slot))

/-- A wave that may issue in this cycle, in its focus. -/
def State.able? (s : State) (k : Nat × Nat) : Option State :=
  match s.focus k.1 k.2 with
  | some t => if t.canIssue && !t.retries then some t else none
  | none => none

/-- The core takes the wave in focus before its other waves that can use the opportunity (R282). -/
def State.chosen (s : State) : Bool :=
  let mine := (s.allCrews.filter (fun c => c.core = s.crew.core)).map (fun c => c.handle)
  (s.waveKeys.filter (fun k => mine.contains k.1 && k != (s.crew.handle, s.wave.idx))).all (fun k =>
    match s.able? k with | some t => !s.comesAfter t | none => true)

/-- The wave in focus issues its next word now. -/
def State.issues (s : State) : Bool := s.canIssue && !s.retries && s.chosen

/-- A word that waits where and as it stood before. -/
def State.stillWaits (s u : State) : Bool :=
  u.wave.block.isSome && u.wave.block == s.wave.block && u.wave.pc == s.wave.pc && u.crew.handle == s.crew.handle && u.wave.idx == s.wave.idx

/-! ## What the device has under way -/

/-- The state after a step, where it changes anything. -/
def State.changed (s : State) (o : Host.Outcome State Fault Refusal) : Option State :=
  match o with
  | .next t => if t = s then none else some t
  | _ => none

/-- The steps of the accesses of the wave in focus, oldest first. -/
def State.accessWork (s : State) : Option State :=
  let h := s.crew.handle
  let i := s.wave.idx
  (s.wave.accs.map (fun a => a.id) ++ s.wave.lmq.map (fun l => l.id)).findSome? (fun k =>
    (s.changed (execLoadReturn h i k s)).or ((s.changed (execHomeLoad h i k s)).or ((s.changed (execHomeStore h i k s)).or
      ((s.changed (execStorePerform h i k s)).or (s.changed (execStoreFaultRecord h i k s))))))

/-- The steps of the matrix engine for the crew in focus. -/
def State.matrixWork (s : State) : Option State :=
  let n := s.crew.core
  let h := s.crew.handle
  let one := fun (a : Nat) =>
    (s.changed (execMzeroComplete n h a s)).or ((s.changed (execMldComplete n h a s)).or ((s.changed (execMstComplete n h a s)).or
      ((s.changed (execMmaComplete n h a s)).or ((s.changed (execCheckEnd n h a none s)).or (s.changed (execMmaSuspend n h a s))))))
  ((s.changed (execTokenGrant (dieOf n) s)).or ((s.changed (execMatrixQueueEntry h s.wave.idx s)).or (s.changed (execMatrixOpStart n s)))).or
    (if (s.coreAt n).mops.isEmpty then none else (List.range 16).findSome? one)

/-- The steps of the copy commands in flight. -/
def State.copyWork (s : State) : Option State :=
  (s.cmds.map (fun c => c.id)).findSome? (fun k =>
    (s.changed (execCopyComplete k s)).or ((s.changed (execCopyLineWrite k s)).or (s.changed (execCopyFault k s))))

/-- The first step that is ready for the wave in focus and its core; none in a device that heat holds in reset (R406). -/
def State.ownWork (s : State) : Option State :=
  if s.bootState = 0 then none
  else (s.changed (.next s.enterNext)).or
    ((s.accessWork).or
      ((s.changed (execSfuResult s.crew.core s)).or
        (s.matrixWork.or
          (s.copyWork.or
            ((s.changed (execLoadFaultReport s.crew.handle s.wave.idx s)).or
              (s.changed (.next s.pollXbar)))))))

/-! ## Turns (R282) -/

/-- The wave after the one in focus, round and round. -/
def State.nextKey (s : State) : Option (Nat × Nat) :=
  let keys := s.waveKeys
  (keys.find? (fun k => s.crew.handle < k.1 || (s.crew.handle == k.1 && s.wave.idx < k.2))).or keys.head?

/-- Bring the next wave into focus. -/
def State.rotate (s : State) : State :=
  match s.nextKey with
  | none => s
  | some k => match s.focus k.1 k.2 with | some t => t | none => s

/-- A wave that issues in this cycle, in its focus. -/
def State.nextIssue (s : State) : Option State :=
  s.waveKeys.findSome? (fun k => match s.able? k with | some t => if t.chosen then some t else none | none => none)

/-- Nothing stands ready here: a wave that issues in this cycle has its turn, or the next wave with what it has under way; with the last of them
the cycle passes, and where there is no other wave and no word that only waits for an opportunity, a tick of F. -/
def State.nextTurn (s : State) : State :=
  match s.nextIssue with
  | some t => t
  | none =>
    match s.nextKey with
    | none => s.elapse tickPs
    | some k =>
      if k = (s.crew.handle, s.wave.idx) then (if s.waveReady then s.elapseCycle else s.elapse tickPs)
      else if s.crew.handle < k.1 ∨ (s.crew.handle = k.1 ∧ s.wave.idx < k.2) then s.rotate
      else s.elapseCycle.rotate

/-! ## Placing one instruction -/

/-- A page-table entry of this device's HBM. -/
def placedEntry (off flags : Nat) : Nat := 0xFFFF * 2 ^ 42 + off + flags

/-- The tables of context 0 at HBM offset 0 and up, with one page of code at virtual address 0x10000. -/
def State.placeTables (s : State) : State :=
  ((((s.writeMem (s.hbm 0) 8 (placedEntry 0x100000 0x31)).writeMem (s.hbm 0x100000) 8 (placedEntry 0x110000 0x31)).writeMem
    (s.hbm 0x110000) 8 (placedEntry 0x120000 0x31)).writeMem (s.hbm 0x120008) 8 (placedEntry 0x130000 0xF)).setReg
      (ctxOff 0 0) (BitVec.ofNat 64 (placedEntry 0 1))

/-- A crew of one wave on core 0. -/
def placedCrew (h : Nat) : Crew :=
  { Crew.fresh with
    handle := h, size := 1, valloc := 64, naccs := 16, lmSize := 65536, state := .running,
    bars := Vector.replicate 8 (Barrier.fresh 1#16) }

/-- The wave in focus is that crew's, and stands at the code page, which holds the bytes; nothing else is due. -/
def State.placeWord (s : State) (bs : List Byte) : State :=
  let h := s.nextHandle
  let free := { s.coreAt 0 with issue := ⟨s.cycles, 0, 0, []⟩, pipes := [] }
  let s0 : State := { s.setCore 0 free with poison := [], lines := [], tlb := [], agenda := [], tickAt := s.ps, memb := { s.memb with clone := none } }
  let s1 := (s0.setReg 0 3#64).placeTables
  let s2 := s1.writeBytes (s1.hbm 0x130000) bs
  { s2 with
    crews := s.allCrews
    nextHandle := h + 1
    crew := placedCrew h
    wave := newWave (placedCrew h) 0x10000#64 0 0 0 s.floor }

end Sys2Proof.Machine
end

