-- ==== Sys2Proof/Machine/Step.lean ====
section
/-! DEFINITION. One step of the device: a tick of F with what has fallen due, the next item of its agenda, the next word of the wave in focus, or
what the device has under way; and the placing of one instruction where the next step fetches. What each of these does stands in Issue.lean and
Tick.lean. -/

namespace Sys2Proof.Machine

/-- Run the word at the pc of the wave in focus (R43, R48) in the state `t`: its bytes are fetched, and the decoded instruction runs, or what
R62 says of a word that is none. -/
noncomputable def State.runWord (s t : State) : Host.Outcome State Fault Refusal :=
  match s.fetch with
  | .error c => execFetchFault c s.wave.pc t
  | .ok bs =>
    match decodeBytes bs with
    | .ok (i, _) => exec i t
    | .error _ => execIllegal (BitVec.ofNat 32 (ofBytesLE bs)) t

/-- Issue the next word of the wave in focus. -/
noncomputable def State.issueWord (s : State) : Host.Outcome State Fault Refusal := s.runWord s.issuing

/-- Try the waiting word of the wave in focus again. -/
noncomputable def State.retryWord (s : State) : Host.Outcome State Fault Refusal :=
  match s.runWord s.touchFetch with
  | .next u => if s.stillWaits u then .next s.nextTurn else .next u
  | o => o

/-- The step of the wave in focus: it issues if its core takes it (R282); else what the device has under way goes on, the waiting word is tried
again, or another wave has its turn. -/
noncomputable def State.turn (s : State) : Host.Outcome State Fault Refusal :=
  if s.issues then s.issueWord
  else
    match s.ownWork with
    | some t => .next t
    | none => if s.retries && s.waveReady then s.retryWord else .next s.nextTurn

/-- What the agenda asks of a wave: it issues if its core takes it, waits for an opportunity, or tries its waiting word again; else a cycle
passes. -/
noncomputable def State.issueItem (s : State) (rest : List Turn) : Host.Outcome State Fault Refusal :=
  let t := { s with agenda := rest }
  if s.retries then (if s.waveReady then t.runWord t.touchFetch else .next t.elapseCycle)
  else if t.issues then t.issueWord
  else if s.waveReady && !s.canIssue then .next s.elapseCycle
  else .next t.elapseCycle

/-- One step of the device: a tick of F that is due, the next item of the agenda, or the turn of the wave in focus. -/
noncomputable def step (s : State) : Host.Outcome State Fault Refusal :=
  if s.tickDue then .next s.tickTurn
  else
    match s.agenda with
    | [] => s.turn
    | .elapse ps :: rest => .next ({ s with agenda := rest }.elapse ps)
    | .event i :: rest => exec i { s with agenda := rest }
    | .issue c w :: rest =>
      match s.focus c w with
      | none => .next { s with agenda := rest }
      | some t => t.issueItem rest

/-- The machine with one instruction placed where the next step fetches it: context 0 with a page of code, and a crew of one wave. -/
def State.withFetchWord (s : State) (nbits w : Nat) : State := s.placeWord (bytesOfWord (BitVec.ofNat 32 (w % 2 ^ nbits)))

end Sys2Proof.Machine
end

