-- ==== Sys2Proof/WellFormed.lean ====
section
/-! DEFINITION. Which terms of `Instr` are instructions: the operands that the fields of a word admit but the spec gives no meaning (R61, R203),
and the ranges of what a step of the machine names (R12, R15, R35, R51, R228, R289, R294, R329, R374, R412). -/

namespace Sys2Proof

/-- A port of the router (R13, R374). -/
def portNumber (p : Port) : Bool := match p with | .electrical e => decide (e < 31) | .global g => decide (g < 48)

/-- An instruction is well formed. -/
def Instr.wf (i : Instr) : Bool :=
  match i with
  | .nop _ => true
  | .add _ _ _ _ => true
  | .sub _ _ _ _ => true
  | .addi _ _ _ _ => true
  | .mul _ _ _ _ => true
  | .mulh _ _ _ _ => true
  | .mulhn _ _ _ _ => true
  | .div _ _ _ _ => true
  | .divn _ _ _ _ => true
  | .rem _ _ _ _ => true
  | .remn _ _ _ _ => true
  | .and _ _ _ _ => true
  | .or _ _ _ _ => true
  | .xor _ _ _ _ => true
  | .andn _ _ _ _ => true
  | .andi _ _ _ _ => true
  | .ori _ _ _ _ => true
  | .xori _ _ _ _ => true
  | .shl _ _ _ _ => true
  | .shr _ _ _ _ => true
  | .sha _ _ _ _ => true
  | .shli _ _ _ _ => true
  | .shri _ _ _ _ => true
  | .shai _ _ _ _ => true
  | .min _ _ _ _ => true
  | .max _ _ _ _ => true
  | .minn _ _ _ _ => true
  | .maxn _ _ _ _ => true
  | .seq _ _ _ _ => true
  | .slt _ _ _ _ => true
  | .sltn _ _ _ _ => true
  | .clz _ _ _ => true
  | .ctz _ _ _ => true
  | .popc _ _ _ => true
  | .brev _ _ _ => true
  | .bswap _ _ _ => true
  | .sext8 _ _ _ => true
  | .sext16 _ _ _ => true
  | .sext32 _ _ _ => true
  | .zext8 _ _ _ => true
  | .zext16 _ _ _ => true
  | .zext32 _ _ _ => true
  | .abs _ _ _ => true
  | .neg _ _ _ => true
  | .not _ _ _ => true
  | .sel _ _ _ _ => true
  | .set0 _ _ _ => true
  | .set16 _ _ _ => true
  | .set32 _ _ _ => true
  | .set48 _ _ _ => true
  | .adpc _ _ _ => true
  | .slti _ _ _ _ => true
  | .fadd _ _ _ _ => true
  | .fsub _ _ _ _ => true
  | .fmul _ _ _ _ => true
  | .ffma _ _ _ _ => true
  | .fdiv _ _ _ _ => true
  | .fmin _ _ _ _ => true
  | .fmax _ _ _ _ => true
  | .fsqrt _ _ _ => true
  | .fabs _ _ _ => true
  | .fneg _ _ _ => true
  | .fclass _ _ _ => true
  | .cvtF64I64 _ _ _ => true
  | .cvtF64N64 _ _ _ => true
  | .cvtI64F64 _ _ _ => true
  | .cvtN64F64 _ _ _ => true
  | .cvtF32F64 _ _ _ => true
  | .cvtF64F32 _ _ _ => true
  | .feq _ _ _ _ => true
  | .flt _ _ _ _ => true
  | .fle _ _ _ _ => true
  | .br _ _ _ => true
  | .brz _ _ _ => true
  | .jmp _ _ => true
  | .call _ _ => true
  | .jr _ _ => true
  | .loop _ _ _ => true
  | .exit _ => true
  | .bany _ _ _ => true
  | .bnone _ _ _ => true
  | .sltni _ _ _ _ => true
  | .seqi _ _ _ _ => true
  | .vadd _ _ _ _ _ _ => true
  | .vsub _ _ _ _ _ _ => true
  | .vmul _ _ _ _ _ _ => true
  | .vmulh _ _ _ _ _ _ => true
  | .vmulhn _ _ _ _ _ _ => true
  | .vmad _ _ _ _ _ _ => true
  | .vand _ _ _ _ _ _ => true
  | .vor _ _ _ _ _ _ => true
  | .vxor _ _ _ _ _ _ => true
  | .vshl _ _ _ _ _ _ => true
  | .vshr _ _ _ _ _ _ => true
  | .vsha _ _ _ _ _ _ => true
  | .vmin _ _ _ _ _ _ => true
  | .vmax _ _ _ _ _ _ => true
  | .vminn _ _ _ _ _ _ => true
  | .vmaxn _ _ _ _ _ _ => true
  | .vaddi _ _ _ _ => true
  | .vabs _ _ _ _ => true
  | .vneg _ _ _ _ => true
  | .vnot _ _ _ _ => true
  | .vclz _ _ _ _ => true
  | .vpopc _ _ _ _ => true
  | .vbrev _ _ _ _ => true
  | .vmov _ _ _ _ => true
  | .vsext16 _ _ _ _ => true
  | .vbcast _ _ _ => true
  | .vlaneid _ _ => true
  | .vseq _ _ _ _ _ _ => true
  | .vsne _ _ _ _ _ _ => true
  | .vslt _ _ _ _ _ _ => true
  | .vsle _ _ _ _ _ _ => true
  | .vsltn _ _ _ _ _ _ => true
  | .vslen _ _ _ _ _ _ => true
  | .vperm _ _ _ _ _ _ => true
  | .vxshf _ _ _ _ => true
  | .vrotu _ _ _ _ => true
  | .vrotd _ _ _ _ => true
  | .vblane _ _ _ _ => true
  | .vredAdd _ _ _ _ => true
  | .vredMin _ _ _ _ => true
  | .vredMax _ _ _ _ => true
  | .vredMinn _ _ _ _ => true
  | .vredMaxn _ _ _ _ => true
  | .vredAnd _ _ _ _ => true
  | .vredOr _ _ _ _ => true
  | .vredXor _ _ _ _ => true
  | .vredFadd _ _ _ _ => true
  | .vredFmin _ _ _ _ => true
  | .vredFmax _ _ _ _ => true
  | .vext _ _ _ _ _ => true
  | .vins _ _ _ _ => true
  | .vcvtF32I32 _ _ _ _ => true
  | .vcvtF32N32 _ _ _ _ => true
  | .vcvtI32F32 _ _ _ _ => true
  | .vcvtN32F32 _ _ _ _ => true
  | .vcvtHF32Lo _ _ _ _ => true
  | .vcvtHF32Hi _ _ _ _ => true
  | .vcvtF32HLo _ _ _ _ => true
  | .vcvtF32HHi _ _ _ _ => true
  | .vcvtBfF32Lo _ _ _ _ => true
  | .vcvtBfF32Hi _ _ _ _ => true
  | .vcvtF32BfLo _ _ _ _ => true
  | .vcvtF32BfHi _ _ _ _ => true
  | .vcvtI16I32Lo _ _ _ _ => true
  | .vcvtI16I32Hi _ _ _ _ => true
  | .vcvtI32I16Lo _ _ _ _ => true
  | .vcvtI32I16Hi _ _ _ _ => true
  | .vfadd _ _ _ _ _ _ => true
  | .vfsub _ _ _ _ _ _ => true
  | .vfmul _ _ _ _ _ _ => true
  | .vfma _ _ _ _ _ _ => true
  | .vfmin _ _ _ _ _ _ => true
  | .vfmax _ _ _ _ _ _ => true
  | .vfeq _ _ _ _ _ _ => true
  | .vflt _ _ _ _ _ _ => true
  | .vfle _ _ _ _ _ _ => true
  | .vfaddH2 _ _ _ _ _ _ => true
  | .vfmulH2 _ _ _ _ _ _ => true
  | .vfmaH2 _ _ _ _ _ _ => true
  | .vfaddBf2 _ _ _ _ _ _ => true
  | .vfmulBf2 _ _ _ _ _ _ => true
  | .vfmaBf2 _ _ _ _ _ _ => true
  | .vfabs _ _ _ _ => true
  | .vfneg _ _ _ _ => true
  | .vfclass _ _ _ _ => true
  | .vfrint _ _ _ _ => true
  | .vffloor _ _ _ _ => true
  | .vfceil _ _ _ _ => true
  | .vftrunc _ _ _ _ => true
  | .vrcp _ _ _ _ => true
  | .vrsq _ _ _ _ => true
  | .vsqrt _ _ _ _ => true
  | .vexp2 _ _ _ _ => true
  | .vlog2 _ _ _ _ => true
  | .vexp _ _ _ _ => true
  | .vlog _ _ _ _ => true
  | .vsin _ _ _ _ => true
  | .vcos _ _ _ _ => true
  | .vtanh _ _ _ _ => true
  | .vsigm _ _ _ _ => true
  | .verf _ _ _ _ => true
  | .vfdiv _ _ _ _ _ _ => true
  | .vfdotH2 _ _ _ _ _ _ => true
  | .vfdotBf2 _ _ _ _ _ _ => true
  | .vcbx _ _ _ _ _ => true
  | .vhadd _ _ _ _ _ _ => true
  | .vhsub _ _ _ _ _ _ => true
  | .vhmul _ _ _ _ _ _ => true
  | .vhmin _ _ _ _ _ _ => true
  | .vhmax _ _ _ _ _ _ => true
  | .vhminn _ _ _ _ _ _ => true
  | .vhmaxn _ _ _ _ _ _ => true
  | .vbadd _ _ _ _ _ _ => true
  | .vbsub _ _ _ _ _ _ => true
  | .vbmin _ _ _ _ _ _ => true
  | .vbmax _ _ _ _ _ _ => true
  | .vnaddNf0 _ _ _ _ _ _ => true
  | .vnaddNf1 _ _ _ _ _ _ => true
  | .vnaddNf2 _ _ _ _ _ _ => true
  | .vnaddNf3 _ _ _ _ _ _ => true
  | .vnmulNf0 _ _ _ _ _ _ => true
  | .vnmulNf1 _ _ _ _ _ _ => true
  | .vnmulNf2 _ _ _ _ _ _ => true
  | .vnmulNf3 _ _ _ _ _ _ => true
  | .vndotNf0 _ _ _ _ _ _ => true
  | .vndotNf1 _ _ _ _ _ _ => true
  | .vndotNf2 _ _ _ _ _ _ => true
  | .vndotNf3 _ _ _ _ _ _ => true
  | .vncvtNf0 _ _ _ _ _ => true
  | .vncvtNf1 _ _ _ _ _ => true
  | .vncvtNf2 _ _ _ _ _ => true
  | .vncvtNf3 _ _ _ _ _ => true
  | .ldw _ _ _ _ => true
  | .ldwn _ _ _ _ => true
  | .ldd _ _ _ _ => true
  | .ldbn _ _ _ _ => true
  | .stw _ _ _ _ => true
  | .std _ _ _ _ => true
  | .stb _ _ _ _ => true
  | .vld _ _ _ _ _ => true
  | .vst _ _ _ _ _ => true
  | .vldc _ _ _ _ _ => true
  | .vstc _ _ _ _ _ => true
  | .vlld _ _ _ _ _ => true
  | .vlst _ _ _ _ _ => true
  | .vlldc _ _ _ e _ => e != 3#2
  | .vlstc _ _ _ e _ => e != 3#2
  | .aadd _ _ _ _ => true
  | .amin _ _ _ _ => true
  | .amax _ _ _ _ => true
  | .aminn _ _ _ _ => true
  | .amaxn _ _ _ _ => true
  | .aand _ _ _ _ => true
  | .aor _ _ _ _ => true
  | .axor _ _ _ _ => true
  | .axchg _ _ _ _ => true
  | .acas _ _ _ _ => true
  | .afadd _ _ _ _ => true
  | .vaadd _ _ _ _ _ => true
  | .fenceAll _ => true
  | .fenceSt _ => true
  | .fenceEngine _ => true
  | .fenceLm _ => true
  | .fenceHost _ => true
  | .fenceGen _ => true
  | .drainst _ => true
  | .prefL2 _ _ => true
  | .prefL1 _ _ => true
  | .prefEvict _ _ => true
  | .prefPin _ _ => true
  | .prefUnpin _ _ => true
  | .vafadd _ _ _ _ _ => true
  | .lmallocT _ _ _ => true
  | .lmallocH _ _ _ => true
  | .lmfree _ _ => true
  | .lmrenew _ _ _ => true
  | .lmage _ _ _ => true
  | .fefillEmpty _ _ _ => true
  | .fefillFull _ _ _ => true
  | .xcopy _ _ _ _ => true
  | .xpack _ _ _ _ => true
  | .xgath _ _ _ _ => true
  | .xscat _ _ _ _ => true
  | .xback _ _ _ _ => true
  | .xwait _ _ _ => true
  | .xstat _ _ _ => true
  | .xunpack _ _ _ _ => true
  | .xfill _ _ _ _ => true
  | .xcbexp _ _ _ _ => true
  | .mma _ _ _ _ => true
  | .mzero _ _ => true
  | .mst _ _ _ _ => true
  | .mld _ _ _ _ => true
  | .mver _ _ _ => true
  | .mwait _ _ => true
  | .mchkForce _ => true
  | .mchkStatus _ _ => true
  | .mchkPeriod _ _ => true
  | .cbload _ _ _ => true
  | .nfset _ _ _ => true
  | .rgbeg _ _ _ => true
  | .rgbind _ _ _ _ => true
  | .rgend _ _ => true
  | .rgabort _ => true
  | .rgstat _ _ => true
  | .rgwait _ _ => true
  | .qpush _ _ _ _ => true
  | .qpushw _ _ _ _ => true
  | .qpop _ _ _ _ => true
  | .qfree _ _ _ => true
  | .qclose _ _ => true
  | .flaunch _ _ _ => true
  | .qpeek _ _ _ => true
  | .bar _ _ => true
  | .barv _ _ _ => true
  | .barw _ _ _ => true
  | .cleave _ => true
  | .xbar _ _ _ => true
  | .xbarv _ _ _ => true
  | .coll _ _ => true
  | .cwait _ _ _ => true
  | .dpost _ _ _ => true
  | .xchg _ _ _ _ => true
  | .gfence _ _ _ _ => true
  | .gread _ _ _ _ => true
  | .hbstat _ _ _ => true
  | .xstop _ _ => true
  | .csrr _ _ _ => true
  | .csrw _ _ _ => true
  | .vwin _ _ => true
  | .trap _ _ => true
  | .eret _ _ _ => true
  | .npre _ _ => true
  | .sfrpop _ _ _ => true
  | .ctkill _ _ => true
  | .brk _ _ => true
  | .wdarm _ => true
  | .illegal _ => true
  | .fetchFault _ _ => true
  | .loadReturn _ wave _ => decide (wave < 16)
  | .sfuResult core => decide (core < 256)
  | .loadFaultReport _ wave => decide (wave < 16)
  | .storeFaultRecord _ wave _ => decide (wave < 16)
  | .handlerEntry _ wave => decide (wave < 16)
  | .tokenRefill die _ => decide (die < 8)
  | .tokenGrant die => decide (die < 8)
  | .matrixQueueEntry _ wave => decide (wave < 16)
  | .matrixOpStart core => decide (core < 256)
  | .mmaComplete core _ acc => decide (core < 256) && decide (acc < 16)
  | .mmaSuspend core _ acc => decide (core < 256) && decide (acc < 16)
  | .checkMismatch core _ acc => decide (core < 256) && decide (acc < 16)
  | .checkEnd core _ acc _ => decide (core < 256) && decide (acc < 16)
  | .mzeroComplete core _ acc => decide (core < 256) && decide (acc < 16)
  | .mstComplete core _ acc => decide (core < 256) && decide (acc < 16)
  | .mldComplete core _ acc => decide (core < 256) && decide (acc < 16)
  | .mldDiscard core _ acc => decide (core < 256) && decide (acc < 16)
  | .copyLineWrite _ => true
  | .copyComplete _ => true
  | .copyFault _ => true
  | .lmLineExpire core line => decide (core < 256) && decide (line < 32768)
  | .heldLineRenewal core line => decide (core < 256) && decide (line < 32768)
  | .floorTick => true
  | .homeLoad _ wave _ => decide (wave < 16)
  | .homeStore _ wave _ => decide (wave < 16)
  | .storePerform _ wave _ => decide (wave < 16)
  | .recall _ => true
  | .backInvalidation _ => true
  | .hostAccess _ => true
  | .pageWalk die ctx _ _ => decide (die < 8) && decide (ctx < 64)
  | .viewRelease spare => decide (spare < 65536)
  | .dramScrub _ _ => true
  | .softError _ => true
  | .shadowReplay core => decide (core < 256)
  | .rgnBitReport region => decide (region < 1024)
  | .rgnBindResume _ wave => decide (wave < 16)
  | .rgnCommit region => decide (region < 1024)
  | .rgnDuration region => decide (region < 1024)
  | .flowLaunch ctx => decide (ctx < 64)
  | .demandSample => true
  | .crewPlace die => decide (die < 8)
  | .preemptRequest _ => true
  | .preemptWithdraw _ => true
  | .pedlDeadline _ => true
  | .npreWindowEnd _ wave => decide (wave < 16)
  | .preemptReport _ => true
  | .crewTake _ => true
  | .crewRestore _ => true
  | .restoreFinish _ => true
  | .barto _ bid => decide (bid < 8)
  | .watchdog ctx => decide (ctx < 64)
  | .externalStall ctx => decide (ctx < 64)
  | .infieldTestDue quad => decide (quad < 64)
  | .testPostpone quad => decide (quad < 64)
  | .collPacket _ => true
  | .collComplete _ => true
  | .e2ePacket _ => true
  | .e2eTimeout _ _ => true
  | .keyExchange peer _ _ => decide (peer < 65536)
  | .linkReplay port => portNumber port
  | .linkDown port => portNumber port
  | .berWindow port wl _ => decide (port < 48) && decide (wl < 8)
  | .retrainStart port wl => decide (port < 48) && decide (wl < 8)
  | .trainingWindow port wl _ => decide (port < 48) && decide (wl < 8)
  | .retrainTimeout port wl => decide (port < 48) && decide (wl < 8)
  | .retrainStable port wl => decide (port < 48) && decide (wl < 8)
  | .heartbeatPeriod => true
  | .heartbeat dev _ _ _ _ => decide (dev < 65536)
  | .beaconPeriod => true
  | .beacon dev _ _ => decide (dev < 65536)
  | .suspicionReport reporter target _ => decide (reporter < 65536) && decide (target < 65536)
  | .probeTimeout target => decide (target < 65536)
  | .generationIssue => true
  | .generationNotice _ => true
  | .removal _ => true
  | .leaderTakeover => true
  | .stripeLand _ _ _ => true
  | .cloneTimeout => true
  | .replaceResend => true
  | .stepmark => true
  | .wearTimeout => true
  | .retireForce dev => decide (dev < 65536)
  | .retireHandoff dev => decide (dev < 65536)
  | .anvilSchedule comm _ => decide (comm < 64)
  | .grant _ => true
  | .slotBoundary => true
  | .exchangeData _ => true
  | .endMarker _ => true
  | .residualReport _ => true
  | .arbiterTakeover => true
  | .deviceReset _ => true
  | .bootcmdRestart _ => true
  | .bootcmdRaiseMin _ => true
  | .bootcmdReset _ => true
  | .attreq _ => true
  | .attestationDone => true
  | .contextCreate ctx _ => decide (ctx < 64)
  | .contextTerminate ctx => decide (ctx < 64)
  | .invalidate ctx _ => decide (ctx < 64)
  | .invalidateDone ctx => decide (ctx < 64)
  | .diagoccFree ctx _ => decide (ctx < 64)
  | .commConfigure comm _ => decide (comm < 64)
  | .thermalSample _ => true
  | .registerWrite _ size _ => decide (size = 4 ∨ size = 8)
  | .remoteLoadBlockingPoint _ wave => decide (wave < 16)
  | .linkRetrained port => portNumber port
  | .probeAnswer target => decide (target < 65536)
  | .noticeAcknowledgement dev _ => decide (dev < 65536)
  | .failureDeclaration dev => decide (dev < 65536)
  | .infieldTestEnd quad _ => decide (quad < 64)
  | .marginShortfall _ => true
  | .postAcknowledgement comm _ _ => decide (comm < 64)
  | .roundStopNotice comm _ => decide (comm < 64)

end Sys2Proof
end

