-- ==== Sys2Proof/Certificates/Slice0/Obligations.lean ====
section
/-! DEFINITION. The statements for the provers. The first part says in which words the statements are made: what a word's completion leaves
alone, what it writes, and the conditions under which it has its own effect. -/

open Sys2Proof Sys2Proof.Machine

namespace Sys2Proof.Stmt

/-- The issuing wave is live: only a live wave fetches words (R18). -/
def Live (s : State) : Prop := s.wave.status = .live

/-- Everything outside the issuing wave stands as it stood, but for the watchdog of its context, which every word restarts (R288), and the
model's counter of free values; every byte of memory reads as before. -/
def RestKept (s t : State) : Prop :=
  { t with wave := s.wave, wd := s.wd, wdStall := s.wdStall, fresh := s.fresh } = s ∧ ∀ a, t.byteAt a = s.byteAt a

/-- In the wave nothing changes but scalars, vector registers, the list of freed registers and FFLAGS (each of which is stated apart), the
pc and what the end of a word sets. -/
def WaveKept (u w : Wave) : Prop :=
  { w with
    regs := u.regs, vregs := u.vregs, freed := u.freed, fflags := u.fflags,
    pc := u.pc, issued := u.issued, parked := u.parked, block := u.block, qwait := u.qwait, collEnd := u.collEnd, drain := u.drain } = u

/-- The word has issued, and the wave goes on at `target`, parked if the word has Y set (R51). -/
def GoesOn (s t : State) (y : Bool) (target : Word) : Prop :=
  t.wave.pc = target ∧ t.wave.parked = y ∧ t.wave.block = none ∧ t.wave.qwait = none ∧ t.wave.collEnd = none ∧
    t.wave.drain = false ∧ t.wave.issued = s.wave.issued + 1

/-- The wave goes on at the next word, and nothing but what `WaveKept` leaves to be stated apart has changed. -/
def Completes (s t : State) (y : Bool) : Prop :=
  GoesOn s t y (s.wave.pc + 4#64) ∧ WaveKept s.wave t.wave ∧ RestKept s t

/-- What a scalar register holds of a value written to it: nothing of it for s0 (R29), 32 bits for the masks (R31). -/
def held (d : Reg) (v : Word) : Word := if d = 0#7 then 0#64 else if 125#7 ≤ d then v &&& 0xFFFFFFFF#64 else v

/-- S[D] holds the value, and every other scalar stands. -/
def WritesScalar (s t : State) (d : Reg) (v : Word) : Prop := t.getS d = held d v ∧ ∀ r, r ≠ d → t.getS r = s.getS r

def ScalarsKept (s t : State) : Prop := ∀ r, t.getS r = s.getS r
def VectorsKept (s t : State) : Prop := t.wave.vregs = s.wave.vregs ∧ t.wave.freed = s.wave.freed

/-- A word that writes S[D] = `v` and ORs `fl` into FFLAGS. -/
def ScalarResult (i : Instr) (s : State) (y : Bool) (d : Reg) (v : Word) (fl : BitVec 6) : Prop :=
  ∃ t, exec i s = .next t ∧ WritesScalar s t d v ∧ VectorsKept s t ∧ t.wave.fflags = s.wave.fflags ||| fl ∧ Completes s t y

/-- A vector word has its effect (R32, R34, R37): a live wave, a mask that is not empty, every register inside the allocation, and under
STRICT no freed source. -/
def VecReady (s : State) (srcs : List (Reg × Bool)) (d : Option Reg) : Prop :=
  Live s ∧ s.wave.maskEmpty = false ∧ (∀ e ∈ srcs, s.wave.phys e.1 < s.crew.valloc) ∧ (∀ r ∈ d, s.wave.phys r < s.crew.valloc) ∧
    (s.wave.strict = true → ∀ e ∈ srcs, s.wave.isFreed (s.wave.phys e.1) = false)

/-- Lane `k` of a source as the word reads it: a freed register reads as a free value (R34); `pos` is the operand's place. -/
def lane (s : State) (pos : Nat) (r : Reg) (k : Nat) : Lane := (s.readV pos r).getD k 0#32

/-- V[D] holds `f k` in each active lane `k`, and in the others what stood there, or a free value if it was freed (R33, R57); every other
vector register stands. -/
def WritesVector (s t : State) (d : Reg) (f : Nat → Lane) : Prop :=
  (∀ k (h : k < 96), (t.wave.vreg (s.wave.phys d))[k] = if s.wave.active k then f k else (s.oldV (s.wave.phys d))[k]) ∧
    ∀ p, p ≠ s.wave.phys d → t.wave.vreg p = s.wave.vreg p

/-- The destination is live; the sources marked last-use are freed, but not the destination (R33). -/
def FreesSources (s t : State) (srcs : List (Reg × Bool)) (d : Option Reg) : Prop :=
  ∀ p, t.wave.isFreed p = (d.all (fun r => p != s.wave.phys r) &&
    (s.wave.isFreed p || srcs.any (fun e => e.2 && s.wave.phys e.1 == p)))

/-- The flags of the active lanes together, as the flags of one word (R41). -/
def activeFlags (s : State) (f : Nat → Flags) : Flags := s.wave.lanes.foldl (fun acc k => acc ||| f k) 0#6

/-- A word that writes V[D] = `f k` lane by lane and ORs `fl` into FFLAGS. -/
def VectorResult (i : Instr) (s : State) (y : Bool) (srcs : List (Reg × Bool)) (d : Reg) (f : Nat → Lane) (fl : BitVec 6) : Prop :=
  ∃ t, exec i s = .next t ∧ WritesVector s t d f ∧ FreesSources s t srcs (some d) ∧ ScalarsKept s t ∧
    t.wave.fflags = s.wave.fflags ||| fl ∧ Completes s t y

/-- A word that reads vector registers and writes S[D] = `v` (R113 to R115). -/
def LanesToScalar (i : Instr) (s : State) (y : Bool) (srcs : List (Reg × Bool)) (d : Reg) (v : Word) (fl : BitVec 6) : Prop :=
  ∃ t, exec i s = .next t ∧ WritesScalar s t d v ∧ t.wave.vregs = s.wave.vregs ∧ FreesSources s t srcs none ∧
    t.wave.fflags = s.wave.fflags ||| fl ∧ Completes s t y

/-! ## The scalar integer words (R99 to R106) -/

/-- The words of R99 with what each writes. -/
noncomputable def binaryTable : List ((Bool → Reg → Reg → Reg → Instr) × (Word → Word → Word)) :=
  [(.add, fun a b => a + b), (.sub, fun a b => a - b), (.mul, fun a b => a * b),
   (.mulh, fun a b => BitVec.ofInt 64 (a.toInt * b.toInt / 2 ^ 64)),
   (.mulhn, fun a b => BitVec.ofNat 64 (a.toNat * b.toNat / 2 ^ 64)),
   (.div, fun a b => if b = 0#64 then BitVec.allOnes 64 else BitVec.ofInt 64 (a.toInt.tdiv b.toInt)),
   (.divn, fun a b => if b = 0#64 then BitVec.allOnes 64 else BitVec.ofNat 64 (a.toNat / b.toNat)),
   (.rem, fun a b => if b = 0#64 then a else BitVec.ofInt 64 (a.toInt.tmod b.toInt)),
   (.remn, fun a b => if b = 0#64 then a else BitVec.ofNat 64 (a.toNat % b.toNat)),
   (.and, fun a b => a &&& b), (.or, fun a b => a ||| b), (.xor, fun a b => a ^^^ b), (.andn, fun a b => a &&& ~~~b),
   (.shl, fun a b => a <<< (b.toNat % 64)), (.shr, fun a b => a >>> (b.toNat % 64)), (.sha, fun a b => a.sshiftRight (b.toNat % 64)),
   (.min, fun a b => if b.toInt < a.toInt then b else a), (.max, fun a b => if a.toInt < b.toInt then b else a),
   (.minn, fun a b => if b.toNat < a.toNat then b else a), (.maxn, fun a b => if a.toNat < b.toNat then b else a),
   (.seq, fun a b => if a = b then 1#64 else 0#64), (.slt, fun a b => if a.toInt < b.toInt then 1#64 else 0#64),
   (.sltn, fun a b => if a.toNat < b.toNat then 1#64 else 0#64)]

/-- The words of R103 with an immediate of nine bits, sign-extended. -/
noncomputable def immediateTable : List ((Bool → Reg → Reg → BitVec 9 → Instr) × (Word → Word → Word)) :=
  [(.addi, fun a i => a + i), (.andi, fun a i => a &&& i), (.ori, fun a i => a ||| i), (.xori, fun a i => a ^^^ i),
   (.slti, fun a i => if a.toInt < i.toInt then 1#64 else 0#64), (.sltni, fun a i => if a.toNat < i.toNat then 1#64 else 0#64),
   (.seqi, fun a i => if a = i then 1#64 else 0#64)]

/-- The shifts of R103 by an immediate. -/
noncomputable def shiftTable : List ((Bool → Reg → Reg → BitVec 6 → Instr) × (Word → Nat → Word)) :=
  [(.shli, fun a n => a <<< n), (.shri, fun a n => a >>> n), (.shai, fun a n => a.sshiftRight n)]

/-- The words of R104. -/
noncomputable def unaryTable : List ((Bool → Reg → Reg → Instr) × (Word → Word)) :=
  [(.clz, fun a => BitVec.ofNat 64 (Machine.clz a)), (.ctz, fun a => BitVec.ofNat 64 (Machine.ctz a)),
   (.popc, fun a => BitVec.ofNat 64 (Machine.popc a)), (.brev, fun a => a.reverse), (.bswap, fun a => Machine.bswap a),
   (.sext8, fun a => (a.setWidth 8).signExtend 64), (.sext16, fun a => (a.setWidth 16).signExtend 64),
   (.sext32, fun a => (a.setWidth 32).signExtend 64), (.zext8, fun a => a &&& 0xFF#64), (.zext16, fun a => a &&& 0xFFFF#64),
   (.zext32, fun a => a &&& 0xFFFFFFFF#64), (.abs, fun a => if a.toInt < 0 then 0#64 - a else a), (.neg, fun a => 0#64 - a),
   (.not, fun a => ~~~a)]

/-! ## The vector integer words (R107 to R117) -/

/-- The lane-wise words of two sources (R107) and the packed words of R117. -/
noncomputable def lane3Table : List ((Bool → Reg → Reg → Reg → Bool → Bool → Instr) × (Lane → Lane → Lane)) :=
  [(.vadd, fun a b => a + b), (.vsub, fun a b => a - b), (.vmul, fun a b => a * b),
   (.vmulh, fun a b => BitVec.ofInt 32 (a.toInt * b.toInt / 2 ^ 32)), (.vmulhn, fun a b => BitVec.ofNat 32 (a.toNat * b.toNat / 2 ^ 32)),
   (.vand, fun a b => a &&& b), (.vor, fun a b => a ||| b), (.vxor, fun a b => a ^^^ b),
   (.vshl, fun a b => a <<< (b.toNat % 32)), (.vshr, fun a b => a >>> (b.toNat % 32)), (.vsha, fun a b => a.sshiftRight (b.toNat % 32)),
   (.vmin, fun a b => if b.toInt < a.toInt then b else a), (.vmax, fun a b => if a.toInt < b.toInt then b else a),
   (.vminn, fun a b => if b.toNat < a.toNat then b else a), (.vmaxn, fun a b => if a.toNat < b.toNat then b else a)]

/-- The packed words of R117 on the two halves of a lane. -/
noncomputable def halfTable : List ((Bool → Reg → Reg → Reg → Bool → Bool → Instr) × (BitVec 16 → BitVec 16 → BitVec 16)) :=
  [(.vhadd, fun a b => a + b), (.vhsub, fun a b => a - b), (.vhmul, fun a b => a * b),
   (.vhmin, fun a b => if b.toInt < a.toInt then b else a), (.vhmax, fun a b => if a.toInt < b.toInt then b else a),
   (.vhminn, fun a b => if b.toNat < a.toNat then b else a), (.vhmaxn, fun a b => if a.toNat < b.toNat then b else a)]

/-- The packed words of R117 on the four bytes of a lane. -/
noncomputable def byteTable : List ((Bool → Reg → Reg → Reg → Bool → Bool → Instr) × (Byte → Byte → Byte)) :=
  [(.vbadd, fun a b => a + b), (.vbsub, fun a b => a - b),
   (.vbmin, fun a b => if b.toInt < a.toInt then b else a), (.vbmax, fun a b => if a.toInt < b.toInt then b else a)]

/-- The lane-wise words of one source (R108). -/
noncomputable def lane2Table : List ((Bool → Reg → Reg → Bool → Instr) × (Lane → Lane)) :=
  [(.vabs, fun a => if a.toInt < 0 then 0#32 - a else a), (.vneg, fun a => 0#32 - a), (.vnot, fun a => ~~~a),
   (.vclz, fun a => BitVec.ofNat 32 (Machine.clz a)), (.vpopc, fun a => BitVec.ofNat 32 (Machine.popc a)), (.vbrev, fun a => a.reverse),
   (.vmov, fun a => a), (.vsext16, fun a => (a.setWidth 16).signExtend 32)]

/-- The compares of R110. -/
noncomputable def compareTable : List ((Bool → Reg → Reg → Reg → Bool → Bool → Instr) × (Lane → Lane → Bool × Flags)) :=
  [(.vseq, fun a b => (decide (a = b), 0#6)), (.vsne, fun a b => (decide (a ≠ b), 0#6)),
   (.vslt, fun a b => (decide (a.toInt < b.toInt), 0#6)), (.vsle, fun a b => (decide (a.toInt ≤ b.toInt), 0#6)),
   (.vsltn, fun a b => (decide (a.toNat < b.toNat), 0#6)), (.vslen, fun a b => (decide (a.toNat ≤ b.toNat), 0#6)),
   (.vfeq, fun a b => binary32.feq a.toNat b.toNat), (.vflt, fun a b => binary32.flt false a.toNat b.toNat),
   (.vfle, fun a b => binary32.flt true a.toNat b.toNat)]

/-- A compare writes one result bit an active lane into the triple S[D] to S[D+2] and 0 for the others (R110). -/
def CompareResult (i : Instr) (s : State) (y : Bool) (d a b : Reg) (la lb : Bool) (f : Lane → Lane → Bool × Flags) : Prop :=
  ∃ t, exec i s = .next t ∧
    (∀ j k, j < 3 → k < 64 → (t.getS (d + BitVec.ofNat 7 j)).getLsbD k =
      (d + BitVec.ofNat 7 j != 0#7 && decide (k < 32) && s.wave.active (32 * j + k) && (f (lane s 0 a (32 * j + k)) (lane s 1 b (32 * j + k))).1)) ∧
    (∀ r, (∀ j, j < 3 → r ≠ d + BitVec.ofNat 7 j) → t.getS r = s.getS r) ∧
    t.wave.vregs = s.wave.vregs ∧ FreesSources s t [(a, la), (b, lb)] none ∧
    t.wave.fflags = s.wave.fflags ||| activeFlags s (fun k => (f (lane s 0 a k) (lane s 1 b k)).2) ∧ Completes s t y

/-- The active lanes of a source, lowest first. -/
def activeLanes (s : State) (a : Reg) : List Lane := s.wave.lanes.map (lane s 0 a)

/-- The reductions of R113 on the active lanes. -/
noncomputable def reduceTable : List ((Bool → Reg → Reg → Bool → Instr) × (List Lane → Word)) :=
  [(.vredAdd, fun xs => BitVec.ofInt 64 ((xs.map BitVec.toInt).sum)),
   (.vredMin, fun xs => (foldLanes minS xs).signExtend 64), (.vredMax, fun xs => (foldLanes maxS xs).signExtend 64),
   (.vredMinn, fun xs => (foldLanes minU xs).setWidth 64), (.vredMaxn, fun xs => (foldLanes maxU xs).setWidth 64),
   (.vredAnd, fun xs => (foldLanes (fun a b => a &&& b) xs).setWidth 64), (.vredOr, fun xs => (foldLanes (fun a b => a ||| b) xs).setWidth 64),
   (.vredXor, fun xs => (foldLanes (fun a b => a ^^^ b) xs).setWidth 64)]

/-- The conversions of R116 of one source, with the flags of a lane. -/
noncomputable def convertTable : List ((Bool → Reg → Reg → Bool → Instr) × (RMode → Lane → Lane × Flags)) :=
  [(.vcvtF32I32, fun m a => lane32 (binary32.ofInt m a.toInt)), (.vcvtF32N32, fun m a => lane32 (binary32.ofInt m a.toNat)),
   (.vcvtI32F32, fun m a => laneInt (Num.toInt m (binary32.decode a.toNat) (-2147483648) 2147483647)),
   (.vcvtN32F32, fun m a => laneInt (Num.toInt m (binary32.decode a.toNat) 0 4294967295)),
   (.vcvtF32HLo, fun m a => lane32 (binary16.convert binary32 m (a.extractLsb' 0 16).toNat)),
   (.vcvtF32HHi, fun m a => lane32 (binary16.convert binary32 m (a.extractLsb' 16 16).toNat)),
   (.vcvtF32BfLo, fun m a => lane32 (bfloat16.convert binary32 m (a.extractLsb' 0 16).toNat)),
   (.vcvtF32BfHi, fun m a => lane32 (bfloat16.convert binary32 m (a.extractLsb' 16 16).toNat)),
   (.vcvtI32I16Lo, fun _ a => ((a.extractLsb' 0 16).signExtend 32, 0#6)), (.vcvtI32I16Hi, fun _ a => ((a.extractLsb' 16 16).signExtend 32, 0#6))]

/-- The conversions of R116 into one half of a lane: which half, and the half with its flags. -/
noncomputable def narrowTable : List ((Bool → Reg → Reg → Bool → Instr) × Bool × (RMode → Lane → BitVec 16 × Flags)) :=
  [(.vcvtHF32Lo, false, fun m a => (BitVec.ofNat 16 (binary32.convert binary16 m a.toNat).1, (binary32.convert binary16 m a.toNat).2)),
   (.vcvtHF32Hi, true, fun m a => (BitVec.ofNat 16 (binary32.convert binary16 m a.toNat).1, (binary32.convert binary16 m a.toNat).2)),
   (.vcvtBfF32Lo, false, fun m a => (BitVec.ofNat 16 (binary32.convert bfloat16 m a.toNat).1, (binary32.convert bfloat16 m a.toNat).2)),
   (.vcvtBfF32Hi, true, fun m a => (BitVec.ofNat 16 (binary32.convert bfloat16 m a.toNat).1, (binary32.convert bfloat16 m a.toNat).2)),
   (.vcvtI16I32Lo, false, fun _ a => (BitVec.ofInt 16 (max (-32768) (min 32767 a.toInt)), 0#6)),
   (.vcvtI16I32Hi, true, fun _ a => (BitVec.ofInt 16 (max (-32768) (min 32767 a.toInt)), 0#6))]

/-- One half of a lane replaced, the other kept. -/
def withHalf (hi : Bool) (d : Lane) (h : BitVec 16) : Lane := if hi then h ++ d.extractLsb' 0 16 else d.extractLsb' 16 16 ++ h

/-! ## The floating-point words (R122 to R140) -/

/-- A value and flags as a scalar of 64 bits. -/
def as64 (r : Nat × Flags) : Word × Flags := (BitVec.ofNat 64 r.1, r.2)
def truth (r : Bool × Flags) : Word × Flags := (if r.1 then 1#64 else 0#64, r.2)

/-- The scalar binary64 words of two sources (R122 to R124). -/
noncomputable def float3Table : List ((Bool → Reg → Reg → Reg → Instr) × (RMode → Word → Word → Word × Flags)) :=
  [(.fadd, fun m a b => as64 (binary64.fadd m a.toNat b.toNat)), (.fsub, fun m a b => as64 (binary64.fsub m a.toNat b.toNat)),
   (.fmul, fun m a b => as64 (binary64.fmul m a.toNat b.toNat)), (.fdiv, fun m a b => as64 (binary64.fdiv m a.toNat b.toNat)),
   (.fmin, fun _ a b => as64 (binary64.fminmax false a.toNat b.toNat)), (.fmax, fun _ a b => as64 (binary64.fminmax true a.toNat b.toNat)),
   (.feq, fun _ a b => truth (binary64.feq a.toNat b.toNat)), (.flt, fun _ a b => truth (binary64.flt false a.toNat b.toNat)),
   (.fle, fun _ a b => truth (binary64.flt true a.toNat b.toNat))]

/-- The scalar binary64 words of one source (R125, R126). -/
noncomputable def float2Table : List ((Bool → Reg → Reg → Instr) × (RMode → Word → Word × Flags)) :=
  [(.fsqrt, fun m a => as64 (binary64.fsqrt m a.toNat)), (.fabs, fun _ a => (a &&& 0x7FFFFFFFFFFFFFFF#64, 0#6)),
   (.fneg, fun _ a => (a ^^^ 0x8000000000000000#64, 0#6)), (.fclass, fun _ a => (BitVec.ofNat 64 (binary64.classOf a.toNat), 0#6)),
   (.cvtF64I64, fun m a => as64 (binary64.ofInt m a.toInt)), (.cvtF64N64, fun m a => as64 (binary64.ofInt m a.toNat)),
   (.cvtI64F64, fun m a => wordInt (Num.toInt m (binary64.decode a.toNat) (-9223372036854775808) 9223372036854775807)),
   (.cvtN64F64, fun m a => wordInt (Num.toInt m (binary64.decode a.toNat) 0 18446744073709551615)),
   (.cvtF32F64, fun m a => as64 (binary64.convert binary32 m a.toNat)),
   (.cvtF64F32, fun m a => as64 (binary32.convert binary64 m (a.setWidth 32 : Lane).toNat))]

/-- The lane-wise floating-point words of two sources (R123, R127, R129). -/
noncomputable def vfloat3Table : List ((Bool → Reg → Reg → Reg → Bool → Bool → Instr) × (RMode → Lane → Lane → Lane × Flags)) :=
  [(.vfadd, fun m a b => lane32 (binary32.fadd m a.toNat b.toNat)), (.vfsub, fun m a b => lane32 (binary32.fsub m a.toNat b.toNat)),
   (.vfmul, fun m a b => lane32 (binary32.fmul m a.toNat b.toNat)), (.vfmin, fun _ a b => lane32 (binary32.fminmax false a.toNat b.toNat)),
   (.vfmax, fun _ a b => lane32 (binary32.fminmax true a.toNat b.toNat)),
   (.vfaddH2, fun m a b => pairs2 (binary16.fadd m) a b), (.vfmulH2, fun m a b => pairs2 (binary16.fmul m) a b),
   (.vfaddBf2, fun m a b => pairs2 (bfloat16.fadd m) a b), (.vfmulBf2, fun m a b => pairs2 (bfloat16.fmul m) a b)]

/-- The lane-wise fused and dot words, whose third source is V[D] (R127, R129, R135). -/
noncomputable def vfloatAccTable : List ((Bool → Reg → Reg → Reg → Bool → Bool → Instr) × (RMode → Lane → Lane → Lane → Lane × Flags)) :=
  [(.vfma, fun m a b d => lane32 (binary32.ffma m a.toNat b.toNat d.toNat)),
   (.vfmaH2, fun m a b d => pairs3 (binary16.ffma m) a b d), (.vfmaBf2, fun m a b d => pairs3 (bfloat16.ffma m) a b d),
   (.vfdotH2, fun m a b d => lane32 (dot32 m d.toNat (halfPairs binary16 a b))),
   (.vfdotBf2, fun m a b d => lane32 (dot32 m d.toNat (halfPairs bfloat16 a b)))]

/-- The lane-wise floating-point words of one source (R126, R130). -/
noncomputable def vfloat2Table : List ((Bool → Reg → Reg → Bool → Instr) × (RMode → Lane → Lane × Flags)) :=
  [(.vfabs, fun _ a => (a &&& 0x7FFFFFFF#32, 0#6)), (.vfneg, fun _ a => (a ^^^ 0x80000000#32, 0#6)),
   (.vfclass, fun _ a => (BitVec.ofNat 32 (binary32.classOf a.toNat), 0#6)), (.vfrint, fun m a => lane32 (rint32 m a.toNat)),
   (.vffloor, fun _ a => noInexact (rint32 .rdn a.toNat)), (.vfceil, fun _ a => noInexact (rint32 .rup a.toNat)),
   (.vftrunc, fun _ a => noInexact (rint32 .rtz a.toNat))]

/-- The special-function words of one source (R132), by the number of their function. -/
noncomputable def specialTable : List ((Bool → Reg → Reg → Bool → Instr) × Nat) :=
  [(.vrcp, 0), (.vrsq, 1), (.vsqrt, 2), (.vexp2, 3), (.vlog2, 4), (.vexp, 5), (.vlog, 6), (.vsin, 7), (.vcos, 8), (.vtanh, 9),
   (.vsigm, 10), (.verf, 11)]

/-- A special-function word goes into its core's unit with its results and flags computed; its destination is live at once, and its lanes
stand as they stood until the result lands (R131). -/
def SpecialIssue (i : Instr) (s : State) (y : Bool) (srcs : List (Reg × Bool)) (d : Reg) (f : Nat → Lane × Flags) : Prop :=
  ∃ t, exec i s = .next t ∧
    (t.coreAt s.crew.core).sfu = (s.coreAt s.crew.core).sfu ++
      [⟨s.crew.handle, s.wave.idx, s.wave.phys d, s.wave.lanes.map (fun k => (k, (f k).1)), activeFlags s (fun k => (f k).2)⟩] ∧
    { t.coreAt s.crew.core with sfu := (s.coreAt s.crew.core).sfu } = s.coreAt s.crew.core ∧
    (∀ n, n ≠ s.crew.core → t.coreAt n = s.coreAt n) ∧
    (∀ k (h : k < 96), (t.wave.vreg (s.wave.phys d))[k] = (s.oldV (s.wave.phys d))[k]) ∧
    (∀ p, p ≠ s.wave.phys d → t.wave.vreg p = s.wave.vreg p) ∧ FreesSources s t srcs (some d) ∧ ScalarsKept s t ∧
    t.wave.fflags = s.wave.fflags ∧ GoesOn s t y (s.wave.pc + 4#64) ∧ WaveKept s.wave t.wave ∧
    RestKept s { t with cores := s.cores }

/-- The narrow-format words of two sources (R138), by the number of their nf register. -/
noncomputable def narrow3Table : List ((Bool → Reg → Reg → Reg → Bool → Bool → Instr) × Nat × (Fmt → Nat → RMode → Lane → Lane → Lane × Flags)) :=
  [(.vnaddNf0, 0, nfAdd), (.vnaddNf1, 1, nfAdd), (.vnaddNf2, 2, nfAdd), (.vnaddNf3, 3, nfAdd),
   (.vnmulNf0, 0, nfMul), (.vnmulNf1, 1, nfMul), (.vnmulNf2, 2, nfMul), (.vnmulNf3, 3, nfMul)]

/-- The dots of R139. -/
noncomputable def narrowDotTable : List ((Bool → Reg → Reg → Reg → Bool → Bool → Instr) × Nat) :=
  [(.vndotNf0, 0), (.vndotNf1, 1), (.vndotNf2, 2), (.vndotNf3, 3)]

/-- The conversions of R140. -/
noncomputable def narrowConvertTable : List ((Bool → Reg → Reg → Bool → BitVec 3 → Instr) × Nat) :=
  [(.vncvtNf0, 0), (.vncvtNf1, 1), (.vncvtNf2, 2), (.vncvtNf3, 3)]

end Sys2Proof.Stmt

open Sys2Proof.Stmt

/-! ## The words -/

/-- R99, R100, R101: each scalar word of two sources writes S[D] as its row says, and changes nothing else; `sel` picks by the old S[D]. -/
def Obligations.ScalarBinaryWords : Prop :=
  (∀ e ∈ binaryTable, ∀ y d a b s, Live s → ScalarResult (e.1 y d a b) s y d (e.2 (s.getS a) (s.getS b)) 0#6) ∧
  ∀ y d a b s, Live s → ScalarResult (.sel y d a b) s y d (if s.getS d = 0#64 then s.getS b else s.getS a) 0#6

/-- R102 to R106: the immediate and unary words and the constants write S[D] as their rows say; `nop` writes nothing. -/
def Obligations.ScalarImmediateUnaryConstantWords : Prop :=
  (∀ e ∈ immediateTable, ∀ y d a i s, Live s → ScalarResult (e.1 y d a i) s y d (e.2 (s.getS a) (i.signExtend 64)) 0#6) ∧
  (∀ e ∈ shiftTable, ∀ y d a i s, Live s → ScalarResult (e.1 y d a i) s y d (e.2 (s.getS a) i.toNat) 0#6) ∧
  (∀ e ∈ unaryTable, ∀ y d a s, Live s → ScalarResult (e.1 y d a) s y d (e.2 (s.getS a)) 0#6) ∧
  (∀ y d i s, Live s →
    ScalarResult (.set0 y d i) s y d (i.signExtend 64) 0#6 ∧
    ScalarResult (.set16 y d i) s y d ((s.getS d).extractLsb' 32 32 ++ i ++ (s.getS d).extractLsb' 0 16) 0#6 ∧
    ScalarResult (.set32 y d i) s y d ((s.getS d).extractLsb' 48 16 ++ i ++ (s.getS d).extractLsb' 0 32) 0#6 ∧
    ScalarResult (.set48 y d i) s y d (i ++ (s.getS d).extractLsb' 0 48) 0#6 ∧
    ScalarResult (.adpc y d i) s y d (s.wave.pc + 4#64 * i.signExtend 64) 0#6) ∧
  ∀ y s, Live s → ∃ t, exec (.nop y) s = .next t ∧ ScalarsKept s t ∧ VectorsKept s t ∧ t.wave.fflags = s.wave.fflags ∧ Completes s t y

/-- R104, R108: what the counts are, bit by bit: `clz` and `ctz` count the zeros above and below the outermost set bit and give the width
for 0, `popc` counts the set bits, and `bswap` reverses the bytes. -/
def Obligations.BitCountsAreWhatTheyCount : Prop :=
  (∀ a : Word, Machine.clz a ≤ 64 ∧ (∀ k, 64 - Machine.clz a ≤ k → a.getLsbD k = false) ∧
    (Machine.clz a < 64 → a.getLsbD (63 - Machine.clz a) = true)) ∧
  (∀ a : Word, Machine.ctz a ≤ 64 ∧ (∀ k, k < Machine.ctz a → a.getLsbD k = false) ∧
    (Machine.ctz a < 64 → a.getLsbD (Machine.ctz a) = true)) ∧
  (∀ a : Lane, Machine.clz a ≤ 32 ∧ (∀ k, 32 - Machine.clz a ≤ k → a.getLsbD k = false) ∧
    (Machine.clz a < 32 → a.getLsbD (31 - Machine.clz a) = true)) ∧
  (∀ (w : Nat) (a : BitVec w), Machine.popc a = ((List.range w).filter (fun k => a.getLsbD k)).length) ∧
  ∀ (a : Word) (j k : Nat), j < 8 → k < 8 → (Machine.bswap a).getLsbD (8 * j + k) = a.getLsbD (8 * (7 - j) + k)

/-- R107 to R109, R117: each lane-wise integer word writes V[D] in the active lanes as its row says, and changes nothing else. The model's
own choices in it: the values of lanes of freed registers (log entry 9). -/
def Obligations.VectorIntegerWords : Prop :=
  (∀ e ∈ lane3Table, ∀ y d a b la lb s, VecReady s [(a, la), (b, lb)] (some d) →
    VectorResult (e.1 y d a b la lb) s y [(a, la), (b, lb)] d (fun k => e.2 (lane s 0 a k) (lane s 1 b k)) 0#6) ∧
  (∀ e ∈ halfTable, ∀ y d a b la lb s, VecReady s [(a, la), (b, lb)] (some d) →
    VectorResult (e.1 y d a b la lb) s y [(a, la), (b, lb)] d (fun k =>
      e.2 ((lane s 0 a k).extractLsb' 16 16) ((lane s 1 b k).extractLsb' 16 16) ++
        e.2 ((lane s 0 a k).extractLsb' 0 16) ((lane s 1 b k).extractLsb' 0 16)) 0#6) ∧
  (∀ e ∈ byteTable, ∀ y d a b la lb s, VecReady s [(a, la), (b, lb)] (some d) →
    VectorResult (e.1 y d a b la lb) s y [(a, la), (b, lb)] d (fun k =>
      e.2 ((lane s 0 a k).extractLsb' 24 8) ((lane s 1 b k).extractLsb' 24 8) ++
        e.2 ((lane s 0 a k).extractLsb' 16 8) ((lane s 1 b k).extractLsb' 16 8) ++
        e.2 ((lane s 0 a k).extractLsb' 8 8) ((lane s 1 b k).extractLsb' 8 8) ++
        e.2 ((lane s 0 a k).extractLsb' 0 8) ((lane s 1 b k).extractLsb' 0 8)) 0#6) ∧
  (∀ e ∈ lane2Table, ∀ y d a la s, VecReady s [(a, la)] (some d) →
    VectorResult (e.1 y d a la) s y [(a, la)] d (fun k => e.2 (lane s 0 a k)) 0#6) ∧
  (∀ y d a b la lb s, VecReady s [(a, la), (b, lb), (d, false)] (some d) →
    VectorResult (.vmad y d a b la lb) s y [(a, la), (b, lb)] d (fun k => lane s 0 a k * lane s 1 b k + lane s 2 d k) 0#6) ∧
  (∀ y d a i s, VecReady s [(a, false)] (some d) →
    VectorResult (.vaddi y d a i) s y [] d (fun k => lane s 0 a k + i.signExtend 32) 0#6) ∧
  (∀ y d a s, VecReady s [] (some d) → VectorResult (.vbcast y d a) s y [] d (fun _ => (s.getS a).setWidth 32) 0#6) ∧
  ∀ y d s, VecReady s [] (some d) → VectorResult (.vlaneid y d) s y [] d (fun k => BitVec.ofNat 32 k) 0#6

/-- R110, R124, R128, R44: the compares write the triple at D, with the flags of the floating-point compares; a D above 125 raises OPERAND.
-/
def Obligations.VectorCompareWords : Prop :=
  (∀ e ∈ compareTable, ∀ y d a b la lb s, VecReady s [(a, la), (b, lb)] none → d ≤ 125#7 →
    CompareResult (e.1 y d a b la lb) s y d a b la lb e.2) ∧
  ∀ e ∈ compareTable, ∀ y d a b la lb s, Live s → s.wave.maskEmpty = false → 125#7 < d →
    exec (e.1 y d a b la lb) s = .next (s.trap .operand 0#64)

/-- R111, R112, R115: the lane moves. The model's own choices in it: the values of lanes of freed registers (log entry 9). -/
def Obligations.LaneMoveWords : Prop :=
  (∀ y d a b la lb s, VecReady s [(a, la), (b, lb)] (some d) →
    VectorResult (.vperm y d a b la lb) s y [(a, la), (b, lb)] d
      (fun k => if (lane s 1 b k).toNat ≤ 95 then lane s 0 a (lane s 1 b k).toNat else 0#32) 0#6) ∧
  (∀ y d a i s, VecReady s [(a, false)] (some d) →
    VectorResult (.vxshf y d a i) s y [] d (fun k => if k ^^^ i.toNat ≤ 95 then lane s 0 a (k ^^^ i.toNat) else 0#32) 0#6 ∧
    VectorResult (.vrotu y d a i) s y [] d (fun k => lane s 0 a ((k + 192 - i.toNat) % 96)) 0#6 ∧
    VectorResult (.vrotd y d a i) s y [] d (fun k => lane s 0 a ((k + i.toNat) % 96)) 0#6 ∧
    VectorResult (.vblane y d a i) s y [] d (fun _ => if i.toNat ≤ 95 then lane s 0 a i.toNat else 0#32) 0#6) ∧
  (∀ y d a b la s, VecReady s [(a, la)] none → (s.getS b).toNat ≤ 95 →
    LanesToScalar (.vext y d a b la) s y [(a, la)] d ((lane s 0 a (s.getS b).toNat).setWidth 64) 0#6) ∧
  (∀ y d a b s, VecReady s [] (some d) → (s.getS b).toNat ≤ 95 →
    VectorResult (.vins y d a b) s y [] d
      (fun k => if k = (s.getS b).toNat then (s.getS a).setWidth 32 else (s.oldV (s.wave.phys d)).getD k 0#32) 0#6) ∧
  ∀ y d a b la s, Live s → s.wave.maskEmpty = false → 95 < (s.getS b).toNat →
    exec (.vext y d a b la) s = .next (s.trap .operand 0#64) ∧ exec (.vins y d a b) s = .next (s.trap .operand 0#64)

/-- R113, R114: the reductions write S[D] from the active lanes alone; a floating-point sum takes +0 for an inactive lane and follows the
fixed tree. -/
def Obligations.ReductionWords : Prop :=
  (∀ e ∈ reduceTable, ∀ y d a la s, VecReady s [(a, la)] none →
    LanesToScalar (e.1 y d a la) s y [(a, la)] d (e.2 (activeLanes s a)) 0#6) ∧
  ∀ y d a la s, VecReady s [(a, la)] none →
    LanesToScalar (.vredFadd y d a la) s y [(a, la)] d
      (BitVec.ofNat 64 (addTree s.rm ((List.range 96).map (fun k => if s.wave.active k then (lane s 0 a k).toNat else 0))).1)
      (addTree s.rm ((List.range 96).map (fun k => if s.wave.active k then (lane s 0 a k).toNat else 0))).2 ∧
    LanesToScalar (.vredFmin y d a la) s y [(a, la)] d
      (BitVec.ofNat 64 (minmaxLanes false ((activeLanes s a).map BitVec.toNat)).1) (minmaxLanes false ((activeLanes s a).map BitVec.toNat)).2 ∧
    LanesToScalar (.vredFmax y d a la) s y [(a, la)] d
      (BitVec.ofNat 64 (minmaxLanes true ((activeLanes s a).map BitVec.toNat)).1) (minmaxLanes true ((activeLanes s a).map BitVec.toNat)).2

/-- R116: the conversions write V[D], those into a half of a lane keeping the other half; the flags of the active lanes go to FFLAGS. The
model's own choices in it: the values of lanes of freed registers (log entry 9). -/
def Obligations.VectorConversionWords : Prop :=
  (∀ e ∈ convertTable, ∀ y d a la s, VecReady s [(a, la)] (some d) →
    VectorResult (e.1 y d a la) s y [(a, la)] d (fun k => (e.2 s.rm (lane s 0 a k)).1) (activeFlags s (fun k => (e.2 s.rm (lane s 0 a k)).2))) ∧
  ∀ e ∈ narrowTable, ∀ y d a la s, VecReady s [(a, la), (d, false)] (some d) →
    VectorResult (e.1 y d a la) s y [(a, la)] d (fun k => withHalf e.2.1 (lane s 2 d k) (e.2.2 s.rm (lane s 0 a k)).1)
      (activeFlags s (fun k => (e.2.2 s.rm (lane s 0 a k)).2))

/-- R32, R34, R37: a word of the vector class with an empty mask only goes on: no register, flag or byte changes, and nothing is checked;
with lanes to work on, a lane-wise word with a register outside the allocation, or under STRICT with a freed source, raises OPERAND. The
model's own choices in it: the values of lanes of freed registers (log entry 9). -/
def Obligations.VectorWordsAreGuarded : Prop :=
  (∀ i w s, encode i = some w → vectorClass w = true → Live s → s.wave.maskEmpty = true →
    ∃ t, exec i s = .next t ∧ ScalarsKept s t ∧ VectorsKept s t ∧ t.wave.fflags = s.wave.fflags ∧ Completes s t (wordY w)) ∧
  (∀ e ∈ lane3Table, ∀ y d a b la lb s, Live s → s.wave.maskEmpty = false →
    (s.crew.valloc ≤ s.wave.phys d ∨ s.crew.valloc ≤ s.wave.phys a ∨ s.crew.valloc ≤ s.wave.phys b ∨
      (s.wave.strict = true ∧ (s.wave.isFreed (s.wave.phys a) = true ∨ s.wave.isFreed (s.wave.phys b) = true))) →
    exec (e.1 y d a b la lb) s = .next (s.trap .operand 0#64)) ∧
  (∀ e ∈ vfloat3Table, ∀ y d a b la lb s, Live s → s.wave.maskEmpty = false →
    (s.crew.valloc ≤ s.wave.phys d ∨ s.crew.valloc ≤ s.wave.phys a ∨ s.crew.valloc ≤ s.wave.phys b ∨
      (s.wave.strict = true ∧ (s.wave.isFreed (s.wave.phys a) = true ∨ s.wave.isFreed (s.wave.phys b) = true))) →
    exec (e.1 y d a b la lb) s = .next (s.trap .operand 0#64)) ∧
  ∀ e ∈ lane2Table, ∀ y d a la s, Live s → s.wave.maskEmpty = false →
    (s.crew.valloc ≤ s.wave.phys d ∨ s.crew.valloc ≤ s.wave.phys a ∨ (s.wave.strict = true ∧ s.wave.isFreed (s.wave.phys a) = true)) →
    exec (e.1 y d a la) s = .next (s.trap .operand 0#64)

/-- R122 to R126: the scalar binary64 words write S[D] and OR their flags into FFLAGS, rounding as WCTL.RM says (R40, R41, R81). -/
def Obligations.ScalarFloatWords : Prop :=
  (∀ e ∈ float3Table, ∀ y d a b s, Live s →
    ScalarResult (e.1 y d a b) s y d (e.2 s.rm (s.getS a) (s.getS b)).1 (e.2 s.rm (s.getS a) (s.getS b)).2) ∧
  (∀ e ∈ float2Table, ∀ y d a s, Live s → ScalarResult (e.1 y d a) s y d (e.2 s.rm (s.getS a)).1 (e.2 s.rm (s.getS a)).2) ∧
  ∀ y d a b s, Live s →
    ScalarResult (.ffma y d a b) s y d (as64 (binary64.ffma s.rm (s.getS a).toNat (s.getS b).toNat (s.getS d).toNat)).1
      (as64 (binary64.ffma s.rm (s.getS a).toNat (s.getS b).toNat (s.getS d).toNat)).2

/-- R123, R126, R127, R129, R130, R135, R136: the lane-wise floating-point words write V[D] and OR the flags of the active lanes into
FFLAGS. The model's own choices in it: the values of lanes of freed registers (log entry 9). -/
def Obligations.VectorFloatWords : Prop :=
  (∀ e ∈ vfloat3Table, ∀ y d a b la lb s, VecReady s [(a, la), (b, lb)] (some d) →
    VectorResult (e.1 y d a b la lb) s y [(a, la), (b, lb)] d (fun k => (e.2 s.rm (lane s 0 a k) (lane s 1 b k)).1)
      (activeFlags s (fun k => (e.2 s.rm (lane s 0 a k) (lane s 1 b k)).2))) ∧
  (∀ e ∈ vfloatAccTable, ∀ y d a b la lb s, VecReady s [(a, la), (b, lb), (d, false)] (some d) →
    VectorResult (e.1 y d a b la lb) s y [(a, la), (b, lb)] d (fun k => (e.2 s.rm (lane s 0 a k) (lane s 1 b k) (lane s 2 d k)).1)
      (activeFlags s (fun k => (e.2 s.rm (lane s 0 a k) (lane s 1 b k) (lane s 2 d k)).2))) ∧
  (∀ e ∈ vfloat2Table, ∀ y d a la s, VecReady s [(a, la)] (some d) →
    VectorResult (e.1 y d a la) s y [(a, la)] d (fun k => (e.2 s.rm (lane s 0 a k)).1) (activeFlags s (fun k => (e.2 s.rm (lane s 0 a k)).2))) ∧
  ∀ y d a j c s, VecReady s [(a, false)] (some d) →
    VectorResult (.vcbx y d a j c) s y [] d
      (fun k => (lane32 (bfloat16.convert binary32 .rne (s.wave.codebook c.toNat ((lane s 0 a k).toNat / 2 ^ (4 * j.toNat) % 16)).toNat)).1)
      (activeFlags s (fun k => (lane32 (bfloat16.convert binary32 .rne
        (s.wave.codebook c.toNat ((lane s 0 a k).toNat / 2 ^ (4 * j.toNat) % 16)).toNat)).2))

/-- R131, R132, R134: a special-function word waits in its core's unit with its results, and the step SFU_RESULT lands the oldest word of
the unit: the lanes and the flags go to the wave that issued it (here the one in focus, which does not stop). The model's own choices in it:
the values of the bounded functions within their bounds (log entries 9, 14 and 37). -/
def Obligations.SpecialFunctionWords : Prop :=
  (∀ e ∈ specialTable, ∀ y d a la s, VecReady s [(a, la)] (some d) →
    SpecialIssue (e.1 y d a la) s y [(a, la)] d (fun k => special e.2 s.rm (lane s 0 a k))) ∧
  (∀ y d a b la lb s, VecReady s [(a, la), (b, lb)] (some d) →
    SpecialIssue (.vfdiv y d a b la lb) s y [(a, la), (b, lb)] d
      (fun k => lane32 (binary32.fdiv s.rm (lane s 0 a k).toNat (lane s 1 b k).toNat))) ∧
  ∀ core o rest s, (s.coreAt core).sfu = o :: rest → o.crew = s.crew.handle → o.wave = s.wave.idx → Live s →
    s.wave.stop = none → s.wave.halting = none →
    ∃ t, exec (.sfuResult core) s = .next t ∧ (t.coreAt core).sfu = rest ∧ t.wave.fflags = s.wave.fflags ||| o.flags ∧
      t.wave.vreg o.phys = o.vals.foldl (fun (v : Lanes) e => v.setIfInBounds e.1 e.2) (s.wave.vreg o.phys) ∧
      (∀ p, p ≠ o.phys → t.wave.vreg p = s.wave.vreg p) ∧ ScalarsKept s t ∧ t.wave.pc = s.wave.pc ∧ t.crew = s.crew ∧
      ∀ a, t.byteAt a = s.byteAt a

/-- R137 to R140: the narrow-format words with a format that their nf register holds well; one that it does not raises FORMAT. The model's
own choices in it: UF where a format with no exponent field saturates (log entries 9 and 36). -/
def Obligations.NarrowFormatWords : Prop :=
  (∀ e ∈ narrow3Table, ∀ y d a b la lb s fmt width, VecReady s [(a, la), (b, lb)] (some d) → nfFmt (s.wave.nf.getD e.2.1 0#32) = some (fmt, width) →
    VectorResult (e.1 y d a b la lb) s y [(a, la), (b, lb)] d (fun k => (e.2.2 fmt width s.rm (lane s 0 a k) (lane s 1 b k)).1)
      (activeFlags s (fun k => (e.2.2 fmt width s.rm (lane s 0 a k) (lane s 1 b k)).2))) ∧
  (∀ e ∈ narrowDotTable, ∀ y d a b la lb s fmt width, VecReady s [(a, la), (b, lb), (d, false)] (some d) →
    nfFmt (s.wave.nf.getD e.2 0#32) = some (fmt, width) →
    VectorResult (e.1 y d a b la lb) s y [(a, la), (b, lb)] d (fun k => (nfDot fmt width s.rm (lane s 0 a k) (lane s 1 b k) (lane s 2 d k)).1)
      (activeFlags s (fun k => (nfDot fmt width s.rm (lane s 0 a k) (lane s 1 b k) (lane s 2 d k)).2))) ∧
  (∀ e ∈ narrowConvertTable, ∀ y d a j s fmt width, nfFmt (s.wave.nf.getD e.2 0#32) = some (fmt, width) → j.toNat < perLane width →
    (VecReady s [(a, false)] (some d) →
      VectorResult (e.1 y d a false j) s y [] d (fun k => (widenElem fmt width j.toNat s.rm (lane s 0 a k)).1)
        (activeFlags s (fun k => (widenElem fmt width j.toNat s.rm (lane s 0 a k)).2))) ∧
    (VecReady s [(a, false), (d, false)] (some d) →
      VectorResult (e.1 y d a true j) s y [] d (fun k => (narrowElem fmt width j.toNat s.rm (lane s 0 a k) (lane s 2 d k)).1)
        (activeFlags s (fun k => (narrowElem fmt width j.toNat s.rm (lane s 0 a k) (lane s 2 d k)).2)))) ∧
  ∀ e ∈ narrow3Table, ∀ y d a b la lb s, VecReady s [(a, la), (b, lb)] (some d) → nfFmt (s.wave.nf.getD e.2.1 0#32) = none →
    exec (e.1 y d a b la lb) s = .next (s.trap .format 0#64)

namespace Sys2Proof.Stmt

/-- A word that only goes on, at `target`, writing no register and no flag. -/
def OnlyGoesOn (i : Instr) (s : State) (y : Bool) (target : Word) : Prop :=
  ∃ t, exec i s = .next t ∧ ScalarsKept s t ∧ VectorsKept s t ∧ t.wave.fflags = s.wave.fflags ∧ GoesOn s t y target ∧
    WaveKept s.wave t.wave ∧ RestKept s t

/-- A word that waits where it stands: the wave records what it waits for, and nothing else changes. -/
def Waits (i : Instr) (s : State) (b : Block) : Prop :=
  ∃ t, exec i s = .next t ∧ t.wave.block = some b ∧ t.wave.pc = s.wave.pc ∧ { t with wave := { t.wave with block := s.wave.block } } = s

/-- The control registers of R39 by number. -/
def controlIds : List Nat :=
  [0x000, 0x001, 0x002, 0x003, 0x004, 0x005, 0x006, 0x007, 0x008, 0x009, 0x010, 0x011, 0x012, 0x013, 0x018, 0x019, 0x01A, 0x01B, 0x020, 0x021,
   0x022, 0x023, 0x024, 0x028, 0x029, 0x030, 0x031, 0x032, 0x033, 0x034, 0x035, 0x036, 0x037, 0x040, 0x041, 0x042, 0x048, 0x050, 0x051, 0x052]

/-- A memory word queues one access and goes on: memory itself stands until the access performs (R177, R198). -/
def QueuesAccess (i : Instr) (s : State) (y : Bool) (op : AccOp) (lanes : List LaneReq) (stream : Bool) : Prop :=
  ∃ t, exec i s = .next t ∧
    t.wave.accs = s.wave.accs ++ [⟨s.wave.nextId, s.wave.pc, s.wave.issued, op, lanes, stream, s.wave.inh, .queued, s.nanos⟩] ∧
    t.wave.nextId = s.wave.nextId + 1 ∧ ScalarsKept s t ∧ VectorsKept s t ∧ t.wave.fflags = s.wave.fflags ∧
    GoesOn s t y (s.wave.pc + 4#64) ∧ WaveKept s.wave { t.wave with accs := s.wave.accs, nextId := s.wave.nextId } ∧ RestKept s t

/-- A vector memory word queues one access and goes on. A word with a destination revives it with the lanes that stood there (R33). -/
def QueuesVectorAccess (i : Instr) (s : State) (y : Bool) (srcs : List (Reg × Bool)) (d : Option Reg) (op : AccOp) (lanes : List LaneReq)
    (stream : Bool) : Prop :=
  ∃ t, exec i s = .next t ∧
    t.wave.accs = s.wave.accs ++ [⟨s.wave.nextId, s.wave.pc, s.wave.issued, op, lanes, stream, s.wave.inh, .queued, s.nanos⟩] ∧
    t.wave.nextId = s.wave.nextId + 1 ∧ ScalarsKept s t ∧
    (∀ r ∈ d, t.wave.vreg (s.wave.phys r) = s.oldV (s.wave.phys r)) ∧ (∀ p, (∀ r ∈ d, p ≠ s.wave.phys r) → t.wave.vreg p = s.wave.vreg p) ∧
    FreesSources s t srcs d ∧ t.wave.fflags = s.wave.fflags ∧
    GoesOn s t y (s.wave.pc + 4#64) ∧ WaveKept s.wave { t.wave with accs := s.wave.accs, nextId := s.wave.nextId } ∧ RestKept s t

/-- The request of one active lane. -/
def request (k : Nat) (va data : Word) (off : Lane) : LaneReq := ⟨k, va, data, off⟩

/-- The requests of a gather or scatter: S[A] + zext(V[B]) in each active lane (R201). -/
def gathers (s : State) (a b : Reg) (data : Nat → Word) : List LaneReq :=
  s.wave.lanes.map (fun k => request k (s.getS a + (lane s 1 b k).setWidth 64) (data k) (lane s 1 b k))

/-- The requests of a strided access: S[A] + 4 * stride * k (R202). -/
def strides (s : State) (a : Reg) (i : BitVec 8) (data : Nat → Word) : List LaneReq :=
  s.wave.lanes.map (fun k => request k (s.getS a + 4#64 * i.signExtend 64 * BitVec.ofNat 64 k) (data k) 0#32)

/-- The scalar loads of R200: size and sign. -/
noncomputable def loadTable : List ((Bool → Reg → Reg → BitVec 9 → Instr) × Nat × Bool) :=
  [(.ldw, 4, true), (.ldwn, 4, false), (.ldd, 8, false), (.ldbn, 1, false)]
noncomputable def storeTable : List ((Bool → Reg → Reg → BitVec 9 → Instr) × Nat) := [(.stw, 4), (.std, 8), (.stb, 1)]
/-- The scalar atomics of R204 but for `acas`: operation and size. -/
noncomputable def atomicTable : List ((Bool → Reg → Reg → Reg → Instr) × AtomOp × Nat) :=
  [(.aadd, .add, 8), (.amin, .min, 8), (.amax, .max, 8), (.aminn, .minn, 8), (.amaxn, .maxn, 8), (.aand, .and, 8), (.aor, .or, 8),
   (.axor, .xor, 8), (.axchg, .xchg, 8), (.afadd, .fadd, 4)]

/-- What the fences of R186 and `drainst` (R208) wait for. -/
def streamsOpen (s : State) : Bool := s.wave.accs.any (fun a => a.stream && a.left) || s.placesLeft
def lmOpen (s : State) : Bool := !s.wave.lmq.isEmpty || s.wave.accs.any (fun a => a.writes && a.left)
def remoteOpen (s : State) : Bool := s.remoteLeft || s.engineRemote || s.packetsLeft
def allOpen (s : State) : Bool := s.wave.accs.any Access.left || !s.wave.lmq.isEmpty || s.engineLeft || remoteOpen s
def storesOpen (s : State) : Bool :=
  s.wave.accs.any (fun a => a.writes && a.left) ||
    (s.coreAt s.crew.core).mops.any (fun m => m.crew = s.crew.handle ∧ m.wave = s.wave.idx ∧ m.stores)

/-- The fences and `drainst`: what each waits for, and whether the wave's later accesses then stand after its streaming accesses, after the
writes of its engine commands, and its LM stores after its ordinary accesses. -/
noncomputable def fenceTable : List ((Bool → Instr) × (State → Bool) × Bool × Bool × Bool) :=
  [(.fenceSt, streamsOpen, true, false, false), (.fenceLm, lmOpen, false, false, true),
   (.fenceEngine, fun s => s.engineLeft, false, true, false), (.fenceHost, fun s => s.hostLeft, true, false, false),
   (.fenceGen, remoteOpen, true, true, false), (.fenceAll, allOpen, true, true, true), (.drainst, storesOpen, false, false, false)]

/-- The clock of the wave's accesses after a fence. -/
def fencedClock (s : State) (streams engines : Bool) : Nat :=
  Max.max (if streams then Max.max s.wave.pts s.wave.streamClock else s.wave.pts) (if engines then s.wave.engClock else 0)

/-- A fence that is done: the wave goes on, and of its clocks those stand that the fence does not move. -/
def FenceDone (i : Instr) (s : State) (y streams engines lm : Bool) : Prop :=
  ∃ t, exec i s = .next t ∧ ScalarsKept s t ∧ VectorsKept s t ∧ t.wave.fflags = s.wave.fflags ∧ GoesOn s t y (s.wave.pc + 4#64) ∧
    t.wave.pts = fencedClock s streams engines ∧ t.wave.lmFence = (if lm then fencedClock s streams engines else s.wave.lmFence) ∧
    t.wave.seen = (if streams then [] else s.wave.seen) ∧
    WaveKept s.wave { t.wave with pts := s.wave.pts, lmFence := s.wave.lmFence, seen := s.wave.seen } ∧ RestKept s t

/-- The words of R209 that find their line: what each does to the device before the wave goes on. -/
noncomputable def hintTable : List ((Bool → Reg → Instr) × (State → Xl → State)) :=
  [(.prefL2, fun s x => s.prefetch x false), (.prefL1, fun s x => s.prefetch x true),
   (.prefEvict, fun s x =>
     ((if (s.line (lineOf x.fpa)).excl = some s.crew.core then s.recallLine none (lineOf x.fpa) else s).setCopy s.crew.core (lineOf x.fpa)
       (copyDefault 0)).setCopy l2Agent (lineOf x.fpa) (copyDefault 0)),
   (.prefUnpin, fun s x => { s with pins := s.pins.filter (fun p => p != (lineOf x.fpa, s.crew.ctx)) })]

end Sys2Proof.Stmt

/-- R118, R119, R120, R8, R40: `csrr` reads a listed control register and clears PFDROP and STALECNT, `csrw` writes the four that software
may write and their defined bits alone, `vwin` sets the window; an id that R39 does not list raises ILLEGAL, a reserved rounding mode and a
window outside the allocation raise OPERAND. The model's own choices in it: the time that NANOS and CYCLE show (log entry 29). -/
def Obligations.ControlRegisterWords : Prop :=
  (∀ (s : State) id, (s.csr id).isSome = true ↔ id ∈ controlIds) ∧
  (∀ y d i s v, Live s → s.csr i.toNat = some v → (i = 0x013#9 → s.sfuPending = false) →
    ∃ t, exec (.csrr y d i) s = .next t ∧ WritesScalar s t d v ∧ VectorsKept s t ∧ t.wave.fflags = s.wave.fflags ∧
      t.wave.pfdrop = (if i = 0x050#9 then 0#64 else s.wave.pfdrop) ∧ t.wave.stalecnt = (if i = 0x052#9 then 0#64 else s.wave.stalecnt) ∧
      GoesOn s t y (s.wave.pc + 4#64) ∧ WaveKept s.wave { t.wave with pfdrop := s.wave.pfdrop, stalecnt := s.wave.stalecnt } ∧ RestKept s t) ∧
  (∀ y a i s, Live s → i.toNat ∈ controlIds → (i = 0x012#9 → ((s.getS a).setWidth 3).toNat ≤ 4) → (i = 0x013#9 → s.sfuPending = false) →
    ∃ t, exec (.csrw y a i) s = .next t ∧ ScalarsKept s t ∧ VectorsKept s t ∧
      t.wave.wctl = (if i = 0x012#9 then (s.getS a).setWidth 4 else s.wave.wctl) ∧
      t.wave.fflags = (if i = 0x013#9 then (s.getS a).setWidth 6 else s.wave.fflags) ∧
      t.wave.mrwin = (if i = 0x028#9 then s.getS a &&& ~~~0xFF#64 else s.wave.mrwin) ∧
      t.wave.tvec = (if i = 0x034#9 then s.getS a &&& ~~~3#64 else s.wave.tvec) ∧ GoesOn s t y (s.wave.pc + 4#64) ∧
      WaveKept s.wave { t.wave with wctl := s.wave.wctl, mrwin := s.wave.mrwin, tvec := s.wave.tvec } ∧ RestKept s t) ∧
  (∀ y i s, Live s → i.toNat % 32 = 0 → i.toNat + 32 ≤ s.crew.valloc →
    ∃ t, exec (.vwin y i) s = .next t ∧ t.wave.vwb = i.toNat ∧ ScalarsKept s t ∧ VectorsKept s t ∧ t.wave.fflags = s.wave.fflags ∧
      GoesOn s t y (s.wave.pc + 4#64) ∧ WaveKept s.wave { t.wave with vwb := s.wave.vwb } ∧ RestKept s t) ∧
  (∀ y d i s, Live s → i.toNat ∉ controlIds →
    exec (.csrr y d i) s = .next (s.trap .illegal 0#64) ∧ exec (.csrw y d i) s = .next (s.trap .illegal 0#64)) ∧
  (∀ y a s, Live s → 4 < ((s.getS a).setWidth 3 : BitVec 3).toNat → exec (.csrw y a 0x012#9) s = .next (s.trap .operand 0#64)) ∧
  ∀ y i s, Live s → (i.toNat % 32 ≠ 0 ∨ s.crew.valloc < i.toNat + 32) → exec (.vwin y i) s = .next (s.trap .operand 0#64)

/-- R291, R44: the branches go on at their target or at the next word, `call` writes s1, `loop` counts S[D] down; a target of `jr` that is
no multiple of 4 raises ALIGN, a triple above s125 OPERAND. -/
def Obligations.BranchWords : Prop :=
  (∀ y d i s, Live s →
    OnlyGoesOn (.br y d i) s y (if s.getS d ≠ 0#64 then s.wave.pc + 4#64 * i.signExtend 64 else s.wave.pc + 4#64) ∧
    OnlyGoesOn (.brz y d i) s y (if s.getS d = 0#64 then s.wave.pc + 4#64 * i.signExtend 64 else s.wave.pc + 4#64)) ∧
  (∀ y i s, Live s →
    OnlyGoesOn (.jmp y i) s y (s.wave.pc + 4#64 * i.signExtend 64) ∧
    ∃ t, exec (.call y i) s = .next t ∧ WritesScalar s t 1#7 (s.wave.pc + 4#64) ∧ VectorsKept s t ∧ t.wave.fflags = s.wave.fflags ∧
      GoesOn s t y (s.wave.pc + 4#64 * i.signExtend 64) ∧ WaveKept s.wave t.wave ∧ RestKept s t) ∧
  (∀ y a s, Live s → (s.getS a).toNat % 4 = 0 → OnlyGoesOn (.jr y a) s y (s.getS a)) ∧
  (∀ y a s, Live s → (s.getS a).toNat % 4 ≠ 0 → exec (.jr y a) s = .next (s.trap .align (s.getS a))) ∧
  (∀ y d i s, Live s →
    ∃ t, exec (.loop y d i) s = .next t ∧ WritesScalar s t d (s.getS d - 1#64) ∧ VectorsKept s t ∧ t.wave.fflags = s.wave.fflags ∧
      GoesOn s t y (if s.getS d - 1#64 ≠ 0#64 then s.wave.pc + 4#64 * i.signExtend 64 else s.wave.pc + 4#64) ∧
      WaveKept s.wave t.wave ∧ RestKept s t) ∧
  (∀ y d i s, Live s → d ≤ 125#7 →
    OnlyGoesOn (.bany y d i) s y (if ∃ j, j < 3 ∧ (s.getS (d + BitVec.ofNat 7 j)).setWidth 32 ≠ 0#32
      then s.wave.pc + 4#64 * i.signExtend 64 else s.wave.pc + 4#64) ∧
    OnlyGoesOn (.bnone y d i) s y (if ∃ j, j < 3 ∧ (s.getS (d + BitVec.ofNat 7 j)).setWidth 32 ≠ 0#32
      then s.wave.pc + 4#64 else s.wave.pc + 4#64 * i.signExtend 64)) ∧
  ∀ y d i s, Live s → 125#7 < d →
    exec (.bany y d i) s = .next (s.trap .operand 0#64) ∧ exec (.bnone y d i) s = .next (s.trap .operand 0#64)

/-- R200, R204, R170: the scalar loads, stores and atomics and `cbload` queue their access at S[A] plus the scaled offset; an address that
is not aligned raises ALIGN, a codebook number above 3 OPERAND. The model's own choices in it: the order in which queued accesses perform
(log entry 33). -/
def Obligations.ScalarMemoryWords : Prop :=
  (∀ e ∈ loadTable, ∀ y d a i s, Live s → (s.getS a + i.signExtend 64 * BitVec.ofNat 64 e.2.1).toNat % e.2.1 = 0 →
    QueuesAccess (e.1 y d a i) s y (.ld d e.2.1 e.2.2) [request 0 (s.getS a + i.signExtend 64 * BitVec.ofNat 64 e.2.1) 0#64 0#32] false) ∧
  (∀ e ∈ loadTable, ∀ y d a i s, Live s → (s.getS a + i.signExtend 64 * BitVec.ofNat 64 e.2.1).toNat % e.2.1 ≠ 0 →
    exec (e.1 y d a i) s = .next (s.trap .align (s.getS a + i.signExtend 64 * BitVec.ofNat 64 e.2.1))) ∧
  (∀ e ∈ storeTable, ∀ y d a i s, Live s → (s.getS a + i.signExtend 64 * BitVec.ofNat 64 e.2).toNat % e.2 = 0 →
    QueuesAccess (e.1 y d a i) s y (.st 0 0#32 e.2) [request 0 (s.getS a + i.signExtend 64 * BitVec.ofNat 64 e.2) (s.getS d) 0#32] false) ∧
  (∀ e ∈ storeTable, ∀ y d a i s, Live s → (s.getS a + i.signExtend 64 * BitVec.ofNat 64 e.2).toNat % e.2 ≠ 0 →
    exec (e.1 y d a i) s = .next (s.trap .align (s.getS a + i.signExtend 64 * BitVec.ofNat 64 e.2))) ∧
  (∀ e ∈ atomicTable, ∀ y d a b s, Live s → (s.getS a).toNat % e.2.2 = 0 →
    QueuesAccess (e.1 y d a b) s y (.atomic e.2.1 d) [request 0 (s.getS a) (s.getS b) 0#32] false) ∧
  (∀ e ∈ atomicTable, ∀ y d a b s, Live s → (s.getS a).toNat % e.2.2 ≠ 0 → exec (e.1 y d a b) s = .next (s.trap .align (s.getS a))) ∧
  (∀ y d a b s, Live s → (s.getS a).toNat % 8 = 0 →
    QueuesAccess (.acas y d a b) s y (.atomic (.cas (s.getS d)) d) [request 0 (s.getS a) (s.getS b) 0#32] false) ∧
  (∀ y d a s, Live s → d ≤ 3#7 → (s.getS a).toNat % 32 = 0 →
    QueuesAccess (.cbload y d a) s y (.cb d.toNat) [request 0 (s.getS a) 0#64 0#32] false) ∧
  (∀ y d a s, Live s → 3#7 < d → exec (.cbload y d a) s = .next (s.trap .operand 0#64)) ∧
  ∀ y d a s, Live s → d ≤ 3#7 → (s.getS a).toNat % 32 ≠ 0 → exec (.cbload y d a) s = .next (s.trap .align (s.getS a))

/-- R201, R202, R206: the vector memory words queue one request for each active lane; a lane address that is no multiple of 4 raises ALIGN.
The model's own choices in it: the order in which queued accesses perform (log entry 33). -/
def Obligations.VectorMemoryWords : Prop :=
  (∀ y d a b lb s, VecReady s [(b, lb)] (some d) → (∀ l ∈ gathers s a b (fun _ => 0#64), l.va.toNat % 4 = 0) →
    QueuesVectorAccess (.vld y d a b lb) s y [(b, lb)] (some d) (.vld (s.wave.phys d)) (gathers s a b (fun _ => 0#64)) false) ∧
  (∀ y d a b lb s, VecReady s [(b, lb), (d, false)] none → (∀ l ∈ gathers s a b (fun _ => 0#64), l.va.toNat % 4 = 0) →
    QueuesVectorAccess (.vst y d a b lb) s y [(b, lb)] none (.st 2 0#32 4) (gathers s a b (fun k => (lane s 2 d k).setWidth 64)) false) ∧
  (∀ y d a b lb s, VecReady s [(b, lb), (d, false)] (some d) → (∀ l ∈ gathers s a b (fun _ => 0#64), l.va.toNat % 4 = 0) →
    QueuesVectorAccess (.vaadd y d a b lb) s y [(b, lb)] (some d) (.vatomic false (s.wave.phys d))
      (gathers s a b (fun k => (lane s 2 d k).setWidth 64)) false ∧
    QueuesVectorAccess (.vafadd y d a b lb) s y [(b, lb)] (some d) (.vatomic true (s.wave.phys d))
      (gathers s a b (fun k => (lane s 2 d k).setWidth 64)) false) ∧
  (∀ y d a e i s, VecReady s [] (some d) → (s.getS a).toNat % 4 = 0 →
    QueuesVectorAccess (.vldc y d a e i) s y [] (some d) (.vld (s.wave.phys d)) (strides s a i (fun _ => 0#64)) e) ∧
  (∀ y d a e i s, VecReady s [(d, false)] none → (s.getS a).toNat % 4 = 0 →
    QueuesVectorAccess (.vstc y d a e i) s y [] none (.st 1 (i.signExtend 32) 4) (strides s a i (fun k => (lane s 2 d k).setWidth 64)) e) ∧
  (∀ y d a e i s, VecReady s [] (some d) → (s.getS a).toNat % 4 ≠ 0 → exec (.vldc y d a e i) s = .next (s.trap .align (s.getS a))) ∧
  ∀ y d a b lb s l, VecReady s [(b, lb)] (some d) → (gathers s a b (fun _ => 0#64)).find? (fun l => l.va.toNat % 4 ≠ 0) = some l →
    exec (.vld y d a b lb) s = .next (s.trap .align l.va)

/-- R186, R207 to R209: a fence or drain completes once what it names is done and no load fault of the wave stands, and waits until then; the
wave's later accesses stand after what the fence waited for; a hint acts on its line and goes on, and one that is dropped counts in PFDROP
alone. No hint raises a cause or writes a byte. The model's own choices in it: the die of a line, what a streaming access waits for, the words
that a load fault stops, and the packets `fence.gen` waits for (log entries 17, 33, 89 and 106). -/
def Obligations.FenceAndHintWords : Prop :=
  (∀ e ∈ fenceTable, ∀ y s, Live s →
    (e.2.1 s = false → s.faultFound = false → FenceDone (e.1 y) s y e.2.2.1 e.2.2.2.1 e.2.2.2.2) ∧
    (e.2.1 s = true ∨ s.faultFound = true → Waits (e.1 y) s .other)) ∧
  (∀ e ∈ hintTable, ∀ y a s x, Live s → s.hintLine (s.getS a) = some x →
    exec (e.1 y a) s = .next ((e.2 s x).advance y) ∧ ∀ b, ((e.2 s x).advance y).byteAt b = s.byteAt b) ∧
  (∀ y a s x, Live s → s.hintLine (s.getS a) = some x → s.pinRoom (lineOf x.fpa) = true →
    ∃ t, exec (.prefPin y a) s = .next t ∧ (lineOf x.fpa, s.crew.ctx) ∈ t.pins ∧ (∀ p ∈ s.pins, p ∈ t.pins) ∧ ScalarsKept s t ∧
      VectorsKept s t ∧ GoesOn s t y (s.wave.pc + 4#64) ∧ ∀ b, t.byteAt b = s.byteAt b) ∧
  ∀ y a s, Live s → s.hintLine (s.getS a) = none →
    ∀ i ∈ [Instr.prefL2 y a, .prefL1 y a, .prefEvict y a, .prefPin y a, .prefUnpin y a],
      ∃ t, exec i s = .next t ∧ t.wave.pfdrop = s.wave.pfdrop + 1#64 ∧ ScalarsKept s t ∧ VectorsKept s t ∧
        t.wave.fflags = s.wave.fflags ∧ GoesOn s t y (s.wave.pc + 4#64) ∧ WaveKept s.wave { t.wave with pfdrop := s.wave.pfdrop } ∧ RestKept s t

namespace Sys2Proof.Stmt

/-- An operation that names accumulator word `w0` passes the checks of R158: the accumulator is the crew's, the reserved bits are 0, and
for a word other than `mma` so are KQ, CHK and ZRO. -/
def MiwOk (s : State) (w0 : Word) (mma : Bool) : Prop :=
  (miwOf w0).acc < s.crew.naccs ∧ (miwOf w0).reserved = false ∧ (mma = false → (miwOf w0).plain = true)

/-- The operation is due, finds an entry, and no suspended or vacant version stands before it (R148, R151). -/
def EntersAtOnce (s : State) (m : MOp) : Prop :=
  s.wave.mreq = none ∧ (s.wave.block = some .version → s.heldAtWait = false) ∧ s.mopDue m = true ∧ (s.coreAt s.crew.core).room = true ∧ (s.crew.acc m.acc).vacant = false ∧
    ∀ n ∈ (s.coreAt s.crew.core).mops, ¬(n.crew = m.crew ∧ n.acc = m.acc ∧ n.stage = .parked)

/-- The operation stands last in its core's queue, and the wave has gone on; the forced check of the wave is used up by an `mma` alone (R168). -/
def EntersQueue (i : Instr) (s : State) (y : Bool) (m : MOp) : Prop :=
  ∃ t, exec i s = .next t ∧ (t.coreAt s.crew.core).mops = (s.coreAt s.crew.core).mops ++ [m] ∧
    { t.coreAt s.crew.core with mops := (s.coreAt s.crew.core).mops } = s.coreAt s.crew.core ∧
    (∀ n, n ≠ s.crew.core → t.coreAt n = s.coreAt n) ∧ t.crew = s.crew ∧ t.wave.mreq = none ∧ t.wave.chkForce = s.wave.chkForce ∧
    ScalarsKept s t ∧ VectorsKept s t ∧ t.wave.fflags = s.wave.fflags ∧ GoesOn s t y (s.wave.pc + 4#64) ∧
    WaveKept s.wave { t.wave with mreq := s.wave.mreq } ∧ RestKept s { t with cores := s.cores }

/-- An `mst` to memory enters likewise, under a number of its own, and takes those of its destination lines that nobody holds (R190). -/
def EntersQueueOwning (i : Instr) (s : State) (y : Bool) (m : MOp) (lines : List Nat) : Prop :=
  ∃ t, exec i s = .next t ∧
    (t.coreAt s.crew.core).mops = (s.coreAt s.crew.core).mops ++ [{ m with id := s.nextCmd, owned := lines }] ∧ t.nextCmd = s.nextCmd + 1 ∧
    (∀ l ∈ lines, (s.line l).owner = none → (t.line l).owner = some (.engine s.nextCmd)) ∧
    (∀ l ∈ lines, (s.line l).owner ≠ none → t.line l = s.line l) ∧ (∀ l, l ∉ lines → t.line l = s.line l) ∧
    (∀ n, n ≠ s.crew.core → t.coreAt n = s.coreAt n) ∧ t.crew = s.crew ∧ t.wave.mreq = none ∧ t.wave.chkForce = s.wave.chkForce ∧
    ScalarsKept s t ∧ VectorsKept s t ∧ t.wave.fflags = s.wave.fflags ∧ GoesOn s t y (s.wave.pc + 4#64) ∧
    WaveKept s.wave { t.wave with mreq := s.wave.mreq } ∧ ∀ a, t.byteAt a = s.byteAt a

/-- The checks of R159 and R160 on an `mma`. -/
def MmaOk (s : State) (w0 w1 w2 : Word) (f : EFmt) : Prop :=
  MiwOk s w0 true ∧ efmt s.wave.nf.toList (tdOf w2).fmt = some f ∧ (tdOf w1).okA = true ∧ (tdOf w2).okB s.wave.nf.toList = true ∧
    (tdOf w1).blk = (tdOf w2).blk ∧ (miwOf w0).K % blkLen (tdOf w1).blk = 0 ∧ ((tdOf w1).rem = true ∨ (tdOf w1).addr % 64 = 0) ∧
    ((tdOf w2).rem = true ∨ (tdOf w2).addr % 64 = 0) ∧ s.crew.lmBads (mmaRanges (miwOf w0).K (tdOf w1) (tdOf w2) f) = none ∧
    (((tdOf w1).rem = true ∧ (tdOf w2).rem = true) ∨ s.wave.lmStoresLeft = false)

/-- Whether the next `mma` of the core is checked (R153, R168), and the operation as it is captured. -/
def mmaCount (s : State) : Nat := ((s.coreAt s.crew.core).mmaCount + 1) % 2 ^ 32
def mmaChecked (s : State) (w0 : Word) : Bool :=
  (miwOf w0).chk || s.wave.chkForce || mmaCount s % (s.coreAt s.crew.core).mchkn.toNat == 0
def mmaOp (s : State) (y : Bool) (w0 w1 w2 : Word) : MOp :=
  { s.capture .mma y w0 w1 w2 with checked := mmaChecked s w0, rho := mmaCount s % 127 + 1 }

/-- An `mst` as it is captured, with its vectors (R163). -/
def mstOp (s : State) (y : Bool) (w0 w1 w2 : Word) : MOp :=
  { s.capture .mst y w0 w1 w2 with vecs := s.lmRead s.crew.core (epwOf w1).voff (epwOf w1).vecBytes }

/-- The rules of R162 for the tile address of `mst` and `mld`. -/
def TileOk (s : State) (dest : Bool) (x : Word) (bytes : Nat) : Prop :=
  (if dest then x.toNat < 2 ^ 56 else x.toNat < 2 ^ 23 ∧ s.crew.lmBad x.toNat bytes = none) ∧ x.toNat % 16 = 0

end Sys2Proof.Stmt

/-- R158, R160 to R163, R148, R150, R188, R190: an accumulator word whose descriptors hold enters its core's queue when its version is due and
an entry is free, where it reads LM after the wave's LM stores; an `mst` takes its destination lines; an `mma` takes its tokens from the die's
pool, which must hold them, and is counted; else it asks for them and waits. The model's own choices in it: the time of an issue, and the
range of an `mld` from LM (log entries 20, 71 and 101). -/
def Obligations.AccumulatorWordsEnterTheQueue : Prop :=
  (∀ y d s, Live s → MiwOk s (s.getS d) false → EntersAtOnce s (s.capture .mzero y (s.getS d) 0#64 0#64) →
    EntersQueue (.mzero y d) s y (s.capture .mzero y (s.getS d) 0#64 0#64)) ∧
  (∀ y d a b s, Live s → MiwOk s (s.getS d) false → (epwOf (s.getS a)).okMld = true →
    TileOk s (epwOf (s.getS a)).dest (s.getS b)
      (127 * (if (epwOf (s.getS a)).stride = 0 then 512 else (epwOf (s.getS a)).stride) + 512) →
    ((epwOf (s.getS a)).dest = true ∨ s.wave.lmStoresLeft = false) → EntersAtOnce s (s.capture .mld y (s.getS d) (s.getS a) (s.getS b)) →
    EntersQueue (.mld y d a b) s y (s.capture .mld y (s.getS d) (s.getS a) (s.getS b))) ∧
  (∀ y d a b s, Live s → MiwOk s (s.getS d) false → (epwOf (s.getS a)).okMst s.wave.nf.toList = true →
    TileOk s (epwOf (s.getS a)).dest (s.getS b) (128 * (epwOf (s.getS a)).rowStride s.wave.nf.toList) →
    s.crew.lmBad (epwOf (s.getS a)).voff (epwOf (s.getS a)).vecBytes = none →
    s.lmUnreadable s.crew.core (epwOf (s.getS a)).voff (epwOf (s.getS a)).vecBytes = none →
    ((epwOf (s.getS a)).vecBytes = 0 ∨ s.wave.lmStoresLeft = false) → EntersAtOnce s (s.capture .mst y (s.getS d) (s.getS a) (s.getS b)) →
    (s.mstLines (mstOp s y (s.getS d) (s.getS a) (s.getS b)) = [] →
      EntersQueue (.mst y d a b) s y (mstOp s y (s.getS d) (s.getS a) (s.getS b))) ∧
    (s.mstLines (mstOp s y (s.getS d) (s.getS a) (s.getS b)) ≠ [] →
      EntersQueueOwning (.mst y d a b) s y (mstOp s y (s.getS d) (s.getS a) (s.getS b))
        (s.mstLines (mstOp s y (s.getS d) (s.getS a) (s.getS b))))) ∧
  (∀ y d a b s f, Live s → MmaOk s (s.getS d) (s.getS a) (s.getS b) f → EntersAtOnce s (mmaOp s y (s.getS d) (s.getS a) (s.getS b)) →
    (s.dieAt (dieOf s.crew.core)).requests = [] →
    mmaCost (tdOf (s.getS a)).prec (tdOf (s.getS b)).prec (miwOf (s.getS d)).K (mmaChecked s (s.getS d)) ≤ (s.dieAt (dieOf s.crew.core)).ptok →
    ∃ t, exec (.mma y d a b) s = .next t ∧
      (t.coreAt s.crew.core).mops = (s.coreAt s.crew.core).mops ++ [mmaOp s y (s.getS d) (s.getS a) (s.getS b)] ∧
      (t.coreAt s.crew.core).mmaCount = mmaCount s ∧
      (t.dieAt (dieOf s.crew.core)).ptok + mmaCost (tdOf (s.getS a)).prec (tdOf (s.getS b)).prec (miwOf (s.getS d)).K (mmaChecked s (s.getS d)) =
        (s.dieAt (dieOf s.crew.core)).ptok ∧
      (t.dieAt (dieOf s.crew.core)).requests = [] ∧ t.crew = s.crew ∧ t.wave.mreq = none ∧ t.wave.chkForce = false ∧
      ScalarsKept s t ∧ VectorsKept s t ∧ GoesOn s t y (s.wave.pc + 4#64) ∧ ∀ a, t.byteAt a = s.byteAt a) ∧
  (∀ y d a b s f, Live s → MmaOk s (s.getS d) (s.getS a) (s.getS b) f → s.wave.mreq = none →
    (s.dieAt (dieOf s.crew.core)).requests = [] →
    (s.dieAt (dieOf s.crew.core)).ptok < mmaCost (tdOf (s.getS a)).prec (tdOf (s.getS b)).prec (miwOf (s.getS d)).K (mmaChecked s (s.getS d)) →
    ∃ t, exec (.mma y d a b) s = .next t ∧ t.wave.mreq = some (mmaOp s y (s.getS d) (s.getS a) (s.getS b), false) ∧
      (t.dieAt (dieOf s.crew.core)).requests = [(s.crew.handle, s.wave.idx,
        mmaCost (tdOf (s.getS a)).prec (tdOf (s.getS b)).prec (miwOf (s.getS d)).K (mmaChecked s (s.getS d)))] ∧
      (t.dieAt (dieOf s.crew.core)).ptok = (s.dieAt (dieOf s.crew.core)).ptok ∧ t.wave.pc = s.wave.pc ∧ t.wave.block.isSome = true ∧
      ∀ a, t.byteAt a = s.byteAt a) ∧
  ∀ y d a b s, Live s → s.crew.naccs ≤ (miwOf (s.getS d)).acc →
    exec (.mma y d a b) s = .next (s.trap .operand 0#64) ∧ exec (.mzero y d) s = .next (s.trap .operand 0#64) ∧
    exec (.mst y d a b) s = .next (s.trap .operand 0#64) ∧ exec (.mld y d a b) s = .next (s.trap .operand 0#64) ∧
    exec (.mwait y d) s = .next (s.trap .operand 0#64)

/-- R35, R166, R167, R168, R169: the words that look at an accumulator, the self-check words and `nfset`. -/
def Obligations.AccumulatorStatusAndCheckWords : Prop :=
  (∀ y d a s, Live s → a.toNat < s.crew.naccs →
    ∃ t, exec (.mver y d a) s = .next t ∧
      WritesScalar s t d (BitVec.ofNat 64 ((s.crew.acc a.toNat).prog * 2 ^ 20 + (if (s.crew.acc a.toNat).suspect then 2 ^ 16 else 0) +
        (s.crew.acc a.toNat).ver.toNat)) ∧
      t.wave.pts = max s.wave.pts (s.crew.acc a.toNat).clock ∧ VectorsKept s t ∧ t.wave.fflags = s.wave.fflags ∧
      GoesOn s t y (s.wave.pc + 4#64) ∧ WaveKept s.wave { t.wave with pts := s.wave.pts } ∧ RestKept s t) ∧
  (∀ y d s, Live s → MiwOk s (s.getS d) false →
    (((s.crew.acc (miwOf (s.getS d)).acc).ver - (miwOf (s.getS d)).ver).toNat < 32768 →
      ∃ t, exec (.mwait y d) s = .next t ∧ t.wave.pts = max s.wave.pts (s.crew.acc (miwOf (s.getS d)).acc).clock ∧ ScalarsKept s t ∧
        VectorsKept s t ∧ t.wave.fflags = s.wave.fflags ∧ GoesOn s t y (s.wave.pc + 4#64) ∧
        WaveKept s.wave { t.wave with pts := s.wave.pts } ∧ RestKept s t) ∧
    (32768 ≤ ((s.crew.acc (miwOf (s.getS d)).acc).ver - (miwOf (s.getS d)).ver).toNat → Waits (.mwait y d) s .mwait)) ∧
  (∀ y s, Live s →
    ∃ t, exec (.mchkForce y) s = .next t ∧ t.wave.chkForce = true ∧ ScalarsKept s t ∧ VectorsKept s t ∧ t.wave.fflags = s.wave.fflags ∧
      GoesOn s t y (s.wave.pc + 4#64) ∧ WaveKept s.wave { t.wave with chkForce := s.wave.chkForce } ∧ RestKept s t) ∧
  (∀ y d s, Live s →
    ScalarResult (.mchkStatus y d) s y d (BitVec.ofNat 64 ((s.coreAt s.crew.core).checks % 2 ^ 32 * 2 ^ 32 +
      min (s.coreAt s.crew.core).mismatches 65535 * 2 ^ 16 + (if s.wave.chkForce then 2 ^ 10 else 0) +
      (s.coreAt s.crew.core).spareRows * 2 ^ 8)) 0#6) ∧
  (∀ y a s, Live s → 1 ≤ (s.getS a).toNat → (s.getS a).toNat ≤ 4096 →
    ∃ t, exec (.mchkPeriod y a) s = .next t ∧ t.coreAt s.crew.core = { s.coreAt s.crew.core with mchkn := s.getS a } ∧
      (∀ n, n ≠ s.crew.core → t.coreAt n = s.coreAt n) ∧ ScalarsKept s t ∧ VectorsKept s t ∧ t.wave.fflags = s.wave.fflags ∧
      GoesOn s t y (s.wave.pc + 4#64) ∧ WaveKept s.wave t.wave ∧ RestKept s { t with cores := s.cores }) ∧
  (∀ y a s, Live s → ((s.getS a).toNat < 1 ∨ 4096 < (s.getS a).toNat) → exec (.mchkPeriod y a) s = .next (s.trap .operand 0#64)) ∧
  (∀ y d a s, Live s → (h : d ≤ 3#7) →
    ∃ t, exec (.nfset y d a) s = .next t ∧ t.wave.nf.getD d.toNat 0#32 = (s.getS a).setWidth 32 ∧
      (∀ k, k < 4 → k ≠ d.toNat → t.wave.nf.getD k 0#32 = s.wave.nf.getD k 0#32) ∧ ScalarsKept s t ∧ VectorsKept s t ∧
      t.wave.fflags = s.wave.fflags ∧ GoesOn s t y (s.wave.pc + 4#64) ∧ WaveKept s.wave { t.wave with nf := s.wave.nf } ∧ RestKept s t) ∧
  ∀ y d a s, Live s → 3#7 < d → exec (.nfset y d a) s = .next (s.trap .operand 0#64)

namespace Sys2Proof.Stmt

/-- What must stand before an arrival or a queue word: no ordinary access of the wave is still to perform and no LM word is outstanding
(R296, R302). -/
def NothingBefore (s : State) : Prop := s.wave.beforeLeft = false

/-- The wave may arrive at barrier `i`: it has not arrived in this phase, and none of its earlier accesses is left but at or behind one that
faults in translation (R295, R296, R348). -/
def MayArrive (s : State) (i : BitVec 3) : Prop := (s.crew.bar i).arrived.getLsbD s.wave.idx = false ∧ s.arrivalLeft = false

/-- The arrival of the issuing wave completes the phase: every other member has arrived (R294). -/
def LastToArrive (s : State) (i : BitVec 3) : Prop := (s.crew.bar i).member &&& ~~~((s.crew.bar i).arrived ||| (1#16 <<< s.wave.idx)) = 0#16

/-- What an arrival does to its barrier (R294): the last one starts the next phase; else the wave is among the arrived, and the timer of the
phase runs from the first arrival on. Every other barrier stands. -/
def Arrives (s t : State) (i : BitVec 3) : Prop :=
  (LastToArrive s i → (t.crew.bar i).phase = (s.crew.bar i).phase + 1#16 ∧ (t.crew.bar i).arrived = 0#16 ∧ (t.crew.bar i).timer = none ∧
    (t.crew.bar i).expired = false) ∧
  (¬ LastToArrive s i → (t.crew.bar i).phase = (s.crew.bar i).phase ∧
    (t.crew.bar i).arrived = (s.crew.bar i).arrived ||| (1#16 <<< s.wave.idx) ∧
    (t.crew.bar i).timer = (if (s.crew.bar i).timer.isNone && !(s.crew.bar i).expired then some s.nanos else (s.crew.bar i).timer) ∧
    (t.crew.bar i).expired = (s.crew.bar i).expired) ∧
  (t.crew.bar i).member = (s.crew.bar i).member ∧ (t.crew.bar i).clock = max (s.crew.bar i).clock s.wave.pts ∧
  (∀ j, j ≠ i → t.crew.bar j = s.crew.bar j) ∧ { t.crew with bars := s.crew.bars } = s.crew

/-- The issuing wave is the last live one of its crew. -/
def LastWave (s : State) : Prop := ∀ w ∈ s.crew.others, w.status ≠ .live

/-- A wave that ends: its status changes, its loads are dropped, its stores still perform, and it issues no more (R292). -/
def EndsWave (s t : State) (st : WStat) : Prop :=
  t.wave.status = st ∧ t.wave.idx = s.wave.idx ∧ t.wave.region = none ∧ t.wave.retained = none ∧
    (∀ l ∈ t.wave.lmq, l ∈ s.wave.lmq ∧ l.load = false) ∧
    (∀ a ∈ t.wave.accs, a ∈ s.wave.accs ∧ a.writes = true) ∧ ScalarsKept s t ∧ t.wave.vregs = s.wave.vregs

/-- The spans of bytes that a word may write. -/
def Outside (spans : List (Nat × Nat)) (a : Nat) : Prop := ∀ p ∈ spans, a < p.1 ∨ p.1 + p.2 ≤ a

/-- A queue, barrier or launch word that issues for the first time: its address is aligned, the wave's earlier accesses have performed, no load
fault stands before it, its address translates without a fault, and its home is free and can be reached, without poison, and waits on no
snapshot view (R302, R340, R348, R349). -/
def ReachesHome (s : State) (va : Word) (n : Nat) (x : Xl) (k : Want) : Prop :=
  s.wave.qwait = none ∧ s.loadFaultPending = false ∧ NothingBefore s ∧ s.xlateVa va k false = .ok x ∧ s.homeOpen none x = true ∧
    s.anyPoison x.fpa n = false ∧ s.snapWaits x = false

/-- A word that changes the header at `x` finds no waiter there, and the home grants its writes of the header and the spans now (R181, R302). -/
def ChangesNow (s : State) (x : Xl) (spans : List (Nat × Nat)) : Prop := s.waitersAt x.fpa = [] ∧ s.groupDue ((x.fpa, 64) :: spans) = true

/-- The lines of LM that hold the record are not expired (R303). -/
def RecordFresh (s : State) (b : Reg) (x : Xl) : Prop := ∀ l ∈ lmLines s.crew.core (s.getS b).toNat (s.hdr x.fpa).rsz, s.lmExpired l = false

/-- The word waits at its home, last in the line of the queue, with the request it made (R302). -/
def WaitsInLine (i : Instr) (s : State) (b : Block) (fpa : Nat) (q : QReq) (y : Bool) : Prop :=
  ∃ t, exec i s = .next t ∧ t.wave.block = some b ∧ t.wave.qwait = some ⟨fpa, s.tickets, q, y⟩ ∧ t.tickets = s.tickets + 1 ∧
    t.wave.pc = s.wave.pc ∧ { t with tickets := s.tickets, wave := { t.wave with block := s.wave.block, qwait := s.wave.qwait } } = s

/-- The word has issued and done its work at its home: S[D] is written, the wave goes on, and no byte outside the spans changes. -/
def DoneAtHome (i : Instr) (s : State) (y : Bool) (d : Reg) (v : Word) (spans : List (Nat × Nat)) (P : State → Prop) : Prop :=
  ∃ t, exec i s = .next t ∧ WritesScalar s t d v ∧ VectorsKept s t ∧ t.wave.fflags = s.wave.fflags ∧ GoesOn s t y (s.wave.pc + 4#64) ∧
    (∀ a, Outside spans a → t.byteAt a = s.byteAt a) ∧ P t

/-- What an arrival at a cross-crew barrier leaves at its home (R300): `u` is the state before it. -/
def ArrivesAcross (u : State) (a : Nat) (t : State) : Prop :=
  if u.readMem a 4 + 1 = u.readMem (a + 4) 4 then t.readMem a 4 = 0 ∧ t.readMem (a + 8) 4 = (u.readMem (a + 8) 4 + 1) % 2 ^ 32
  else t.readMem a 4 = (u.readMem a 4 + 1) % 2 ^ 32 ∧ t.readMem (a + 8) 4 = u.readMem (a + 8) 4

end Sys2Proof.Stmt

/-- R294 to R296: `barv` arrives and returns the phase, `bar` arrives and goes on or waits for the phase, a second arrival in a phase waits,
and `barw` waits until the barrier has passed the phase it names. The model's own choices in it: that an arrival waits for the accesses of
its own wave (log entry 48). -/
def Obligations.CrewBarrierWords : Prop :=
  (∀ y d i s, Live s → MayArrive s i →
    ∃ t, exec (.barv y d i) s = .next t ∧ Arrives s t i ∧ WritesScalar s t d ((s.crew.bar i).phase.setWidth 64) ∧ VectorsKept s t ∧
      t.wave.fflags = s.wave.fflags ∧ Completes { s with crew := t.crew } t y) ∧
  (∀ y i s, Live s → MayArrive s i →
    ∃ t, exec (.bar y i) s = .next t ∧ Arrives s t i ∧ ScalarsKept s t ∧ VectorsKept s t ∧ t.wave.pc = s.wave.pc + 4#64 ∧
      t.wave.fflags = s.wave.fflags ∧ (∀ a, t.byteAt a = s.byteAt a) ∧
      (LastToArrive s i → t.wave.block = none ∧ t.wave.pts = max s.wave.pts (s.crew.bar i).clock) ∧
      (¬ LastToArrive s i → t.wave.block = some (.bar i.toNat (s.crew.bar i).phase))) ∧
  (∀ y d i s, Live s → (s.crew.bar i).arrived.getLsbD s.wave.idx = true →
    Waits (.bar y i) s (.arrive i.toNat false) ∧ Waits (.barv y d i) s (.arrive i.toNat true)) ∧
  ∀ y a i s, Live s →
    (1 ≤ ((s.crew.bar i).phase - (s.getS a).setWidth 16).toNat ∧ ((s.crew.bar i).phase - (s.getS a).setWidth 16).toNat ≤ 32767 →
      ∃ t, exec (.barw y a i) s = .next t ∧ t.wave.pts = max s.wave.pts (s.crew.bar i).clock ∧ ScalarsKept s t ∧ VectorsKept s t ∧
        t.wave.fflags = s.wave.fflags ∧ GoesOn s t y (s.wave.pc + 4#64) ∧ WaveKept s.wave { t.wave with pts := s.wave.pts } ∧ RestKept s t) ∧
    (¬ (1 ≤ ((s.crew.bar i).phase - (s.getS a).setWidth 16).toNat ∧ ((s.crew.bar i).phase - (s.getS a).setWidth 16).toNat ≤ 32767) →
      Waits (.barw y a i) s (.barw i.toNat))

/-- R292, R293, R276: `exit` and `cleave` end the wave once its stores have performed and no load fault stands; the crew ends with its last
live wave; a wave that leaves is no member of any barrier; `cleave` in an open region raises OPERAND. The model's own choice in it: which load
faults stop these words (log entry 89). -/
def Obligations.WaveEndWords : Prop :=
  (∀ y s, Live s → s.drainLeft = false → s.faultFound = false → LastWave s →
    ∃ t, exec (.exit y) s = .next t ∧ EndsWave s t .exited ∧ t.crew.state = .ended ∧ t.crew.held = []) ∧
  (∀ y s, Live s → s.drainLeft = false → s.faultFound = false → ¬ LastWave s → s.crew.state = .running →
    ∃ t, exec (.exit y) s = .next t ∧ EndsWave s t .exited ∧ t.crew = s.crew) ∧
  (∀ y s, Live s → s.wave.region = none → s.drainLeft = false → s.faultFound = false → ¬ LastWave s → s.crew.state = .running →
    ∃ t, exec (.cleave y) s = .next t ∧ EndsWave s t .left ∧
      (∀ i, (t.crew.bar i).member = (s.crew.bar i).member &&& ~~~(1#16 <<< s.wave.idx)) ∧ { t.crew with bars := s.crew.bars } = s.crew) ∧
  (∀ y s, Live s → (s.drainLeft = true ∨ s.faultFound = true) → Waits (.exit y) s .other) ∧
  ∀ y s, Live s → s.wave.region.isSome = true → exec (.cleave y) s = .next (s.trap .operand 0#64)

/-- R309, R310: `npre` opens, shortens or ends the window of at most 500 microseconds, and `wdarm` restarts the timers of the phases that
have begun and the context's watchdog. -/
def Obligations.WindowAndWatchdogWords : Prop :=
  (∀ y a s, Live s → s.crew.preempt = none →
    ∃ t, exec (.npre y a) s = .next t ∧
      t.wave.npreEnd = (if s.getS a = 0#64 then 0
        else if s.nanos < s.wave.npreEnd then min s.wave.npreEnd (s.nanos + 1000 * min (s.getS a).toNat 500)
        else s.nanos + 1000 * min (s.getS a).toNat 500) ∧
      ScalarsKept s t ∧ VectorsKept s t ∧ t.wave.fflags = s.wave.fflags ∧ GoesOn s t y (s.wave.pc + 4#64) ∧
      WaveKept s.wave { t.wave with npreEnd := s.wave.npreEnd } ∧ RestKept s t) ∧
  (∀ y a s p, Live s → s.crew.preempt = some p → p.entered = false → s.getS a ≠ 0#64 →
    OnlyGoesOn (.npre y a) s y (s.wave.pc + 4#64)) ∧
  ∀ y s, Live s →
    ∃ t, exec (.wdarm y) s = .next t ∧
      (∀ i, t.crew.bar i = { s.crew.bar i with timer := if (s.crew.bar i).arrived = 0#16 then none else some s.nanos, expired := false }) ∧
      { t.crew with bars := s.crew.bars } = s.crew ∧ Map.find (fun _ => 0) t.wd s.crew.ctx = s.nanos ∧
      ScalarsKept s t ∧ VectorsKept s t ∧ t.wave.fflags = s.wave.fflags ∧ Completes { s with crew := t.crew } t y

/-- R302 to R307: the queue words at a sound header where no word waits, each with what it returns in S[D] and the bytes it may write: the
header's fields, the record, and the A and D bits of the pages; `qpushw` on a full queue and `qpop` on an empty one take their places in the
line of the queue. The model's own choices in it: the moment at which a queue word acts, and the order of its checks (log entries 35 and
43). -/
def Obligations.QueueWords : Prop :=
  (∀ y d a b s x xs, Live s → (s.getS a).toNat % 128 = 0 → (s.getS b).toNat % 16 = 0 → s.crew.lmBad (s.getS b).toNat 256 = none →
    ReachesHome s (s.getS a) 128 x .atomic → (∀ w, s.queueFault (s.pushReq (s.getS a) (s.getS b).toNat d w) = none) →
    (s.hdr x.fpa).closed = false → (s.hdr x.fpa).free ≠ 0 → s.slotAt x.fpa (s.hdr x.fpa) (s.hdr x.fpa).tail .store = .ok xs →
    ChangesNow s x [(xs.fpa, (s.hdr x.fpa).rsz)] → s.snapWaits xs = false → s.homeOpen none xs = true → RecordFresh s b x →
    ∀ i ∈ [Instr.qpush y d a b, .qpushw y d a b],
      DoneAtHome i s y d 0#64
        [(x.addr, 8), (xs.addr, 8), (xs.fpa, (s.hdr x.fpa).rsz), (x.fpa + 8, 8), (x.fpa + 0x18, 4)] (fun _ => True)) ∧
  (∀ y d a b s x, Live s → (s.getS a).toNat % 128 = 0 → (s.getS b).toNat % 16 = 0 → s.crew.lmBad (s.getS b).toNat 256 = none →
    ReachesHome s (s.getS a) 128 x .atomic → s.waitersAt x.fpa = [] → RecordFresh s b x →
    (∀ w, s.queueFault (s.pushReq (s.getS a) (s.getS b).toNat d w) = none) →
    ((s.hdr x.fpa).closed = true → DoneAtHome (.qpush y d a b) s y d 2#64 [(x.addr, 8)] (fun _ => True) ∧
      DoneAtHome (.qpushw y d a b) s y d 2#64 [(x.addr, 8)] (fun _ => True)) ∧
    ((s.hdr x.fpa).closed = false → (s.hdr x.fpa).free = 0 → DoneAtHome (.qpush y d a b) s y d 1#64 [(x.addr, 8)] (fun _ => True) ∧
      WaitsInLine (.qpushw y d a b) s .qpush x.fpa (s.pushReq (s.getS a) (s.getS b).toNat d true) y)) ∧
  (∀ y d a b s x, Live s → (s.getS a).toNat % 128 = 0 → (s.getS b).toNat % 16 = 0 → s.crew.lmBad (s.getS b).toNat 256 = none →
    ReachesHome s (s.getS a) 128 x .atomic → s.waitersAt x.fpa = [] → s.queueFault (.pop (s.getS a) (s.getS b).toNat d) = none →
    (s.hdr x.fpa).occ = 0 →
    ((s.hdr x.fpa).closed = true → DoneAtHome (.qpop y d a b) s y d (BitVec.allOnes 64) [(x.addr, 8)] (fun _ => True)) ∧
    ((s.hdr x.fpa).closed = false →
      WaitsInLine (.qpop y d a b) s (.qpop (s.hdr x.fpa).external) x.fpa (.pop (s.getS a) (s.getS b).toNat d) y)) ∧
  (∀ y d a b s x xs, Live s → (s.getS a).toNat % 128 = 0 → (s.getS b).toNat % 16 = 0 → s.crew.lmBad (s.getS b).toNat 256 = none →
    ReachesHome s (s.getS a) 128 x .atomic → s.queueFault (.pop (s.getS a) (s.getS b).toNat d) = none → (s.hdr x.fpa).occ ≠ 0 →
    s.slotAt x.fpa (s.hdr x.fpa) (s.hdr x.fpa).head .load = .ok xs → ChangesNow s x [(xs.fpa, (s.hdr x.fpa).rsz)] →
    s.homeOpen none xs = true → s.anyPoison xs.fpa (s.hdr x.fpa).rsz = false →
    DoneAtHome (.qpop y d a b) s y d (BitVec.ofNat 64 (s.hdr x.fpa).head) [(x.addr, 8), (xs.addr, 8), (x.fpa, 8)]
      (fun t => t.crew = s.crew.holdRecord (s.getS a))) ∧
  (∀ y a s x, Live s → (s.getS a).toNat % 128 = 0 → ReachesHome s (s.getS a) 128 x .atomic → ChangesNow s x [] →
    s.queueFault (.close (s.getS a)) = none →
    ∃ t, exec (.qclose y a) s = .next t ∧ ScalarsKept s t ∧ VectorsKept s t ∧ GoesOn s t y (s.wave.pc + 4#64) ∧
      ∀ b, Outside [(x.addr, 8), (x.fpa + 0x1C, 4)] b → t.byteAt b = s.byteAt b) ∧
  (∀ y d a s x, Live s → (s.getS a).toNat % 128 = 0 → ReachesHome s (s.getS a) 128 x .atomic → s.queueFault (.peek (s.getS a) d) = none →
    DoneAtHome (.qpeek y d a) s y d (s.hdr x.fpa).peek [(x.addr, 8)] (fun _ => True)) ∧
  (∀ y d a s, Live s → s.getS a ≠ 0#64 → (s.getS a).toNat % 128 = 0 → (∀ h ∈ s.crew.held, h.dispatch = false → h.hdr ≠ s.getS a) →
    ScalarResult (.qfree y d a) s y d 0#64 0#6) ∧
  (∀ y d a s, Live s → s.getS a = 0#64 → (∀ h ∈ s.crew.held, h.dispatch = false) → ScalarResult (.qfree y d a) s y d 0#64 0#6) ∧
  (∀ y d a s x h, Live s → s.getS a = 0#64 → s.crew.held.find? HeldRec.dispatch = some h → (∀ k ∈ s.crew.held, k.hdr = h.hdr → k.dispatch = true) →
    h.hdr.toNat % 128 = 0 → ReachesHome s h.hdr 128 x .atomic → ChangesNow s x [] → s.queueFault (.free h.hdr d) = none →
    DoneAtHome (.qfree y d a) s y d 1#64 [(x.addr, 8), (x.fpa + 0x18, 4)]
      (fun t => t.crew = s.crew.dropRecord (fun k => k.hdr = h.hdr && k.dispatch == true))) ∧
  (∀ y d a s x h, Live s → s.getS a ≠ 0#64 → (s.getS a).toNat % 128 = 0 → h ∈ s.crew.held → h.hdr = s.getS a → h.dispatch = false →
    ReachesHome s (s.getS a) 128 x .atomic → ChangesNow s x [] → s.queueFault (.free (s.getS a) d) = none →
    DoneAtHome (.qfree y d a) s y d 1#64 [(x.addr, 8), (x.fpa + 0x18, 4)]
      (fun t => t.crew = s.crew.dropRecord (fun k => k.hdr = s.getS a && k.dispatch == false))) ∧
  ∀ y d a s, Live s →
    (s.getS a).toNat % 128 ≠ 0 → ∀ b,
      exec (.qpush y d a b) s = .next (s.trap .align (s.getS a)) ∧ exec (.qpushw y d a b) s = .next (s.trap .align (s.getS a)) ∧
      exec (.qpop y d a b) s = .next (s.trap .align (s.getS a)) ∧ exec (.qclose y a) s = .next (s.trap .align (s.getS a)) ∧
      exec (.qpeek y d a) s = .next (s.trap .align (s.getS a))

/-- R300: an arrival at a cross-crew barrier counts up, or as the last one starts the next phase with COUNT 0; `xbarv` goes on with the
phase it arrived in, `xbar` goes on as the last one and waits for the phase otherwise. R271, R273, R308: `flaunch` decides the launch from
the 256 bytes of its record and writes the status word; a launch that is refused changes nothing, and its word names the code of the first
rule broken; one that is accepted adds the flow with the lowest free number. The model's own choices in it: the moment at which these words
act, and the order of the codes (log entries 35, 43 and 45). -/
def Obligations.CrossCrewBarrierAndLaunchWords : Prop :=
  ((∀ y d a s x, Live s → (s.getS a).toNat % 64 = 0 → ReachesHome s (s.getS a) 64 x .atomic → s.groupDue [(x.fpa, 64)] = true →
    s.queueFault (.xbar (s.getS a) d false) = none →
    DoneAtHome (.xbarv y d a) s y d (BitVec.ofNat 64 ((s.touch x true).readMem (x.fpa + 8) 4)) [(x.addr, 8), (x.fpa, 4), (x.fpa + 8, 4)]
      (ArrivesAcross (s.touch x true) x.fpa)) ∧
  (∀ y d a s x, Live s → (s.getS a).toNat % 64 = 0 → ReachesHome s (s.getS a) 64 x .atomic → s.groupDue [(x.fpa, 64)] = true →
    s.queueFault (.xbar (s.getS a) d true) = none →
    ∃ t, exec (.xbar y d a) s = .next t ∧ WritesScalar s t d (BitVec.ofNat 64 ((s.touch x true).readMem (x.fpa + 8) 4)) ∧ VectorsKept s t ∧
      t.wave.fflags = s.wave.fflags ∧ t.wave.pc = s.wave.pc + 4#64 ∧ t.wave.issued = s.wave.issued + 1 ∧ ArrivesAcross (s.touch x true) x.fpa t ∧
      (∀ b, Outside [(x.addr, 8), (x.fpa, 4), (x.fpa + 8, 4)] b → t.byteAt b = s.byteAt b) ∧
      t.wave.block = (if (s.touch x true).readMem x.fpa 4 + 1 = (s.touch x true).readMem (x.fpa + 4) 4 then none
        else some (.xbar (s.getS a) (BitVec.ofNat 32 ((s.touch x true).readMem (x.fpa + 8) 4))
          ((s.touch x true).readMem (x.fpa + 12) 4 % 2 == 1)))) ∧
  ∀ y d a s, Live s → (s.getS a).toNat % 64 ≠ 0 →
    exec (.xbar y d a) s = .next (s.trap .align (s.getS a)) ∧ exec (.xbarv y d a) s = .next (s.trap .align (s.getS a))) ∧
  (∀ y d a s x, Live s → (s.getS a).toNat % 256 = 0 → ReachesHome s (s.getS a) 256 x .load →
    ∃ t, exec (.flaunch y d a) s = .next t ∧ VectorsKept s t ∧ t.wave.fflags = s.wave.fflags ∧ GoesOn s t y (s.wave.pc + 4#64) ∧
      WritesScalar s t d (s.launchFlow (dieOf s.crew.core) s.crew.ctx (s.readBytes x.fpa 256)).2 ∧
      t.flows = (s.launchFlow (dieOf s.crew.core) s.crew.ctx (s.readBytes x.fpa 256)).1.flows ∧
      ∀ b, Outside [(x.addr, 8)] b → t.byteAt b = (s.launchFlow (dieOf s.crew.core) s.crew.ctx (s.readBytes x.fpa 256)).1.byteAt b) ∧
  (∀ (s : State) die ctx rec, (s.launchFlow die ctx rec).2.toNat % 2 ^ 16 ≠ 0 → (s.launchFlow die ctx rec).1 = s) ∧
  (∀ (s : State) die ctx rec, (s.launchFlow die ctx rec).2.toNat % 2 ^ 16 ≤ 5) ∧
  (∀ (s : State) die ctx rec k, badEntry ((List.range 8).map (entryOf rec)) = some k → (s.launchFlow die ctx rec).2 = BitVec.ofNat 64 (k * 2 ^ 16 + 1)) ∧
  (∀ (s : State) die ctx rec, (s.launchFlow die ctx rec).2.toNat % 2 ^ 16 = 0 →
    ∃ f ∈ (s.launchFlow die ctx rec).1.flows, f.num = (s.launchFlow die ctx rec).2.toNat / 2 ^ 32 ∧ f.num < 256 ∧ f.ctx = ctx ∧ (s.flow? f.num).isNone = true ∧
      ∀ k, k < f.num → (s.flow? k).isSome = true) ∧
  ∀ y d a s, Live s → (s.getS a).toNat % 256 ≠ 0 → exec (.flaunch y d a) s = .next (s.trap .align (s.getS a))

namespace Sys2Proof.Stmt

/-- The wave can enter its handler at once: it is no handler's wave, it has not stopped, its handler is set, and no special-function result
of it is on the way (R347, R354). -/
def CanEnter (s : State) : Prop :=
  Live s ∧ s.wave.inh = false ∧ s.wave.stop = none ∧ s.wave.tvec ≠ 0#64 ∧ s.sfuPending = false

/-- The wave may enter its handler with a cause that is met now: no load-class fault found earlier comes before it (R347). -/
def MayEnter (s : State) : Prop := CanEnter s ∧ s.faultFound = false

/-- What the halt tells another wave of the crew (R345): a live wave that is not in its handler nor on its way there stops. -/
def told (i : Nat) (c : Cause) (w : Wave) : Wave :=
  if w.status = .live ∧ w.inh = false ∧ w.stop = none ∧ w.halting = none ∧ w.ret = none
  then { w with halting := some (i, c, w.issued), stopped := false } else w

/-- The wave has entered its handler (R351, R354, R355): the cause, the pc to return to and the address are saved, s112 to s119 hold the entry
values, INH is set, the wave fetches from TVEC, and the crew is HALTED. -/
def EntersHandler (s t : State) (c : Cause) (tpc taddr r112 r113 : Word) : Prop :=
  t.wave.tcause = BitVec.ofNat 64 (causeCode c) ∧ t.wave.tpc = tpc ∧ t.wave.taddr = taddr ∧ t.wave.tskid = 0#64 ∧ t.wave.tdeadline = 0#64 ∧
    t.wave.inh = true ∧ t.wave.pc = s.wave.tvec ∧ t.wave.block = none ∧ t.wave.qwait = none ∧ t.wave.parked = false ∧
    t.wave.entryIssued = s.wave.issued ∧
    t.getS 112#7 = r112 ∧ t.getS 113#7 = r113 ∧ t.getS 114#7 = s.wave.wake.1 ∧ t.getS 115#7 = s.wave.wake.2 ∧
    t.getS 116#7 = 0#64 ∧ t.getS 117#7 = 0#64 ∧ t.getS 118#7 = 0#64 ∧ t.getS 119#7 = 0#64 ∧
    (∀ r, r < 112#7 ∨ 119#7 < r → t.getS r = s.getS r) ∧
    { t.wave with
      regs := s.wave.regs, tcause := s.wave.tcause, tpc := s.wave.tpc, taddr := s.wave.taddr, tskid := s.wave.tskid,
      tdeadline := s.wave.tdeadline, inh := s.wave.inh, pc := s.wave.pc, block := s.wave.block, qwait := s.wave.qwait,
      collEnd := s.wave.collEnd, parked := s.wave.parked,
      stopped := s.wave.stopped, stop := s.wave.stop, halting := s.wave.halting, mreq := s.wave.mreq, entryIssued := s.wave.entryIssued,
      drain := s.wave.drain, stalecnt := s.wave.stalecnt } = s.wave ∧
    t.crew = { s.crew with state := .halted, others := s.crew.others.map (told s.wave.idx c) } ∧
    RestKept s { t with crew := s.crew, dies := s.dies }

/-- The crew of the issuing wave has ended on a cause or by `ctkill`: none of its waves is live, and the host's crew-end event stands last. -/
def CrewEnds (s t : State) (cause : Option Cause) (code : Word) : Prop :=
  t.crew.state = .ended ∧ t.crew.handle = s.crew.handle ∧ t.crew.held = [] ∧ t.crew.sfr = [] ∧ t.wave.status ≠ .live ∧
    (∀ w ∈ t.crew.others, w.status ≠ .live) ∧ t.events.getLast? = some (.crewEnd s.crew.ctx s.crew.id cause code)

/-- An `eret` with a control word and a wake record that R358 allows. -/
def EretOk (s : State) (a b : Reg) : Prop :=
  Live s ∧ s.wave.inh = true ∧ s.getS a >>> 3 = 0#64 ∧ (s.getS 114#7).toNat % 16 ≤ 4 ∧
    ((s.getS a).getLsbD 1 = true → (s.getS b).toNat % 4 = 0) ∧
    s.faultFound = false ∧ ((s.getS a).getLsbD 0 = true ∨ s.repairsLeft = false)

def eretTarget (s : State) (a b : Reg) : Word := if (s.getS a).getLsbD 1 then s.getS b else s.wave.tpc

/-- Another live wave of the crew that has not yet left the handler of this halt. -/
def StillHalted (w : Wave) : Prop := w.status = .live ∧ (w.inh = true ∨ w.stop ≠ none ∨ w.halting ≠ none)

/-- A byte of the local memories by core and offset in one number. -/
def lmAt (s : State) (k : Nat) : Byte := Map.find lmZero s.lm k
def lmFullOf (s : State) (g : Nat) : Bool := Map.find noPoison s.lmFull g

/-- The LM offsets of an LM word keep R203: whole words inside the crew's allocation. -/
def LmPlaced (s : State) (offs : Nat → Word) : Prop :=
  ∀ k ∈ s.wave.lanes, (offs k).toNat % 4 = 0 ∧ s.crew.lmBad (offs k).toNat 4 = none

/-- An LM word as it is issued: one event for each active lane (R187, R203). -/
def lmWordOf (s : State) (load : Bool) (mode : Nat) (d : Reg) (offs : Nat → Word) : LmAccess :=
  let es := s.wave.lanes.map (fun k => (k, (offs k).toNat, lane s 2 d k))
  ⟨s.wave.nextId, s.wave.pc, s.wave.issued, load, mode, s.wave.phys d, es, es, s.wave.inh⟩

/-- An LM word goes behind the wave's earlier ones and the wave goes on: its lanes perform later, each an event of its own (R187). -/
def LmQueues (i : Instr) (s : State) (y : Bool) (srcs : List (Reg × Bool)) (load : Bool) (d : Reg) (mode : Nat) (offs : Nat → Word) : Prop :=
  ∃ t, exec i s = .next t ∧ t.wave.lmq = s.wave.lmq ++ [lmWordOf s load mode d offs] ∧ t.wave.nextId = s.wave.nextId + 1 ∧
    (∀ p, t.wave.vreg p = if load ∧ p = s.wave.phys d then s.oldV p else s.wave.vreg p) ∧
    FreesSources s t srcs (if load then some d else none) ∧ ScalarsKept s t ∧ t.wave.fflags = s.wave.fflags ∧
    GoesOn s t y (s.wave.pc + 4#64) ∧ WaveKept s.wave { t.wave with lmq := s.wave.lmq, nextId := s.wave.nextId } ∧ RestKept s t

/-- The word stands first among the wave's LM words, and none of the wave's earlier ordinary loads stands before it (R187, R188). -/
def LmFirst (s : State) (l : LmAccess) (rest : List LmAccess) : Prop :=
  Live s ∧ s.wave.lmq = l :: rest ∧ s.access? l.id = none ∧ s.lmTurn l = true ∧ l.todo ≠ [] ∧ (l.todo.map (fun e => e.1)).Nodup ∧
    ∀ e ∈ l.todo, e.2.1 % 4 = 0 ∧ e.2.1 + 4 ≤ lmBytes

/-- Its lanes can be read: no expired line, no poisoned sector (R211, R365), and the granules of a load that waits are full (R189). -/
def LmReadable (s : State) (l : LmAccess) : Prop :=
  ∀ e ∈ l.todo, s.lmExpired (lmLineOf s.crew.core e.2.1) = false ∧ s.lmPoisonAt s.crew.core e.2.1 = false ∧
    (l.mode ≠ 0 → s.lmFullAt s.crew.core e.2.1 = true)

/-- The granules of the lanes that are left. -/
def InGranule (s : State) (es : List (Nat × Nat × Lane)) (g : Nat) : Prop := ∃ e ∈ es, lmKey s.crew.core e.2.1 / 16 = g

/-- What the performing of LM lanes leaves alone. -/
def LmRest (s t : State) : Prop :=
  ScalarsKept s t ∧ t.wave.fflags = s.wave.fflags ∧ t.wave.pc = s.wave.pc ∧ t.wave.accs = s.wave.accs ∧ t.crew = s.crew ∧
    ∀ a, t.byteAt a = s.byteAt a

/-- A load word performs in all its lanes: every lane takes its word; with mode 2 the granules it read become empty. -/
def LmLoads (s : State) (l : LmAccess) (rest : List LmAccess) : Prop :=
  ∃ t, exec (.loadReturn s.crew.handle s.wave.idx l.id) s = .next t ∧ t.wave.lmq = rest ∧
    (∀ k (h : k < 96), (t.wave.vreg l.phys)[k] = match l.todo.find? (fun e => e.1 == k) with
      | some e => BitVec.ofNat 32 (ofBytesLE (s.lmRead s.crew.core e.2.1 4))
      | none => (s.wave.vreg l.phys)[k]) ∧
    (∀ p, p ≠ l.phys → t.wave.vreg p = s.wave.vreg p) ∧ t.lm = s.lm ∧
    (∀ g, (l.mode = 2 ∧ InGranule s l.todo g → lmFullOf t g = false) ∧ (¬ (l.mode = 2 ∧ InGranule s l.todo g) → lmFullOf t g = lmFullOf s g)) ∧
    LmRest s t

/-- Every byte of LM outside some words, in a line that has not expired, stands. -/
def LmElsewhere (s t : State) (es : List (Nat × Nat × Lane)) : Prop :=
  ∀ key, (∀ e ∈ es, key < lmKey s.crew.core e.2.1 ∨ lmKey s.crew.core e.2.1 + 4 ≤ key) → s.lmExpired (key / 256) = false → lmAt t key = lmAt s key

/-- A store word performs in all its lanes: each word holds the data of a lane that names it, and every other byte stands; mode 1 makes the
granules full, mode 2 empty. -/
def LmStores (s : State) (l : LmAccess) (rest : List LmAccess) : Prop :=
  ∃ t, exec (.loadReturn s.crew.handle s.wave.idx l.id) s = .next t ∧ t.wave.lmq = rest ∧
    (∀ e ∈ l.todo, ∃ f ∈ l.todo, f.2.1 = e.2.1 ∧ t.lmRead s.crew.core e.2.1 4 = bytesLE 4 f.2.2.toNat) ∧ LmElsewhere s t l.todo ∧
    (∀ g, (l.mode ≠ 0 ∧ InGranule s l.todo g → lmFullOf t g = (l.mode == 1)) ∧
      (¬ (l.mode ≠ 0 ∧ InGranule s l.todo g) → lmFullOf t g = lmFullOf s g)) ∧ t.wave.vregs = s.wave.vregs ∧ LmRest s t

/-- One lane of a store word performs (R187): its word is written, and its granule becomes full or empty with the word's last lane in it. -/
def LmStoresLane (s : State) (l : LmAccess) (rest : List LmAccess) : Prop :=
  ∃ t, ∃ e ∈ l.todo, exec (.storePerform s.crew.handle s.wave.idx l.id) s = .next t ∧
    t.wave.lmq = (if l.todo.filter (fun f => f != e) = [] then rest else { l with todo := l.todo.filter (fun f => f != e) } :: rest) ∧
    t.lmRead s.crew.core e.2.1 4 = bytesLE 4 e.2.2.toNat ∧ LmElsewhere s t [e] ∧
    (∀ g, lmFullOf t g = if l.mode ≠ 0 ∧ g = lmKey s.crew.core e.2.1 / 16 ∧ ∀ f ∈ l.todo, f ≠ e → f.2.1 / 16 ≠ e.2.1 / 16 then l.mode == 1
      else lmFullOf s g) ∧ t.wave.vregs = s.wave.vregs ∧ LmRest s t

def gatherOffs (s : State) (a b : Reg) (k : Nat) : Word := s.getS a + (lane s 1 b k).setWidth 64
def strideOffs (s : State) (a : Reg) (i : BitVec 7) (k : Nat) : Word := s.getS a + 4#64 * i.setWidth 64 * BitVec.ofNat 64 k

end Sys2Proof.Stmt

/-- R346, R347, R351, R354, R355, R211: a precise cause enters the handler with TPC at the word and s113 zero, and STALE counts in STALECNT;
with an older load-class fault of the wave found the wave enters with that fault, and TPC is the word, which issues again. The model's own
choice in it: that the word issues again (log entry 88). -/
def Obligations.PreciseCausesEnterTheHandler : Prop :=
  (∀ s c addr, MayEnter s → c ≠ .halt →
    EntersHandler s (s.trap c addr) c s.wave.pc addr 0#64 0#64 ∧
    (s.trap c addr).wave.stalecnt = (if c = .stale then s.wave.stalecnt + 1#64 else s.wave.stalecnt)) ∧
  ∀ s c addr e, CanEnter s → s.ownFault = some e →
    (s.trap c addr).wave.tcause = BitVec.ofNat 64 (causeCode e.2.1) ∧ (s.trap c addr).wave.tpc = s.wave.pc ∧
    (s.trap c addr).wave.taddr = e.2.2.2.1 ∧ (s.trap c addr).getS 112#7 = e.1.pc ∧ (s.trap c addr).wave.inh = true ∧
    (s.trap c addr).wave.pc = s.wave.tvec ∧ (s.trap c addr).crew.state = .halted ∧ ∀ b, (s.trap c addr).byteAt b = s.byteAt b

/-- R347, R354, R360: a cause in a handler, and one in a wave with TVEC 0, end the crew, and the host receives the cause. -/
def Obligations.CausesThatEndTheCrew : Prop :=
  (∀ s st, s.wave.inh = true → CrewEnds s (s.raise st) (some st.cause) 0#64) ∧
  (∀ s st, s.wave.inh = false → s.wave.stop = none → s.wave.tvec = 0#64 → s.sfuPending = false → CrewEnds s (s.raise st) (some st.cause) 0#64) ∧
  ∀ y a s, Live s → (∀ w ∈ s.crewWaves, w.mustDrain = false) → s.mstRuns = false →
    ∃ t, exec (.ctkill y a) s = .next t ∧ CrewEnds s t none (s.getS a)

/-- R356 to R358, R360: `trap` and `brk` raise their causes with their operands; `eret` in a handler returns to TPC or to S[B], resumes the
wait of the wake record unless CLRWAKE is set, and sends the held accesses on or drops them; it waits for the other waves of the halt, and
as the last of a taken crew it saves the crew; `ctkill` waits for the crew's stores. The model's own choices in it: what ctkill and eret wait
for, and RUN 0 for a cause delivered at eret (log entries 47, 73 and 90). -/
def Obligations.TrapWords : Prop :=
  (∀ y i s, MayEnter s → ∃ t, exec (.trap y i) s = .next t ∧ EntersHandler s t .swtrap (s.wave.pc + 4#64) 0#64 (i.signExtend 64) 0#64) ∧
  (∀ y i s, MayEnter s → ∃ t, exec (.brk y i) s = .next t ∧ EntersHandler s t .brk s.wave.pc 0#64 (i.setWidth 64) 0#64) ∧
  (∀ y a b s, EretOk s a b → s.crew.state = .halted → s.crew.restoring = false → s.crew.preempt = none → s.wave.stop = none →
    s.wave.halting = none → s.wave.heldCauses = [] → (∀ w ∈ s.crew.others, ¬ StillHalted w ∧ (w.status = .live → w.heldCauses = [])) →
    ∃ t, exec (.eret y a b) s = .next t ∧ t.wave.pc = eretTarget s a b ∧ t.wave.parked = y ∧ t.wave.inh = false ∧ t.wave.ret = none ∧
      t.wave.issued = s.wave.entryIssued ∧ t.crew.state = .running ∧
      t.wave.accs = (if (s.getS a).getLsbD 0 then s.wave.accs.filter (fun k => k.phase ≠ .held)
        else s.wave.accs.map (fun k => if k.phase = .held then { k with phase := .queued } else k)) ∧
      (((s.getS a).getLsbD 2 = true ∨ (s.getS 114#7).toNat % 16 = 0) → t.wave.block = none) ∧
      ((s.getS a).getLsbD 2 = false → (s.getS 114#7).toNat % 16 = 1 →
        t.wave.block = some (.bar ((s.getS 114#7).toNat / 16 % 16) (BitVec.ofNat 16 ((s.getS 114#7).toNat / 2 ^ 32)))) ∧
      ((s.getS a).getLsbD 2 = false → (s.getS 114#7).toNat % 16 = 2 →
        t.wave.block = some (.xbar (s.getS 115#7) (BitVec.ofNat 32 ((s.getS 114#7).toNat / 2 ^ 32)) s.wave.xbarExt)) ∧
      ((s.getS a).getLsbD 2 = false → (s.getS 114#7).toNat % 16 = 3 → t.wave.block = some (.rgbind ((s.getS 114#7).toNat / 2 ^ 32))) ∧
      ((s.getS a).getLsbD 2 = false → (s.getS 114#7).toNat % 16 = 4 → t.wave.block = some .snap) ∧
      ScalarsKept s t ∧ VectorsKept s t ∧ t.wave.fflags = s.wave.fflags ∧ ∀ b, t.byteAt b = s.byteAt b) ∧
  (∀ y a b s, EretOk s a b → s.crew.state = .halted → (∃ w ∈ s.crew.others, w.idx ≠ s.wave.idx ∧ StillHalted w) →
    ∃ t, exec (.eret y a b) s = .next t ∧ t.wave.ret = some ⟨eretTarget s a b, (s.getS a).getLsbD 0, (s.getS a).getLsbD 2, y⟩ ∧
      t.wave.inh = false ∧ t.wave.pc = s.wave.pc ∧ t.wave.accs = s.wave.accs ∧ t.crew = s.crew ∧ ScalarsKept s t ∧ VectorsKept s t ∧
      ∀ b, t.byteAt b = s.byteAt b) ∧
  (∀ y a b s p, EretOk s a b → s.crew.state = .taking → s.crew.preempt = some p → p.entered = true →
    (∀ w ∈ s.crew.others, w.status = .live → w.ret ≠ none) →
    ∃ t, exec (.eret y a b) s = .next t ∧ t.crew.state = .saved ∧ t.crew.slot = some p.slot ∧ t.crew.preempt = none) ∧
  (∀ y a b s, Live s → s.wave.inh = true → s.getS a >>> 3 = 0#64 → (s.getS 114#7).toNat % 16 ≤ 4 →
    ((s.getS a).getLsbD 1 = true → (s.getS b).toNat % 4 = 0) →
    (s.faultFound = true ∨ ((s.getS a).getLsbD 0 = false ∧ s.repairsLeft = true)) → Waits (.eret y a b) s .other) ∧
  (∀ y a b s, MayEnter s → ∃ t, exec (.eret y a b) s = .next t ∧ EntersHandler s t .operand s.wave.pc 0#64 0#64 0#64) ∧
  (∀ y a b s, Live s → s.wave.inh = true → (s.getS a >>> 3 ≠ 0#64 ∨ 4 < (s.getS 114#7).toNat % 16) →
    ∃ t, exec (.eret y a b) s = .next t ∧ CrewEnds s t (some .operand) 0#64) ∧
  ∀ y a s, Live s → ((∃ w ∈ s.crewWaves, w.mustDrain = true) ∨ s.mstRuns = true) →
    ∃ t, exec (.ctkill y a) s = .next t ∧ t.wave.block = some .kill ∧ t.wave.pc = s.wave.pc ∧ (∀ w ∈ t.crew.others, w.stopped = true) ∧
      t.crew.state = s.crew.state

/-- R353, R359: `sfrpop` stores the 512 bytes of the crew's oldest record where S[A] says and returns how many are left; with none left it
writes all ones and stores nothing; an address that is no multiple of 64 raises ALIGN. -/
def Obligations.StoreFaultRecordWord : Prop :=
  (∀ y d a s (xs : List Xl) r rest, Live s → (s.getS a).toNat % 64 = 0 →
    (recordParts (s.getS a).toNat).map (fun p => s.xlateVa (BitVec.ofNat 64 p.1) .store false) = xs.map .ok →
    s.crew.sfr = r :: rest → NothingBefore s → (∀ x ∈ xs, s.snapWaits x = false) →
    (∀ p ∈ (recordParts (s.getS a).toNat).zip xs, s.keyed p.2 = true ∧ ∀ l ∈ linesOf p.2.fpa p.1.2.2, s.lineFree none (128 * l) = true) →
    s.groupDue (((recordParts (s.getS a).toNat).zip xs).map (fun p => (p.2.fpa, p.1.2.2))) = true →
    DoneAtHome (.sfrpop y d a) s y d (BitVec.ofNat 64 rest.length)
      (((recordParts (s.getS a).toNat).zip xs).flatMap (fun p => [(p.2.addr, 8), (p.2.fpa, p.1.2.2)]))
      (fun t => t.crew = { s.crew with sfr := rest } ∧ ∀ x, xs = [x] → t.readBytes x.fpa 512 = r.bytes)) ∧
  (∀ y d a s (xs : List Xl), Live s → (s.getS a).toNat % 64 = 0 →
    (recordParts (s.getS a).toNat).map (fun p => s.xlateVa (BitVec.ofNat 64 p.1) .store false) = xs.map .ok →
    s.crew.sfr = [] → ScalarResult (.sfrpop y d a) s y d (BitVec.allOnes 64) 0#6) ∧
  (∀ r : SfRec, r.bytes.length = 512 ∧ r.bytes.take 8 = bytesLE 8 r.va.toNat ∧ (r.bytes.drop 8).take 8 = bytesLE 8 r.pc.toNat ∧
    (r.bytes.drop 128).take r.data.length = r.data.take 384) ∧
  ∀ y d a s, Live s → (s.getS a).toNat % 64 ≠ 0 → exec (.sfrpop y d a) s = .next (s.trap .align (s.getS a))

/-- R187, R189, R203, R211: the LM words issue, and their lanes perform in the order of the wave's LM words: a load's lanes take their words,
a store's lanes are written, each lane an event of its own; a mode-1 or mode-2 load waits for full granules; offsets that are no whole words
of the allocation raise ALIGN, PROT_LD or PROT_ST, mode 3 ILLEGAL, stride 0 OPERAND. The model's own choices in it: the order of the lanes and
the events in which they perform (log entries 12, 32 and 46). -/
def Obligations.LocalMemoryAccessWords : Prop :=
  (∀ y d a b lb s, VecReady s [(b, lb)] (some d) → LmPlaced s (gatherOffs s a b) →
    LmQueues (.vlld y d a b lb) s y [(b, lb)] true d 0 (gatherOffs s a b)) ∧
  (∀ y d a b lb s, VecReady s [(b, lb), (d, false)] none → LmPlaced s (gatherOffs s a b) →
    LmQueues (.vlst y d a b lb) s y [(b, lb)] false d 0 (gatherOffs s a b)) ∧
  (∀ y d a e i s, VecReady s [] (some d) → LmPlaced s (strideOffs s a i) → i ≠ 0#7 → e ≠ 3#2 →
    LmQueues (.vlldc y d a e i) s y [] true d e.toNat (strideOffs s a i)) ∧
  (∀ y d a e i s, VecReady s [(d, false)] none → LmPlaced s (strideOffs s a i) → i ≠ 0#7 → e ≠ 3#2 →
    LmQueues (.vlstc y d a e i) s y [] false d e.toNat (strideOffs s a i)) ∧
  (∀ s l rest, LmFirst s l rest →
    (l.load = true → LmReadable s l → LmLoads s l rest) ∧
    (l.load = false → lmGuard < s.lmretn → LmStores s l rest ∧ LmStoresLane s l rest) ∧
    (l.load = true → l.mode ≠ 0 → (∀ e ∈ l.todo, s.lmFullAt s.crew.core e.2.1 = false) →
      exec (.loadReturn s.crew.handle s.wave.idx l.id) s = .next s)) ∧
  (∀ y d a b lb s k, VecReady s [(b, lb)] (some d) → s.wave.lanes.head? = some k →
    ((gatherOffs s a b k).toNat % 4 ≠ 0 → exec (.vlld y d a b lb) s = .next (s.trap .align (gatherOffs s a b k))) ∧
    ((∀ j ∈ s.wave.lanes, (gatherOffs s a b j).toNat % 4 = 0) → s.crew.lmBad (gatherOffs s a b k).toNat 4 ≠ none →
      exec (.vlld y d a b lb) s = .next (s.trap .protLd (gatherOffs s a b k)))) ∧
  ∀ y d a e i s, VecReady s [(d, false)] (some d) →
    (i ≠ 0#7 → exec (.vlldc y d a 3#2 i) s = .next (s.trap .illegal 0#64) ∧ exec (.vlstc y d a 3#2 i) s = .next (s.trap .illegal 0#64)) ∧
    (e ≠ 3#2 → exec (.vlldc y d a e 0#7) s = .next (s.trap .operand 0#64) ∧ exec (.vlstc y d a e 0#7) s = .next (s.trap .operand 0#64))

/-- R213 to R218: segments are carved at the lowest free place, zeroed and empty; `lmfree` gives one up; `lmrenew` stamps every line of its
range; `lmage` tells the age and the lifetime left; `fefill` sets the granules. The model's own choices in it: the age of a held line (log
entry 13). -/
def Obligations.SegmentWords : Prop :=
  (∀ e ∈ [((fun y d a => Instr.lmallocT y d a), false), ((fun y d a => Instr.lmallocH y d a), true)], ∀ y d a s n off, Live s →
    n = ((s.getS a).toNat + 255) / 256 * 256 → n ≠ 0 → s.wave.lmq = [] →
    findGap s.crew.lmBase (s.crew.lmBase + s.crew.lmSize) n s.crew.segs = some off →
    s.crew.segs.length < 16 → (e.2 = true → s.heldBytes s.crew.core + n ≤ 2 ^ 21) →
    ∃ t, exec (e.1 y d a) s = .next t ∧ WritesScalar s t d (BitVec.ofNat 64 off) ∧ t.crew = { s.crew with segs := insertSeg s.crew.segs ⟨off, n, e.2⟩ } ∧
      (∀ k, k < n → lmAt t (lmKey s.crew.core off + k) = 0#8) ∧
      (∀ key, (key < lmKey s.crew.core off ∨ lmKey s.crew.core off + n ≤ key) → s.lmExpired (key / 256) = false → lmAt t key = lmAt s key) ∧
      VectorsKept s t ∧ t.wave.fflags = s.wave.fflags ∧ GoesOn s t y (s.wave.pc + 4#64) ∧ WaveKept s.wave t.wave ∧
      ∀ a, t.byteAt a = s.byteAt a) ∧
  (∀ base top n (segs : List Seg) off, segs.Pairwise (fun g h => g.off + g.size ≤ h.off) → (∀ g ∈ segs, g.off + g.size ≤ top) →
    findGap base top n segs = some off →
    base ≤ off ∧ off + n ≤ top ∧ (∀ g ∈ segs, off + n ≤ g.off ∨ g.off + g.size ≤ off) ∧
    ∀ o, base ≤ o → o + n ≤ top → (∀ g ∈ segs, o + n ≤ g.off ∨ g.off + g.size ≤ o) → off ≤ o) ∧
  (∀ y d a s, Live s → (s.getS a).toNat ≠ 0 → s.wave.lmq = [] →
    findGap s.crew.lmBase (s.crew.lmBase + s.crew.lmSize) (((s.getS a).toNat + 255) / 256 * 256) s.crew.segs = none →
    exec (.lmallocT y d a) s = .next (s.trap .lmfull 0#64) ∧ exec (.lmallocH y d a) s = .next (s.trap .lmfull 0#64)) ∧
  (∀ y d a s, Live s → s.getS a = 0#64 →
    exec (.lmallocT y d a) s = .next (s.trap .operand 0#64) ∧ exec (.lmallocH y d a) s = .next (s.trap .operand 0#64)) ∧
  (∀ y a s g, Live s → s.crew.segs.find? (fun g => g.off = (s.getS a).toNat) = some g →
    ∃ t, exec (.lmfree y a) s = .next t ∧ t.crew = { s.crew with segs := s.crew.segs.filter (fun h => h.off != g.off) } ∧ t.lm = s.lm ∧
      ScalarsKept s t ∧ VectorsKept s t ∧ t.wave.fflags = s.wave.fflags ∧
      Completes { s with crew := t.crew } { t with lmStamp := s.lmStamp, lmMark := s.lmMark } y) ∧
  (∀ y a s, Live s → (∀ g ∈ s.crew.segs, g.off ≠ (s.getS a).toNat) → exec (.lmfree y a) s = .next (s.trap .operand 0#64)) ∧
  (∀ y a b s, Live s → s.crew.lmBad (s.getS a).toNat (s.getS b).toNat = none → s.wave.lmq = [] →
    (∀ l ∈ lmLines s.crew.core (s.getS a).toNat (s.getS b).toNat, s.lmExpired l = false) →
    ∃ t, exec (.lmrenew y a b) s = .next t ∧
      (∀ l, t.lmStampOf l = (if l ∈ lmLines s.crew.core (s.getS a).toNat (s.getS b).toNat then s.micros else s.lmStampOf l)) ∧
      ScalarsKept s t ∧ VectorsKept s t ∧ t.wave.fflags = s.wave.fflags ∧ Completes s { t with lmStamp := s.lmStamp, lmMark := s.lmMark } y) ∧
  (∀ y d a s, Live s → s.crew.lmBad (s.getS a).toNat 1 = none → s.lmExpired (lmLineOf s.crew.core (s.getS a).toNat) = false →
    (∀ g ∈ s.crew.segs, g.held = true → (s.getS a).toNat < g.off ∨ g.off + g.size ≤ (s.getS a).toNat) →
    ScalarResult (.lmage y d a) s y d (BitVec.ofNat 64 ((s.lmretn - 8 - s.lmAge (lmLineOf s.crew.core (s.getS a).toNat)) * 2 ^ 16 +
      s.lmAge (lmLineOf s.crew.core (s.getS a).toNat))) 0#6) ∧
  (∀ y d a s, Live s → s.crew.lmBad (s.getS a).toNat 1 = none → s.lmExpired (lmLineOf s.crew.core (s.getS a).toNat) = true →
    ScalarResult (.lmage y d a) s y d (BitVec.ofNat 64 (2 ^ 33 + 0x3FFF)) 0#6) ∧
  (∀ y d a s, Live s → s.crew.lmBad (s.getS a).toNat 1 = none → s.lmExpired (lmLineOf s.crew.core (s.getS a).toNat) = false →
    (∃ g ∈ s.crew.segs, g.held = true ∧ g.off ≤ (s.getS a).toNat ∧ (s.getS a).toNat < g.off + g.size) →
    ∃ age, age ≤ s.lmretn / 2 ∧ ScalarResult (.lmage y d a) s y d (BitVec.ofNat 64 (2 ^ 32 + (s.lmretn - 8 - age) * 2 ^ 16 + age)) 0#6) ∧
  ∀ e ∈ [((fun y d a => Instr.fefillEmpty y d a), false), ((fun y d a => Instr.fefillFull y d a), true)], ∀ y d a s, Live s →
    (s.getS d).toNat % 16 = 0 → (s.getS a).toNat % 16 = 0 → s.crew.lmBad (s.getS d).toNat (s.getS a).toNat = none → s.wave.lmq = [] →
    (e.2 = true → ∀ l ∈ lmLines s.crew.core (s.getS d).toNat (s.getS a).toNat, s.lmExpired l = false) →
    ∃ t, exec (e.1 y d a) s = .next t ∧
      (∀ g, lmFullOf t g = (if lmKey s.crew.core (s.getS d).toNat / 16 ≤ g ∧ g < lmKey s.crew.core (s.getS d).toNat / 16 + (s.getS a).toNat / 16
        then e.2 else lmFullOf s g)) ∧
      ScalarsKept s t ∧ VectorsKept s t ∧ t.wave.fflags = s.wave.fflags ∧ Completes s { t with lmFull := s.lmFull, lmClock := s.lmClock } y

namespace Sys2Proof.Stmt

/-- A copy command as its word captures it (R50, R219). -/
def cmdOf (s : State) (kind : CmdKind) (d a b : Reg) : Cmd :=
  ⟨0, kind, s.crew.handle, s.wave.idx, s.crew.core, s.crew.ctx, s.getS d, s.getS a, s.getS b, s.wave.nf.toList,
    s.wave.cb, s.wave.pts, 0, 0, [], s.wave.nextId, 0, [], false⟩

/-- The control word of a copy command. -/
def ctl (s : State) (d : Reg) : Xcw := xcwOf (s.getS d)

/-- A list of LM ranges lies in the crew's allocation. -/
def Inside (s : State) (rs : List (Nat × Nat)) : Prop := ∀ r ∈ rs, s.crew.lmBad r.1 r.2 = none

/-- The bytes of a side that lies in LM. -/
def onlyIf (lm : Bool) (off n : Nat) : List (Nat × Nat) := if lm then [(off, n)] else []

/-- The checks of R220 and of its own rule pass for a command. -/
def CmdFits (s : State) (kind : CmdKind) (d a b : Reg) : Prop :=
  let x := ctl s d
  let src := (s.getS a).toNat
  let dst := (s.getS b).toNat
  match kind with
  | .copy => x.plain = true ∧ src % 4 = 0 ∧ dst % 4 = 0 ∧ x.len % 4 = 0 ∧ Inside s (onlyIf x.srcLm src x.len) ∧ Inside s (onlyIf x.dstLm dst x.len)
  | .fill => x.plain = true ∧ dst % 4 = 0 ∧ x.len % 4 = 0 ∧ Inside s (onlyIf x.dstLm dst x.len)
  | .gath => x.plain = true ∧ (x.lo = 0 → x.hi = 0) ∧ src % 8 = 0 ∧ dst % 4 = 0 ∧ (x.hi ≠ 0 → x.lo % 4 = 0) ∧ Inside s [(src, 8 * x.hi)] ∧
      Inside s (onlyIf x.dstLm dst (x.lo * x.hi))
  | .scat => x.plain = true ∧ (x.lo = 0 → x.hi = 0) ∧ src % 4 = 0 ∧ dst % 8 = 0 ∧ (x.hi ≠ 0 → x.lo % 4 = 0) ∧ Inside s [(dst, 8 * x.hi)] ∧
      Inside s (onlyIf x.srcLm src (x.lo * x.hi))
  | .back => x.plain = true ∧ x.st = false ∧ x.srcLm = true ∧ (x.lo = 0 → x.hi = 0) ∧ src % 4 = 0 ∧ dst % 8 = 0 ∧ (x.hi ≠ 0 → x.lo % 4 = 0) ∧
      Inside s [(dst, 8 * x.hi)] ∧ Inside s [(src, x.lo * x.hi)]
  | .pack => ∃ f, efmt s.wave.nf.toList x.sfmt = some f ∧ x.ok = true ∧ x.packOk = true ∧ x.dstLm = true ∧ planesRegOk (s.getS b) f x.hi = true ∧
      src % 4 = 0 ∧ planesOff (s.getS b) % 64 = 0 ∧ Inside s (onlyIf x.srcLm src (matrixSpan f x.lo x.hi (planesStride (s.getS b) f x.hi))) ∧
      Inside s [(planesOff (s.getS b), planesBytes x.prec x.hi (blkLen x.blk))]
  | .unpack => ∃ f w, unpackFmt s.wave.nf.toList x.sfmt = some (f, w) ∧ x.ok = true ∧ x.packOk = true ∧ x.srcLm = true ∧
      planesRegOk (s.getS a) (.flt f w) x.hi = true ∧ planesOff (s.getS a) % 4 = 0 ∧ dst % 4 = 0 ∧
      Inside s [(planesOff (s.getS a), planesBytes x.prec x.hi (blkLen x.blk))] ∧
      Inside s (onlyIf x.dstLm dst (matrixSpan (.flt f w) x.lo x.hi (planesStride (s.getS a) (.flt f w) x.hi)))
  | .cbexp => x.ok = true ∧ 0x18 ≤ x.sfmt ∧ x.sfmt ≤ 0x1B ∧ x.prec = 0 ∧ x.blk = 0 ∧ x.len % 8 = 0 ∧ src % 4 = 0 ∧ dst % 4 = 0 ∧
      Inside s (onlyIf x.srcLm src (x.len / 2)) ∧ Inside s (onlyIf x.dstLm dst (2 * x.len))

/-- The copy words with the commands they start. -/
noncomputable def copyTable : List ((Bool → Reg → Reg → Reg → Instr) × CmdKind) :=
  [(.xcopy, .copy), (.xgath, .gath), (.xscat, .scat), (.xback, .back), (.xfill, .fill), (.xpack, .pack), (.xunpack, .unpack), (.xcbexp, .cbexp)]

/-- Nothing that a command waits for stands before it: its tag is free, and no LM store of the wave is outstanding (R188, R219). -/
def MayStart (s : State) (d : Reg) : Prop :=
  s.crew.tag (ctl s d).tag ≠ .busy ∧ (∀ l ∈ s.wave.lmq, l.load = true) ∧ s.loadFaultPending = false

/-- A tag of the crew takes a status; every other tag, and the crew besides, stands. -/
def TagSet (s t : State) (n : Nat) (v : Tag) : Prop :=
  t.crew.tag n = v ∧ (∀ k, k ≠ n → t.crew.tag k = s.crew.tag k) ∧ { t.crew with tags := s.crew.tags } = s.crew

/-- The command stands last with the engine; unless it streams it owns the free lines of its destination (R185, R190, R219). -/
def CmdHanded (s t : State) (c : Cmd) (owned : List Nat) : Prop :=
  t.cmds = s.cmds ++ [{ c with id := s.nextCmd, since := s.wseq, owned := owned }] ∧ t.nextCmd = s.nextCmd + 1 ∧
    ∀ l, (t.line l).owner =
      (if l ∈ owned ∧ (s.line l).owner = none ∧ (xcwOf c.xcw).st = false then some (.engine s.nextCmd) else (s.line l).owner)

end Sys2Proof.Stmt

/-- R55, R188, R190, R219, R220: a copy word whose checks pass starts its command with the tag BUSY and goes on; with nothing to move its tag is DONE
at once; it waits for a BUSY tag and for an entry of the engine. The model's own choices in it: the lines that a scatter owns, the forms that
raise FORMAT, and empty row commands and lists (log entries 39, 40 and 110). -/
def Obligations.CopyWordsStartCommands : Prop :=
  (∀ e ∈ copyTable, ∀ y d a b s, Live s → CmdFits s e.2 d a b → MayStart s d → (cmdOf s e.2 d a b).total ≠ 0 → s.cmdRoom = true →
    ∃ t, exec (e.1 y d a b) s = .next t ∧ TagSet s t (ctl s d).tag .busy ∧
      CmdHanded s t (cmdOf s e.2 d a b) ((s.setTag (ctl s d).tag .busy).cmdLines { cmdOf s e.2 d a b with id := s.nextCmd, since := s.wseq }) ∧
      ScalarsKept s t ∧ VectorsKept s t ∧ t.wave.fflags = s.wave.fflags ∧
      Completes { s with crew := t.crew } { t with cmds := s.cmds, nextCmd := s.nextCmd, lines := s.lines } y) ∧
  (∀ e ∈ copyTable, ∀ y d a b s, Live s → CmdFits s e.2 d a b → MayStart s d → (cmdOf s e.2 d a b).total = 0 →
    ∃ t, exec (e.1 y d a b) s = .next t ∧ TagSet s t (ctl s d).tag (.done 0) ∧ ScalarsKept s t ∧ VectorsKept s t ∧
      t.wave.fflags = s.wave.fflags ∧ Completes { s with crew := t.crew } t y) ∧
  (∀ e ∈ copyTable, ∀ y d a b s, Live s → CmdFits s e.2 d a b → MayStart s d → (cmdOf s e.2 d a b).total ≠ 0 → s.cmdRoom = false →
    Waits (e.1 y d a b) s .other) ∧
  (∀ e ∈ copyTable, ∀ y d a b s, Live s → CmdFits s e.2 d a b → s.crew.tag (ctl s d).tag = .busy → Waits (e.1 y d a b) s .tag) ∧
  (∀ e ∈ copyTable, ∀ y d a b s, Live s → (ctl s d).ok = false → exec (e.1 y d a b) s = .next (s.trap .format 0#64)) ∧
  ∀ e ∈ copyTable, ∀ y d a b s, Live s → (ctl s d).plain = true → e.2 ∈ [CmdKind.copy, .gath, .scat] → ((ctl s d).lo = 0 → (ctl s d).hi = 0) →
    (s.getS a).toNat % 4 ≠ 0 → exec (e.1 y d a b) s = .next (s.trap .align (s.getS a))

/-- R192, R225, R226: `xwait` waits while a tag of its mask is BUSY and then writes the mask of those in ERR; `xstat` writes the status word
of one tag. -/
def Obligations.CopyTagWords : Prop :=
  (∀ y d a s, Live s → (∀ k, k < 64 → (s.getS a).getLsbD k = true → s.crew.tag k ≠ .busy) →
    ∃ t v, exec (.xwait y d a) s = .next t ∧ WritesScalar s t d v ∧
      (∀ k, k < 64 → v.getLsbD k = ((s.getS a).getLsbD k && (s.crew.tag k).isErr)) ∧
      s.wave.pts ≤ t.wave.pts ∧ (∀ k, k < 64 → (s.getS a).getLsbD k = true → (s.crew.tag k).clock ≤ t.wave.pts) ∧
      VectorsKept s t ∧ t.wave.fflags = s.wave.fflags ∧ GoesOn s t y (s.wave.pc + 4#64) ∧
      WaveKept s.wave { t.wave with pts := s.wave.pts } ∧ RestKept s t) ∧
  (∀ y d a s k, Live s → k < 64 → (s.getS a).getLsbD k = true → s.crew.tag k = .busy → Waits (.xwait y d a) s .xwait) ∧
  (∀ y d a s, Live s → (s.getS a).toNat ≤ 63 →
    ∃ t, exec (.xstat y d a) s = .next t ∧
      WritesScalar s t d (match s.crew.tag (s.getS a).toNat with
        | .idle => 0#64
        | .busy => 1#64
        | .done _ => 2#64
        | .err c foff _ => BitVec.ofNat 64 (foff % 2 ^ 32 * 2 ^ 32 + causeCode c * 256 + 3)) ∧
      t.wave.pts = max s.wave.pts (s.crew.tag (s.getS a).toNat).clock ∧ VectorsKept s t ∧ t.wave.fflags = s.wave.fflags ∧
      GoesOn s t y (s.wave.pc + 4#64) ∧ WaveKept s.wave { t.wave with pts := s.wave.pts } ∧ RestKept s t) ∧
  ∀ y d a s, Live s → 63 < (s.getS a).toNat → exec (.xstat y d a) s = .next (s.trap .operand 0#64)

namespace Sys2Proof.Stmt

/-- The fields of the status word of a region (R242). -/
def regionWord (retry id depth state status : Nat) : Word := BitVec.ofNat 64 (retry * 2 ^ 32 + id * 2 ^ 16 + depth * 2 ^ 6 + state * 2 ^ 3 + status)

/-- A region as `rgbeg` opens it for the issuing wave. -/
def opened (s : State) (id stamp retry : Nat) : Region where
  id := id
  stamp := stamp
  state := 1
  status := 0
  depth := 1
  retry := retry
  since := s.nanos
  crew := s.crew.handle
  wave := s.wave.idx
  core := s.crew.core
  ctx := s.crew.ctx
  ranges := 0
  bytes := 0
  pieces := []
  marks := []
  reports := []
  preds := []
  binding := none

/-- A region word has completed: S[D] is written, the wave holds these regions, and nothing but the unit has changed. -/
def RegionDone (i : Instr) (s : State) (y : Bool) (d : Reg) (v : Word) (open' held : Option Nat) (P : State → Prop) : Prop :=
  ∃ t, exec i s = .next t ∧ WritesScalar s t d v ∧ VectorsKept s t ∧ t.wave.fflags = s.wave.fflags ∧ t.wave.region = open' ∧
    t.wave.retained = held ∧ GoesOn s t y (s.wave.pc + 4#64) ∧
    WaveKept s.wave { t.wave with region := s.wave.region, retained := s.wave.retained, rgLast := s.wave.rgLast } ∧
    RestKept s { t with regions := s.regions, rgnStamp := s.rgnStamp, rgnSeq := s.rgnSeq } ∧ P t

/-- The issue checks of `rgbind` pass (R245). -/
def BindOk (s : State) (r : Region) (d a b : Reg) (ps : List RPiece) : Prop :=
  s.bindLimits r (s.getS d).toNat (s.getS a).toNat (s.getS b).toNat = false ∧ (s.getS d).toNat % 4 = 0 ∧ (s.getS a).toNat % 4 = 0 ∧
    (s.getS b).toNat % 4 = 0 ∧ s.crew.lmBad (s.getS a).toNat (s.getS b).toNat = none ∧
    s.bindPieces (pageParts 3 (s.getS d).toNat (s.getS a).toNat (s.getS b).toNat) = .ok ps ∧ s.piecePoison ps = none ∧
    s.rangeHeld ps = false

/-- The state once A is set in the entries of the pages that a bind reads, and D in those of the pages that a commit writes (R332). -/
def bindTouched (s : State) (ps : List RPiece) : State := s.touchPieces s.crew.ctx (dieOf s.crew.core) false ps
def commitTouched (s : State) (r : Region) : State := s.touchPieces r.ctx (dieOf r.core) true (r.pieces.filter r.dirtyIn)

/-- A region that commits at its `rgend`: it is active and not overdue, none of its reports is on its way, no region stands before it, no
snapshot view is open, its dirty copies are fresh and their lines free, its timestamp is granted, and no region has marks on the entries of its
pages (R235, R236, R181). -/
def CommitsNow (s : State) (r : Region) : Prop :=
  r.state = 1 ∧ s.overdue r = false ∧ r.reports = [] ∧ r.preds = [] ∧ s.views = [] ∧ s.putRegion r = s ∧
    (r.dirtyWords.map (fun e => e.1)).Nodup ∧ s.commitHeld r = false ∧ (commitTouched s r).regions = s.regions ∧
    ∀ e ∈ r.dirtyWords, s.lmExpired (lmLineOf r.core e.2) = false

/-- The engine's descriptor as it stands once its bytes have been read. -/
def descRead (s : State) (x : Xl) : State := (s.touch x true).readPieces s.wave.pts [(x, 0, 64)]

/-- The descriptor at `va` can be read now: its page passes the checks of issue, the wave's earlier accesses have performed, its line is free and
its packets can go, and it holds no poison (R260, R264, R321, R325, R340). -/
def DescReady (s : State) (va : Word) (x : Xl) : Prop :=
  s.descPage va = .ok (some x) ∧ NothingBefore s ∧ s.homeOpen none x = true ∧ (descRead s x).anyPoison x.fpa 64 = false

def collOf (s : State) (x : Xl) : CollDesc := collDesc ((descRead s x).readBytes x.fpa 64)
def xchgOf (s : State) (x : Xl) : XDesc := xdesc ((descRead s x).readBytes x.fpa 64)
def collNth (s : State) (c : Nat) : Nat := Map.find (fun _ => 0) s.fab.collCount c

/-- The engine's writes of the descriptor at `a`, in order, each its offset and bytes: they wait for their grants behind the lease that the
engine's read of the line has just taken (R180, R181, R260, R313); no unit's write stood before them. -/
def EngineWrites (s t : State) (a : Nat) (ws : List (Nat × List Byte)) : Prop :=
  s.units = [] → t.units = ws.map (fun w => ⟨a, true, .put w.1 s.wave.pts w.2⟩)

/-- What `coll` writes of STATUS, DETAIL and FCAUSE, and `dpost` and `xchg` of a round that ends before it is posted (R258, R313). -/
def collEndWrites (status detail fcause : Nat) : List (Nat × List Byte) := [(0x24, bytesLE 2 (detail + 256 * fcause)), (0x20, bytesLE 4 status)]
def roundEndWrites (s : State) (status detail fcause : Nat) : List (Nat × List Byte) :=
  [(0x2A, bytesLE 4 (s.xch.arbGen.toNat * 65536)), (0x28, bytesLE 2 (detail + 256 * fcause)), (0x24, bytesLE 4 status)]

/-- The bytes that the engine of a collective reads of SRC at this rank (R258). -/
def collReads (s : State) (d : CollDesc) : Nat := if d.op = 6 ∧ (s.myRank d.comm).getD 0 ≠ d.root then 0 else collIn d.op d.count
def collWrites (s : State) (d : CollDesc) : Nat := collOut d.op d.count (s.bankCount d.comm (s.curBank d.comm))

/-- The word waits for the end of the engine operation on the descriptor at `va` (R265, R327). -/
def WaitsForEnd (i : Instr) (s : State) (b : Block) (va : Word) : Prop :=
  ∃ t, exec i s = .next t ∧ t.wave.block = some b ∧ t.wave.collVa = va ∧ t.wave.pc = s.wave.pc ∧
    { t with wave := { t.wave with block := s.wave.block, collVa := s.wave.collVa } } = s

/-- The word goes on with no register written. -/
def NoRegister (s t : State) (y : Bool) : Prop :=
  ScalarsKept s t ∧ VectorsKept s t ∧ t.wave.fflags = s.wave.fflags ∧ GoesOn s t y (s.wave.pc + 4#64)

/-- The round that a `dpost` of the issuing wave on descriptor `va` has posted and still waits for. -/
def postedBy (s : State) (va : Word) : Option Round :=
  s.xch.rounds.find? (fun r => r.posting && r.crew == s.crew.handle && r.wave == s.wave.idx && r.descVa == va)

/-- The send queues of a round from its table (R313, R318): a queue that holds nothing has its end marker sent at once. -/
def sendsOf (n : Nat) (bs : List Byte) : List SendQ :=
  (List.range n).map (fun j => ⟨tableWord bs 16 j 0 8, tableWord bs 16 j 8 8, 0, tableWord bs 16 j 8 8 == 0⟩)

/-- A posted round whose engine can start now, in the state that has read the descriptor: its tables are readable and open, their content keeps
R313, every receive buffer passes the checks of a store, and nothing of the round has come yet (R314, R321). -/
def MayStartRound (u : State) (r : Round) (sb rb : List Byte) : Prop :=
  r.posting = false ∧ r.started = false ∧ 2 ≤ r.n ∧ r.rank < r.n ∧ u.tableOpen r.sendq (16 * r.n) = true ∧ u.tableOpen r.recv (16 * r.n) = true ∧
    (∃ ps, u.readTable r.sendq (16 * r.n) = .ok (ps, sb)) ∧ (∃ ps, u.readTable r.recv (16 * r.n) = .ok (ps, rb)) ∧
    (∀ j, j < r.n → tableWord sb 16 j 0 8 % 4 = 0 ∧ tableWord sb 16 j 8 8 % 4 = 0 ∧ tableWord sb 16 j 8 8 < 2 ^ 44 ∧ tableWord rb 16 j 0 8 % 4 = 0 ∧
      ∃ ps, u.enginePieces r.core r.ctx (tableWord rb 16 j 0 8) (tableWord rb 16 j 8 4) .store = .ok ps) ∧ tableWord sb 16 r.rank 8 8 = 0 ∧
    (∀ p ∈ u.xch.data, ¬ (p.comm = r.comm ∧ p.round = r.round)) ∧ ∀ p ∈ u.xch.ends, ¬ (p.comm = r.comm ∧ p.round = r.round)

/-- A round of the context is in flight on descriptor `va` (R327). -/
def InFlight (s : State) (va : Word) : Prop := ∃ r ∈ s.xch.rounds, r.ended = false ∧ r.ctx = s.crew.ctx ∧ r.descVa = va

end Sys2Proof.Stmt

/-- R229, R230, R235, R241 to R249: `rgbeg` opens a region under the lowest free id, or again under the retained one with its stamp;
`rgbind` copies its range into LM; `rgend` commits the dirty words or closes an aborted region; `rgabort`, `rgstat` and `rgwait`; the pages
have their A and D bits set (R332). The model's own choice in it: `rgbind` and `rgend` wait for the wave's earlier accesses (log entry 87). -/
def Obligations.RegionWords : Prop :=
  (∀ y d a s id, Live s → s.wave.region = none → s.wave.retained = none → s.getS a = 0#64 → s.freeRegionId = some id →
    RegionDone (.rgbeg y d a) s y d (BitVec.ofNat 64 id) (some id) none (fun t =>
      t.region? id = some (opened s id s.rgnStamp 0) ∧ t.rgnStamp = s.rgnStamp + 1 ∧ ∀ j, j ≠ id → t.region? j = s.region? j)) ∧
  (∀ y d a s id r, Live s → s.wave.region = none → s.wave.retained = some id → s.getS a ≠ 0#64 → s.region? id = some r →
    RegionDone (.rgbeg y d a) s y d (BitVec.ofNat 64 id) (some id) none (fun t =>
      t.region? id = some (opened s id r.stamp (min (r.retry + 1) 255)) ∧ t.rgnStamp = s.rgnStamp ∧ ∀ j, j ≠ id → t.region? j = s.region? j)) ∧
  (∀ y d a s, Live s → s.wave.region = none → s.wave.retained = none → s.getS a = 0#64 → s.freeRegionId = none →
    ScalarResult (.rgbeg y d a) s y d (BitVec.allOnes 64) 0#6) ∧
  (∀ y d a s, Live s → (s.wave.region.isSome = true ∨ (s.wave.retained = none ∧ s.getS a ≠ 0#64)) →
    exec (.rgbeg y d a) s = .next (s.trap .operand 0#64)) ∧
  (∀ y d a b s r ps, Live s → s.openRegion = some r → s.wave.region = some r.id → r.state = 1 → s.overdue r = false → r.binding = none →
    r.core = s.crew.core → lmGuard < s.lmretn → (∀ q ∈ s.regions, ∀ m ∈ q.marks, m.2.dirty = false) → NothingBefore s → BindOk s r d a b ps →
    (bindTouched s ps).regions = s.regions →
    ∃ t, exec (.rgbind y d a b) s = .next t ∧ NoRegister s t y ∧
      (∀ p ∈ ps, ∀ k, k < p.len → lmAt t (lmKey s.crew.core (p.lm + k)) = (bindTouched s ps).byteAt (p.fpa + k)) ∧
      (∃ q, t.region? r.id = some q ∧ q.pieces = r.pieces ++ ps ∧ q.ranges = r.ranges + 1 ∧ q.bytes = r.bytes + (s.getS b).toNat ∧ q.state = 1) ∧
      ∀ x, t.byteAt x = (bindTouched s ps).byteAt x) ∧
  (∀ y d a b s r, Live s → s.openRegion = some r → r.state ≠ 1 → OnlyGoesOn (.rgbind y d a b) s y (s.wave.pc + 4#64)) ∧
  (∀ y d s id r, Live s → s.wave.region = some id → s.region? id = some r → NothingBefore s → CommitsNow s r →
    ∃ t, exec (.rgend y d) s = .next t ∧ WritesScalar s t d (regionWord r.retry id r.depth 3 0) ∧ VectorsKept s t ∧
      GoesOn s t y (s.wave.pc + 4#64) ∧ t.wave.region = none ∧ t.wave.retained = none ∧
      t.wave.rgLast = regionWord r.retry id r.depth 3 0 ∧ t.region? id = none ∧
      (∀ e ∈ r.dirtyWords, t.readBytes (4 * e.1) 4 = (commitTouched s r).lmRead r.core e.2 4) ∧
      ∀ x, Outside (r.dirtyWords.map (fun e => (4 * e.1, 4))) x → t.byteAt x = (commitTouched s r).byteAt x) ∧
  (∀ y d s id r, Live s → s.wave.region = some id → s.region? id = some r → r.state = 2 → r.reports = [] →
    ∃ t, exec (.rgend y d) s = .next t ∧ WritesScalar s t d (regionWord r.retry id r.depth 3 r.status) ∧ VectorsKept s t ∧
      GoesOn s t y (s.wave.pc + 4#64) ∧ t.wave.region = none ∧ t.wave.retained = some id ∧
      t.wave.rgLast = regionWord r.retry id r.depth 3 r.status ∧ ∀ x, t.byteAt x = s.byteAt x) ∧
  (∀ y d a b s r, Live s → s.openRegion = some r → r.state = 1 → s.wave.beforeLeft = true →
    Waits (.rgend y d) s .other ∧ (s.overdue r = false → Waits (.rgbind y d a b) s (s.wave.block.getD .other))) ∧
  (∀ y d s id r, Live s → s.wave.region = some id → s.region? id = some r → NothingBefore s → r.state = 1 → s.overdue r = false → r.reports = [] →
    r.preds ≠ [] →
    ∃ t, exec (.rgend y d) s = .next t ∧ t.wave.block = some .rgend ∧ t.wave.pc = s.wave.pc ∧ t.region? id = some r ∧
      ScalarsKept s t ∧ ∀ x, t.byteAt x = s.byteAt x) ∧
  (∀ y s id r, Live s → s.wave.region = some id → s.region? id = some r → r.state = 1 →
    ∃ t, exec (.rgabort y) s = .next t ∧ NoRegister s t y ∧ t.wave.region = none ∧ t.wave.retained = some id ∧
      t.wave.rgLast = regionWord r.retry id r.depth 3 7 ∧ ∀ x, t.byteAt x = s.byteAt x) ∧
  (∀ y s, Live s → s.wave.region = none → OnlyGoesOn (.rgabort y) s y (s.wave.pc + 4#64)) ∧
  (∀ y d s r, Live s → s.openRegion = some r → r.state = 1 → s.overdue r = false →
    ScalarResult (.rgstat y d) s y d (regionWord r.retry r.id r.depth (1 + (if r.preds = [] then 0 else 4)) 0) 0#6 ∧
    (r.preds = [] → ScalarResult (.rgwait y d) s y d (regionWord r.retry r.id r.depth 1 0) 0#6) ∧
    (r.preds ≠ [] → Waits (.rgwait y d) s .rgwait)) ∧
  (∀ y d s, Live s → s.wave.region = none →
    ScalarResult (.rgstat y d) s y d s.wave.rgLast 0#6 ∧ ScalarResult (.rgwait y d) s y d s.wave.rgLast 0#6) ∧
  ∀ y d a b s, Live s → s.wave.region = none →
    exec (.rgend y d) s = .next (s.trap .operand 0#64) ∧ exec (.rgbind y d a b) s = .next (s.trap .operand 0#64)

/-- R257 to R260, R264 to R268: `coll` starts a collective, or writes the status of one that cannot start; `cwait` waits for it and writes
its STATUS; `gfence`, `gread` and `hbstat`. The model's own choices in it: the moment at which an engine's word reads its descriptor (log
entry 50). -/
def Obligations.CollectiveAndGenerationWords : Prop :=
  (∀ y a s x ins outs, Live s → DescReady s (s.getS a) x → (collOf s x).gen = s.gen.toNat → s.collDetail (collOf s x) = 0 → s.removed = false →
    (descRead s x).enginePieces s.crew.core s.crew.ctx (collOf s x).src (collReads s (collOf s x)) .load = .ok ins →
    (descRead s x).enginePieces s.crew.core s.crew.ctx (collOf s x).dst (collWrites s (collOf s x)) .store = .ok outs →
    s.fab.colls.length < 64 →
    ∃ t c, exec (.coll y a) s = .next t ∧ NoRegister s t y ∧ t.fab.colls = s.fab.colls ++ [c] ∧
      c.comm = (collOf s x).comm ∧ c.op = (collOf s x).op ∧ c.count = (collOf s x).count ∧ c.root = (collOf s x).root ∧
      c.src = (collOf s x).src ∧ c.dst = (collOf s x).dst ∧ c.sent = false ∧ c.descVa = s.getS a ∧ c.desc = x.fpa ∧ c.ctx = s.crew.ctx ∧
      c.nth = collNth s c.comm ∧ collNth t c.comm = collNth s c.comm + 1 ∧ c.rank = (s.myRank c.comm).getD 0 ∧ c.owned = pieceLines outs ∧
      c.overlaps = (collOf s x).overlaps (s.bankCount c.comm (s.curBank c.comm)) ∧
      (∀ l ∈ pieceLines outs, (s.line l).owner = none → (t.line l).owner = some (.engine s.nextCmd)) ∧
      ∀ b, Outside [(x.addr, 8)] b → t.byteAt b = s.byteAt b) ∧
  (∀ y a s x, Live s → DescReady s (s.getS a) x → s.fab.colls.length < 64 →
    ((collOf s x).gen ≠ s.gen.toNat →
      ∃ t, exec (.coll y a) s = .next t ∧ NoRegister s t y ∧ t.fab = s.fab ∧ EngineWrites s t x.fpa (collEndWrites 1 0 0) ∧
        ∀ b, s.units = [] → Outside [(x.addr, 8)] b → t.byteAt b = s.byteAt b) ∧
    ((collOf s x).gen = s.gen.toNat → s.collDetail (collOf s x) ≠ 0 →
      ∃ t, exec (.coll y a) s = .next t ∧ NoRegister s t y ∧ t.fab.colls = s.fab.colls ∧
        collNth t (collOf s x).comm = collNth s (collOf s x).comm + 1 ∧
        EngineWrites s t x.fpa (collEndWrites 3 (s.collDetail (collOf s x)) 0) ∧
        ∀ b, s.units = [] → Outside [(x.addr, 8)] b → t.byteAt b = s.byteAt b) ∧
    ((collOf s x).gen = s.gen.toNat → s.collDetail (collOf s x) = 0 → s.removed = true →
      ∃ t, exec (.coll y a) s = .next t ∧ NoRegister s t y ∧ t.fab.colls = s.fab.colls ∧ EngineWrites s t x.fpa (collEndWrites 2 0 0)) ∧
    ∀ e, (collOf s x).gen = s.gen.toNat → s.collDetail (collOf s x) = 0 → s.removed = false →
      (descRead s x).enginePieces s.crew.core s.crew.ctx (collOf s x).src (collReads s (collOf s x)) .load = .error e →
      ∃ t, exec (.coll y a) s = .next t ∧ NoRegister s t y ∧ t.fab.colls = s.fab.colls ∧
        EngineWrites s t x.fpa (collEndWrites 3 6 (causeCode e))) ∧
  (∀ y a s x, Live s → s.descPage (s.getS a) = .ok (some x) → (NothingBefore s → s.homeOpen none x = true → 64 ≤ s.fab.colls.length) →
    Waits (.coll y a) s .other) ∧
  (∀ y a s c, Live s → s.descPage (s.getS a) = .error c → exec (.coll y a) s = .next (s.trap c (s.getS a))) ∧
  (∀ y d a s, Live s → s.wave.collEnd = none → (∀ c ∈ s.fab.colls, ¬ (c.ctx = s.crew.ctx ∧ c.descVa = s.getS a)) →
    (s.getS a + 0x20#64).toNat % 4 = 0 →
    QueuesAccess (.cwait y d a) s y (.ld d 4 false) [request 0 (s.getS a + 0x20#64) 0#64 0#32] false) ∧
  (∀ y d a s c, Live s → s.wave.collEnd = none → c ∈ s.fab.colls → c.ctx = s.crew.ctx → c.descVa = s.getS a →
    WaitsForEnd (.cwait y d a) s .cwait (s.getS a)) ∧
  (∀ y d a s v, Live s → s.wave.collEnd = some v → ScalarResult (.cwait y d a) s y d v 0#6) ∧
  (∀ y d a b s, Live s → s.configured (s.getS a).toNat = true → (s.getS b).toNat < 65536 →
    (s.gen.toNat + 65536 - (s.getS b).toNat) % 65536 < 32768 → s.genBank (s.getS a).toNat = some (s.curBank (s.getS a).toNat) →
    ScalarResult (.gfence y d a b) s y d (BitVec.ofNat 64 (s.bankCount (s.getS a).toNat (s.curBank (s.getS a).toNat) % 65536 * 2 ^ 32 +
      (s.myRank (s.getS a).toNat).getD 0xFFFF * 2 ^ 16 + s.gen.toNat)) 0#6) ∧
  (∀ y d a b s k, Live s → s.configured (s.getS a).toNat = true → (s.getS b).toNat < 65536 →
    (s.gen.toNat + 65536 - (s.getS b).toNat) % 65536 < 32768 → s.genBank (s.getS a).toNat = some k → k ≠ s.curBank (s.getS a).toNat →
    (∀ c ∈ s.fab.colls, c.comm ≠ (s.getS a).toNat) →
    ∃ t, exec (.gfence y d a b) s = .next t ∧ t.curBank (s.getS a).toNat = k ∧ Map.find (fun _ => 0) t.xch.nextRound (s.getS a).toNat = 0 ∧
      t.caps (s.getS a).toNat = none ∧
      WritesScalar s t d (BitVec.ofNat 64 (t.bankCount (s.getS a).toNat k % 65536 * 2 ^ 32 + (t.myRank (s.getS a).toNat).getD 0xFFFF * 2 ^ 16 +
        s.gen.toNat)) ∧
      VectorsKept s t ∧ t.wave.fflags = s.wave.fflags ∧ Completes s { t with regs := s.regs, xch := s.xch } y) ∧
  (∀ y d a b s, Live s → s.configured (s.getS a).toNat = true → (s.getS b).toNat < 65536 →
    (32768 ≤ (s.gen.toNat + 65536 - (s.getS b).toNat) % 65536 ∨ s.genBank (s.getS a).toNat = none) → Waits (.gfence y d a b) s .gfence) ∧
  (∀ y d a b s, Live s → s.configured (s.getS a).toNat = true →
    ScalarResult (.gread y d a b) s y d
      (if (s.getS b).toNat < s.bankCount (s.getS a).toNat (s.curBank (s.getS a).toNat)
        then BitVec.ofNat 64 (2 ^ 32 + (s.bankTag (s.getS a).toNat (s.curBank (s.getS a).toNat)).toNat * 2 ^ 16 +
          (s.bankDev (s.getS a).toNat (s.curBank (s.getS a).toNat) (s.getS b).toNat).toNat) else 0#64) 0#6) ∧
  (∀ y d a s, Live s → (s.getS a).toNat < 65536 →
    (s.hbPeers.contains (s.getS a).toNat = true →
      ScalarResult (.hbstat y d a) s y d (BitVec.ofNat 64 (min ((s.nanos - (s.peer (s.getS a).toNat).last) / 1000) (2 ^ 32 - 1) * 2 ^ 32 +
        (s.peer (s.getS a).toNat).lgen.toNat * 2 ^ 16 + min (s.peer (s.getS a).toNat).miss 255 * 256 +
        (if (s.peer (s.getS a).toNat).suspected then 2 else 1))) 0#6) ∧
    (s.hbPeers.contains (s.getS a).toNat = false → (s.peer (s.getS a).toNat).expelled = false →
      ScalarResult (.hbstat y d a) s y d (BitVec.ofNat 64 ((s.peer (s.getS a).toNat).lgen.toNat * 2 ^ 16)) 0#6)) ∧
  ∀ y d a b s, Live s →
    (s.configured (s.getS a).toNat = false →
      exec (.gread y d a b) s = .next (s.trap .operand 0#64) ∧ exec (.gfence y d a b) s = .next (s.trap .operand 0#64)) ∧
    (65536 ≤ (s.getS a).toNat → exec (.hbstat y d a) s = .next (s.trap .operand 0#64))

/-- R313 to R315, R325 to R328: `dpost` posts its demand, waits for both arbiters and returns the posted total; `xchg` starts an engine, or
waits for its round and reads STATUS; `xstop` cancels a round here and tells the arbiter. The model's own choices in it: early data, a
poisoned descriptor, and the arbiters (log entries 58, 59 and 60). -/
def Obligations.ExchangeWords : Prop :=
  (∀ y d a s r, Live s → postedBy s (s.getS a) = some r → r.ended = false → r.ackPrimary = true → r.ackStandby = true →
    ∃ t, exec (.dpost y d a) s = .next t ∧ WritesScalar s t d (BitVec.ofNat 64 r.entries.sum) ∧ VectorsKept s t ∧
      t.wave.fflags = s.wave.fflags ∧ (∀ q ∈ t.xch.rounds, q.id = r.id → q.posting = false) ∧ Completes s { t with xch := s.xch } y) ∧
  (∀ y d a s r, Live s → postedBy s (s.getS a) = some r → r.ended = true →
    ∃ t, exec (.dpost y d a) s = .next t ∧ WritesScalar s t d (BitVec.ofNat 64 r.entries.sum) ∧ VectorsKept s t ∧
      t.wave.fflags = s.wave.fflags ∧ (∀ q ∈ t.xch.rounds, q.id ≠ r.id) ∧ Completes s { t with xch := s.xch } y) ∧
  (∀ y d a s r, Live s → postedBy s (s.getS a) = some r → r.ended = false → (r.ackPrimary = false ∨ r.ackStandby = false) →
    Waits (.dpost y d a) s .other) ∧
  (∀ y d a s x es ps, Live s → postedBy s (s.getS a) = none → DescReady s (s.getS a) x → (xchgOf s x).gen = s.gen.toNat →
    (descRead s x).tableOpen (xchgOf s x).demand (8 * min (xchgOf s x).ndest 256) = true →
    (descRead s x).postCheck (xchgOf s x) = .ok (es, ps) → s.xch.acting = false →
    ∃ t r, exec (.dpost y d a) s = .next t ∧ t.wave.pc = s.wave.pc ∧ t.wave.block = some .other ∧ t.xch.rounds = s.xch.rounds ++ [r] ∧
      r.comm = (xchgOf s x).comm ∧ r.round = (xchgOf s x).round ∧ r.gen = s.gen ∧ r.descVa = s.getS a ∧ r.posting = true ∧ r.started = false ∧
      r.ended = false ∧ (s.caps (xchgOf s x).comm = none → r.entries = es) ∧ (r.ackPrimary = decide (s.arbiter = s.devid.toNat)) ∧
      (r.ackStandby = decide (s.standby = s.devid.toNat)) ∧
      Map.find (fun _ => 0) t.xch.nextRound r.comm = Map.find (fun _ => 0) s.xch.nextRound r.comm + 1 ∧ ScalarsKept s t) ∧
  (∀ y d a s x, Live s → postedBy s (s.getS a) = none → DescReady s (s.getS a) x → s.units = [] → (xchgOf s x).gen ≠ s.gen.toNat →
    DoneAtHome (.dpost y d a) s y d 0#64 [(x.addr, 8)] (fun t => EngineWrites s t x.fpa (roundEndWrites s 1 0 0) ∧ t.xch = s.xch)) ∧
  (∀ y d a s x e, Live s → postedBy s (s.getS a) = none → DescReady s (s.getS a) x → s.units = [] → (xchgOf s x).gen = s.gen.toNat →
    (descRead s x).tableOpen (xchgOf s x).demand (8 * min (xchgOf s x).ndest 256) = true → (descRead s x).postCheck (xchgOf s x) = .error e →
    DoneAtHome (.dpost y d a) s y d 0#64 [(x.addr, 8)] (fun t => EngineWrites s t x.fpa (roundEndWrites s 3 e.1 e.2) ∧ t.xch = s.xch)) ∧
  (∀ y d a b s x r sb rb, Live s → s.getS b = 0#64 → s.wave.collEnd = none → DescReady s (s.getS a) x →
    s.round? (xchgOf s x).comm (xchgOf s x).round = some r → MayStartRound (descRead s x) r sb rb →
    ∃ t q, exec (.xchg y d a b) s = .next t ∧ WritesScalar s t d 0#64 ∧ VectorsKept s t ∧ t.wave.fflags = s.wave.fflags ∧
      GoesOn s t y (s.wave.pc + 4#64) ∧ t.round? (xchgOf s x).comm (xchgOf s x).round = some q ∧ q.started = true ∧ q.id = r.id ∧
      q.descVa = s.getS a ∧ q.desc = x.fpa ∧ q.sends = sendsOf r.n sb ∧
      q.recvs.map (fun c => (c.addr, c.cap, c.got, c.ended)) =
        (List.range r.n).map (fun j => (tableWord rb 16 j 0 8, tableWord rb 16 j 8 4, 0, j == r.rank))) ∧
  (∀ y d a b s x r, Live s → s.getS b = 0#64 → s.wave.collEnd = none → DescReady s (s.getS a) x →
    s.round? (xchgOf s x).comm (xchgOf s x).round = some r → r.posting = false → r.started = true →
    DoneAtHome (.xchg y d a b) s y d 0#64 [(x.addr, 8)] (fun t => t.xch = s.xch)) ∧
  (∀ y d a b s x, Live s → s.getS b = 0#64 → s.wave.collEnd = none → DescReady s (s.getS a) x → s.units = [] →
    s.round? (xchgOf s x).comm (xchgOf s x).round = none → s.wasPosted (xchgOf s x).comm (xchgOf s x).round = false →
    DoneAtHome (.xchg y d a b) s y d 0#64 [(x.addr, 8)] (fun t => EngineWrites s t x.fpa (roundEndWrites s 3 5 0) ∧ t.xch = s.xch)) ∧
  (∀ y d a b s k, Live s → s.getS b = 2#64 → s.wave.collEnd = none → s.descPage (s.getS a) = .ok k → ¬ InFlight s (s.getS a) →
    QueuesAccess (.xchg y d a b) s y (.ld d 4 false) [request 0 (s.getS a + 0x24#64) 0#64 0#32] false) ∧
  (∀ y d a b s k, Live s → s.getS b = 2#64 → s.wave.collEnd = none → s.descPage (s.getS a) = .ok k → InFlight s (s.getS a) →
    WaitsForEnd (.xchg y d a b) s .xchg (s.getS a)) ∧
  (∀ y d a b s v, Live s → (s.getS b).toNat ≤ 2 → s.wave.collEnd = some v → ScalarResult (.xchg y d a b) s y d v 0#6) ∧
  (∀ y d a b s, Live s → 2 < (s.getS b).toNat → exec (.xchg y d a b) s = .next (s.trap .operand 0#64)) ∧
  (∀ y a s x, Live s → DescReady s (s.getS a) x → s.round? (xchgOf s x).comm (xchgOf s x).round = none →
    ∃ t, exec (.xstop y a) s = .next t ∧ NoRegister s t y ∧ t.xch = s.xch ∧ ∀ b, Outside [(x.addr, 8)] b → t.byteAt b = s.byteAt b) ∧
  (∀ y a s x r, Live s → DescReady s (s.getS a) x → s.round? (xchgOf s x).comm (xchgOf s x).round = some r → s.xch.acting = false →
    s.arbiter ≠ s.devid.toNat → s.route .control s.arbiter ≠ none →
    ∃ t, exec (.xstop y a) s = .next t ∧ NoRegister s t y ∧
      (∀ q ∈ t.xch.rounds, q.id = r.id → q.stopped = true ∧ ∀ z ∈ q.sends, z.len = z.sent ∧ z.marked = true) ∧
      (∃ n, t.fab.sent = s.fab.sent ++ [⟨s.arbiter, n, s.gen, .stop (xchgOf s x).comm (xchgOf s x).round, s.nanos, false⟩]) ∧
      ∀ b, Outside [(x.addr, 8)] b → t.byteAt b = s.byteAt b) ∧
  (∀ y a s x r, Live s → DescReady s (s.getS a) x → s.round? (xchgOf s x).comm (xchgOf s x).round = some r → s.xch.acting = true →
    (∀ q ∈ s.xch.rounds, q.comm = r.comm → q.round = r.round → q.id = r.id) →
    ∃ t, exec (.xstop y a) s = .next t ∧ NoRegister s t y ∧ (xchgOf s x).comm = r.comm ∧ t.round? r.comm r.round = none ∧
      (r.comm, r.round) ∈ t.xch.stops ∧ ∀ p ∈ t.xch.posts, ¬ (p.comm = r.comm ∧ p.round = r.round)) ∧
  ∀ y d a s c, Live s → s.descPage (s.getS a) = .error c →
    (postedBy s (s.getS a) = none → exec (.dpost y d a) s = .next (s.trap c (s.getS a))) ∧ exec (.xstop y a) s = .next (s.trap c (s.getS a))

/-! ## The machine: decoding, one step, memory, reset -/

namespace Sys2Proof.Stmt

/-- The wave in focus is about to issue: no tick of F is due, nothing is on the agenda, the wave waits for nothing, it can use this cycle's
opportunity, and its core takes it before its other waves (R282). -/
def AboutToIssue (s : State) : Prop :=
  s.tickDue = false ∧ s.agenda = [] ∧ s.wave.block = none ∧ s.canIssue = true ∧ s.chosen = true

/-- The wave has taken its opportunity: its core's record of the cycle and its pointer have moved, and nothing else (R282). -/
def Taken (s u : State) : Prop := { u with cores := s.cores } = s

/-- The wave has taken its opportunity, and A of the page's entry is set (R332): the wave, the crew and every other byte stand as they stood,
and where A was set already nothing else has changed. -/
def Fetched (s u : State) (x : Xl) : Prop :=
  u.wave = s.wave ∧ u.crew = s.crew ∧ u.ps = s.ps ∧ u.cycles = s.cycles ∧ u.readMem x.addr 8 = (s.readMem x.addr 8 ||| 0x800) ∧
    (∀ a, a < x.addr ∨ x.addr + 8 ≤ a → u.byteAt a = s.byteAt a) ∧ ((s.readMem x.addr 8).testBit 11 = true → Taken s u)

/-- Words written out bit by bit from the encodings of R43, R44 and R58 to R61: Y, OP, D, A, B, LA and LB. -/
noncomputable def writtenWords : List (Lane × Instr) :=
  [(0b1_00000010_1010101_0101010_0010011_00#32, .add true 85#7 42#7 19#7),
   (0b1_00000100_1010101_0101010_0101100_11#32, .addi true 85#7 42#7 179#9),
   (0b1_00100011_1010101_0110100_1101011_00#32, .set16 true 85#7 27052#16),
   (0b1_00110101_0001010_1101001_1010110_01#32, .jmp true 709465#23),
   (0b1_01000000_1010101_0101010_0010011_11#32, .vadd true 85#7 42#7 19#7 true true),
   (0b1_01100000_1010101_0101010_0010011_11#32, .vfadd true 85#7 42#7 19#7 true true),
   (0b1_10010111_1010101_0101010_0010011_01#32, .vld true 85#7 42#7 19#7 true),
   (0b1_10110101_1010101_0101010_0010011_00#32, .xcopy true 85#7 42#7 19#7),
   (0b1_11000000_1010101_0101010_0010011_00#32, .mma true 85#7 42#7 19#7),
   (0b1_11010000_1010101_0101010_0000000_00#32, .rgbeg true 85#7 42#7),
   (0b1_11011010_1010101_0101010_0010011_00#32, .qpop true 85#7 42#7 19#7),
   (0b1_11100000_0000000_0000000_0000000_01#32, .bar true 1#3),
   (0b1_11101000_0000000_0101010_0000000_00#32, .coll true 42#7),
   (0b1_11110000_1010101_0000000_1101011_00#32, .csrr true 85#7 428#9),
   (0b1_11110100_0000000_0101010_0010011_00#32, .eret true 42#7 19#7)]

/-- Words that are no instruction, with the check of R46 that each fails: the all-zero word, an opcode that the grid leaves free, a
reserved field that is set, and a last-use bit on a scalar. -/
def refusedWords : List (Lane × Reject) :=
  [(0#32, .reservedOpcode), (0b0_00000000_0000000_0000000_0000000_01#32, .reservedOpcode),
   (0b0_00000001_0000000_0000000_0000001_00#32, .reservedField), (0b0_00000010_0000001_0000010_0000011_10#32, .lastUse)]

end Sys2Proof.Stmt

/-- A step runs the decoded word: where the wave in focus is about to issue and its pc translates to clean memory, the step is `exec` of the
instruction that the four little-endian bytes at that address decode to (R43), in the state in which the wave has taken its opportunity
(R282) and the fetch has set A (R332). Bytes that are no instruction are the step ILLEGAL, and a pc that cannot be fetched is the step
FETCH_FAULT (R62). The model's own choices in it: that nothing on the agenda comes first, and the fetch from home memory (log entries 27,
29 and 82). -/
def Obligations.StepRunsDecodedWord : Prop :=
  ∀ (s : State), AboutToIssue s →
    (∀ (x : Xl) (w : Lane), s.xlateVa s.wave.pc .fetch false = .ok x → s.isPoisoned x.fpa = false →
      (∀ k, k < 4 → s.byteAt (x.fpa + k) = w.extractLsb' (8 * k) 8) →
      ∃ u, Fetched s u x ∧ (∀ i, decode w = .ok i → step s = exec i u) ∧ (∀ r, decode w = .error r → step s = exec (.illegal w) u)) ∧
    (∀ (x : Xl), s.xlateVa s.wave.pc .fetch false = .ok x → s.isPoisoned x.fpa = true →
      ∃ u, Fetched s u x ∧ step s = exec (.fetchFault .poison s.wave.pc) u) ∧
    (∀ c, s.xlateVa s.wave.pc .fetch false = .error c → ∃ u, Taken s u ∧ step s = exec (.fetchFault c s.wave.pc) u)

/-- Words written out from the spec's encodings decode to the instructions they stand for, and words that are none are refused by the check
of R46 that they fail. -/
def Obligations.WrittenWordsDecode : Prop :=
  (∀ e ∈ writtenWords, decode e.1 = .ok e.2 ∧ decodeTableWord 32 e.1.toNat = some e.2) ∧ ∀ e ∈ refusedWords, decode e.1 = .error e.2

/-- Decoding what was encoded gives the instruction back, for every well-formed instruction word and every value of its fields. -/
def Obligations.EncodeThenDecode : Prop :=
  ∀ (i : Instr) (w : Lane), i.wf = true → encode i = some w → decode w = .ok i

/-- Every word that decodes decodes to a well-formed instruction whose encoding is that word: no two words stand for one instruction, and no
bit of a word is dropped. -/
def Obligations.DecodeThenEncode : Prop :=
  ∀ (w : Lane) (i : Instr), decode w = .ok i → i.wf = true ∧ encode i = some w

/-- Memory keeps its canonical form over every step, whatever the step is. The model's own choices in it: that an unlisted byte reads 0 (log
entry 1). -/
def Obligations.EveryStepKeepsMemoryForm : Prop :=
  ∀ s t, Memory.wf s.mem = true → step s = .next t → Memory.wf t.mem = true

/-- What the spec states of the device right after reset (R28, R39, R329, R412 to R416): no word of a wave is under way, no context is
enabled, memory reads as zero, and the registers with a Reset column or a stated default hold it. The model's own choices in it: that memory
outside HBM reads 0, the empty place of a wave, the fields of PORTSPLIT, and LMRETN as shipped (log entries 1, 4, 6 and 61). -/
def Obligations.ResetLeavesTheStatedValues : Prop :=
  Memory.wf State.reset.mem = true ∧ (∀ a, State.reset.byteAt a = 0#8) ∧ (∀ c, State.reset.ctxEnabled c = false) ∧
    State.reset.wave.status = .absent ∧ State.reset.crews = [] ∧ State.reset.flows = [] ∧ State.reset.regions = [] ∧ State.reset.cmds = [] ∧
    State.reset.ps = 0 ∧ State.reset.floor = 0 ∧ State.reset.slow = false ∧ State.reset.lmretn = 160 ∧
    (∀ n, (State.reset.coreAt n).mchkn = 256#64 ∧ (State.reset.coreAt n).mmaCount = 0 ∧ (State.reset.coreAt n).spareRows = 0 ∧
      (State.reset.coreAt n).mops = []) ∧
    State.reset.lease = 10 ∧ State.reset.reg 0x10008 = 0x100010#64 ∧ State.reset.reg 0x120000 = 50#64 ∧ State.reset.reg 0 = 1#64 ∧
    ∀ c, c < 64 → State.reset.barto c = 2000 ∧ State.reset.wdtime c = 50000 ∧ State.reset.pedl c = 100 ∧
      (State.reset.ctxReg c 0x10).getLsbD 63 = true

/-- Memory is little-endian (R5): a value written at an address is read back from it, its byte `k` is bits 8k and up, and no other byte
changes. The model's own choices in it: the memory of hosts and peers as plain memory (log entries 1 and 25). -/
def Obligations.MemoryIsLittleEndian : Prop :=
  ∀ (s : State) (a n v : Nat), (s.writeMem a n v).readMem a n = v % 2 ^ (8 * n) ∧
    (∀ k, k < n → (s.writeMem a n v).byteAt (a + k) = BitVec.ofNat 8 (v / 2 ^ (8 * k))) ∧
    ∀ x, x < a ∨ a + n ≤ x → (s.writeMem a n v).byteAt x = s.byteAt x

/-! ## The steps that no word is: accesses at their homes -/

namespace Sys2Proof.Stmt

/-- The wave in focus stands in its place: the steps that name its crew and its index act on it. -/
def Present (s : State) : Prop := s.wave.status ≠ .absent

/-- Nobody holds a line of the span, and the packets of a confidential page have their key (R190, R195, R340). -/
def OpenHere (s : State) (x : Xl) (n : Nat) : Prop := s.keyed x = true ∧ ∀ l ∈ linesOf x.fpa n, s.lineFree none (128 * l) = true

/-- The access stands in the wave's queue, its turn has come, its lanes translate to memory, and their lines are open (R177, R185, R190, R349). -/
def AtItsHome (s : State) (a : Access) (xs : List Xl) : Prop :=
  Present s ∧ s.access? a.id = some a ∧ s.inTurn a = true ∧ a.lanes.map (a.xlate s) = xs.map .ok ∧
    (∀ x ∈ xs, fpaSpace x.fpa ≠ 2) ∧ ∀ x ∈ xs, OpenHere s x a.op.laneBytes

/-- No lane names a byte of the page-table entries that the access sets A or D in. -/
def EntriesApart (n : Nat) (xs : List Xl) : Prop := ∀ x ∈ xs, ∀ z ∈ xs, x.fpa + n ≤ z.addr ∨ z.addr + 8 ≤ x.fpa

/-- No two lanes name a common byte. -/
def LanesApart (n : Nat) (xs : List Xl) : Prop := xs.Pairwise (fun x z => x.fpa + n ≤ z.fpa ∨ z.fpa + n ≤ x.fpa)

/-- Memory stands outside the given spans. -/
def StandsOutside (s t : State) (spans : List (Nat × Nat)) : Prop :=
  ∀ b, (∀ p ∈ spans, b < p.1 ∨ p.1 + p.2 ≤ b) → t.byteAt b = s.byteAt b

/-- The lines of the lanes, and the clock of the wave at them: no less than its own, F, and its streaming accesses there (R179, R185). -/
def linesAt (n : Nat) (xs : List Xl) : List Nat := xs.flatMap (fun x => linesOf x.fpa n)
def clockAt (s : State) (n : Nat) (xs : List Xl) : Nat :=
  (linesAt n xs).foldl (fun p l => max p (Map.find (fun _ => 0) s.wave.seen l)) (max s.wave.pts s.floor)

/-- The timestamp that a store or atomic of the wave asks for (R181): no less than the clock of the wave and F, and past every lease, but for
the lines that its core holds exclusively. -/
def askedStamp (s : State) (n : Nat) (xs : List Xl) : Nat :=
  (linesAt n xs).foldl (fun w l => max w (if (s.line l).excl = some s.crew.core then (s.line l).rts else (s.line l).rts + 1)) (clockAt s n xs)

/-- The clock of a load (R180): no less than the wave's at its lines, and than the timestamp of each. -/
def loadStamp (s : State) (n : Nat) (xs : List Xl) : Nat := (linesAt n xs).foldl (fun p l => max p (s.line l).wts) (clockAt s n xs)

/-- No entry of the lanes' pages lies in a line of the lanes. -/
def EntriesElsewhere (n : Nat) (xs : List Xl) : Prop := ∀ x ∈ xs, ∀ z ∈ xs, ∀ l ∈ linesOf x.fpa n, l ≠ z.addr / 128 ∧ l ≠ (z.addr + 7) / 128

/-- The new value of an atomic of R204 and R205: `x` is the old value and `b` the operand. -/
def atomicValue (o : AtomOp) (x b : Word) : Word :=
  match o with
  | .add => x + b
  | .min => if b.toInt < x.toInt then b else x
  | .max => if x.toInt < b.toInt then b else x
  | .minn => if b.toNat < x.toNat then b else x
  | .maxn => if x.toNat < b.toNat then b else x
  | .and => x &&& b
  | .or => x ||| b
  | .xor => x ^^^ b
  | .xchg => b
  | .cas e => if x = e then b else x
  | .fadd => (BitVec.ofNat 32 (binary32.fadd .rne (x.setWidth 32).toNat (b.setWidth 32).toNat).1).setWidth 64

/-- Only registers of the wave and its list of accesses have changed; a wave that stood behind its remote loads goes on after the last (R254). -/
def LandsOnly (s t : State) (k : Nat) : Prop :=
  { t with wave := { t.wave with regs := s.wave.regs, vregs := s.wave.vregs, cb := s.wave.cb, accs := s.wave.accs, block := s.wave.block } } = s ∧
    t.wave.accs = s.wave.accs.filter (fun a => a.id != k) ∧
    (t.wave.block = s.wave.block ∨ (s.wave.block = some .remote ∧ t.wave.block = none))

/-- A cause that is not the word's own enters the handler (R345, R347): the wave has none before it and may enter at once. -/
def MayTake (s : State) : Prop := MayEnter s ∧ s.wave.ret = none

end Sys2Proof.Stmt

/-- R177, R180: at its home a load takes the bytes that stand there, or reports poison; a device register is read in its place. The model's own
choices in it: a peer's windows and registers, leases of another device's lines, when A is written, and copies read at the return (log entries 23,
24, 82, 95 and 111). -/
def Obligations.LoadSteps : Prop :=
  (∀ (s : State) (a : Access) xs, AtItsHome s a xs → a.phase = .queued → a.op.isLoad = true → EntriesApart a.op.laneBytes xs →
    (∀ x ∈ xs, s.anyPoison x.fpa a.op.laneBytes = false) →
    ∃ t, exec (.homeLoad s.crew.handle s.wave.idx a.id) s = .next t ∧ t.access? a.id = some { a with phase := .done (loadVals a.op
      ((a.lanes.zip xs).map (fun e => (e.1.lane, s.readBytes e.2.fpa a.op.laneBytes)))) } ∧ ScalarsKept s t ∧ VectorsKept s t ∧ t.poison = s.poison ∧
      StandsOutside s t (xs.map (fun x => (x.addr, 8))) ∧
      (a.stream = false → EntriesElsewhere a.op.laneBytes xs → t.wave.pts = loadStamp s a.op.laneBytes xs ∧
        ∀ l ∈ linesAt a.op.laneBytes xs, (s.line l).excl ≠ some s.crew.core →
          (t.line l).rts = max (max (s.line l).rts t.wave.pts) (s.floor + s.lease) ∧ (t.line l).excl = none)) ∧
  (∀ (s : State) (a : Access) xs e, AtItsHome s a xs → a.phase = .queued → a.op.isLoad = true → e ∈ a.lanes.zip xs →
    s.anyPoison e.2.fpa a.op.laneBytes = true → (∀ f ∈ a.lanes.zip xs, f.1.lane < e.1.lane → s.anyPoison f.2.fpa a.op.laneBytes = false) →
    a.lanes.Pairwise (fun l m => l.lane < m.lane) →
    ∃ t, exec (.homeLoad s.crew.handle s.wave.idx a.id) s = .next t ∧ t.access? a.id = some { a with phase := .data .poison e.1.lane } ∧
      StandsOutside s t (xs.map (fun x => (x.addr, 8)))) ∧
  (∀ (s : State) k d n signed v, Present s → (∃ a, s.access? k = some a ∧ a.op = .ld d n signed ∧ a.phase = .done [(0, v)]) →
    ∃ t, exec (.loadReturn s.crew.handle s.wave.idx k) s = .next t ∧
      WritesScalar s t d (if signed ∧ n = 4 then (v.setWidth 32).signExtend 64 else v) ∧ LandsOnly s t k ∧ VectorsKept s t ∧ t.wave.cb = s.wave.cb) ∧
  (∀ (s : State) k o d v l, Present s → (∃ a, s.access? k = some a ∧ a.op = .atomic o d ∧ a.phase = .done [(l, v)]) →
    ∃ t, exec (.loadReturn s.crew.handle s.wave.idx k) s = .next t ∧ WritesScalar s t d v ∧ LandsOnly s t k ∧ VectorsKept s t ∧
      t.wave.cb = s.wave.cb) ∧
  (∀ (s : State) k p vals, Present s → (vals.map (fun e : Nat × Word => e.1)).Nodup →
    (∃ a, s.access? k = some a ∧ (a.op = .vld p ∨ a.op = .vatomic false p ∨ a.op = .vatomic true p) ∧ a.phase = .done vals) →
    ∃ t, exec (.loadReturn s.crew.handle s.wave.idx k) s = .next t ∧ LandsOnly s t k ∧ ScalarsKept s t ∧ t.wave.cb = s.wave.cb ∧
      (∀ i (h : i < 96), (∀ e ∈ vals, e.1 = i → (t.wave.vreg p)[i] = e.2.setWidth 32) ∧
        ((∀ e ∈ vals, e.1 ≠ i) → (t.wave.vreg p)[i] = (s.wave.vreg p)[i])) ∧ ∀ q, q ≠ p → t.wave.vreg q = s.wave.vreg q) ∧
  (∀ (s : State) k n vals, Present s → (vals.map (fun e : Nat × Word => e.1)).Nodup →
    (∃ a, s.access? k = some a ∧ a.op = .cb n ∧ a.phase = .done vals) →
    ∃ t, exec (.loadReturn s.crew.handle s.wave.idx k) s = .next t ∧ LandsOnly s t k ∧ ScalarsKept s t ∧ VectorsKept s t ∧
      ∀ e ∈ vals, Map.find (fun _ => 0#16) t.wave.cb (16 * n + e.1) = e.2.setWidth 16) ∧
  (∀ (s : State) (a : Access) l x n, Present s → s.access? a.id = some a → s.inTurn a = true → a.phase = .queued → a.op.isLoad = true →
    a.op.laneBytes = n → a.lanes = [l] → a.xlate s l = .ok x → fpaSpace x.fpa = 2 → fpaDev x.fpa = s.devid.toNat →
    OpenHere s x n →
    ∃ t, exec (.homeLoad s.crew.handle s.wave.idx a.id) s = .next t ∧ t.access? a.id = some { a with phase := .done [(0, s.devRead (fpaOff x.fpa) n)] } ∧
      ScalarsKept s t ∧ StandsOutside s t [(x.addr, 8)]) ∧
  ∀ (s t : State) h i k, s.focus h i = some t → t.wave.status ≠ .absent → t.crew.handle = h → t.wave.idx = i →
    ∃ u, exec (.homeLoad h i k) t = .next u ∧ exec (.homeLoad h i k) s = .next ((u.focus s.crew.handle s.wave.idx).getD u)

/-- R181, R198, R204 to R206: a store or atomic asks for a timestamp past every lease, waits until F + LEASE reaches it, and then writes its bytes and
no others; an atomic returns the old value. The model's own choices in it: the order of streaming accesses, the poison of a sector that a word
covers, when D is written, and stores in place (log entries 33, 72, 111, 113 and 119). -/
def Obligations.StoreSteps : Prop :=
  (∀ (s : State) (a : Access) xs, AtItsHome s a xs → a.phase = .queued → (a.op.isStore = true ∨ a.op.isAtomic = true) →
    (∀ x ∈ xs, s.snapWaits x = false) →
    ∃ t, exec (.homeStore s.crew.handle s.wave.idx a.id) s = .next t ∧
      t = { s with wave := { s.wave with accs := s.wave.accs.map (fun b => if b.id = a.id then { a with phase := .asked (askedStamp s a.op.laneBytes xs) } else b) } }) ∧
  (∀ (s : State) (a : Access) xs, AtItsHome s a xs → a.phase = .queued → (a.op.isStore = true ∨ a.op.isAtomic = true) →
    (∃ x ∈ xs, s.snapWaits x = true) → s.wave.block = none →
    exec (.homeStore s.crew.handle s.wave.idx a.id) s = .next { s with wave := { s.wave with block := some .snap } }) ∧
  (∀ (s : State) (a : Access) xs w, AtItsHome s a xs → a.phase = .asked w → a.op.isStore = true → (∀ x ∈ xs, s.snapWaits x = false) →
    max w (askedStamp s a.op.laneBytes xs) ≤ s.floor + s.lease → EntriesApart a.op.laneBytes xs → LanesApart a.op.laneBytes xs →
    ∃ t, exec (.storePerform s.crew.handle s.wave.idx a.id) s = .next t ∧ t.wave.accs = s.wave.accs.filter (fun b => b.id != a.id) ∧
      (∀ e ∈ a.lanes.zip xs, t.readMem e.2.fpa a.op.laneBytes = e.1.data.toNat % 2 ^ (8 * a.op.laneBytes)) ∧
      StandsOutside s t (xs.flatMap (fun x => [(x.addr, 8), (x.fpa, a.op.laneBytes)])) ∧
      (∀ x ∈ xs, ∀ l ∈ linesOf x.fpa a.op.laneBytes, (t.line l).wts = max w (askedStamp s a.op.laneBytes xs) ∧ (t.line l).rts = (t.line l).wts) ∧
      t.wave.pts = (if a.stream then s.wave.pts else max s.wave.pts (max w (askedStamp s a.op.laneBytes xs))) ∧ ScalarsKept s t ∧ VectorsKept s t) ∧
  (∀ (s : State) (a : Access) xs w, AtItsHome s a xs → a.phase = .asked w → (a.op.isStore = true ∨ a.op.isAtomic = true) →
    (∀ x ∈ xs, s.snapWaits x = false) → s.floor + s.lease < max w (askedStamp s a.op.laneBytes xs) →
    exec (.storePerform s.crew.handle s.wave.idx a.id) s = .next s) ∧
  (∀ (s : State) (a : Access) l x w o d, AtItsHome s a [x] → a.phase = .asked w → a.op = .atomic o d → a.lanes = [l] → s.snapWaits x = false →
    max w (askedStamp s a.op.laneBytes [x]) ≤ s.floor + s.lease → EntriesApart a.op.laneBytes [x] → s.anyPoison x.fpa a.op.laneBytes = false →
    ∃ t, exec (.storePerform s.crew.handle s.wave.idx a.id) s = .next t ∧
      t.access? a.id = some { a with phase := .done [(l.lane, BitVec.ofNat 64 (s.readMem x.fpa a.op.laneBytes))] } ∧
      t.readMem x.fpa a.op.laneBytes = (atomicValue o (BitVec.ofNat 64 (s.readMem x.fpa a.op.laneBytes)) l.data).toNat % 2 ^ (8 * a.op.laneBytes) ∧
      StandsOutside s t [(x.addr, 8), (x.fpa, a.op.laneBytes)] ∧ ScalarsKept s t ∧ VectorsKept s t) ∧
  ∀ (s t : State) h i k, s.focus h i = some t → t.wave.status ≠ .absent → t.crew.handle = h → t.wave.idx = i →
    ∃ u, exec (.homeStore h i k) t = .next u ∧ exec (.homeStore h i k) s = .next ((u.focus s.crew.handle s.wave.idx).getD u)

/-- R62, R63, R48, R345 to R353: a word that is none, a fetch that faults, a load-class fault at its report point and a store fault each
take their cause with the entry registers of their class; a wave that has stopped enters its handler; a store of a crew that has ended, or that
drains for `ctkill`, makes no record (R360). The model's own choices in it: undefined destinations, the count of a skid, the faults of a handler's
stores, when a load fault stops its wave, and the drain of `ctkill` (log entries 9, 10, 47, 83, 86, 88, 89, 90 and 91). -/
def Obligations.FaultSteps : Prop :=
  (∀ (s : State) w, Live s → ¬ (vectorOp (opOf w) = true ∧ s.wave.maskEmpty = true) → exec (.illegal w) s = .next (s.trap .illegal 0#64)) ∧
  (∀ (s : State) w, Live s → vectorOp (opOf w) = true → s.wave.maskEmpty = true → OnlyGoesOn (.illegal w) s (w.getLsbD 31) (s.wave.pc + 4#64)) ∧
  (∀ (s : State) c va, MayEnter s → s.lookup (dieOf s.crew.core) s.crew.ctx va.toNat ≠ .table → c ≠ .halt →
    ∃ t, exec (.fetchFault c va) s = .next t ∧ EntersHandler s t c va va 0#64 0#64) ∧
  (∀ (s : State) st, CanEnter { s with wave := { s.wave with stop := none } } → s.wave.stop = some st → st.load = false →
    st.cause ≠ .halt → ∃ t, exec (.handlerEntry s.crew.handle s.wave.idx) s = .next t ∧ t.wave.inh = true ∧ t.wave.pc = s.wave.tvec ∧
      t.wave.tcause = BitVec.ofNat 64 (causeCode st.cause) ∧ t.wave.tpc = st.tpc ∧ t.wave.taddr = st.taddr ∧ t.wave.tskid = 0#64 ∧
      t.getS 112#7 = st.r112 ∧ t.getS 113#7 = st.r113 ∧ t.wave.stop = none ∧ ∀ r, r < 112#7 ∨ 119#7 < r → t.getS r = s.getS r) ∧
  (∀ (s : State) i c n e, CanEnter s → s.wave.halting = some (i, c, n) → s.ownFault = some e →
    ∃ t, exec (.handlerEntry s.crew.handle s.wave.idx) s = .next t ∧ t.wave.inh = true ∧ t.wave.pc = s.wave.tvec ∧
      t.wave.tcause = BitVec.ofNat 64 (causeCode e.2.1) ∧ t.wave.tpc = s.wave.pc ∧ t.wave.taddr = e.2.2.2.1 ∧ t.getS 112#7 = e.1.pc ∧
      t.wave.halting = none) ∧
  (∀ (s : State) i c n, MayEnter s → s.wave.halting = some (i, c, n) → n ≤ s.wave.issued →
    ∃ t, exec (.handlerEntry s.crew.handle s.wave.idx) s = .next t ∧ t.wave.inh = true ∧ t.wave.pc = s.wave.tvec ∧
      t.wave.tcause = 0x12#64 ∧ t.wave.tpc = s.wave.pc ∧ t.wave.taddr = 0#64 ∧ t.wave.tskid = BitVec.ofNat 64 (s.wave.issued - n) ∧
      t.getS 112#7 = BitVec.ofNat 64 (i + 256 * causeCode c) ∧ t.getS 113#7 = 0#64 ∧ t.wave.halting = none ∧
      ∀ r, r < 112#7 ∨ 119#7 < r → t.getS r = s.getS r) ∧
  (∀ (s : State) (a : Access) rest l c, CanEnter s → s.wave.ret = none → s.wave.accs = a :: rest → a.op.isLoad = true → a.phase = .queued → a.inh = false →
    s.transFault a = some (c, l) → c ≠ .stale → s.lookup (dieOf s.crew.core) s.crew.ctx l.va.toNat ≠ .table → s.runsOn = false →
    s.focusCrew.dying = false →
    (∀ b ∈ rest, b.inh = false ∧ a.id ≤ b.id ∧ b.left = true) → a.seq < s.wave.issued →
    ∃ t, exec (.loadFaultReport s.crew.handle s.wave.idx) s = .next t ∧ t.wave.inh = true ∧ t.wave.pc = s.wave.tvec ∧
      t.wave.tcause = BitVec.ofNat 64 (causeCode c) ∧ t.wave.tpc = s.wave.pc ∧ t.wave.taddr = l.va ∧ t.getS 112#7 = a.pc ∧
      t.getS 113#7 = BitVec.ofNat 64 ((match a.op with | .vld _ => l.lane | _ => 0) * 2 ^ 16 + min (s.wave.issued - a.seq - 1) 63 * 2 ^ 8 +
        (1 + rest.length)) ∧
      t.wave.accs = s.wave.accs.map (fun b => { b with phase := .held }) ∧ t.crew.state = .halted ∧ ∀ b, t.byteAt b = s.byteAt b) ∧
  (∀ (s : State) e, CanEnter s → s.ownFault = some e → s.focusCrew.dying = false → s.runsOn = true → exec (.loadFaultReport s.crew.handle s.wave.idx) s = .next s) ∧
  (∀ (s : State) (a : Access) l c x d n, MayTake s → s.access? a.id = some a → s.inTurn a = true → a.left = true → a.inh = false →
    a.op = .st 0 d n → a.lanes = [l] → a.xlate s l = .error c → s.discards = false → s.crew.sfr.length < 16 → c ≠ .stale →
    s.lookup (dieOf s.crew.core) s.crew.ctx l.va.toNat ≠ .table →
    x = (⟨l.va, a.pc, s.wave.idx, c, n, 0, a.stream, 0#32, BitVec.ofNat 96 (2 ^ l.lane), bytesLE n (l.data.toNat % 2 ^ (8 * n))⟩ : SfRec) →
    ∃ t, exec (.storeFaultRecord s.crew.handle s.wave.idx a.id) s = .next t ∧ t.crew.sfr = s.crew.sfr ++ [x] ∧
      t.wave.accs = s.wave.accs.filter (fun b => b.id != a.id) ∧ t.wave.inh = true ∧ t.wave.pc = s.wave.tvec ∧
      t.wave.tcause = BitVec.ofNat 64 (causeCode c) ∧ t.wave.tpc = s.wave.pc ∧ t.wave.taddr = l.va ∧ t.getS 112#7 = a.pc ∧
      t.getS 113#7 = BitVec.ofNat 64 (s.crew.sfr.length + 1) ∧ t.crew.state = .halted ∧ ∀ b, t.byteAt b = s.byteAt b) ∧
  (∀ (s : State) (a : Access) l c d n, Present s → s.access? a.id = some a → s.inTurn a = true → a.left = true →
    a.op = .st 0 d n → a.lanes = [l] → a.xlate s l = .error c → s.discards = true →
    ∃ t, exec (.storeFaultRecord s.crew.handle s.wave.idx a.id) s = .next t ∧ t.crew.sfr = s.crew.sfr ∧
      t.wave.accs = s.wave.accs.filter (fun b => b.id != a.id) ∧ t.wave.inh = s.wave.inh ∧ t.wave.pc = s.wave.pc ∧ t.wave.stop = s.wave.stop ∧
      t.crew.state = s.crew.state ∧ ∀ b, t.byteAt b = s.byteAt b) ∧
  ∀ (s : State) (a : Access), Present s → s.access? a.id = some a → s.lanesBad a = [] →
    exec (.storeFaultRecord s.crew.handle s.wave.idx a.id) s = .next s

/-! ## The steps of the matrix engine and the copy engine -/

namespace Sys2Proof.Stmt

/-- The operation `m` of accumulator `a` of a crew is in execution on a core, and none waits for a queue entry. -/
def Runs (s : State) (core h a : Nat) (kind : MKind) (m : MOp) : Prop :=
  h ≠ 0 ∧ s.crewAt h ≠ none ∧ (s.coreAt core).mop? h a (fun q => q.stage == .running && q.kind == kind) = some m ∧
    ∀ q ∈ (s.coreAt core).mops, q.stage ≠ .waiting

/-- The accumulator becomes `v`, and every other accumulator of the crew stands. -/
def AccBecomes (s t : State) (h a : Nat) (v : Acc) : Prop := t.accOf h a = v ∧ ∀ k, k ≠ a → t.accOf h k = s.accOf h k

/-- The operation has left the core, and no other has changed. -/
def Leaves (s t : State) (core : Nat) (m : MOp) : Prop := (t.coreAt core).mops = (s.coreAt core).mops.filter (fun q => q != m)

/-- No byte of memory has changed. -/
def MemoryKept (s t : State) : Prop := ∀ b, t.byteAt b = s.byteAt b

/-- A cause of an engine reaches the wave in focus at once (R351, class asynchronous). -/
def Reaches (s t : State) (c : Cause) (addr r112 r113 : Word) : Prop :=
  t.wave.tcause = BitVec.ofNat 64 (causeCode c) ∧ t.wave.tpc = s.wave.pc ∧ t.wave.taddr = addr ∧ t.wave.tskid = 0#64 ∧ t.wave.inh = true ∧
    t.wave.pc = s.wave.tvec ∧ t.getS 112#7 = r112 ∧ t.getS 113#7 = r113 ∧ t.getS 114#7 = s.wave.wake.1 ∧ t.getS 115#7 = s.wave.wake.2 ∧
    t.crew.state = .halted ∧ t.crew.others = s.crew.others.map (told s.wave.idx c) ∧ (∀ r, r < 112#7 ∨ 119#7 < r → t.getS r = s.getS r) ∧
    VectorsKept s t ∧ ∀ b, t.byteAt b = s.byteAt b

/-- The wave in focus is the issuing wave of an engine's operation, and a cause may enter its handler at once. -/
def Hears (s : State) (h i : Nat) : Prop := MayTake s ∧ s.crew.handle = h ∧ s.wave.idx = i ∧ h ≠ 0

/-- The block partials of an `mma` for one element (R143 to R145): `bA` and `bB` are the operand bytes. -/
def mmaElement (m : MOp) (bA bB : Nat → Byte) (lo hi r n : Nat) (c : Lane) : Lane :=
  ((List.range (hi - lo)).map (fun k => lo + k)).foldl (fun c b => addPartial c (partialOf m.args.ta.prec m.args.tb.prec
    (planesBlk m.args.ta.prec m.args.K m.args.L bA (fun k => bA (256 * m.args.ta.scl + k)) r b)
    (convBlock m.args.tb.prec ((List.range m.args.L).map (fun i => m.args.f.value m.cb
      (m.args.f.bitsAt (fun o => bB ((b * m.args.L + i) * m.args.tb.rowStride m.args.f + o)) n)))))) c

/-- Every operand byte of blocks `lo` to `hi` - 1 can be read, and these are the values that the engine reads: of a byte that a racing write
has changed since the issue, one that it has held (R143). -/
def OperandBytes (s : State) (core : Nat) (m : MOp) (lo hi : Nat) (bA bB : Nat → Byte) : Prop :=
  ∀ b, lo ≤ b → b < hi →
    (∀ k ∈ m.args.offsA b, s.operandByte core (s.ctxOf m.crew) m.since m.args.ta.rem (m.args.ta.base m.mrwin) k = .ok (bA k)) ∧
    ∀ k ∈ m.args.offsB b, s.operandByte core (s.ctxOf m.crew) m.since m.args.tb.rem (m.args.tb.base m.mrwin) k = .ok (bB k)

/-- The physical row that the mismatches of a check name (R157): two output rows of a column whose distance is the rotation name the one on
which both runs used it; a single row is judged by the third run, which agrees with the first run, with the second, or with neither. -/
def NamesRow (m : MOp) (third : Option Bool) (r : Nat) : Prop :=
  (∃ n, (n, r) ∈ m.bad ∧ (n, (r + 128 - m.rho) % 128) ∈ m.bad) ∨
    ∃ n q, m.bad = [(n, q)] ∧ ((third = some true ∧ r = (q + m.rho) % 128) ∨ (third = some false ∧ r = q))

/-- A tag takes a status at the end of its command: of the crew besides only the clocks rise that its waves keep for their engine's writes (R186). -/
def TagLands (s t : State) (n : Nat) (v : Tag) : Prop :=
  t.crew.tag n = v ∧ (∀ k, k ≠ n → t.crew.tag k = s.crew.tag k) ∧ { t.crew with tags := s.crew.tags, others := s.crew.others } = s.crew ∧
    t.crew.others.map (fun w => { w with engClock := 0 }) = s.crew.others.map (fun w => { w with engClock := 0 })

/-- The last word of a command is next: it is no overlapping copy, it fills no granules, and no region is open. -/
def LastWord (s : State) (c : Cmd) : Prop :=
  s.cmd? c.id = some c ∧ c.done + 1 = c.total ∧ (xcwOf c.xcw).fe = false ∧ c.overlaps = false ∧ s.regions = []

/-- The entry of the page lies in no line of the address. -/
def EntryElsewhere (x : Xl) : Prop := (x.fpa + 4 ≤ x.addr ∨ x.addr + 8 ≤ x.fpa) ∧ ∀ l ∈ linesOf x.addr 8, l ≠ x.fpa / 128

/-- A place holds a poisoned sector (R156). -/
def PlacePoisoned (t : State) (core : Nat) (p : Place) : Prop :=
  match p with | .mem fpa => t.isPoisoned fpa = true | .lm off => t.lmPoisonAt core off = true

end Sys2Proof.Stmt

/-- R145, R149, R151, R154, R161 to R163: how accumulator operations end. A complete `mma` has added its blocks in order and advances the
version; one that cannot read an operand stops at that block and is parked; `mzero` and `mld` replace the tile and clear SUSPECT; `mst`
stores its rows and gives up its lines; an `mld` that cannot read leaves the version vacant. The model's own choices in it: activations
within their bounds, old or new operand bytes, rows stored at the completion, corners of planes tiles, the partial of a marked block without
an infinity, and the zero that an infinity meets (log entries 15, 16, 34, 41, 94 and 99). -/
def Obligations.AccumulatorSteps : Prop :=
  (∀ (s : State) core h a m bA bB, Runs s core h a .mma m → OperandBytes s core m (s.accOf h a).prog (m.args.K / m.args.L) bA bB →
    ∃ t, exec (.mmaComplete core h a) s = .next t ∧
      (t.accOf h a).ver = (s.accOf h a).ver + 1#16 ∧ (t.accOf h a).prog = 0 ∧ (t.accOf h a).vacant = (s.accOf h a).vacant ∧
      (t.accOf h a).suspect = ((s.accOf h a).suspect && !(miwOf m.w0).zro) ∧ (∀ k, k ≠ a → t.accOf h k = s.accOf h k) ∧
      (∀ r n, r < 128 → n < 128 → tileAt (t.accOf h a).tile r n =
        mmaElement m bA bB (s.accOf h a).prog (m.args.K / m.args.L) r n
          (if (miwOf m.w0).zro && (s.accOf h a).prog == 0 then 0#32 else tileAt (s.accOf h a).tile r n)) ∧
      (m.args.ta.rem = false → m.args.tb.rem = false → MemoryKept s t) ∧
      (m.checked = false → Leaves s t core m) ∧
      (m.checked = true → (t.coreAt core).mops = (s.coreAt core).mops.map (fun q => if q = m then { m with stage := .checking } else q))) ∧
  (∀ (s : State) core h a m c role addr, Runs s core h a .mma m → Hears s h m.wave → (s.accOf h a).prog < m.args.K / m.args.L →
    s.crew.state ≠ .ended → s.blockFault core m (s.accOf h a).prog = some (some c, role, addr) → c ≠ .halt → c ≠ .stale →
    ∃ t, exec (.mmaSuspend core h a) s = .next t ∧ AccBecomes s t h a (s.accOf h a) ∧
      (t.coreAt core).mops = (s.coreAt core).mops.map (fun q =>
        if q.crew = h ∧ q.acc = a ∧ (q.stage = .running ∨ q.stage = .queued) then { q with stage := .parked } else q) ∧
      Reaches s t c (BitVec.ofNat 64 addr) (BitVec.ofNat 64 (role * 32 + a)) m.pc) ∧
  (∀ (s : State) core h a m, Runs s core h a .mzero m →
    ∃ t, exec (.mzeroComplete core h a) s = .next t ∧ Leaves s t core m ∧ MemoryKept s t ∧
      AccBecomes s t h a { s.accOf h a with tile := [], suspect := false, ver := (s.accOf h a).ver + 1#16, clock := max (s.accOf h a).clock m.pts }) ∧
  (∀ (s : State) core h a m (b : Nat → Nat → Byte), Runs s core h a .mld m → (∀ r k, r < 128 → k < 512 → s.mldByte core m r k = .ok (b r k)) →
    ∃ t, exec (.mldComplete core h a) s = .next t ∧ Leaves s t core m ∧ (t.accOf h a).ver = (s.accOf h a).ver + 1#16 ∧
      (t.accOf h a).suspect = false ∧ (∀ k, k ≠ a → t.accOf h k = s.accOf h k) ∧
      ((epwOf m.w1).dest = false → MemoryKept s t) ∧ ∀ r n, r < 128 → n < 128 → tileAt (t.accOf h a).tile r n = b r (4 * n + 3) ++ b r (4 * n + 2) ++ b r (4 * n + 1) ++ b r (4 * n)) ∧
  (∀ (s : State) core h a m c addr, Runs s core h a .mld m → Hears s h m.wave → s.mldFault core m = some (some c, addr) → c ≠ .halt → c ≠ .stale →
    ∃ t, exec (.mldDiscard core h a) s = .next t ∧ AccBecomes s t h a { s.accOf h a with vacant := true } ∧ m ∉ (t.coreAt core).mops.filter (fun q => q.stage == .running) ∧
      Reaches s t c (BitVec.ofNat 64 addr) (BitVec.ofNat 64 a) m.pc) ∧
  (∀ (s : State) core h a m, Runs s core h a .mst m → m.rows = 128 → (s.coreAt core).checkPending h a = false →
    ∃ t, exec (.mstComplete core h a) s = .next t ∧ Leaves s t core m ∧ MemoryKept s t ∧
      (∀ l, (t.line l).owner = some (.engine m.id) → l ∉ m.owned) ∧
      AccBecomes s t h a { s.accOf h a with ver := (s.accOf h a).ver + 1#16, clock := max (s.accOf h a).clock m.pts }) ∧
  (∀ (s : State) core h a m, Runs s core h a .mst m → m.rows = 0 → (epwOf m.w1).dest = false → (epwOf m.w1).okMst m.nf = true →
    m.w2.toNat + 128 * (epwOf m.w1).rowStride m.nf ≤ 2 ^ 23 → m.w2.toNat % 16 = 0 → lmGuard < s.lmretn → (s.coreAt core).checkPending h a = false →
    ∃ t, exec (.mstComplete core h a) s = .next t ∧ (t.accOf h a).ver = (s.accOf h a).ver + 1#16 ∧ (∀ b, t.byteAt b = s.byteAt b) ∧
      (∀ r k, r < 128 → k < (mstRow m (s.accOf h a).tile r).length →
        lmAt t (lmKey core (m.w2.toNat + r * (epwOf m.w1).rowStride m.nf) + k) = (mstRow m (s.accOf h a).tile r).getD k 0#8) ∧
      ((epwOf m.w1).ofmt = 0 → (epwOf m.w1).act = 0 → (epwOf m.w1).vecBytes = 0 → ∀ r, r < 128 →
        mstRow m (s.accOf h a).tile r = (List.range 128).flatMap (fun n => bytesLE 4 (tileAt (s.accOf h a).tile r n).toNat)))

/-- R148 to R150, R154 to R157, R168, R283: an operation whose tokens are granted takes its entry when it is due; the engine starts it; the
oldest request of a die is granted when the pool holds its cost, and a refill is due every microsecond; the first mismatch of a check makes
the accumulator SUSPECT, raises TINTEG and poisons what an `mst` has stored; the end of a check is counted, and a row that its mismatches
name takes a spare. The model's own choices in it: the capacity of a pool, the count of a replaced core, and where a mismatch lies (log
entries 20, 104 and 109). -/
def Obligations.MatrixQueueAndCheckSteps : Prop :=
  (∀ (s : State) m, Live s → s.wave.mreq = some (m, true) → (s.wave.block = some .version → s.heldAtWait = false) →
    (s.crew.acc m.acc).vacant = false → s.mstLines m = [] →
    (∀ q ∈ (s.coreAt s.crew.core).mops, q.stage ≠ .waiting ∧ ¬ (q.crew = m.crew ∧ q.acc = m.acc ∧ q.stage = .parked)) →
    (s.coreAt s.crew.core).entries < 8 →
    m.ver = (s.crew.acc m.acc).ver + BitVec.ofNat 16 ((s.coreAt s.crew.core).ahead m.crew m.acc) →
    ∃ t, exec (.matrixQueueEntry s.crew.handle s.wave.idx) s = .next t ∧ (t.coreAt s.crew.core).mops = (s.coreAt s.crew.core).mops ++ [{ m with stage := .queued }] ∧
      t.wave.mreq = none ∧ GoesOn s t m.yield (s.wave.pc + 4#64) ∧ ScalarsKept s t ∧ VectorsKept s t ∧ t.crew = s.crew ∧ ∀ b, t.byteAt b = s.byteAt b) ∧
  (∀ (s : State) m, Live s → s.wave.mreq = some (m, true) → (s.crew.acc m.acc).vacant = false →
    m.ver ≠ (s.crew.acc m.acc).ver + BitVec.ofNat 16 ((s.coreAt s.crew.core).ahead m.crew m.acc) →
    exec (.matrixQueueEntry s.crew.handle s.wave.idx) s = .next { s with wave := { s.wave with block := some .version } }) ∧
  (∀ (s : State) m, Live s → s.wave.mreq = some (m, true) → s.wave.block = some .version → s.heldAtWait = true →
    exec (.matrixQueueEntry s.crew.handle s.wave.idx) s = .next s) ∧
  (∀ (s : State) core m rest, (s.coreAt core).mops = m :: rest → m.stage = .queued → m ∉ rest → m.ver = (s.accOf m.crew m.acc).ver →
    (m.usesArray = true → (s.coreAt core).arrayAt ≤ s.ps) → (∀ q ∈ rest, q.stage = .queued ∨ q.stage = .parked) →
    ∃ t, exec (.matrixOpStart core) s = .next t ∧ (t.coreAt core).mops = { m with stage := .running } :: rest ∧
      { t with cores := s.cores } = s) ∧
  (∀ (s : State) core, (∀ q ∈ (s.coreAt core).mops, q.stage = .queued → q.ver ≠ (s.accOf q.crew q.acc).ver) →
    exec (.matrixOpStart core) s = .next s) ∧
  (∀ (s : State) die h i cost rest m, (s.dieAt die).requests = (h, i, cost) :: rest → cost ≤ (s.dieAt die).ptok → Live s →
    s.crew.handle = h → s.wave.idx = i → s.wave.mreq = some (m, false) →
    ∃ t, exec (.tokenGrant die) s = .next t ∧ (t.dieAt die).ptok = (s.dieAt die).ptok - cost ∧ (t.dieAt die).requests = rest ∧
      (t.wave.mreq = some (m, true) ∨ t.wave.mreq = none) ∧ ScalarsKept s t ∧ VectorsKept s t ∧ ∀ b, t.byteAt b = s.byteAt b) ∧
  (∀ (s : State) die h i cost rest, (s.dieAt die).requests = (h, i, cost) :: rest → (s.dieAt die).ptok < cost → exec (.tokenGrant die) s = .next s) ∧
  (∀ (s : State) die units, s.micros ≤ (s.dieAt die).refills → exec (.tokenRefill die units) s = .next s) ∧
  (∀ (s : State) die units, die < 8 → (s.dieAt die).refills < s.micros →
    ∃ t cap, exec (.tokenRefill die units) s = .next t ∧ 512 ≤ cap ∧ cap < 65536 ∧ (t.dieAt die).refills = (s.dieAt die).refills + 1 ∧
    (t.dieAt die).ptok = min ((s.dieAt die).ptok + if s.links.hot then 32 else max 32 units) cap ∧
    (t.dieAt die).requests = (s.dieAt die).requests ∧ { t with dies := s.dies } = s ∧ ∀ k, k ≠ die → t.dieAt k = s.dieAt k) ∧
  (∀ (s : State) core h a m, h ≠ 0 → (s.coreAt core).mop? h a (fun q => q.stage == .checking) = some m → m.bad = [] → Hears s h m.wave →
    ∃ t col row, exec (.checkMismatch core h a) s = .next t ∧ col < 128 ∧ row < 128 ∧ AccBecomes s t h a { s.accOf h a with suspect := true } ∧
      (t.coreAt core).mops = (s.coreAt core).mops.map (fun q => if q = m then { m with bad := [(col, row)] } else q) ∧
      (∀ q, (s.coreAt core).mop? h a (fun q => q.stage == .running && q.kind == .mst) = some q → ∀ p ∈ q.stored, PlacePoisoned t core p) ∧
      Reaches s t .tinteg 0#64 (BitVec.ofNat 64 a) m.pc) ∧
  (∀ (s : State) core h a m, (s.coreAt core).mop? h a (fun q => q.stage == .checking) = some m → m.bad ≠ [] →
    ∃ t col row, exec (.checkMismatch core h a) s = .next t ∧ col < 128 ∧ row < 128 ∧
      (t.coreAt core).mops = (s.coreAt core).mops.map (fun q => if q = m ∧ (col, row) ∉ m.bad then { m with bad := m.bad ++ [(col, row)] } else q) ∧
      { t with cores := s.cores, fresh := s.fresh } = s) ∧
  ∀ (s : State) core h a m third, (s.coreAt core).mop? h a (fun q => q.stage == .checking) = some m →
    (∀ q ∈ (s.coreAt core).mops, q.stage ≠ .waiting) →
    ∃ t, exec (.checkEnd core h a third) s = .next t ∧
      (m.bad = [] → Leaves s t core m ∧ (t.coreAt core).checks = ((s.coreAt core).checks + 1) % 2 ^ 32 ∧
        (t.coreAt core).mismatches = (s.coreAt core).mismatches ∧ (t.coreAt core).spareRows = (s.coreAt core).spareRows) ∧
      (m.bad ≠ [] → (∃ r, NamesRow m third r) → (s.coreAt core).spareRows < 2 → Leaves s t core m ∧
        (t.coreAt core).checks = ((s.coreAt core).checks + 1) % 2 ^ 32 ∧ (t.coreAt core).spareRows = (s.coreAt core).spareRows + 1 ∧
        (t.coreAt core).mismatches = min ((s.coreAt core).mismatches + 1) 65535 ∧
        (t.coreAt core).arrayAt = s.ps + (if s.slow then 2105263 else 2000000)) ∧
      (m.bad ≠ [] → (¬ ∃ r, NamesRow m third r) → Leaves s t core m ∧ core / 4 ∈ t.testDue ∧
        (∀ q, q ∈ t.testDue → q = core / 4 ∨ q ∈ s.testDue) ∧ (t.coreAt core).spareRows = (s.coreAt core).spareRows ∧
        (t.coreAt core).mismatches = min ((s.coreAt core).mismatches + 1) 65535) ∧
      (m.bad ≠ [] → (∃ r, NamesRow m third r) → 2 ≤ (s.coreAt core).spareRows → s.sparesUsed (dieOf core) < 2 →
        t.sparesUsed (dieOf core) = s.sparesUsed (dieOf core) + 1 ∧ (t.coreAt core).spareRows = 0 ∧ (t.coreAt core).mismatches = 0)

/-- R184, R189 to R192, R219, R221, R224, R226: a command writes its words where they belong and counts them; when the last has landed its tag is
DONE; at a fault it stops, and its tag is ERR with the cause and the offset it had reached; a line of a streaming copy takes its place apart from
its landing. The statements stand where no region is open, whose events R233 and R238 state apart. The model's own choices in it: the values of
undefined bytes, the value at which a source byte is read, poisoned lists, and the cause of xback (log entries 11, 16, 38, 44 and 96). -/
def Obligations.CopySteps : Prop :=
  (∀ (s : State) c src va x v, LastWord s c → c.kind ∈ [CmdKind.copy, .fill, .gath, .scat] →
    s.cmdSides c c.done = .ok (some (src, .mem va)) →
    (src = .value v ∨ ∃ off, src = .lm off ∧ s.cmdAlloc c off 4 = true ∧ s.lmExpired (lmLineOf c.core off) = false ∧
      s.lmPoisonAt c.core off = false ∧ s.lmPick c.since c.core off 4 = bytesLE 4 v.toNat) →
    s.translate (dieOf c.core) c.ctx va .store false = .ok x → s.snapWaits x = false → s.homeOpen (some c.owner) x = true →
    s.placeDue c.id (s.cmdPts c) (.mem x.fpa) 4 = true → EntryElsewhere x →
    ∃ t w, exec (.copyLineWrite c.id) s = .next t ∧ c.clock ≤ w ∧ ScalarsKept s t ∧ VectorsKept s t ∧
      ((xcwOf c.xcw).st = false → t.readMem x.fpa 4 = v.toNat ∧ StandsOutside s t [(x.addr, 8), (x.fpa, 4)] ∧
        t.cmd? c.id = some { c with done := c.total, clock := w }) ∧
      ((xcwOf c.xcw).st = true → StandsOutside s t [(x.addr, 8)] ∧
        t.cmd? c.id = some { c with done := c.total, pend := c.pend ++ [(.mem x.fpa, bytesLE 4 v.toNat, [])] })) ∧
  (∀ (s : State) c va off x, LastWord s c → c.kind ∈ [CmdKind.copy, .gath, .scat] →
    s.cmdSides c c.done = .ok (some (.mem va, .lm off)) → s.cmdAlloc c off 4 = true → off % 4 = 0 →
    s.translate (dieOf c.core) c.ctx va .load false = .ok x → s.homeOpen (some c.owner) x = true → s.isPoisoned x.fpa = false → EntryElsewhere x →
    ∃ t w p, exec (.copyLineWrite c.id) s = .next t ∧ t.lmRead c.core off 4 = s.memPick c.since x.fpa 4 ∧ StandsOutside s t [(x.addr, 8)] ∧
      (∀ key, (key < lmKey c.core off ∨ lmKey c.core off + 4 ≤ key) → s.lmExpired (key / 256) = false → lmAt t key = lmAt s key) ∧
      t.cmd? c.id = some { c with done := c.total, clock := w, pts := p } ∧ c.pts ≤ p ∧ ScalarsKept s t ∧ VectorsKept s t) ∧
  (∀ (s : State) c s1 w, s.cmd? c.id = some c → (c.kind = .pack ∨ c.kind = .unpack) → c.done < c.total → s.runPacked c = .ok (s1, w) →
    exec (.copyLineWrite c.id) s = .next (s1.updCmd c.id (fun k => { k with done := 1, clock := max k.clock w }))) ∧
  (∀ (s : State) c a bs rest, s.cmd? c.id = some c → c.total ≤ c.done → s.regions = [] → c.pend = (.mem a, bs, []) :: rest →
    s.placeFree c (.mem a) bs.length = true →
    ∃ t, exec (.copyLineWrite c.id) s = .next t ∧ t.readBytes a bs.length = bs ∧ StandsOutside s t [(a, bs.length)] ∧
      (c.tagged = true → rest = [] → t.cmds = s.cmds.filter (fun k => k.id != c.id)) ∧
      (c.tagged = false ∨ rest ≠ [] → ∃ w, c.clock ≤ w ∧ t.cmd? c.id = some { c with pend := rest, clock := w })) ∧
  (∀ (s : State) c, Live s → s.cmd? c.id = some c → c.total ≤ c.done → c.tagged = false → (xcwOf c.xcw).fe = false → c.crew = s.crew.handle →
    c.crew ≠ 0 →
    ∃ t, exec (.copyComplete c.id) s = .next t ∧ { t.wave with engClock := s.wave.engClock } = s.wave ∧ MemoryKept s t ∧
      TagLands s t (xcwOf c.xcw).tag (.done (if (xcwOf c.xcw).st then 0 else c.clock)) ∧
      (c.pend = [] → t.cmds = s.cmds.filter (fun k => k.id != c.id) ∧ (s.wave.idx = c.wave → t.wave.engClock = max s.wave.engClock c.clock)) ∧
      (c.pend ≠ [] → t.cmd? c.id = some { c with tagged := true }) ∧
      ((xcwOf c.xcw).st = false → (∀ l, (t.line l).owner = some (.engine c.id) → l ∉ c.owned) ∧ ∀ l, l ∉ c.owned → t.line l = s.line l) ∧
      ((xcwOf c.xcw).st = true → t.lines = s.lines)) ∧
  (∀ (s : State) c, s.cmd? c.id = some c → c.done < c.total ∨ c.tagged = true → exec (.copyComplete c.id) s = .next s) ∧
  (∀ (s : State) c e, s.cmd? c.id = some c → c.kind ∈ [CmdKind.copy, .fill, .gath, .scat, .back, .cbexp] → c.done < c.total →
    s.cmdFault c c.done = some e → c.crew = s.crew.handle → c.crew ≠ 0 → (s.spoil c).isSome = true →
    ∃ t, exec (.copyFault c.id) s = .next t ∧ t.cmds = s.cmds.filter (fun k => k.id != c.id) ∧
      TagLands s t (xcwOf c.xcw).tag (.err e (4 * c.done) (if (xcwOf c.xcw).st then 0 else c.clock)) ∧ ScalarsKept s t ∧ VectorsKept s t) ∧
  ∀ (s : State) c, s.cmd? c.id = some c → c.kind ∈ [CmdKind.copy, .fill, .gath, .scat, .back, .cbexp] → s.cmdFault c c.done = none →
    exec (.copyFault c.id) s = .next s

/-! ## The steps of regions, homes, clocks and of the host's set-up -/

namespace Sys2Proof.Stmt

/-- A mark with one of its bits set (R233). -/
def marked (m : WMark) (write : Bool) (at' : Nat) : WMark := if write then { m with dirty := true, dirtyAt := at' } else { m with read := true }

/-- A region that has committed and waits for its wave to close it (R235). -/
def committed (r : Region) : Region := { r with state := 4, status := 0, marks := [], reports := [], preds := [], pieces := [], binding := none }

/-- The words of the space 2 registers that act in no other way than by holding what is written: the offset and the bits that hold it. -/
def plainRegisters : List (Nat × Word) :=
  [(0x18, 0xFFFFFFFFFFFFF000#64), (0x20, 0xFFFFFFFFFFFFFFFF#64), (0x10010, 0x87FF#64), (0x10048, 0x87FF#64), (0x10100, 0x1FFFF#64),
   (0x10800, 0xFFFFFFFFFFFF0000#64), (0x10810, 0x3FFFFFF0000#64), (0x10818, 7#64), (0x20018, 0xFFFFFFFFFFFFFF80#64),
   (0x20020, 0xFFFFFFFFFFFFC000#64), (0x20030, 0xFFFFFFFFFFFF0000#64), (0x20040, 0xFFFF#64), (0x23F40, 0xFFFF#64)]

/-- The registers that clamp what is written: the offset, the least and the greatest value (R180, R285, R373). -/
def clampedRegisters : List (Nat × Nat × Nat) :=
  [(0x20048, 100, 10000000), (0x20050, 1000, 60000000), (0x20058, 10, 10000), (0x23F58, 10, 10000), (0x120000, 32, 10000)]

/-- Only the value of one device register has changed. -/
def OnlyRegister (s t : State) (off : Nat) (v : Word) : Prop :=
  t.reg off = v ∧ (∀ k, k ≠ off → t.reg k = s.reg k) ∧ { t with regs := s.regs } = s

end Sys2Proof.Stmt

/-- R232 to R236: a report of a region's bit sets it, and orders the region after a rival that had read the word and after one that had
written it, or before one that wrote it later; a waiting `rgbind` is tried again; a region whose wave waits in `rgend` commits its dirty
words once nothing stands before it; one that is open for more than 1 ms aborts with DURATION. -/
def Obligations.RegionSteps : Prop :=
  (∀ (s : State) r w wr rest m, s.regions = [r] → r.state = 1 → r.reports = (w, wr) :: rest → r.mark? w = some m →
    (if wr then m.dirty else m.read) = false →
    exec (.rgnBitReport r.id) s = .next { s with
      regions := [{ r with reports := rest, marks := r.marks.map (fun e => if e.1 = w then (w, marked m wr s.rgnSeq) else e) }], rgnSeq := s.rgnSeq + 1 }) ∧
  (∀ (s : State) q r w wr rest m n, s.regions = [q, r] → q.id < r.id → q.state = 1 → r.state = 1 → q.preds = [] → r.preds = [] → q.reports = [] →
    r.reports = (w, wr) :: rest → r.mark? w = some m → q.mark? w = some n → (if wr then m.dirty else m.read) = false →
    ∃ t, exec (.rgnBitReport r.id) s = .next t ∧
      (wr = true → n.read = true ∨ n.dirty = true → t.regions.map (fun x => (x.id, x.state, x.preds)) = [(q.id, 1, []), (r.id, 1, [(q.id, false)])]) ∧
      (wr = false → n.dirty = true → m.boundAt < n.dirtyAt → t.regions.map (fun x => (x.id, x.state, x.preds)) = [(q.id, 1, [(r.id, false)]), (r.id, 1, [])]) ∧
      (n.read = false → n.dirty = false → t.regions.map (fun x => (x.id, x.state, x.preds)) = [(q.id, 1, []), (r.id, 1, [])])) ∧
  (∀ (s u : State) y d a b k, Live s → s.wave.block = some (.rgbind k) → decode s.wordAtPc = .ok (.rgbind y d a b) → exec (.rgbind y d a b) s = .next u →
    u.crew.handle = s.crew.handle → u.wave.idx = s.wave.idx → u.wave.status ≠ .absent → exec (.rgnBindResume s.crew.handle s.wave.idx) s = .next u) ∧
  (∀ (s : State) r y d a b k, Live s → s.wave.block = some (.rgbind k) → decode s.wordAtPc = .ok (.rgbind y d a b) → s.openRegion = some r → r.state ≠ 1 →
    ∃ t, exec (.rgnBindResume s.crew.handle s.wave.idx) s = .next t ∧ NoRegister s t y) ∧
  (∀ (s : State) r, s.region? r.id = some r → Live s → r.crew = s.crew.handle → s.crew.handle ≠ 0 → r.wave = s.wave.idx → s.wave.block = some .rgend →
    CommitsNow s r →
    ∃ t, exec (.rgnCommit r.id) s = .next t ∧ t.region? r.id = some (committed r) ∧
      (∀ e ∈ r.dirtyWords, t.readBytes (4 * e.1) 4 = (commitTouched s r).lmRead r.core e.2 4) ∧
      (∀ e ∈ r.dirtyWords, (t.line (lineOf (4 * e.1))).wts = t.rgnClock) ∧ t.rgnClock = s.commitStamp r ∧ s.rgnClock < t.rgnClock ∧ s.floor ≤ t.rgnClock ∧
      (∀ x, Outside (r.dirtyWords.map (fun e => (4 * e.1, 4))) x → t.byteAt x = (commitTouched s r).byteAt x) ∧ t.wave = s.wave) ∧
  (∀ (s : State) r, s.region? r.id = some r → r.state = 1 → 1000000 < s.nanos - r.since →
    ∃ t q, exec (.rgnDuration r.id) s = .next t ∧ t.region? r.id = some q ∧ q.state = 2 ∧ q.status = 6 ∧ q.reports = [] ∧
      (∀ e ∈ q.marks, e.2.read = false ∧ e.2.dirty = false) ∧ { t with regions := s.regions } = s) ∧
  ∀ (s : State) r, s.region? r.id = some r → (r.state ≠ 1 ∨ s.nanos - r.since ≤ 1000000) → exec (.rgnDuration r.id) s = .next s

namespace Sys2Proof.Stmt

/-- F one tick on (R179). -/
def ticked (s : State) : State := { s with floor := s.floor + 1, tickAt := s.tickAt + 320000 }

/-- Nobody holds a line, and no request waits at this home. -/
def NothingHeld (s : State) : Prop := (∀ e ∈ s.lines, e.2.owner = none) ∧ s.memb.held = []

/-- The device's caches give a line up: their copies go, and no core holds it exclusively (R181). -/
def GivenUp (s t : State) (line : Nat) : Prop :=
  { t with copies := s.copies, lines := s.lines } = s ∧ t.line line = { s.line line with excl := none } ∧ (∀ k, k ≠ line → t.line k = s.line k) ∧
    ∀ c ∈ s.copies, (c.1 % 2 ^ 51 = line → c ∉ t.copies) ∧ (c.1 % 2 ^ 51 ≠ line → c ∈ t.copies)

/-- Only the owner of a line has changed. -/
def OwnerIs (s t : State) (line : Nat) (o : Option Owner) : Prop :=
  t.line line = { s.line line with owner := o } ∧ (∀ k, k ≠ line → t.line k = s.line k) ∧ { t with lines := s.lines } = s

/-- A request takes its place in line at this home. -/
def holding (s : State) (w : Waiting) : State := { s with memb := { s.memb with held := s.memb.held ++ [w] } }

/-- The host has read a span: its bytes and their mark go over the link, the lines are leased, and the link's clock has passed what was read
(R180). -/
def HostHasRead (s t : State) (addr a n : Nat) : Prop :=
  t.mem = s.mem ∧ t.events = s.events ++ [.hostData addr (s.readBytes a n) (s.anyPoison a n)] ∧ t.wave = s.wave ∧ s.linkPts ≤ t.linkPts ∧
    ∀ l ∈ linesOf a n, s.floor + s.lease ≤ (t.line l).rts ∧ (s.line l).wts ≤ t.linkPts

/-- The host has written a span at the timestamp that its home granted (R181, R365). -/
def HostHasWritten (s t : State) (a : Nat) (data : List Byte) (p : Bool) : Prop :=
  t.readBytes a data.length = data ∧ StandsOutside s t [(a, data.length)] ∧ t.linkPts = s.storeStamp s.linkPts a data.length ∧
    (p = true → ∀ x ∈ sectors a data.length, t.isPoisoned x = true) ∧ t.wave = s.wave

/-- The host has taken a line into its caches (R194, R195). -/
def HostHasTaken (s t : State) (a : Nat) : Prop :=
  (t.line (lineOf a)).owner = some .host ∧ t.mem = s.mem ∧ t.linkPts = s.storeStamp s.linkPts a 128 ∧ { t with lines := s.lines, linkPts := s.linkPts } = s

end Sys2Proof.Stmt

/-- R179, R181, R190, R194, R195, R210, R214, R331 to R335, R338, R344, R365: F advances tick by tick, and with it perform the engines' writes that
wait for it; expired lines are marked and held lines stamped; a recalled line goes unless an engine owns it, and a device that holds it is asked
for it; the host gives a line up to the access that has caused it; a walk is kept and sets A and D; a host access is checked against the aperture,
reads or writes this device's HBM or host memory, and waits for engines, leases and views; a view is released, and what waited for it performs.
The model's own choices in it: translations that are kept, the management window, copies that go, events that cannot happen, poisoned register
writes, ticks, and when homes tend their lines (log entries 49, 75, 78, 79, 80, 84, 107, 111, 115 and 118). -/
def Obligations.HomeAndClockSteps : Prop :=
  (∀ s : State, NothingHeld s → s.units = [] → exec .floorTick s = .next (ticked s)) ∧
  (∀ (s : State) a snap off pts bs, NothingHeld s → s.units = [⟨a, snap, .put off pts bs⟩] →
    ((ticked s).unitDue ⟨a, snap, .put off pts bs⟩ = true →
      ∃ t, exec .floorTick s = .next t ∧ t.readBytes (a + off) bs.length = bs ∧ StandsOutside s t [(a + off, bs.length)] ∧ t.units = [] ∧
        t.floor = s.floor + 1 ∧ t.wave = s.wave) ∧
    ((ticked s).unitDue ⟨a, snap, .put off pts bs⟩ = false → exec .floorTick s = .next (ticked s))) ∧
  (∀ (s : State) core line, core < 256 → line < 32768 →
    (s.lmExpired (core * 32768 + line) = true → ∃ t, exec (.lmLineExpire core line) s = .next t ∧ { t with lmMark := s.lmMark } = s ∧
      Map.find noPoison t.lmMark (core * 32768 + line) = true ∧
      ∀ k, t.lmExpired k = s.lmExpired k ∧ (k ≠ core * 32768 + line → Map.find noPoison t.lmMark k = Map.find noPoison s.lmMark k)) ∧
    (s.lmExpired (core * 32768 + line) = false → exec (.lmLineExpire core line) s = .next s)) ∧
  (∀ (s : State) core line, core < 256 → line < 32768 →
    (s.heldLine (core * 32768 + line) = true → ∃ t, exec (.heldLineRenewal core line) s = .next t ∧ { t with lmMark := s.lmMark, lmStamp := s.lmStamp } = s ∧
      t.lmStampOf (core * 32768 + line) = s.micros ∧ Map.find noPoison t.lmMark (core * 32768 + line) = false ∧
      ∀ k, k ≠ core * 32768 + line → t.lmStampOf k = s.lmStampOf k ∧ Map.find noPoison t.lmMark k = Map.find noPoison s.lmMark k) ∧
    (s.heldLine (core * 32768 + line) = false → exec (.heldLineRenewal core line) s = .next s)) ∧
  (∀ (s : State) line e, e ∈ [Instr.recall line, .backInvalidation line] →
    ((s.line line).owner = none → ∃ t, exec e s = .next t ∧ GivenUp s t line) ∧ ∀ c, (s.line line).owner = some (.engine c) → exec e s = .next s) ∧
  (∀ (s : State) line d, (s.line line).owner = some (.peer d) → ∃ t, exec (.recall line) s = .next t ∧ t.fab.out = s.fab.out ++ [.recall d line] ∧
    OwnerIs s { t with fab := s.fab } line (some (.recalled d))) ∧
  (∀ (s : State) line, (s.line line).owner = some .host → s.memb.held = [] →
    ∃ t, exec (.backInvalidation line) s = .next t ∧ OwnerIs s t line none) ∧
  (∀ (s : State) line c w k, (s.line line).owner = some (.hostBack c w k) →
    (s.accessAt c w k = true → ∃ t, exec (.backInvalidation line) s = .next t ∧ OwnerIs s t line (some (.granted c w k))) ∧
    (s.accessAt c w k = false → s.memb.held = [] → ∃ t, exec (.backInvalidation line) s = .next t ∧ OwnerIs s t line none)) ∧
  (∀ (s : State) die ctx va write l, ctx < 64 → die < 8 → s.ctxEnabled ctx = true →
    (∀ e ∈ s.tlb, ¬ (e.die = die ∧ e.ctx = ctx ∧ va / 2 ^ e.bits = e.page)) → s.walk ctx va = .leaf l →
    ∃ t, exec (.pageWalk die ctx va write) s = .next t ∧ t.tlb = s.tlb ++ [⟨die, ctx, va / 2 ^ l.bits, l.bits, l.pte, l.addr⟩] ∧
      t.wave = s.wave ∧ t.crew = s.crew ∧ StandsOutside s t [(l.addr, 8)] ∧
      (s.walkAccess die ctx va write = none → { t with tlb := s.tlb } = s) ∧
      ∀ x, s.walkAccess die ctx va write = some x →
        t.readMem l.addr 8 = (s.readMem l.addr 8 ||| (if write then 0x1800 else 0x800)) ∧
        (s.readMem l.addr 8 = (s.readMem l.addr 8 ||| (if write then 0x1800 else 0x800)) → { t with tlb := s.tlb } = s)) ∧
  (∀ (s : State) die ctx va write, ctx < 64 → die < 8 → s.ctxEnabled ctx = true →
    (∀ e ∈ s.tlb, ¬ (e.die = die ∧ e.ctx = ctx ∧ va / 2 ^ e.bits = e.page)) → s.walk ctx va = .table →
    exec (.pageWalk die ctx va write) s = .next { s with events := s.events ++ [.tableFault ctx (BitVec.ofNat 64 va)] }) ∧
  (∀ (s : State) die ctx va write, (s.walk ctx va = .fail ∨ s.ctxEnabled ctx = false) → exec (.pageWalk die ctx va write) s = .next s) ∧
  (∀ (s : State) addr n, s.hostTarget addr n false = none →
    exec (.hostAccess (.read addr n)) s = .next { s with events := s.events ++ [.hostRefused addr] }) ∧
  (∀ (s : State) addr data p, s.hostTarget addr data.length true = none →
    exec (.hostAccess (.write addr data p)) s = .next { s with events := s.events ++ [.hostRefused addr] }) ∧
  (∀ (s : State) addr n off, s.hostTarget addr n false = some (0, off) →
    (s.openTo .host (s.hbm off) n = true → ∃ t, exec (.hostAccess (.read addr n)) s = .next t ∧ HostHasRead s t addr (s.hbm off) n) ∧
    (s.openTo .host (s.hbm off) n = false → exec (.hostAccess (.read addr n)) s = .next (holding s (.hostMem (.read addr n))))) ∧
  (∀ (s : State) addr data p off, s.hostTarget addr data.length true = some (0, off) →
    (s.hostDue (s.hbm off) data.length = true → s.standsBehind (.host (s.hbm off) data p) s.memb.held = false →
      ∃ t, exec (.hostAccess (.write addr data p)) s = .next t ∧ HostHasWritten s t (s.hbm off) data p) ∧
    (s.hostDue (s.hbm off) data.length = false ∨ s.standsBehind (.host (s.hbm off) data p) s.memb.held = true →
      exec (.hostAccess (.write addr data p)) s = .next (holding s (.host (s.hbm off) data p)))) ∧
  (∀ (s : State) addr off, s.hostTarget (addr / 128 * 128) 128 true = some (0, off) → s.hostDue (s.hbm (off / 128 * 128)) 128 = true →
    ∃ t, exec (.hostAccess (.take addr)) s = .next t ∧ HostHasTaken s t (s.hbm (off / 128 * 128))) ∧
  (∀ (s : State) off n, s.openTo .host (s.hostAddr off) n = true →
    ∃ t, exec (.hostAccess (.ownRead off n)) s = .next t ∧ HostHasRead s t off (s.hostAddr off) n) ∧
  (∀ (s : State) off data, s.hostDue (s.hostAddr off) data.length = true → s.standsBehind (.hostMem (.ownWrite off data)) s.memb.held = false →
    ∃ t, exec (.hostAccess (.ownWrite off data)) s = .next t ∧ HostHasWritten s t (s.hostAddr off) data false) ∧
  (∀ (s : State) off, s.hostDue (s.hostAddr (off / 128 * 128)) 128 = true → s.standsBehind (.hostMem (.ownTake off)) s.memb.held = false →
    ∃ t, exec (.hostAccess (.ownTake off)) s = .next t ∧ HostHasTaken s t (s.hostAddr (off / 128 * 128))) ∧
  (∀ (s : State) addr n off, s.hostTarget addr n false = some (2, off) → regAligned off n = true →
    exec (.hostAccess (.read addr n)) s = .next { s with events := s.events ++ [.hostData addr (bytesLE n (s.devRead off n).toNat) false] }) ∧
  (∀ (s : State) spare, s.memb.held = [] → ∃ t, exec (.viewRelease spare) s = .next t ∧ t.views = s.views.filter (fun v => v.spare != spare) ∧
    t.memb.toOpen = s.memb.toOpen.filter (fun v => v.spare != spare) ∧ { t with views := s.views, memb := s.memb } = s) ∧
  ∀ (s : State) spare a data p, s.memb.held = [.host a data p] → { s with views := s.views.filter (fun v => v.spare != spare) }.hostDue a data.length = true →
    ∃ t, exec (.viewRelease spare) s = .next t ∧ t.views = s.views.filter (fun v => v.spare != spare) ∧ t.memb.held = [] ∧
      HostHasWritten s t a data p

/-- R257, R297, R330, R334, R412 to R417: the host creates and terminates contexts, invalidates translations, frees diagnostic slots, configures
communicators and writes registers. The model's own choices in it: bits that a write drops, clamped values, and the order of a termination and
what it clears (log entries 76, 77, 79, 92 and 120). -/
def Obligations.HostSetUpSteps : Prop :=
  (∀ (s : State) ctx v, s.ready = true → ctx < 64 → s.ctxEnabled ctx = false → v.getLsbD 0 = true →
    ∃ t, exec (.contextCreate ctx v) s = .next t ∧ t.ctxReg ctx 0 = v &&& 0x03FFFFFFFFFF0001#64 ∧ t.ctxEnabled ctx = true ∧
      t.wdAge ctx = 0 ∧ { t with regs := s.regs, wd := s.wd, wdStall := s.wdStall } = s) ∧
  (∀ (s : State) ctx v, (s.ready = false ∨ 64 ≤ ctx ∨ s.ctxEnabled ctx = true ∨ v.getLsbD 0 = false) → exec (.contextCreate ctx v) s = .next s) ∧
  (∀ (s : State) ctx, ctx < 64 → s.ctxEnabled ctx = true →
    ∃ t, exec (.contextTerminate ctx) s = .next t ∧ t.ctxReg ctx 0 = 0#64 ∧ t.ctxReg ctx 0x20 = 0#64 ∧ t.ctxReg ctx 0x28 = 0#64 ∧
      Map.find (fun _ => 0) t.diagNext ctx = 0 ∧ (∀ e ∈ t.tlb, e.ctx ≠ ctx) ∧ (∀ p ∈ t.pins, p.2 ≠ ctx) ∧ (∀ f ∈ t.flows, f.ctx ≠ ctx) ∧ (∀ e ∈ s.tlb, e.ctx ≠ ctx → e ∈ t.tlb) ∧
      (Live s → s.crew.ctx = ctx → s.crew.handle ≠ 0 → s.crew.state ≠ .ended → s.crews = [] →
        t.crew.state = .ended ∧ t.wave.status ≠ .live ∧ ∀ w ∈ t.crew.others, w.status ≠ .live)) ∧
  (∀ (s : State) ctx, (64 ≤ ctx ∨ s.ctxEnabled ctx = false) → exec (.contextTerminate ctx) s = .next s) ∧
  (∀ (s : State) ctx v, ctx < 64 → (s.ctxReg ctx 0x10).getLsbD 63 = true → s.regions = [] →
    ∃ t, exec (.invalidate ctx v) s = .next t ∧ t.ctxReg ctx 0x10 = v &&& 0x400000FFFFFFFFFF#64 ∧ (t.ctxReg ctx 0x10).getLsbD 63 = false ∧
      (∀ e, e ∈ t.tlb ↔ e ∈ s.tlb ∧ ¬ (e.ctx = ctx ∧ (v.getLsbD 62 = true ∨
        (e.page * 2 ^ e.bits < (s.ctxReg ctx 0x08).toNat + 65536 * (v.toNat % 2 ^ 40) ∧ (s.ctxReg ctx 0x08).toNat < (e.page + 1) * 2 ^ e.bits)))) ∧
      { t with regs := s.regs, tlb := s.tlb } = s) ∧
  (∀ (s : State) ctx v r p, ctx < 64 → (s.ctxReg ctx 0x10).getLsbD 63 = true → s.regions = [r] → r.state = 1 → r.ctx = ctx → p ∈ r.pieces →
    (v.getLsbD 62 = true ∨ (p.va / 65536 * 65536 < (s.ctxReg ctx 0x08).toNat + 65536 * (v.toNat % 2 ^ 40) ∧
      (s.ctxReg ctx 0x08).toNat < (p.va / 65536 + 1) * 65536)) →
    ∃ t q, exec (.invalidate ctx v) s = .next t ∧ t.region? r.id = some q ∧ q.state = 2 ∧ q.status = 4) ∧
  (∀ (s : State) ctx v, (s.ctxReg ctx 0x10).getLsbD 63 = false → exec (.invalidate ctx v) s = .next s) ∧
  (∀ (s : State) ctx, ctx < 64 → (s.ctxReg ctx 0x10).getLsbD 63 = false → s.translatedLeft ctx = false →
    ∃ t, exec (.invalidateDone ctx) s = .next t ∧ OnlyRegister s t (ctxOff ctx 0x10) (s.ctxReg ctx 0x10 ||| 0x8000000000000000#64)) ∧
  (∀ (s : State) ctx, s.translatedLeft ctx = true → exec (.invalidateDone ctx) s = .next s) ∧
  (∀ (s : State) ctx m, ctx < 64 → ∃ t, exec (.diagoccFree ctx m) s = .next t ∧ OnlyRegister s t (ctxOff ctx 0x28) (s.ctxReg ctx 0x28 &&& ~~~m)) ∧
  (∀ (s : State) c v, c < 64 → (s.commCfg c).getLsbD 63 = false → v.getLsbD 63 = true →
    ∃ t, exec (.commConfigure c v) s = .next t ∧ t.commCfg c = v &&& 0x800000000001FFFF#64 ∧ t.curBank c = 0 ∧ t.bankTag c 0 = s.gen ∧
      t.bankValid c 0 = true ∧ Map.find (fun _ => 0) t.xch.nextRound c = 0 ∧ (∀ e ∈ t.xch.overs, e.1 ≠ c) ∧ (∀ e ∈ t.xch.stops, e.1 ≠ c) ∧
      t.bankCount c 0 = (((List.range (v.toNat % 2 ^ 17)).map (s.slotDev c)).filter (fun d => d != 0xFFFF#16)).length) ∧
  (∀ (s : State) c v, c < 64 → ((s.commCfg c).getLsbD 63 = true ∨ v.getLsbD 63 = false) →
    ∃ t, exec (.commConfigure c v) s = .next t ∧ OnlyRegister s t (0x140000 + 0x40 * c) (v &&& 0x800000000001FFFF#64)) ∧
  (∀ e ∈ plainRegisters, ∀ (s : State) v,
    (∃ t, exec (.registerWrite e.1 8 v) s = .next t ∧ OnlyRegister s t e.1 (v &&& e.2)) ∧
    (∃ t, exec (.registerWrite e.1 4 v) s = .next t ∧
      OnlyRegister s t e.1 (((s.reg e.1 &&& 0xFFFFFFFF00000000#64) ||| (v &&& 0xFFFFFFFF#64)) &&& e.2)) ∧
    ∃ t, exec (.registerWrite (e.1 + 4) 4 v) s = .next t ∧
      OnlyRegister s t e.1 (((s.reg e.1 &&& 0xFFFFFFFF#64) ||| ((v &&& 0xFFFFFFFF#64) <<< 32)) &&& e.2)) ∧
  (∀ e ∈ clampedRegisters, ∀ (s : State) v, ∃ t, exec (.registerWrite e.1 8 v) s = .next t ∧
    OnlyRegister s t e.1 (BitVec.ofNat 64 (max e.2.1 (min e.2.2 v.toNat)))) ∧
  (∀ (s : State) v, ∃ t, exec (.registerWrite 0x10000 8 v) s = .next t ∧ OnlyRegister s t 0x10000 (BitVec.ofNat 64 (max 1 (min 10 (v.toNat % 16))))) ∧
  (∀ (s : State) v, s.memb.up = false → ∃ t, exec (.registerWrite 0x10050 8 v) s = .next t ∧ OnlyRegister s t 0x10050 (v &&& 0xFFFFFFFF#64)) ∧
  (∀ (s : State) off v, off ∈ [0x00, 0x10, 0x28, 0x500, 0x120008, 0x130008] → exec (.registerWrite off 8 v) s = .next s) ∧
  (∀ (s : State) v ctx, ctx < 64 →
    exec (.registerWrite (ctxOff ctx 0) 8 v) s = exec (if v.getLsbD 0 then .contextCreate ctx v else .contextTerminate ctx) s ∧
    exec (.registerWrite (ctxOff ctx 0x10) 8 v) s = exec (.invalidate ctx v) s ∧
    exec (.registerWrite (ctxOff ctx 0x28) 8 v) s = exec (.diagoccFree ctx v) s ∧
    exec (.registerWrite (ctxOff ctx 0) 4 v) s = .next s) ∧
  ∀ (s : State) off n v, regAligned off n = false → exec (.registerWrite off n v) s = .next s

/-! ## The steps of the flow manager, the dispatcher and pre-emption -/

namespace Sys2Proof.Stmt

/-- The crew in focus has a place, and the step names it. -/
def Here (s : State) : Prop := Present s ∧ s.crew.handle ≠ 0

/-- The launch queue of a context holds a record: its header is sound, and it can be popped now (R181, R190, R199, R273). -/
def LaunchWaits (s : State) (ctx : Nat) (x : Xl) : Prop :=
  s.ctxEnabled ctx = true ∧ s.ctxReg ctx 0x18 ≠ 0#64 ∧ s.translate 0 ctx (s.ctxReg ctx 0x18).toNat .atomic false = .ok x ∧
    s.anyPoison x.fpa 128 = false ∧ (s.hdr x.fpa).ok = true ∧ (s.hdr x.fpa).rsz = 256 ∧ (s.hdr x.fpa).occ ≠ 0 ∧ s.popOpen x = true

/-- The state in which the flow manager decides the record at `r` of the launch queue at `x`: it has popped it and read it (R273). -/
def launchBase (s : State) (x r : Xl) : State := ((s.touch x true).popLaunch x.fpa (s.hdr x.fpa)).unitRead r 256

/-- A wave as at dispatch (R29 to R42): the registers that R29 names, all other scalars and vectors zero, the mask full, INH clear. -/
def Dispatched (w : Wave) (c : Crew) (pc : Word) (arg idx : Nat) : Prop :=
  w.idx = idx ∧ w.status = .live ∧ w.pc = pc ∧ w.getS 3#7 = BitVec.ofNat 64 c.lmBase ∧ w.getS 4#7 = BitVec.ofNat 64 arg ∧
    w.getS 5#7 = BitVec.ofNat 64 idx ∧ w.getS 6#7 = BitVec.ofNat 64 c.size ∧ w.getS 125#7 = 0xFFFFFFFF#64 ∧ w.getS 126#7 = 0xFFFFFFFF#64 ∧
    w.getS 127#7 = 0xFFFFFFFF#64 ∧ (∀ r, r ∉ [3#7, 4#7, 5#7, 6#7, 125#7, 126#7, 127#7] → w.getS r = 0#64) ∧ (∀ p, w.vreg p = zeroLanes) ∧
    w.freed = [] ∧ w.vwb = 0 ∧ w.wctl = 0#4 ∧ w.fflags = 0#6 ∧ w.tvec = 0#64 ∧ w.mrwin = 0#64 ∧ w.inh = false ∧ w.region = none ∧
    w.accs = [] ∧ w.block = none

/-- A crew as at dispatch (R29, R35, R213, R275, R294): its stage's shape, every barrier with all its waves, every tag IDLE, and a tile of
zeros in each accumulator. -/
def Formed (s : State) (c : Crew) (b : Bid) (core base arg : Nat) : Prop :=
  c.handle = s.nextHandle ∧ c.ctx = b.ctx ∧ c.id = s.crewIdOf b.ctx ∧ c.flow = b.flow ∧ c.stage = b.idx ∧ c.qnum = b.st.qnum ∧ c.prio = b.st.prio ∧
    c.size = b.st.waves ∧ c.core = core ∧ c.valloc = b.st.vregs ∧ c.naccs = b.st.accs ∧ c.lmBase = base ∧ c.lmSize = b.st.lmb ∧
    c.state = .running ∧ (∀ n, c.acc n = Acc.fresh) ∧ (∀ n, c.tag n = .idle) ∧ c.sfr = [] ∧ c.preempt = none ∧
    (∀ i : Fin 8, c.bars[i] = Barrier.fresh (BitVec.ofNat 16 (2 ^ b.st.waves - 1))) ∧
    c.others.length = b.st.waves ∧ ∀ i (h : i < c.others.length), Dispatched c.others[i] c b.st.prog arg i

/-- A live wave stands in its handler for PREEMPT (R362 step 6, R364 step 5). -/
def EnteredPreempt (w : Wave) (tpc slotVa restore wake wakeAddr deadline : Word) : Prop :=
  w.inh = true ∧ w.pc = w.tvec ∧ w.tcause = 0x11#64 ∧ w.tpc = tpc ∧ w.taddr = 0#64 ∧ w.tdeadline = deadline ∧ w.getS 112#7 = slotVa ∧
    w.getS 113#7 = restore ∧ w.getS 114#7 = wake ∧ w.getS 115#7 = wakeAddr ∧ w.block = none ∧ w.stopped = false

/-- No wave of the crew in focus has waited out its `bar` without going on yet. -/
def NoBarOver (s : State) : Prop := s.wave.barOver s.crew = false ∧ ∀ w ∈ s.crew.others, w.barOver s.crew = false

/-- A core that a floor-precedence stage may reserve (R281). -/
def Reservable (s : State) (st : Stage) (c : Nat) : Prop :=
  c < 256 ∧ s.available c = true ∧ c ∉ st.draining ∧ ∀ r ∈ s.reserved, r.1 ≠ c

/-- A request for the crew in focus that has not been taken. -/
def Asked (s : State) (p : Preempt) : Prop := Here s ∧ s.crew.preempt = some p ∧ p.entered = false

/-- Every wave of a taken crew stands, everything of the crew is done, and a save slot is free whose pages can be written now (R181, R190, R199,
R362 steps 1 to 3); an in-field test waits for no open region of it (R289). -/
def MayBeTaken (s : State) (h : Nat) (c : Crew) (p : Preempt) (k : Nat) (ps : List (Xl × Nat × Nat)) : Prop :=
  h ≠ 0 ∧ s.crewAt h = some c ∧ c.preempt = some p ∧ p.entered = false ∧ c.state = .taking ∧
    (∀ w ∈ c.others, w.status = .live → s.stands c w = true ∧ w.tvec ≠ 0#64) ∧ s.takeFault c = none ∧ s.takeReady c = true ∧
    (c.others.map (fun w => w.idx)).Nodup ∧ s.freeSlot c.ctx = some k ∧
    s.slotPieces (dieOf c.core) c.ctx .store (slotParts (s.slotVa c.ctx k) c.lmSize) = some ps ∧
    c.testWaits p = false ∧ s.slotDue ps = true

/-- What goes to one piece of the slot (R363). -/
def slotBytes (s : State) (c : Crew) (off n : Nat) : List Byte :=
  takenBytes (c.block s.nanos) (s.fullMap c.core c.lmBase c.lmSize) c.recordArea off n

/-- A SAVED crew comes first on a die and can be read back onto a core of it (R364 steps 1 to 3). -/
def MayReturn (s : State) (h : Nat) (c : Crew) (st : Stage) (bs map recs : List Byte) (core base : Nat) : Prop :=
  h ≠ 0 ∧ s.crewAt h = some c ∧ c.state = .saved ∧ s.stageOf c = some st ∧ s.savedBlock c = some bs ∧
    (∃ d, (List.range 8).find? (fun d =>
      match s.winner d with | some b => b.flow = c.flow && b.idx = c.stage && b.back.isSome | none => false) = some d ∧
      s.coreFor d st (blockShape bs) = some (core, base)) ∧
    s.slotOpen (dieOf c.core) c.ctx (s.slotVa c.ctx (c.slot.getD 0)) 0 (0x2000 + c.lmSize / 128) = true ∧
    s.slotOpen (dieOf c.core) c.ctx (s.slotVa c.ctx (c.slot.getD 0)) 0x12000 0x2000 = true ∧
    s.readSlot (dieOf core) c.ctx (s.slotVa c.ctx (c.slot.getD 0)) 0x2000 (fieldAt bs 0x14 4 / 128) = some map ∧
    s.readSlot (dieOf core) c.ctx (s.slotVa c.ctx (c.slot.getD 0)) 0x12000 0x2000 = some recs ∧
    ∀ i, i < fieldAt bs 0x10 1 → fieldAt bs (0x1000 + 256 * i) 1 = 1 → fieldAt bs (0x1038 + 256 * i) 8 ≠ 0

end Sys2Proof.Stmt

/-- R29, R189, R273, R275, R277, R278, R280, R281, R294, R336: the flow manager takes a record of a launch queue and decides it; a sample, one in 10
μs, sets targets; the dispatcher reserves a core for a crew below its floor that fits nowhere, forms the crew that comes first, as at dispatch,
with its LM zeroed and its first 256 bytes full, pops its record, and gives up a broken queue. The model's own choices in it: launch status, the
end of a reservation, the translations of the dispatcher, and the demand of a header that cannot be read (log entries 45, 62, 63 and 112). -/
def Obligations.PlacementSteps : Prop :=
  (∀ (s : State) ctx, (s.ctxEnabled ctx = false ∨ s.ctxReg ctx 0x18 = 0#64) → exec (.flowLaunch ctx) s = .next s) ∧
  (∀ (s : State) ctx x, LaunchWaits s ctx x → (x.fpa + 128 ≤ x.addr ∨ x.addr + 8 ≤ x.fpa) →
    (∀ r, s.translate 0 ctx ((s.hdr x.fpa).slotVa (s.hdr x.fpa).head) .load false = .ok r → s.readOpen r 256 = true ∧ s.anyPoison r.fpa 256 = true) →
    ∃ t, exec (.flowLaunch ctx) s = .next t ∧ t.events = s.events ++ [.launchStatus ctx 6#64] ∧
      t.readMem x.fpa 8 = ((s.hdr x.fpa).head + 1) % 2 ^ 64 ∧ t.readMem (x.fpa + 0x18) 4 = ((s.hdr x.fpa).free + 1) % 2 ^ 32 ∧
      StandsOutside s t [(x.addr, 8), (x.fpa, 8), (x.fpa + 0x18, 4)] ∧ t.flows = s.flows) ∧
  (∀ (s : State) ctx x r k, LaunchWaits s ctx x → (x.fpa + 128 ≤ x.addr ∨ x.addr + 8 ≤ x.fpa) →
    s.translate 0 ctx ((s.hdr x.fpa).slotVa (s.hdr x.fpa).head) .load false = .ok r → s.readOpen r 256 = true → s.anyPoison r.fpa 256 = false →
    badEntry ((List.range 8).map (entryOf (s.readBytes r.fpa 256))) = some k → k < 8 →
    ∃ t, exec (.flowLaunch ctx) s = .next t ∧ t.events = s.events ++ [.launchStatus ctx (BitVec.ofNat 64 (k * 2 ^ 16 + 1))] ∧ t.flows = s.flows ∧
      (r.addr + 8 ≤ x.fpa ∨ x.fpa + 8 ≤ r.addr → t.readMem x.fpa 8 = ((s.hdr x.fpa).head + 1) % 2 ^ 64)) ∧
  (∀ (s : State) ctx x r, LaunchWaits s ctx x →
    s.translate 0 ctx ((s.hdr x.fpa).slotVa (s.hdr x.fpa).head) .load false = .ok r → s.readOpen r 256 = true → s.anyPoison r.fpa 256 = false →
    ((launchBase s x r).launchFlow 0 ctx (s.readBytes r.fpa 256)).2.toNat % 2 ^ 16 = 0 →
    ∃ t f, exec (.flowLaunch ctx) s = .next t ∧ f ∈ t.flows ∧ f.ctx = ctx ∧ f.num < 256 ∧ (s.flow? f.num).isNone = true ∧
      (∀ k, k < f.num → (s.flow? k).isSome = true) ∧ t.events = s.events) ∧
  (∀ (s : State) ctx f st, s.samples < s.nanos / 10000 → s.flows = [⟨f, ctx, [st]⟩] → st.ended = false → st.floor ≤ st.ceil →
    st.floor ≤ s.availableCores → s.stageDone ⟨f, ctx, [st]⟩ 0 st = false →
    ∃ t g st', exec .demandSample s = .next t ∧ t.samples = s.nanos / 10000 ∧ t.flows = [g] ∧ g.num = f ∧ g.stages = [st'] ∧
      st'.target = (if s.occupancy ctx st * st.weight = 0 then st.floor else min st.ceil s.availableCores) ∧
      (∀ c ∈ st'.cores, c ∈ st.cores ∧ 0 < s.crewsOn f 0 c) ∧ { t with flows := s.flows, reserved := s.reserved, samples := s.samples } = s) ∧
  (∀ s : State, s.nanos / 10000 ≤ s.samples → exec .demandSample s = .next s) ∧
  (∀ (s : State) die f ctx st, die < 8 → s.brokenStage = none → s.flows = [⟨f, ctx, [st]⟩] → s.needsCore ⟨f, ctx, [st]⟩ 0 st = true →
    s.reserveCores.winner die = none → (∃ c, Reservable s st c) →
    ∃ t c, exec (.crewPlace die) s = .next t ∧ t.reserved = s.reserved ++ [(c, st.qnum)] ∧ Reservable s st c ∧
      (∀ d, Reservable s st d → (s.slotsFree d).length ≤ (s.slotsFree c).length) ∧ { t with reserved := s.reserved } = s) ∧
  (∀ (s : State) die b core base, die < 8 → s.brokenStage = none → s.reserveCores.winner die = some b → b.fresh = some (core, base) → b.st.kind = 2 →
    b.st.waves ≤ (s.slotsFree core).length → base + b.st.lmb ≤ 2 ^ 23 → base % 256 = 0 → b.st.lmb % 256 = 0 →
    ∃ t c, exec (.crewPlace die) s = .next t ∧ t.crews = s.crews ++ [c] ∧ Formed s c b core base b.st.formed ∧ c.segs = [] ∧ c.held = [] ∧
      t.nextHandle = s.nextHandle + 1 ∧ t.crewIdOf b.ctx = s.crewIdOf b.ctx + 1 ∧ t.wdAge b.ctx = 0 ∧
      (∀ k, k < b.st.lmb → lmAt t (lmKey core base + k) = 0#8) ∧ (∀ k, k < b.st.lmb → lmFullOf t (lmKey core (base + k) / 16) = decide (k < 256)) ∧
      (t.dieAt die).rr = (b.st.qnum + 1) % 512 ∧ t.wave = s.wave ∧ t.crew = s.crew ∧ ∀ x, t.byteAt x = s.byteAt x) ∧
  (∀ (s : State) die b core base x r h, die < 8 → s.brokenStage = none → s.reserveCores.winner die = some b → b.fresh = some (core, base) → b.st.kind = 1 →
    b.st.waves ≤ (s.slotsFree core).length → s.translate 0 b.ctx b.st.arg.toNat .atomic false = .ok x → s.stageHdr b.ctx b.st = some (x.fpa, h) →
    s.translate 0 b.ctx (h.slotVa h.head) .load false = .ok r → fpaDev r.fpa = fpaDev x.fpa →
    256 ≤ b.st.lmb → base + b.st.lmb ≤ 2 ^ 23 → base % 256 = 0 → b.st.lmb % 256 = 0 → h.rsz ≤ 256 →
    ∃ t c, exec (.crewPlace die) s = .next t ∧ t.crews = s.crews ++ [c] ∧ Formed s c b core base base ∧ c.segs = [⟨base, 256, false⟩] ∧
      c.held = [⟨b.st.arg, 1, b.st.qnum, true⟩] ∧ t.readMem x.fpa 8 = (h.head + 1) % 2 ^ 64 ∧
      StandsOutside s t [(x.addr, 8), (r.addr, 8), (x.fpa, 8)] ∧
      (∀ k, k < h.rsz → lmAt t (lmKey core base + k) = s.byteAt (r.fpa + k)) ∧ (∀ k, h.rsz ≤ k → k < b.st.lmb → lmAt t (lmKey core base + k) = 0#8) ∧
      (∀ k, k < 256 → lmFullOf t (lmKey core (base + k) / 16) = true)) ∧
  (∀ (s : State) die f i st, die < 8 → s.brokenStage = some (f, i, st) →
    ∃ t, exec (.crewPlace die) s = .next t ∧ .queueEvent f i st.arg ∈ t.events ∧ t.crews = s.crews ∧ t.wave = s.wave) ∧
  ∀ (s : State) die, 8 ≤ die → exec (.crewPlace die) s = .next s

/-- R254, R276, R284, R286, R309, R362 to R364: a request stops a running crew at its blocking points and may be withdrawn; past PEDL a
Y-marked word stops too; a crew that stands and has nothing left to do is saved and entered with PREEMPT; a SAVED crew returns on a core,
and its accumulators' versions come back when its handler is done. The model's own choices in it: offsets of the saved segments, the state
of a restored crew, and what a taking waits for (log entries 64, 65, 66 and 70). -/
def Obligations.PreemptionSteps : Prop :=
  (∀ s : State, Here s → NoBarOver s → s.crew.preempt = none → s.crew.state = .running →
    exec (.preemptRequest s.crew.handle) s = .next { s with
      crew := { s.crew with preempt := some ⟨s.nanos, false, false, 0, none, false⟩, state := .taking } }) ∧
  (∀ s : State, Here s → NoBarOver s → s.crew.preempt = none → s.crew.state = .halted →
    exec (.preemptRequest s.crew.handle) s = .next { s with crew := { s.crew with preempt := some ⟨s.nanos, false, false, 0, none, false⟩ } }) ∧
  (∀ (s : State) p, NoBarOver s → s.crew.preempt = some p →
    exec (.preemptRequest s.crew.handle) s = .next { s with crew := { s.crew with preempt := some { p with test := false } } }) ∧
  (∀ s : State, NoBarOver s → s.crew.preempt = none → (s.crew.state = .saved ∨ s.crew.state = .ended) →
    exec (.preemptRequest s.crew.handle) s = .next s) ∧
  (∀ s : State, Here s → s.wave.barOver s.crew = true →
    ∃ t, exec (.preemptRequest s.crew.handle) s = .next t ∧ t.wave.block = none ∧ { t.wave with block := s.wave.block, pts := s.wave.pts } = s.wave ∧
      s.wave.pts ≤ t.wave.pts) ∧
  (∀ (s : State) p, Asked s p → s.crew.state = .taking → exec (.preemptWithdraw s.crew.handle) s = .next { s with
    wave := { s.wave with stopped := false }
    crew := { s.crew with preempt := none, state := .running, others := s.crew.others.map (fun w => { w with stopped := false }) } }) ∧
  (∀ (s : State) p, Here s → s.crew.preempt = some p → p.entered = true → exec (.preemptWithdraw s.crew.handle) s = .next s) ∧
  (∀ (s : State) p, Asked s p → s.crew.state = .taking → p.since + 1000 * s.pedl s.crew.ctx < s.nanos →
    ∃ t, exec (.pedlDeadline s.crew.handle) s = .next t ∧
      t.wave = (if s.wave.status = .live ∧ s.wave.parked = true ∧ s.wave.npreEnd ≤ s.nanos then { s.wave with stopped := true } else s.wave) ∧
      t.crew.others = s.crew.others.map (fun w => if w.status = .live ∧ w.parked = true ∧ w.npreEnd ≤ s.nanos then { w with stopped := true } else w) ∧
      { t with wave := s.wave, crew := s.crew } = s) ∧
  (∀ (s : State) p, Asked s p → s.nanos ≤ p.since + 1000 * s.pedl s.crew.ctx → exec (.pedlDeadline s.crew.handle) s = .next s) ∧
  (∀ s : State, Present s → s.wave.npreEnd ≤ s.nanos →
    exec (.npreWindowEnd s.crew.handle s.wave.idx) s = .next { s with wave := { s.wave with npreEnd := 0 } }) ∧
  (∀ s : State, Present s → s.nanos < s.wave.npreEnd → exec (.npreWindowEnd s.crew.handle s.wave.idx) s = .next s) ∧
  (∀ (s : State) p, Asked s p → p.reported = false → p.since + 1000 * s.pedl s.crew.ctx + 10000000 ≤ s.nanos →
    exec (.preemptReport s.crew.handle) s = .next { s with
      crew := { s.crew with preempt := some { p with reported := true } }, events := s.events ++ [.preemptReport s.crew.ctx s.crew.id] }) ∧
  (∀ s : State, Live s → s.wave.block = none → s.remoteLoad = true →
    exec (.remoteLoadBlockingPoint s.crew.handle s.wave.idx) s = .next { s with wave := { s.wave with block := some .remote } }) ∧
  (∀ s : State, Present s → s.remoteLoad = false → exec (.remoteLoadBlockingPoint s.crew.handle s.wave.idx) s = .next s) ∧
  (∀ (s : State) h c p k ps, MayBeTaken s h c p k ps →
    (ps.Pairwise (fun q z => q.1.fpa + q.2.2 ≤ z.1.fpa ∨ z.1.fpa + z.2.2 ≤ q.1.fpa)) →
    (∀ q ∈ ps, ∀ z ∈ ps, q.1.fpa + q.2.2 ≤ z.1.addr ∨ z.1.addr + 8 ≤ q.1.fpa) →
    ∃ t d, exec (.crewTake h) s = .next t ∧ t.crewAt h = some d ∧ d.state = .taking ∧ d.preempt = some { p with entered := true, slot := k } ∧
      (∀ w ∈ c.others, w.status = .live → ∃ v ∈ d.others, v.idx = w.idx ∧ v.status = .live ∧
        EnteredPreempt v w.pc (BitVec.ofNat 64 (s.slotVa c.ctx k)) 0#64 w.wake.1 w.wake.2 (BitVec.ofNat 64 (s.nanos + 1000 * (s.lmretn - 8)))) ∧
      ∀ q ∈ ps, t.readBytes q.1.fpa (slotBytes s c q.2.1 q.2.2).length = slotBytes s c q.2.1 q.2.2) ∧
  (∀ (s : State) h c p, s.crewAt h = some c → c.preempt = some p → p.entered = false → c.state = .taking →
    (∃ w ∈ c.others, w.status = .live ∧ s.stands c w = false) → exec (.crewTake h) s = .next s) ∧
  (∀ (s : State) h c st bs map recs core base, MayReturn s h c st bs map recs core base →
    ∃ t d, exec (.crewRestore h) s = .next t ∧ t.crewAt h = some d ∧ d.core = core ∧ d.lmBase = base ∧ d.size = fieldAt bs 0x10 1 ∧
      d.valloc = 32 * fieldAt bs 0x11 1 ∧ d.naccs = fieldAt bs 0x12 1 ∧ d.lmSize = fieldAt bs 0x14 4 ∧ d.restoring = true ∧ d.state = .halted ∧
      d.sfr.length = fieldAt bs 0x600 8 ∧ (∀ n, d.acc n = Acc.fresh) ∧ (∀ n, d.tag n = .idle) ∧
      ∀ i, i < fieldAt bs 0x10 1 → ∃ v ∈ d.others, v.idx = i ∧ v.tvec = BitVec.ofNat 64 (fieldAt bs (0x1038 + 256 * i) 8) ∧
        v.wctl = BitVec.ofNat 4 (fieldAt bs (0x1020 + 256 * i) 8) ∧ v.vwb = fieldAt bs (0x1030 + 256 * i) 8 ∧
        v.mrwin = BitVec.ofNat 64 (fieldAt bs (0x1040 + 256 * i) 8) ∧
        (fieldAt bs (0x1000 + 256 * i) 1 = 1 → v.status = .live ∧
          EnteredPreempt v (BitVec.ofNat 64 (fieldAt bs (0x1008 + 256 * i) 8)) (BitVec.ofNat 64 (s.slotVa c.ctx (c.slot.getD 0))) 1#64
            (BitVec.ofNat 64 (fieldAt bs (0x1010 + 256 * i) 8)) (BitVec.ofNat 64 (fieldAt bs (0x1018 + 256 * i) 8)) 0#64)) ∧
  (∀ (s : State) h c, s.crewAt h = some c → c.state ≠ .saved → exec (.crewRestore h) s = .next s) ∧
  (∀ s : State, Live s → s.crew.handle ≠ 0 → s.crew.others = [] → s.crew.restoring = true → s.crew.state = .halted → s.crew.preempt = none →
    s.wave.inh = false → s.wave.stop = none → s.wave.halting = none → s.wave.heldCauses = [] → (∀ x ∈ s.cmds, x.crew ≠ s.crew.handle) →
    (∀ m ∈ (s.coreAt s.crew.core).mops, m.crew ≠ s.crew.handle) →
    ∃ t, exec (.restoreFinish s.crew.handle) s = .next t ∧ t.crew.state = .running ∧ t.crew.restoring = false ∧ t.crew.slot = none ∧
      (∀ n, t.crew.tag n = .idle) ∧ (∀ n (h : n < s.crew.saved.length), (t.crew.acc n).ver = s.crew.saved[n].1 ∧ (t.crew.acc n).suspect = s.crew.saved[n].2 ∧
        (t.crew.acc n).tile = (s.crew.acc n).tile) ∧ ScalarsKept s t ∧ VectorsKept s t ∧ ∀ b, t.byteAt b = s.byteAt b) ∧
  ∀ s : State, Here s → s.crew.restoring = false → exec (.restoreFinish s.crew.handle) s = .next s

/-! ## The steps of the timers and tests, of collectives and of the exchange -/

namespace Sys2Proof.Stmt

/-- The wave in focus is its crew's only one, and its crew the device's only one. -/
def Alone (s : State) (ctx : Nat) : Prop :=
  s.crew.handle ≠ 0 ∧ s.crew.ctx = ctx ∧ s.crew.others = [] ∧ s.crews = [] ∧ (s.crew.state = .running ∨ s.crew.state = .halted ∨ s.crew.state = .taking)

/-- The timer of a barrier of the crew in focus has reached BARTO (R297). -/
def BarrierDue (s : State) (bar : BitVec 3) : Prop :=
  s.crew.handle ≠ 0 ∧ s.crew.others = [] ∧ s.crew.state ≠ .saved ∧ s.crew.state ≠ .ended ∧
    ∃ t, (s.crew.bar bar).timer = some t ∧ t + 1000 * s.barto s.crew.ctx ≤ s.nanos

/-- Every core of a quad that is in use is held for its test, or none is (R289). -/
def QuadHeld (s : State) (quad : Nat) (held : Bool) : Prop := ∀ c ∈ s.quadCores quad, (s.coreAt c).testing = held

/-- The engine has read SRC and sent it, and a contribution of every rank that the collective needs has arrived; all agree (R259, R260). -/
def InputsIn (s : State) (c : Coll) (ps : List CollPacket) : Prop :=
  s.fab.colls.find? (fun k => k.id = c.id) = some c ∧ c.sent = true ∧ ps = s.fab.collIn.filter (fun p => p.comm = c.comm ∧ p.nth = c.nth) ∧
    (∀ p ∈ ps, p.op = c.op ∧ p.count = c.count ∧ p.root = c.root) ∧ ∀ r ∈ c.needs, ∃ p ∈ ps, p.rank = r

/-- The inputs by rank. -/
def inputsOf (c : Coll) (ps : List CollPacket) : List (List Byte) :=
  (List.range c.n).map (fun r => match ps.find? (fun p => p.rank = r) with | some p => p.data | none => [])

/-- The slice of `bs` that goes to a piece at `off` of `n` bytes. -/
def sliceOf (bs : List Byte) (off n : Nat) : List Byte := (bs.drop off).take n

/-- An engine's writes of a descriptor at `a` are done in their order, or wait there for their grants (R181, R260, R313): no unit's write stood
before them. -/
def EndWritten (t : State) (a pts : Nat) (ws : List (Nat × List Byte)) : Prop :=
  ∃ k p, pts ≤ p ∧ t.units.filter (fun u => u.addr == a) = (ws.drop k).map (fun w => ⟨a, true, .put w.1 p w.2⟩) ∧
    ∀ w ∈ ws.take k, t.readBytes (a + w.1) w.2.length = w.2

/-- The home grants `n` such writes now: the line is open, no view covers it, and its timestamps stay within the lease. -/
def EndDue (s : State) (a pts n : Nat) : Prop :=
  s.units = [] ∧ a % 64 = 0 ∧ (∀ k, k < 64 → s.lineFree none (a + k) = true ∧ s.inView (a + k) = false) ∧
    s.storeStamp pts a 64 + n ≤ s.floor + s.lease + 1

/-- What ends a round whose calendars carried the flags of `r` (R313, R321). -/
def roundEnd (r : Round) (status detail fcause : Nat) : List (Nat × List Byte) :=
  [(0x2A, bytesLE 4 (r.flags + r.calGen.toNat * 65536)), (0x28, bytesLE 2 (detail + 256 * fcause)), (0x24, bytesLE 4 status)]

/-- The GOT fields of a round's receive buffers stand apart from each other and from the descriptor. -/
def GotApart (r : Round) : Prop :=
  r.recvs.Pairwise (fun a b => a.gotAt + 4 ≤ b.gotAt ∨ b.gotAt + 4 ≤ a.gotAt) ∧ ∀ q ∈ r.recvs, q.gotAt + 4 ≤ r.desc ∨ r.desc + 64 ≤ q.gotAt

/-- A round is over at this device: its descriptor and its GOT fields are written, or their writes wait, and what came for it is dropped (R313,
R314, R321). -/
def RoundOver (t : State) (r : Round) (status detail fcause : Nat) : Prop :=
  t.round? r.comm r.round = none ∧ EndWritten t r.desc r.pts (roundEnd r status detail fcause) ∧
    (∀ p ∈ t.xch.data, ¬ (p.comm = r.comm ∧ p.round = r.round)) ∧ (∀ p ∈ t.xch.ends, ¬ (p.comm = r.comm ∧ p.round = r.round)) ∧
    ∀ q ∈ r.recvs, t.readMem q.gotAt 4 = min q.got (2 ^ 32 - 1) ∨ ⟨q.gotAt, true, .put 0 r.pts (bytesLE 4 (min q.got (2 ^ 32 - 1)))⟩ ∈ t.units

/-- A wave that waits for the end of an engine operation on descriptor `va` of context `ctx` learns its STATUS (R265, R327); any other stands. -/
def WaiterTold (s t : State) (b : Block) (ctx : Nat) (va : Word) (status : Nat) : Prop :=
  (s.wave.block ≠ some b → t.wave = s.wave) ∧
    (s.wave.block = some b → s.crew.ctx = ctx → s.wave.collVa = va → s.wave.collEnd = none → t.wave.collEnd = some (BitVec.ofNat 64 status))

/-- The pieces of a buffer stand apart from each other, from the entries that map them, and from the 64 bytes at `desc`. -/
def PiecesApart (ps : List (Xl × Nat × Nat)) (desc : Nat) : Prop :=
  ps.Pairwise (fun q z => q.1.fpa + q.2.2 ≤ z.1.fpa ∨ z.1.fpa + z.2.2 ≤ q.1.fpa) ∧
    (∀ q ∈ ps, ∀ z ∈ ps, q.1.fpa + q.2.2 ≤ z.1.addr ∨ z.1.addr + 8 ≤ q.1.fpa) ∧
    ∀ q ∈ ps, q.1.fpa + q.2.2 ≤ desc ∨ desc + 64 ≤ q.1.fpa

/-- The device takes what comes over the fabric (R407), and it is of the device's generation (R256). -/
def Takes (s : State) (g : BitVec 16) : Prop := s.ready = true ∧ g = s.gen

/-- Only Anvil's and the engine's part of the state has changed. -/
def OnlyExchange (s t : State) : Prop := { t with xch := s.xch } = s

/-- The demand matrix of a round as the posts give it, or as the reports do (R316, R319). -/
def demandOf (n : Nat) (f : Nat → List Nat) : List (List Nat) := (List.range n).map f

/-- What rank `r` has left, as the report `p` and the reports before it say (R319). -/
def leftOf (s : State) (p : XReport) (r : Nat) : List Nat :=
  if r = p.rank then p.left
  else match s.xch.reports.find? (fun q => q.comm = p.comm ∧ q.round = p.round ∧ q.rank = r) with | some q => q.left | none => []

/-- The calendar of a demand matrix whose inputs were complete at NANOS `since` (R316, R317), from its first slot. -/
def CalendarFor (s : State) (c : Calendar) (comm round : Nat) (D : List (List Nat)) (residual : Bool) (since : Nat) : Prop :=
  c.comm = comm ∧ c.round = round ∧ c.devs = s.ranks comm ∧ c.residual = residual ∧ s.nextSlot since ≤ c.start ∧
    c.slots = (decompose D (s.ranks comm).length s.slotCapacity).flatMap (phaseSlots (s.ranks comm).length s.slotCapacity)

/-- Every other rank is sent its part of a calendar. -/
def GrantsSent (s t : State) (c : Calendar) : Prop :=
  ∀ e ∈ c.devs.zipIdx, e.1 ≠ s.devid.toNat →
    ∃ g, Msg.grant e.1 g ∈ t.fab.out ∧ g.comm = c.comm ∧ g.round = c.round ∧ g.gen = s.gen ∧ g.arbGen = s.xch.arbGen ∧ g.start = c.start ∧
      g.slots = c.slots.map (fun l => l.getD e.2 none) ∧ g.residual = c.residual

/-- A slot of the pod's clock is due to begin, its budgets having gone; or its guard is over, and its budgets are due (R311). -/
def SlotBegins (s : State) : Prop := (s.xch.slot ≤ s.xch.ran ∨ s.nanos < s.xch.slotAt + 1000) ∧ s.xch.slotAt + 10000 ≤ s.nanos
def SlotRuns (s : State) : Prop := s.xch.ran < s.xch.slot ∧ s.xch.slotAt + 1000 ≤ s.nanos

/-- The bytes that a slot of budget `budget` carries of a queue (R312, R318). -/
def slotBytesOf (s : State) (budget : Nat) (q : SendQ) : Nat := min (min budget s.bundleQuanta * 4096) (q.len - q.sent)

/-- A round runs, and a queue of it still holds bytes: it does not end in this step. -/
def RoundRuns (s : State) (r : Round) : Prop :=
  s.xch.rounds = [r] ∧ r.started = true ∧ r.ended = false ∧ r.stopped = false ∧ (∃ q ∈ r.sends, q.marked = false) ∧
    s.xch.data = [] ∧ s.xch.ends = []

end Sys2Proof.Stmt

/-- R287 to R289, R297, R298, R377: a barrier's timer at BARTO writes its record, tells the host and raises BARTO; the watchdog fires, or an
external stall is told once; a quad's test falls due, is postponed, and ends. The model's own choices in it: the slot of a record, and what
restarts the watchdog or postpones a test (log entries 67, 68 and 69). -/
def Obligations.WatchSteps : Prop :=
  (∀ (s : State) (bar : BitVec 3), MayTake s → BarrierDue s bar → s.ctxReg s.crew.ctx 0x20 = 0#64 →
    ∃ t rec', exec (.barto s.crew.handle bar.toNat) s = .next t ∧
      rec' = s.focusCrew.diagRecord bar.toNat (s.crew.bar bar) s.nanos ∧ rec'.length = 256 ∧ t.events = s.events ++ [.barto rec'] ∧
      (t.crew.bar bar).timer = none ∧ (t.crew.bar bar).expired = true ∧
      Reaches s t .barto 0#64 0#64 (BitVec.ofNat 64 ((s.crew.bar bar).phase.toNat * 2 ^ 16 + bar.toNat))) ∧
  (∀ (s : State) (bar : BitVec 3) k x, MayTake s → BarrierDue s bar → s.ctxReg s.crew.ctx 0x20 ≠ 0#64 → s.diagSlot s.crew.ctx = some k →
    s.translate (dieOf s.crew.core) s.crew.ctx ((s.ctxReg s.crew.ctx 0x20).toNat + 256 * k) .store false = .ok x →
    s.diagWaits (dieOf s.crew.core) s.crew.ctx = false →
    ∃ t, exec (.barto s.crew.handle bar.toNat) s = .next t ∧
      t.readBytes x.fpa 256 = s.focusCrew.diagRecord bar.toNat (s.crew.bar bar) s.nanos ∧ (t.ctxReg s.crew.ctx 0x28).getLsbD k = true ∧
      StandsOutside s t [(x.addr, 8), (x.fpa, 256)] ∧ (t.crew.bar bar).expired = true ∧ t.wave.inh = true ∧ t.wave.pc = s.wave.tvec ∧
      t.wave.tcause = BitVec.ofNat 64 (causeCode .barto) ∧ t.getS 112#7 = BitVec.ofNat 64 ((s.ctxReg s.crew.ctx 0x20).toNat + 256 * k)) ∧
  (∀ (s : State) (bar : BitVec 3), s.crew.handle ≠ 0 → (s.crew.bar bar).timer = none → exec (.barto s.crew.handle bar.toNat) s = .next s) ∧
  (∀ (s : State) (bar : BitVec 3) t, s.crew.handle ≠ 0 → (s.crew.bar bar).timer = some t → s.nanos < t + 1000 * s.barto s.crew.ctx →
    exec (.barto s.crew.handle bar.toNat) s = .next s) ∧
  (∀ (s : State) ctx, MayTake s → Alone s ctx → s.wave.waitsOn s.crew = some false → 1000 * s.wdtime ctx ≤ s.wdAge ctx →
    ∃ t, exec (.watchdog ctx) s = .next t ∧ t.events = s.events ++ [.watchdog ctx] ∧ t.wdAge ctx = 0 ∧ Reaches s t .watchdog 0#64 0#64 0#64) ∧
  (∀ (s : State) ctx, s.wdAge ctx < 1000 * s.wdtime ctx → exec (.watchdog ctx) s = .next s) ∧
  (∀ (s : State) ctx, Present s → Alone s ctx → s.wave.waitsOn s.crew ≠ some false → exec (.watchdog ctx) s = .next s) ∧
  (∀ (s : State) ctx, Present s → Alone s ctx → s.wave.waitsOn s.crew = some true → Map.find (fun _ => false) s.wdStall ctx = false →
    10000 * s.wdtime ctx ≤ s.wdAge ctx →
    ∃ t, exec (.externalStall ctx) s = .next t ∧ t.events = s.events ++ [.externalStall ctx] ∧
      { t with events := s.events, wdStall := s.wdStall } = s ∧ exec (.externalStall ctx) t = .next t) ∧
  (∀ (s : State) ctx, Present s → Alone s ctx → s.wave.waitsOn s.crew ≠ some true → exec (.externalStall ctx) s = .next s) ∧
  (∀ (s : State) quad, quad < 64 → NoBarOver s → s.quadTesting quad = false → (s.testDue.contains quad = true ∨ s.testAt quad + 28800000000000 ≤ s.nanos) →
    ∃ t, exec (.infieldTestDue quad) s = .next t ∧ QuadHeld t quad true ∧ quad ∉ t.testDue ∧ t.testAt quad = s.nanos ∧
      (Here s → s.crew.core ∈ s.quadCores quad → s.crew.preempt = none → s.crew.state = .running →
        t.crew.preempt = some ⟨s.nanos, false, false, 0, none, true⟩ ∧ t.crew.state = .taking) ∧ t.wave = s.wave ∧ ∀ b, t.byteAt b = s.byteAt b) ∧
  (∀ (s : State) quad, (64 ≤ quad ∨ s.quadTesting quad = true ∨ (s.testDue.contains quad = false ∧ s.nanos < s.testAt quad + 28800000000000)) →
    exec (.infieldTestDue quad) s = .next s) ∧
  (∀ (s : State) quad p, s.quadTesting quad = true → s.testAt quad + 10000000 ≤ s.nanos → Asked s p → s.crew.state = .taking →
    s.crew.core ∈ s.quadCores quad →
    ∃ t, exec (.testPostpone quad) s = .next t ∧ QuadHeld t quad false ∧
      (p.test = true → t.crew.preempt = none ∧ t.crew.state = .running ∧ t.wave.stopped = false) ∧
      (p.test = false → t.crew = s.crew ∧ t.wave = s.wave) ∧ ∀ b, t.byteAt b = s.byteAt b) ∧
  (∀ (s : State) quad, (s.quadTesting quad = false ∨ s.quadCrews quad = [] ∨ s.nanos < s.testAt quad + 10000000) →
    exec (.testPostpone quad) s = .next s) ∧
  (∀ (s : State) quad core, s.quadTesting quad = true → s.quadCrews quad = [] →
    (∃ t, exec (.infieldTestEnd quad .pass) s = .next t ∧ QuadHeld t quad false ∧ { t with cores := s.cores } = s) ∧
    (core / 4 = quad → ∃ t, exec (.infieldTestEnd quad (.row core)) s = .next t ∧ QuadHeld t quad false ∧
      t.links.wear = s.links.wear ++ [(.row core, s.nanos)]) ∧
    (core / 4 = quad → ∃ t, exec (.infieldTestEnd quad (.core core)) s = .next t ∧ (t.coreAt core).testing = true ∧
      (∀ c ∈ s.quadCores quad, c ≠ core → (t.coreAt c).testing = false) ∧ t.links.wear = s.links.wear ++ [(.core core, s.nanos)])) ∧
  ∀ (s : State) quad r, (s.quadTesting quad = false ∨ s.quadCrews quad ≠ []) → exec (.infieldTestEnd quad r) s = .next s

/-- R255, R256, R259 to R262, R311 to R323, R326 to R328: a packet of the wrong generation is counted and discarded; the engine of a collective reads
SRC and sends it, and with all inputs in it writes DST and then STATUS; Anvil places calendars in the order in which their inputs became complete
and grants them; a slot begins at its time and sends its budget after its guard; data lands in its buffer; an end marker may end a round, and a
cancelled round ends with STOPPED; waves that wait learn the STATUS. The model's own choices in it: undefined bytes, raw inputs of collectives,
early data, the takeover of an arbiter, slotted ports, which packets are kept, and what a device that is not ready drops (log entries 11, 50, 51,
58, 60, 103, 120 and 125). -/
def Obligations.CollectiveAndExchangeSteps : Prop :=
  (∀ (s : State) (p : CollPacket) (d : XData) (e : XEnd) (g : GrantMsg) (k : XReport),
    s.ready = true → p.gen ≠ s.gen → d.gen ≠ s.gen → e.gen ≠ s.gen → g.gen ≠ s.gen → k.gen ≠ s.gen →
    ∀ i ∈ [Instr.collPacket p, .exchangeData d, .endMarker e, .grant g, .residualReport k],
      ∃ t, exec i s = .next t ∧ OnlyRegister s t 0x130028 (s.reg 0x130028 + 1#64)) ∧
  (∀ (s : State) (p : CollPacket), Takes s p.gen → (∃ c ∈ s.fab.colls, c.comm = p.comm ∧ c.nth = p.nth) →
    (∀ q ∈ s.fab.collIn, ¬ (q.comm = p.comm ∧ q.nth = p.nth ∧ q.rank = p.rank)) →
    exec (.collPacket p) s = .next { s with fab := { s.fab with collIn := s.fab.collIn ++ [p] } }) ∧
  (∀ (s : State) (p : CollPacket), Takes s p.gen → (∃ q ∈ s.fab.collIn, q.comm = p.comm ∧ q.nth = p.nth ∧ q.rank = p.rank) →
    exec (.collPacket p) s = .next s) ∧
  (∀ (s : State) c ins, s.fab.colls.find? (fun k => k.id = c.id) = some c → c.sent = false →
    (∀ p ∈ s.fab.collIn, p.comm = c.comm → p.nth = c.nth → p.op = c.op ∧ p.count = c.count ∧ p.root = c.root) →
    s.enginePieces c.core c.ctx c.src (if c.op = 6 ∧ c.rank ≠ c.root then 0 else collIn c.op c.count) .load = .ok ins →
    s.piecesFree (some c.id) ins = true → (c.op < 6 → s.pieceBad ins = []) →
    ∃ t k, exec (.collComplete c.id) s = .next t ∧ k ∈ t.fab.colls ∧ k.sent = true ∧ c.pts ≤ k.pts ∧
      { k with sent := c.sent, pts := c.pts } = c ∧
      (∀ dev ∈ s.ranks c.comm, dev ≠ s.devid.toNat → s.route .coll dev ≠ none → ∃ z ∈ t.fab.sent, z.dst = dev ∧ z.gen = s.gen ∧
        z.payload = .coll ⟨c.comm, s.gen, c.nth, c.rank, c.op, c.count, c.root, s.piecePick c.since ins, s.pieceBad ins⟩) ∧
      StandsOutside s t (ins.map (fun q => (q.1.addr, 8))) ∧ t.wave = s.wave) ∧
  (∀ (s : State) c ps outs, s.units = [] → InputsIn s c ps → s.enginePieces c.core c.ctx c.dst (collOut c.op c.count c.n) .store = .ok outs →
    s.piecesDue c.id c.pts outs = true → PiecesApart outs c.desc →
    ∃ t, exec (.collComplete c.id) s = .next t ∧ (∀ k ∈ t.fab.colls, k.id ≠ c.id) ∧ EndWritten t c.desc c.pts (collEndWrites 0 0 0) ∧
      (c.overlaps = false → ∀ o ∈ outs, t.readBytes o.1.fpa (sliceOf (collResult c.op c.count c.root (inputsOf c ps)) o.2.1 o.2.2).length =
        sliceOf (collResult c.op c.count c.root (inputsOf c ps)) o.2.1 o.2.2) ∧
      StandsOutside s t ((c.desc + 0x20, 6) :: outs.flatMap (fun o => [(o.1.addr, 8), (o.1.fpa, o.2.2)])) ∧
      WaiterTold s t .cwait c.ctx c.descVa 0) ∧
  (∀ (s : State) c, s.fab.colls.find? (fun k => k.id = c.id) = some c → c.sent = true →
    (∀ p ∈ s.fab.collIn, p.comm = c.comm → p.nth = c.nth → p.op = c.op ∧ p.count = c.count ∧ p.root = c.root) →
    (∃ r ∈ c.needs, ∀ p ∈ s.fab.collIn, ¬ (p.comm = c.comm ∧ p.nth = c.nth ∧ p.rank = r)) → exec (.collComplete c.id) s = .next s) ∧
  (∀ count root (ins : List (List Byte)), ins.length ≤ 2 ^ 17 → collResult 4 count root ins =
    (List.range count).flatMap (fun k => bytesLE 4 ((ins.map (fun b => collValue 4 b k)).sum % 2 ^ 32))) ∧
  (∀ (s : State) c, s.units = [] → s.fab.colls.find? (fun k => k.id = c.id) = some c →
    (∃ p ∈ s.fab.collIn, p.comm = c.comm ∧ p.nth = c.nth ∧ (p.op ≠ c.op ∨ p.count ≠ c.count ∨ p.root ≠ c.root)) →
    ∃ t, exec (.collComplete c.id) s = .next t ∧ (∀ k ∈ t.fab.colls, k.id ≠ c.id) ∧ EndWritten t c.desc c.pts (collEndWrites 3 5 0) ∧
      WaiterTold s t .cwait c.ctx c.descVa 3) ∧
  (∀ (s : State) (g : GrantMsg) r, Takes s g.gen → g.arbGen = s.xch.arbGen → s.round? g.comm g.round = some r →
    ∃ t r', exec (.grant g) s = .next t ∧ OnlyExchange s t ∧ t.xch.grants = s.xch.grants ++ [g] ∧ t.round? g.comm g.round = some r' ∧
      r'.calGen = g.arbGen ∧ r'.arbchg = (r.arbchg || (r.calGen != g.arbGen)) ∧
      r'.residual = (r.residual || (g.residual && (g.receives || g.slots.any (fun p => match p with | some q => q.2 != 0 | none => false)))) ∧
      { r' with calGen := r.calGen, arbchg := r.arbchg, residual := r.residual } = r) ∧
  (∀ (s : State) (g : GrantMsg), Takes s g.gen → g.arbGen ≠ s.xch.arbGen → exec (.grant g) s = .next s) ∧
  (∀ (s : State) (g : GrantMsg), Takes s g.gen → g.arbGen = s.xch.arbGen → s.round? g.comm g.round = none → s.xch.acting = true →
    exec (.grant g) s = .next (if ∃ r ∈ s.xch.gone, r.comm = g.comm ∧ r.round = g.round
      then { s with xch := { s.xch with grants := s.xch.grants ++ [g] } } else s)) ∧
  (∀ (s : State) x rest, s.xch.acting = true → s.xch.inputs = x :: rest →
    ∃ t c, exec (.anvilSchedule x.comm x.round) s = .next t ∧ CalendarFor s c x.comm x.round x.demand x.residual x.since ∧
      t.xch.cals = s.xch.cals ++ [c] ∧ t.xch.inputs = rest ∧ GrantsSent s t c) ∧
  (∀ (s : State) comm round, (s.xch.acting = false ∨ ∀ x, s.xch.inputs.head? = some x → ¬ (x.comm = comm ∧ x.round = round)) →
    exec (.anvilSchedule comm round) s = .next s) ∧
  (∀ (s : State) (p : XReport), Takes s p.gen → (s.xch.acting = false ∨ (p.comm, p.round) ∈ s.xch.stops) → exec (.residualReport p) s = .next s) ∧
  (∀ (s : State) (p : XReport) n, Takes s p.gen → s.xch.acting = true → (p.comm, p.round) ∉ s.xch.stops → n = (s.ranks p.comm).length → p.rank < n →
    ((∃ r, r < n ∧ r ≠ p.rank ∧ ∀ q ∈ s.xch.reports, ¬ (q.comm = p.comm ∧ q.round = p.round ∧ q.rank = r)) →
      exec (.residualReport p) s = .next { s with xch := { s.xch with
        reports := s.xch.reports.filter (fun q => q.comm != p.comm || q.round != p.round || q.rank != p.rank) ++ [p] } }) ∧
    ((∀ r, r < n → r ≠ p.rank → ∃ q ∈ s.xch.reports, q.comm = p.comm ∧ q.round = p.round ∧ q.rank = r) →
      exec (.residualReport p) s = .next { s with xch := { s.xch with
        reports := s.xch.reports.filter (fun q => q.comm != p.comm || q.round != p.round)
        inputs := if ∀ r, r < n → ∀ k ∈ leftOf s p r, k = 0 then s.xch.inputs
          else s.xch.inputs ++ [⟨p.comm, p.round, demandOf n (leftOf s p), true, s.nanos⟩] } })) ∧
  (∀ s : State, s.xch.acting = false → s.standby = s.devid.toNat → s.xch.rounds = [] →
    ∃ t, exec .arbiterTakeover s = .next t ∧ t.xch.arbGen = s.xch.arbGen + 1#16 ∧ t.xch.acting = true ∧
      t.fab.out = s.fab.out ++ s.members.map (fun d => .arbiter d (s.xch.arbGen + 1#16))) ∧
  (∀ s : State, s.standby ≠ s.devid.toNat → s.leader ≠ s.devid.toNat → s.xch.rounds = [] →
    exec .arbiterTakeover s = .next { s with xch := { s.xch with arbGen := s.xch.arbGen + 1#16, taken := true } }) ∧
  (∀ (s : State) r, s.leader ≠ s.devid.toNat → s.xch.rounds = [r] → r.posting = true → r.ackStandby = false →
    ∃ t, exec .arbiterTakeover s = .next t ∧ Msg.post s.standby false ⟨r.comm, r.round, r.rank, r.entries⟩ ∈ t.fab.out ∧
      ∀ q ∈ t.xch.rounds, q.id = r.id → q.ackPrimary = false) ∧
  (∀ (s : State) comm round r rest, s.ready = true → s.xch.rounds = r :: rest → r.comm = comm → r.round = round → r.posting = true →
    (∀ q ∈ rest, ¬ (q.comm = comm ∧ q.round = round)) → ∀ sb,
    exec (.postAcknowledgement comm round sb) s = .next { s with xch := { s.xch with
      rounds := (if s.xch.taken then { r with ackPrimary := true, ackStandby := true }
        else if sb then { r with ackStandby := true } else { r with ackPrimary := true }) :: rest } }) ∧
  (∀ (s : State) r g dst budget (q : SendQ) ps, SlotRuns s → RoundRuns s r → s.xch.grants = [g] → g.comm = r.comm → g.round = r.round →
    g.start ≤ s.xch.slot → s.xch.slot < g.start + g.slots.length → g.slots.getD (s.xch.slot - g.start) none = some (dst, budget) →
    r.sends[dst]? = some q → 0 < slotBytesOf s budget q → (s.ranks r.comm).getD dst 0 ≠ s.devid.toNat →
    s.route .data ((s.ranks r.comm).getD dst 0) ≠ none →
    s.enginePieces r.core r.ctx (q.addr + q.sent) (slotBytesOf s budget q) .load = .ok ps → s.piecesFree (some r.id) ps = true →
    ∃ t, exec .slotBoundary s = .next t ∧ t.xch.ran = s.xch.slot ∧ t.xch.slot = s.xch.slot ∧
      ∃ k ∈ t.fab.sent, k.dst = (s.ranks r.comm).getD dst 0 ∧
        k.payload = .xdata ⟨r.comm, r.round, r.gen, r.rank, q.sent, s.piecePick r.since ps, s.pieceBad ps⟩) ∧
  (∀ (s : State) g a, SlotBegins s → s.xch.grants = [g] → s.account g.comm g.round = some a → g.start + g.slots.length ≤ s.xch.slot + 1 →
    s.xch.acting = false →
    ∃ t, exec .slotBoundary s = .next t ∧ t.xch.slot = s.xch.slot + 1 ∧ t.xch.slotAt = s.xch.slotAt + 10000 ∧ t.xch.grants = [] ∧
      t.fab.out = s.fab.out ++ [.report s.arbiter ⟨g.comm, g.round, s.gen, a.rank, a.left⟩] ∧
      Map.find (fun _ => Over.mk [] 0 none) t.xch.overs g.comm =
        (if g.residual then Map.find (fun _ => Over.mk [] 0 none) s.xch.overs g.comm
          else (Map.find (fun _ => Over.mk [] 0 none) s.xch.overs g.comm).count a.uncapped (a.first.map quanta))) ∧
  (∀ s : State, SlotBegins s → s.xch.grants = [] → exec .slotBoundary s = .next { s with xch := { s.xch with
    slot := s.xch.slot + 1, slotAt := s.xch.slotAt + 10000, cals := s.xch.cals.filter (fun c => s.xch.slot + 1 < c.start + c.slots.length) } }) ∧
  (∀ s : State, SlotRuns s → s.xch.grants = [] → s.xch.rounds = [] →
    exec .slotBoundary s = .next { s with xch := { s.xch with ran := s.xch.slot } }) ∧
  (∀ s : State, ¬ SlotRuns s → ¬ SlotBegins s → exec .slotBoundary s = .next s) ∧
  (∀ (s : State) (p : XData), Takes s p.gen → s.round? p.comm p.round = none →
    exec (.exchangeData p) s = .next { s with xch := { s.xch with data := s.xch.data ++ [p] } }) ∧
  (∀ (s : State) (p : XData) r q x, Takes s p.gen → RoundRuns s r → r.comm = p.comm → r.round = p.round → r.recvs[p.src]? = some q →
    p.off + p.data.length ≤ q.cap → s.enginePieces r.core r.ctx (q.addr + p.off) p.data.length .store = .ok [(x, 0, p.data.length)] →
    s.piecesDue r.id r.pts [(x, 0, p.data.length)] = true → (x.addr + 8 ≤ x.fpa ∨ x.fpa + p.data.length ≤ x.addr) →
    ∃ t r', exec (.exchangeData p) s = .next t ∧ t.readBytes x.fpa p.data.length = p.data ∧ StandsOutside s t [(x.addr, 8), (x.fpa, p.data.length)] ∧
      t.xch.data = [] ∧ t.round? p.comm p.round = some r' ∧ r.pts ≤ r'.pts ∧
      { r' with pts := r.pts } = { r with recvs := r.recvs.set p.src { q with got := q.got + p.data.length } } ∧ t.wave = s.wave) ∧
  (∀ (s : State) (p : XEnd) r q, Takes s p.gen → p.fault = false → RoundRuns s r → r.comm = p.comm → r.round = p.round → r.recvs[p.src]? = some q →
    ∃ t, exec (.endMarker p) s = .next t ∧ OnlyExchange s t ∧
      t.round? p.comm p.round = some { r with recvs := r.recvs.set p.src { q with ended := true } }) ∧
  (∀ (s : State) (p : XEnd) r, s.units = [] → Takes s p.gen → s.xch.rounds = [r] → r.ended = false → r.comm = p.comm → r.round = p.round →
    s.xch.data = [] → s.xch.ends = [] → GotApart r →
    (p.fault = true → ∃ t, exec (.endMarker p) s = .next t ∧ RoundOver t r 3 7 0 ∧ WaiterTold s t .xchg r.ctx r.descVa 3) ∧
    (p.fault = false → r.started = true → r.stopped = false → (∀ q ∈ r.sends, q.marked = true) → (∀ q ∈ r.recvs, q.got ≤ q.cap) →
      s.unacked r = false → (∀ j q, r.recvs[j]? = some q → q.ended = true ∨ j = p.src) →
      ∃ t, exec (.endMarker p) s = .next t ∧ RoundOver t r 0 0 0 ∧ WaiterTold s t .xchg r.ctx r.descVa 0)) ∧
  (∀ (s : State) comm round, s.ready = true → s.round? comm round = none → exec (.roundStopNotice comm round) s = .next { s with xch := { s.xch with
    grants := s.xch.grants.filter (fun g => g.comm != comm || g.round != round) } }) ∧
  (∀ (s : State) (p : CollPacket) (d : XData) (e : XEnd) (g : GrantMsg) (k : XReport) comm round sb, s.ready = false →
    ∀ i ∈ [Instr.collPacket p, .exchangeData d, .endMarker e, .grant g, .residualReport k, .postAcknowledgement comm round sb,
      .roundStopNotice comm round], exec i s = .next s) ∧
  ∀ (s : State) r, s.ready = true → s.units = [] → s.xch.rounds = [r] → r.ended = false → GotApart r →
    ∃ t, exec (.roundStopNotice r.comm r.round) s = .next t ∧ RoundOver t r 4 0 0 ∧ WaiterTold s t .xchg r.ctx r.descVa 4 ∧
      (∀ g ∈ t.xch.grants, ¬ (g.comm = r.comm ∧ g.round = r.round)) ∧
      (r.started = false → r.recvs = [] → r.owned = [] → EndDue s r.desc r.pts 3 → t.units = [] ∧ t.readMem (r.desc + 0x24) 4 = 4 ∧
        t.readMem (r.desc + 0x28) 2 = 0)

/-! ## The steps of the transport, of links and wavelengths, of memory codes, ageing and heat -/

namespace Sys2Proof.Stmt

/-- A packet that this device takes from a member (R255, R341, R373): it is ready, the tag holds, and the packet is neither a duplicate nor
waiting. -/
def Acceptable (s : State) (p : E2EPacket) : Prop :=
  s.ready = true ∧ (p.encrypted = true → p.tagOk = true) ∧ s.isMember p.src = true ∧ p.seq ∉ (s.rxOf p.src).seen ∧
    ∀ q ∈ (s.rxOf p.src).ahead, q.seq ≠ p.seq

/-- The packet comes in sequence, and none waits behind it. -/
def InSequence (s : State) (p : E2EPacket) : Prop := Acceptable s p ∧ p.seq = (s.rxOf p.src).next ∧ (s.rxOf p.src).ahead = []

/-- The access of a peer's packet performs at this home now: its window and its alignment admit it, nobody else holds its lines, no view covers
what it writes, its timestamp is granted, and no earlier write to a common line waits (R181, R190, R194, R338, R342). -/
def HomeTakes (s : State) (src : Nat) (p : Payload) (x : PeerAccess) : Prop :=
  peerAccess p = some x ∧ s.admitsPeer src p x = true ∧ s.openTo (.peer src) (s.hbm x.off) x.len = true ∧
    (x.writes = true → s.viewed x.off x.len = false ∧ s.stampDue (s.storeStamp x.pts (s.hbm x.off) x.len) = true) ∧
    s.standsBehind (.peer src p) s.memb.held = false

/-- The posts of an arbiter with one more. -/
def posted (s : State) (q : XPost) : State := { s with xch := { s.xch with posts := s.xch.posts ++ [q] } }

/-- A register that counts has risen by `n`, and nothing else has changed. -/
def CountsOnly (s t : State) (off n : Nat) : Prop := OnlyRegister s t off (s.reg off + BitVec.ofNat 64 n)

/-- A wavelength of a global port (R374). -/
def IsWl (p w : Nat) : Prop := p < 48 ∧ w < 8

/-- PSTATE counts the ACTIVE wavelengths of the port (R374). -/
def PortFollows (t : State) (p : Nat) : Prop := getField (t.reg (0x100400 + 0x800 * p)) 4 4 = t.activeWls p

end Sys2Proof.Stmt

/-- R180, R181, R190, R194, R204, R206, R254 to R256, R315, R317, R340 to R342, R372, R373: packets of a peer perform once and in sequence, inside an
export window or in the frames that an open view gives its spare (R338): stores, loads, every atomic, and lines that a device of the group takes and gives back; they wait at their home as this device's
own do; duplicates, failing tags and wrong generations are counted; a demand post joins an arbiter's inputs; an unacknowledged packet is sent
again; keys and links. The model's own choices in it: tags and signatures, sequence numbers by generation, events that cannot happen, tags that
fail elsewhere, the order at a home, and confidential packets (log entries 21, 51, 79, 117, 118 and 123). -/
def Obligations.TransportAndLinkSteps : Prop :=
  (∀ (s : State) p, s.ready = false → exec (.e2ePacket p) s = .next s) ∧
  (∀ (s : State) (p : E2EPacket), s.ready = true → p.encrypted = true → p.tagOk = false →
    ∃ t, exec (.e2ePacket p) s = .next t ∧ t.fab.tagDrops = s.fab.tagDrops + 1 ∧
      (Map.find (fun _ => 0) s.fab.tagFails (p.src * 65536 + p.seq) = 3 → t.events = s.events ++ [.security p.src] ∧
        t.fab.out = s.fab.out ++ [.tagLost p.src p.seq] ∧ Map.find (fun _ => 0) t.fab.tagFails (p.src * 65536 + p.seq) = 0) ∧
      (Map.find (fun _ => 0) s.fab.tagFails (p.src * 65536 + p.seq) ≠ 3 → t.events = s.events ∧
        Map.find (fun _ => 0) t.fab.tagFails (p.src * 65536 + p.seq) = Map.find (fun _ => 0) s.fab.tagFails (p.src * 65536 + p.seq) + 1) ∧
      { t with fab := s.fab, events := s.events } = s) ∧
  (∀ (s : State) (p : E2EPacket) k, s.ready = true → (p.encrypted = true → p.tagOk = true) → p.payload = .ack k → s.xch.rounds = [] →
    exec (.e2ePacket p) s = .next { s with fab := { s.fab with sent := s.fab.sent.filter (fun q => q.dst != p.src || q.seq != k) } }) ∧
  (∀ (s : State) (p : E2EPacket) x, s.ready = true → (p.encrypted = true → p.tagOk = true) → peerAccess p.payload = some x →
    s.isMember p.src = false → ∃ t, exec (.e2ePacket p) s = .next t ∧ CountsOnly s t 0x130028 1) ∧
  (∀ (s : State) (p : E2EPacket) x, s.ready = true → (p.encrypted = true → p.tagOk = true) → peerAccess p.payload = some x →
    s.isMember p.src = true → p.seq ∈ (s.rxOf p.src).seen →
    ∃ t, exec (.e2ePacket p) s = .next t ∧ t.reg 0x120010 = s.reg 0x120010 + 1#64 ∧ t.fab.out = s.fab.out ++ [.ack p.src p.seq] ∧
      { t with regs := s.regs, fab := s.fab } = s) ∧
  (∀ (s : State) (p : E2EPacket) x off data pts, InSequence s p → p.payload = .store off data pts → HomeTakes s p.src p.payload x →
    ∃ t, exec (.e2ePacket p) s = .next t ∧ t.readBytes (s.hbm off) data.length = data ∧ StandsOutside s t [(s.hbm off, data.length)] ∧
      (∀ l ∈ linesOf (s.hbm off) data.length, (t.line l).wts = s.storeStamp pts (s.hbm off) data.length) ∧
      t.fab.out = s.fab.out ++ [.ack p.src p.seq] ∧ (t.rxOf p.src).next = ((s.rxOf p.src).next + 1) % 65536 ∧ (t.rxOf p.src).ahead = [] ∧
      p.seq ∈ (t.rxOf p.src).seen ∧ t.wave = s.wave) ∧
  (∀ (s : State) (p : E2EPacket) x, InSequence s p → peerAccess p.payload = some x → s.admitsPeer p.src p.payload x = false →
    ∃ t, exec (.e2ePacket p) s = .next t ∧ t.fab.out = s.fab.out ++ [.ack p.src p.seq, .refused p.src x.off] ∧ { t with fab := s.fab } = s) ∧
  (∀ (s : State) (p : E2EPacket) x, InSequence s p → peerAccess p.payload = some x → s.admitsPeer p.src p.payload x = true →
    (s.openTo (.peer p.src) (s.hbm x.off) x.len = false ∨ (x.writes = true ∧ (s.viewed x.off x.len = true ∨
      s.stampDue (s.storeStamp x.pts (s.hbm x.off) x.len) = false)) ∨ s.standsBehind (.peer p.src p.payload) s.memb.held = true) →
    ∃ t, exec (.e2ePacket p) s = .next t ∧ t.memb.held = s.memb.held ++ [.peer p.src p.payload] ∧ { t with fab := s.fab, memb := s.memb } = s) ∧
  (∀ (s : State) (p : E2EPacket) x off len pts, InSequence s p → p.payload = .load off len pts → HomeTakes s p.src p.payload x →
    ∃ t w r, exec (.e2ePacket p) s = .next t ∧ t.mem = s.mem ∧ t.wave = s.wave ∧
      t.fab.out = s.fab.out ++ [.ack p.src p.seq, .loadData p.src off (s.readBytes (s.hbm off) len) (s.anyPoison (s.hbm off) len) w r] ∧
      ∀ l ∈ linesOf (s.hbm off) len, (s.line l).wts ≤ w ∧ r ≤ (t.line l).rts ∧ s.floor + s.lease ≤ (t.line l).rts ∧ pts ≤ (t.line l).rts) ∧
  (∀ (s : State) (p : E2EPacket) x off op v pts n, InSequence s p → p.payload = .atomic off op v pts → n = (if op = .fadd then 4 else 8) →
    HomeTakes s p.src p.payload x →
    (s.anyPoison (s.hbm off) n = false → ∃ t, exec (.e2ePacket p) s = .next t ∧
      t.readMem (s.hbm off) n = (atomicNew op (BitVec.ofNat 64 (s.readMem (s.hbm off) n)) v).toNat % 2 ^ (8 * n) ∧
      StandsOutside s t [(s.hbm off, n)] ∧ ∃ w r, t.fab.out = s.fab.out ++ [.ack p.src p.seq, .loadData p.src off (s.readBytes (s.hbm off) n) false w r]) ∧
    (s.anyPoison (s.hbm off) n = true → ∃ t, exec (.e2ePacket p) s = .next t ∧ t.mem = s.mem ∧
      ∃ w r, t.fab.out = s.fab.out ++ [.ack p.src p.seq, .loadData p.src off [] true w r])) ∧
  (∀ (s : State) (p : E2EPacket) x off float v pts, InSequence s p → p.payload = .laneAtomic off float v pts → HomeTakes s p.src p.payload x →
    s.anyPoison (s.hbm off) 4 = false → ∃ t, exec (.e2ePacket p) s = .next t ∧
      t.readMem (s.hbm off) 4 = (if float then add32 (BitVec.ofNat 32 (s.readMem (s.hbm off) 4)) v else BitVec.ofNat 32 (s.readMem (s.hbm off) 4) + v).toNat ∧
      StandsOutside s t [(s.hbm off, 4)] ∧ ∃ w r, t.fab.out = s.fab.out ++ [.ack p.src p.seq, .loadData p.src off (s.readBytes (s.hbm off) 4) false w r]) ∧
  (∀ (s : State) (p : E2EPacket) x off pts, InSequence s p → p.payload = .own off pts → HomeTakes s p.src p.payload x →
    ∃ t, exec (.e2ePacket p) s = .next t ∧ t.mem = s.mem ∧ (t.line (lineOf (s.hbm x.off))).owner = some (.peer p.src) ∧
      t.fab.out = s.fab.out ++ [.ack p.src p.seq, .owned p.src off (s.readBytes (s.hbm x.off) 128) (s.storeStamp pts (s.hbm x.off) 128)]) ∧
  (∀ (s : State) (p : E2EPacket) off data wts l, InSequence s p → p.payload = .back off data wts → data.length = 128 →
    l = lineOf (s.hbm (off / 128 * 128)) → (s.line l).owner ∈ [some (.peer p.src), some (.recalled p.src)] →
    s.viewed (off / 128 * 128) 128 = false → s.standsBehind (.peer p.src p.payload) s.memb.held = false →
    ∃ t, exec (.e2ePacket p) s = .next t ∧ (t.line l).owner = none ∧ t.readBytes (s.hbm (off / 128 * 128)) 128 = data ∧
      StandsOutside s t [(s.hbm (off / 128 * 128), 128)]) ∧
  (∀ (s : State) (p : E2EPacket) q, InSequence s p → p.payload = .post q → p.gen = s.gen → s.leader = s.devid.toNat → s.xch.acting = true →
    (q.comm, q.round) ∉ s.xch.stops → (∀ k ∈ s.xch.posts, ¬ (k.comm = q.comm ∧ k.round = q.round ∧ k.rank = q.rank)) →
    ∃ t, exec (.e2ePacket p) s = .next t ∧
      ((posted s q).allPosted q.comm q.round = false ∨ (posted s q).earlierRound q.comm q.round = true →
        t.xch.posts = s.xch.posts ++ [q] ∧ t.xch.inputs = s.xch.inputs) ∧
      ((posted s q).allPosted q.comm q.round = true → (posted s q).earlierRound q.comm q.round = false →
        t.xch.posts = s.xch.posts.filter (fun k => k.comm != q.comm || k.round != q.round) ∧
        t.xch.inputs = s.xch.inputs ++ [⟨q.comm, q.round, demandOf (s.ranks q.comm).length (fun r =>
          match (s.xch.posts ++ [q]).find? (fun k => k.comm = q.comm ∧ k.round = q.round ∧ k.rank = r) with | some k => k.entries | none => []), false, s.nanos⟩])) ∧
  (∀ (s : State) (p : E2EPacket) x, Acceptable s p → peerAccess p.payload = some x → p.seq ≠ (s.rxOf p.src).next →
    (∀ q ∈ (s.rxOf p.src).ahead, q.seq ≠ (s.rxOf p.src).next) →
    ∃ t, exec (.e2ePacket p) s = .next t ∧ (t.rxOf p.src).ahead = (s.rxOf p.src).ahead ++ [p] ∧ (t.rxOf p.src).next = (s.rxOf p.src).next ∧
      t.fab.out = s.fab.out ++ [.ack p.src p.seq] ∧ { t with fab := s.fab } = s) ∧
  (∀ (s : State) dst seq p, s.fab.sent.find? (fun p => p.dst = dst ∧ p.seq = seq) = some p → p.at' + 1000 * s.e2eto ≤ s.nanos →
    (p.conf = true → (dst, s.gen) ∈ s.fab.keys) →
    (p.gen ≠ s.gen → exec (.e2eTimeout dst seq) s = .next { s with fab := { s.fab with sent := s.fab.sent.erase p } }) ∧
    (p.gen = s.gen → ∃ t, exec (.e2eTimeout dst seq) s = .next t ∧ t.reg 0x120008 = s.reg 0x120008 + 1#64 ∧
      t.fab.sent = s.fab.sent.map (fun q => if q = p then { p with at' := s.nanos } else q) ∧ { t with regs := s.regs, fab := s.fab } = s)) ∧
  (∀ (s : State) dst seq, (∀ p ∈ s.fab.sent, p.dst = dst → p.seq = seq → s.nanos < p.at' + 1000 * s.e2eto ∨ (p.conf = true ∧ (dst, s.gen) ∉ s.fab.keys)) → exec (.e2eTimeout dst seq) s = .next s) ∧
  (∀ (s : State) peer gen ok, s.ready = false → exec (.keyExchange peer gen ok) s = .next s) ∧
  (∀ (s : State) peer gen, s.ready = true → exec (.keyExchange peer gen false) s = .next { s with events := s.events ++ [.badKey peer] } ∧
    (gen = s.gen → (peer, gen) ∉ s.fab.keys →
      exec (.keyExchange peer gen true) s = .next { s with fab := { s.fab with keys := s.fab.keys ++ [(peer, gen)] } }) ∧
    ((gen ≠ s.gen ∨ (peer, gen) ∈ s.fab.keys) → exec (.keyExchange peer gen true) s = .next s)) ∧
  (∀ (s : State) e, e < 31 → ∃ t, exec (.linkReplay (.electrical e)) s = .next t ∧ CountsOnly s t (0x118000 + 0x40 * e) 1) ∧
  (∀ (s : State) g, g < 48 → ∃ t, exec (.linkReplay (.global g)) s = .next t ∧ CountsOnly s t (0x100408 + 0x800 * g) 1) ∧
  (∀ (s : State) port, portOk port = true → port ∉ s.links.down →
    exec (.linkDown port) s = .next { s with links := { s.links with down := s.links.down ++ [port] } }) ∧
  (∀ (s : State) port, (portOk port = false ∨ port ∈ s.links.down) → exec (.linkDown port) s = .next s) ∧
  ∀ (s : State) port, exec (.linkRetrained port) s = .next { s with links := { s.links with down := s.links.down.erase port } }

/-- R283, R365, R367 to R371, R374 to R378, R397, R398, R406: a wavelength goes from ACTIVE to HANDBACK to RETRAIN and back, or is SPARED;
memory codes check, correct, poison and count; margins found short wait for a step mark; REPLACE is sent again; heat. The model's own choices in
it: symbols of a window, stacks of stripes, undefined bytes, attempts, tests and the shipped LMRETN (log entries 11, 18, 19, 20, 56, 57 and
61). -/
def Obligations.LinkAndIntegritySteps : Prop :=
  (∀ (s : State) p w errs, IsWl p w → s.wlState p w = 0 → s.windowStart p w + 100000 ≤ s.nanos →
    (errs ≤ 64 ∨ s.aboveOf p w ≠ 9 ∨ (s.activeWls p < 7 ∧ s.attempt p w = 0 ∧ s.fails p w = 0)) →
    ∃ t n, exec (.berWindow p w errs) s = .next t ∧ n ≤ errs ∧ t.reg (wlReg p w) = s.reg (wlReg p w) + BitVec.ofNat 64 n ∧
      getField (t.reg (wlReg p w + 8)) 0 32 = min errs 0xFFFFFFFF ∧ t.aboveOf p w = (if 64 < errs then min (s.aboveOf p w + 1) 65535 else 0) ∧
      t.wlState p w = 0 ∧ t.windowStart p w = s.windowStart p w + 100000 ∧ { t with regs := s.regs, fresh := s.fresh, links := s.links } = s) ∧
  (∀ (s : State) p w errs, IsWl p w → s.wlState p w = 0 → s.windowStart p w + 100000 ≤ s.nanos → 64 < errs → s.aboveOf p w = 9 → 7 ≤ s.activeWls p →
    (s.attempt p w = 0 ∨ s.returnedAt p w + 100000000 ≤ s.nanos) →
    ∃ t, exec (.berWindow p w errs) s = .next t ∧ t.wlState p w = 1 ∧ t.attempt p w = 0 ∧ t.activeWls p + 1 = s.activeWls p ∧ PortFollows t p ∧
      { t with regs := s.regs, fresh := s.fresh, links := s.links } = s) ∧
  (∀ (s : State) p w errs, IsWl p w → s.wlState p w = 0 → s.windowStart p w + 100000 ≤ s.nanos → 64 < errs → s.aboveOf p w = 9 →
    s.fails p w < s.attempt p w → s.nanos < s.returnedAt p w + 100000000 →
    (s.attempt p w < 3 → ∃ t, exec (.berWindow p w errs) s = .next t ∧ t.fails p w = min (s.fails p w + 1) 3 ∧ t.attempt p w = s.attempt p w ∧
      t.wlState p w = (if 7 ≤ s.activeWls p then 1 else 0)) ∧
    (3 ≤ s.attempt p w → ∃ t, exec (.berWindow p w errs) s = .next t ∧ t.wlState p w = 3 ∧ t.fails p w = 3 ∧ .linkEvent p w ∈ t.events)) ∧
  (∀ (s : State) p w errs, (s.wlState p w ≠ 0 ∨ s.nanos < s.windowStart p w + 100000) → exec (.berWindow p w errs) s = .next s) ∧
  (∀ (s : State) p w, IsWl p w → s.wlState p w = 1 → ∃ t, exec (.retrainStart p w) s = .next t ∧ t.wlState p w = 2 ∧
    t.attempt p w = (s.attempt p w + 1) % 16 ∧ getField (t.reg (wlReg p w + 0x18)) 32 32 = (getField (s.reg (wlReg p w + 0x18)) 32 32 + 1) % 2 ^ 32 ∧
    t.enteredAt p w = s.nanos ∧ PortFollows t p ∧ { t with regs := s.regs, links := s.links } = s) ∧
  (∀ (s : State) p w, IsWl p w → s.wlState p w ≠ 1 → exec (.retrainStart p w) s = .next s) ∧
  (∀ (s : State) p w errs, IsWl p w → s.wlState p w = 2 → errs ≤ 6 → 100000 ≤ s.nanos - s.enteredAt p w → s.nanos - s.enteredAt p w ≤ 500000 →
    ∃ t, exec (.trainingWindow p w errs) s = .next t ∧ t.wlState p w = 0 ∧ t.aboveOf p w = 0 ∧ t.returnedAt p w = s.nanos ∧
      t.windowStart p w = s.nanos ∧ PortFollows t p ∧ { t with regs := s.regs, links := s.links } = s ∧
      (∀ v, v < 8 → v ≠ w → s.wlState p v = 0 → (s.aboveOf p v < 10 → t.wlState p v = 0) ∧
        (10 ≤ s.aboveOf p v → 6 ≤ s.activeWls p → (∀ u, u < v → u ≠ w → s.wlState p u = 0 → s.aboveOf p u < 10) → t.wlState p v = 1))) ∧
  (∀ (s : State) p w errs, (s.wlState p w ≠ 2 ∨ 6 < errs ∨ s.nanos - s.enteredAt p w < 100000 ∨ 500000 < s.nanos - s.enteredAt p w) →
    exec (.trainingWindow p w errs) s = .next s) ∧
  (∀ (s : State) p w, IsWl p w → s.wlState p w = 2 → s.enteredAt p w + 500000 ≤ s.nanos →
    (s.attempt p w < 3 → ∃ t, exec (.retrainTimeout p w) s = .next t ∧ t.wlState p w = 2 ∧ t.attempt p w = s.attempt p w + 1 ∧
      t.fails p w = min (s.fails p w + 1) 3 ∧ t.enteredAt p w = s.nanos) ∧
    (3 ≤ s.attempt p w → ∃ t, exec (.retrainTimeout p w) s = .next t ∧ t.wlState p w = 3 ∧ t.fails p w = 3 ∧ .linkEvent p w ∈ t.events)) ∧
  (∀ (s : State) p w, (s.wlState p w ≠ 2 ∨ s.nanos < s.enteredAt p w + 500000) → exec (.retrainTimeout p w) s = .next s) ∧
  (∀ (s : State) p w, IsWl p w → s.wlState p w = 0 → s.returnedAt p w + 100000000 ≤ s.nanos →
    ∃ t, exec (.retrainStable p w) s = .next t ∧ t.attempt p w = 0 ∧ t.fails p w = 0 ∧ t.wlState p w = 0 ∧ { t with regs := s.regs } = s) ∧
  (∀ (s : State) p w, (s.wlState p w ≠ 0 ∨ s.nanos < s.returnedAt p w + 100000000) → exec (.retrainStable p w) s = .next s) ∧
  (sectorCheck (List.replicate 32 0#8) false = 0#16 ∧ sectorCheck (List.replicate 32 0#8) true = 0x8BB7#16 ∧
    rsGenerator = [1#8, 15#8, 54#8, 120#8, 64#8]) ∧
  (∀ (s : State) stripe bad, 2048 * stripe < hbmBytes → bad.Nodup → (∀ k ∈ bad, k < 64) → bad ≠ [] → bad.length ≤ 2 →
    ∃ t, exec (.dramScrub stripe bad) s = .next t ∧ CountsOnly s t (drReg stripe) bad.length) ∧
  (∀ (s : State) stripe bad, 2048 * stripe < hbmBytes → bad.Nodup → (∀ k ∈ bad, k < 64) → 2 < bad.length →
    ∃ t, exec (.dramScrub stripe bad) s = .next t ∧ t.reg (drReg stripe + 8) = s.reg (drReg stripe + 8) + BitVec.ofNat 64 bad.length ∧
      (∀ k ∈ bad, t.isPoisoned (s.hbm (2048 * stripe + 32 * k)) = true) ∧
      StandsOutside s t (bad.map (fun k => (s.hbm (2048 * stripe + 32 * k), 32))) ∧ t.wave = s.wave) ∧
  (∀ (s : State) stripe bad, (hbmBytes ≤ 2048 * stripe ∨ ∀ k ∈ bad, 64 ≤ k) → exec (.dramScrub stripe bad) s = .next s) ∧
  (∀ (s : State) core, core < 256 → ∃ t, exec (.softError (.correctable core)) s = .next t ∧ CountsOnly s t (srReg core) 1) ∧
  (∀ (s : State) core line, ∃ t, exec (.softError (.cleanLine core line)) s = .next t ∧ t.reg (srReg core + 8) = s.reg (srReg core + 8) + 1#64 ∧
    { t with regs := s.regs, copies := s.copies } = s ∧ ∀ e ∈ t.copies, e ∈ s.copies ∧ e.1 ≠ copyKey core line) ∧
  (∀ (s : State) core addr, ∃ t, exec (.softError (.dirtySector core addr)) s = .next t ∧ t.isPoisoned (s.fpaKey addr) = true ∧
    t.reg (srReg core + 8) = s.reg (srReg core + 8) + 1#64 ∧ { t with regs := s.regs, poison := s.poison } = s) ∧
  (∀ (s : State) core off, ∃ t, exec (.softError (.lmSector core off)) s = .next t ∧ t.lmPoisonAt core (off % lmBytes) = true ∧
    t.reg (srReg core + 8) = s.reg (srReg core + 8) + 1#64 ∧ { t with regs := s.regs, lmPoison := s.lmPoison } = s) ∧
  (∀ (s : State) core, Live s → s.crew.handle ≠ 0 → s.crew.state ≠ .ended → ∃ t, exec (.softError (.crewState core s.crew.handle)) s = .next t ∧
    .softEnd s.crew.ctx s.crew.id ∈ t.events ∧ (s.crews = [] → t.crew.state = .ended ∧ t.wave.status ≠ .live ∧ ∀ w ∈ t.crew.others, w.status ≠ .live)) ∧
  (∀ (s : State) core, core < 256 → ∃ t, exec (.shadowReplay core) s = .next t ∧ (t.coreAt core).extra = (s.coreAt core).extra + 1 ∧
    { t.coreAt core with extra := (s.coreAt core).extra } = s.coreAt core ∧ (∀ k, k ≠ core → t.coreAt k = s.coreAt k) ∧
    t.reg (0x122000 + 8 * core) = s.reg (0x122000 + 8 * core) + 1#64 ∧ { t with cores := s.cores, regs := s.regs } = s) ∧
  (∀ (s : State) p w, IsWl p w → s.wlState p w ≠ 3 → ∃ t, exec (.marginShortfall (.bias p w)) s = .next t ∧ t.wlState p w = 3 ∧
    getField (t.reg (wlReg p w + 0x10)) 16 16 = 65535 ∧ t.links.wear = s.links.wear) ∧
  (∀ (s : State) core, exec (.marginShortfall (.delay core)) s =
    .next { s with links := { s.links with wear := s.links.wear ++ [(.short (.delay core), s.nanos)] } }) ∧
  (∀ (s : State) core us, 160 ≤ us → 2 * s.lmretn ≤ us → exec (.marginShortfall (.retention core us)) s = .next s) ∧
  (∀ (s : State) core us, us < 160 → us < 2 * s.lmretn → ∃ t, exec (.marginShortfall (.retention core us)) s = .next t ∧ (t.reg svcOff).getLsbD 9 = true ∧
    t.links.wear = s.links.wear ++ (.short (.retention core us), s.nanos) :: (if us < 96 then [(.core core, s.nanos)] else [])) ∧
  (∀ s : State, ∃ t, exec .stepmark s = .next t ∧ t.views = s.views ++ s.memb.toOpen.take (64 - s.views.length) ∧ t.memb.toOpen = [] ∧ t.links.wear = [] ∧
    t.wave.pc = s.wave.pc ∧ ∀ b, t.byteAt b = s.byteAt b) ∧
  (∀ (s : State) e, s.links.wear = [e] → e.2 + 60000000000 ≤ s.nanos → ∀ i ∈ [Instr.stepmark, .wearTimeout], ∃ t, exec i s = .next t ∧ t.links.wear = [] ∧
    (∀ core, e.1 = .short (.delay core) → (s.reg 0x120020).toNat < 50 → t.reg 0x120020 = s.reg 0x120020 + 5#64) ∧
    (∀ core us, e.1 = .short (.retention core us) → t.lmretn = min s.lmretn (max 80 (us / 2 / 8 * 8))) ∧
    (∀ core, e.1 = .row core → (s.coreAt core).spareRows < 2 → (t.coreAt core).spareRows = (s.coreAt core).spareRows + 1) ∧
    (∀ core, e.1 = .core core → s.sparesUsed (dieOf core) < 2 → t.sparesUsed (dieOf core) = s.sparesUsed (dieOf core) + 1 ∧
      (t.coreAt core).spareRows = 0 ∧ (t.coreAt core).checks = 0)) ∧
  (∀ s : State, (∀ e ∈ s.links.wear, s.nanos < e.2 + 60000000000) → exec .wearTimeout s = .next s) ∧
  (∀ s : State, (s.reg svcOff).getLsbD 3 = true → s.memb.replaceAt + 10000000000 ≤ s.nanos →
    exec .replaceResend s = .next { s with
      events := s.events ++ [.replace s.devid.toNat]
      fab := { s.fab with out := s.fab.out ++ [.replace s.leader] }
      memb := { s.memb with replaceAt := s.nanos } }) ∧
  (∀ s : State, ((s.reg svcOff).getLsbD 3 = false ∨ s.nanos < s.memb.replaceAt + 10000000000) → exec .replaceResend s = .next s) ∧
  ∀ (s : State) c,
    (c < 93 → exec (.thermalSample c) s = .next { s with links := { s.links with hot := false } }) ∧
    (93 ≤ c → c < 95 → exec (.thermalSample c) s = .next s) ∧
    (95 ≤ c → c < 105 → exec (.thermalSample c) s = .next { s with links := { s.links with hot := true } }) ∧
    (105 ≤ c → ∃ t, exec (.thermalSample c) s = .next t ∧ t.bootState = 0 ∧ t.links.hot = true ∧ t.events = s.events ++ [.thermal c])

/-! ## The steps of membership and of boot -/

namespace Sys2Proof.Stmt

/-- MROLE.REMOVED (R388, R390). -/
def removedBit (s : State) : Bool := (s.reg 0x130000).getLsbD 7

/-- The device is ready and a notice is newer than its generation, by serial arithmetic (R385, R407). -/
def Newer (s : State) (g : BitVec 16) : Prop := s.ready = true ∧ 0 < (g - s.gen).toNat ∧ (g - s.gen).toNat < 32768

/-- No collective and no round is in flight. -/
def NothingInFlight (t : State) : Prop := t.fab.colls = [] ∧ ∀ r ∈ t.xch.rounds, r.ended = true

/-- The device has removed itself (R388): its collectives and rounds have ended, MROLE says so, it has no members left, and the host is told. -/
def Removed (t : State) : Prop :=
  NothingInFlight t ∧ removedBit t = true ∧ getField (t.reg 0x130000) 0 5 = 0 ∧ t.members = [] ∧ .removed ∈ t.events

/-- The device has adopted a notice (R385): the member set, GEN, LEADERS, the split in force and the arbiter generation are the notice's; what
was in flight has ended; the acknowledgement and the keys are sent. -/
def Adopted (s t : State) (n : Notice) : Prop :=
  t.gen = n.gen ∧ t.members = n.members.filter (fun d => d != s.devid.toNat) ∧ NothingInFlight t ∧ t.xch.arbGen = n.arbGen ∧
    t.leader = n.leader.toNat ∧ t.standby = n.standby.toNat ∧ getField (t.reg 0x10008) 16 6 = n.split % 64 ∧
    Msg.acknowledge n.leader.toNat n.gen ∈ t.fab.out ∧ (∀ d ∈ n.members, d ≠ s.devid.toNat → Msg.key d n.gen ∈ t.fab.out) ∧
    (∀ k ∈ t.fab.keys, k.2 = n.gen) ∧ t.memb.spares = n.spares ∧ t.memb.retiring = n.retiring ∧ t.memb.assigned = n.assigned

/-- A device's expulsion is confirmed (R383): reports, probes and answers about it are gone, and a member leaves with the next notice. -/
def Expelled (s t : State) (d : Nat) : Prop :=
  (∀ r ∈ t.memb.reports, r.2 ≠ d) ∧ (∀ p ∈ t.memb.probes, p.1 ≠ d) ∧ (∀ p ∈ t.memb.answers, p.1 ≠ d) ∧
    (s.isMember d = true → d ∈ t.memb.leaving) ∧ (s.isMember d = false → t.memb.leaving = s.memb.leaving) ∧
    (∀ x ∈ s.memb.leaving, x ∈ t.memb.leaving) ∧ { t with memb := s.memb, events := s.events } = s

/-- Only the membership unit's part of the state has changed. -/
def OnlyMemb (s t : State) : Prop := { t with memb := s.memb } = s

/-- The conditions under which the leader issues the next generation (R380, R384). -/
def MayIssue (s : State) : Prop := s.memb.up = true ∧ s.quorum = true

/-- The next generation has been issued (R384): every member of the notice and every device that it removes is sent it, and the leader has
adopted it. -/
def Issued (s t : State) (n : Notice) : Prop :=
  n.gen = s.gen + 1#16 ∧ Adopted s t n ∧ t.memb.leaving = [] ∧ t.memb.joining = [] ∧ t.memb.handoffs = [] ∧ t.memb.acks = [] ∧ t.memb.issuedAt = s.nanos ∧
    (∀ d ∈ s.memb.leaving, d ∉ n.members) ∧ (∀ d ∈ n.members, d ≠ s.devid.toNat → Msg.notice d n ∈ t.fab.out) ∧
    ∀ d ∈ s.memb.leaving, d ∈ s.members → Msg.notice d n ∈ t.fab.out

/-- The clone of this spare and the place of one of its stripes that has not landed (R391, R394). -/
def Cloning (s : State) (c : Clone) (stripe off : Nat) (reps : List Nat) : Prop :=
  s.memb.clone = some c ∧ stripePlace c.extents stripe = some (off, reps) ∧ stripe ∉ c.done

/-- What every device reset leaves, whichever image the ROM finds (R8, R329, R374, R407): no context, flow or crew, no wave, LM of zeros, a floor
of 0, the DEVID and host memory as before; no guard band, no fallback, and every wavelength ACTIVE without bias unless it is SPARED. -/
def ResetLeaves (s t : State) : Prop :=
  (∀ ctx, ctx < 64 → t.ctxEnabled ctx = false) ∧ t.flows = [] ∧ t.crews = [] ∧ t.wave.status = .absent ∧ t.lm = [] ∧ t.tlb = [] ∧
    t.reg 0x120020 = 0#64 ∧ t.reg 0x120028 = 0#64 ∧ t.slow = false ∧
    (∀ p w, IsWl p w → t.wlState p w = (if s.wlState p w = 3 then 3 else 0) ∧ getField (t.reg (wlReg p w + 0x10)) 16 16 = 0) ∧
    t.copies = [] ∧ t.regions = [] ∧ t.floor = 0 ∧ t.devid = s.devid ∧ t.gen = 0#16 ∧ t.members = [] ∧ t.lease = 10 ∧
    ∀ a, (fpaDev a ≠ s.devid.toNat ∨ fpaSpace a ≠ 0) → t.byteAt a = s.byteAt a

/-- The device is ready with an image of version `v`: HBM is zero and free of poison (R329, R407). -/
def ReadyWith (t : State) (v min : Nat) : Prop :=
  t.reg 0 = 3#64 ∧ t.reg 0x10 = BitVec.ofNat 64 (min * 2 ^ 32 + v) ∧
    ∀ a, fpaDev a = t.devid.toNat → fpaSpace a = 0 → t.byteAt a = 0#8 ∧ t.isPoisoned a = false

/-- The fused minimum version (R408). -/
def fusedMin (s : State) : Nat := (s.reg 0x10).toNat / 2 ^ 32

/-- The checks of an image in the order of R407 and the cause that each gives. -/
def imageCauses (img : BootImage) (min : Nat) (c : Nat) : Prop :=
  (img.found = false ∧ c = 1) ∨ (img.found = true ∧ img.wellFormed = false ∧ c = 2) ∨
    (img.found = true ∧ img.wellFormed = true ∧ img.signatureOk = false ∧ c = 3) ∨
    (img.found = true ∧ img.wellFormed = true ∧ img.signatureOk = true ∧ img.version.toNat < min ∧ c = 4)

/-- An image that passes every check. -/
def imageGood (img : BootImage) (min : Nat) : Prop :=
  img.found = true ∧ img.wellFormed = true ∧ img.signatureOk = true ∧ min ≤ img.version.toNat

end Sys2Proof.Stmt

/-- R379 to R390, R393 to R396, R399: notices are adopted in order or remove the device; heartbeats, misses, suspicion and probes; the leader issues
generations and a standby leader takes over; a stripe of a clone lands, and a clone may fail. The model's own choices in it: the pod without a
leader, members at bring-up, peers of a suspected device, clone plans, a leader that retires or is gone, lines of a lost peer, what Updraft
owns, periods and silence (log entries 7, 52, 53, 54, 85, 114, 116, 121, 124, 125 and 126). -/
def Obligations.MembershipSteps : Prop :=
  (∀ (s : State) (n : Notice), (¬ Newer s n.gen ∨ removedBit s = true) → exec (.generationNotice n) s = .next s) ∧
  (∀ (s : State) (n : Notice), Newer s n.gen → removedBit s = false →
    (s.devid.toNat ∉ n.members → ∃ t, exec (.generationNotice n) s = .next t ∧ Removed t) ∧
    (s.devid.toNat ∈ n.members → ∃ t, exec (.generationNotice n) s = .next t ∧ Adopted s t n ∧
      ∀ c l, n.slots = [(c, l)] → s.configured c = true → l.length ≤ 65536 → t.bankTag c (1 - s.curBank c) = n.gen ∧
        t.bankValid c (1 - s.curBank c) = true ∧ t.bankCount c (1 - s.curBank c) = (l.filter (fun d => d != 0xFFFF#16)).length ∧ t.curBank c = s.curBank c)) ∧
  (∀ (s : State) b, removedBit s = false → s.memb.up = true → (b = true ∨ s.hbPeers.length < 2 * s.silentPeers) →
    ∃ t, exec (.removal b) s = .next t ∧ Removed t) ∧
  (∀ (s : State), (removedBit s = true ∨ s.memb.up = false ∨ 2 * s.silentPeers ≤ s.hbPeers.length) → exec (.removal false) s = .next s) ∧
  (∀ (s : State), (s.ready = false ∨ removedBit s = true) → exec .heartbeatPeriod s = .next s) ∧
  (∀ (s : State), s.ready = true → removedBit s = false → s.memb.up = false → ∃ t, exec .heartbeatPeriod s = .next t ∧ t.memb.up = true ∧
    t.pod = some s.podGroups ∧ t.leader = (s.reg 0x10050).toNat % 65536 ∧ t.standby = (s.reg 0x10050).toNat / 65536 % 65536 ∧
    (t.reg 0x130000).getLsbD 0 = true ∧ (t.leader = t.standby → .noLeader ∈ t.events) ∧ t.wave = s.wave) ∧
  (∀ (s : State), s.memb.up = true → s.nanos / 20000 ≤ s.memb.hbPeriod → exec .heartbeatPeriod s = .next s) ∧
  (∀ (s : State), s.ready = true → removedBit s = false → s.memb.up = true → s.memb.hbPeriod < s.nanos / 20000 → s.hbPeers.Nodup →
    ∃ t, exec .heartbeatPeriod s = .next t ∧ (∀ d ∈ s.hbPeers, (t.peer d).heard = false ∧
      (t.peer d).miss = (if (s.peer d).heard then (s.peer d).miss else (s.peer d).miss + 1) ∧
      Msg.heartbeat d s.gen (s.reg svcOff).toNat s.floor s.xch.slot ∈ t.fab.out ∧
      ((s.peer d).heard = false → (s.peer d).miss = 4 → (t.peer d).suspected = true ∧ Msg.suspicion s.leader d false ∈ t.fab.out ∧
        Msg.suspicion s.standby d false ∈ t.fab.out)) ∧ t.wave = s.wave) ∧
  (∀ (s : State) dev gen svc fl sl, (s.ready = false ∨ dev = s.devid.toNat) → exec (.heartbeat dev gen svc fl sl) s = .next s) ∧
  (∀ (s : State) dev gen svc fl sl, s.ready = true → dev ≠ s.devid.toNat → ∃ t, exec (.heartbeat dev gen svc fl sl) s = .next t ∧
    t.peer dev = { s.peer dev with last := s.nanos, miss := 0, heard := true, suspected := false, svc := svc } ∧ t.floor = max s.floor fl ∧
    t.xch.slot = max s.xch.slot sl ∧ (dev / 32 ≠ s.devid.toNat / 32 → dev ∈ t.memb.partners) ∧
    ((s.peer dev).suspected = true → Msg.suspicion s.leader dev true ∈ t.fab.out) ∧ t.wave = s.wave) ∧
  (∀ s : State, (s.memb.up = false ∨ s.nanos / 1000000 ≤ s.memb.beaconPeriod) → exec .beaconPeriod s = .next s) ∧
  (∀ s : State, s.memb.up = true → s.memb.beaconPeriod < s.nanos / 1000000 → ∃ t, exec .beaconPeriod s = .next t ∧
    t.fab.out = s.fab.out ++ [.beacon s.leader (s.reg svcOff).toNat (s.hbPeers.filter (fun d => (s.peer d).suspected)),
      .beacon s.standby (s.reg svcOff).toNat (s.hbPeers.filter (fun d => (s.peer d).suspected))] ∧
    (s.isLeader = true → t.memb.quorumLost = !s.quorum ∧ t.events = s.events ++ (if s.quorum || s.memb.quorumLost then [] else [.noQuorum])) ∧
    (s.isLeader = false → { t with fab := s.fab, memb := s.memb } = s)) ∧
  (∀ (s : State) dev svc l, s.isLeader = false → s.isStandby = false → exec (.beacon dev svc l) s = .next s) ∧
  (∀ (s : State) dev svc, (s.isLeader = true ∨ s.isStandby = true) → ∃ t, exec (.beacon dev svc []) s = .next t ∧ OnlyMemb s t ∧
    (dev, s.nanos) ∈ t.memb.beacons ∧ (t.peer dev).svc = svc ∧
    (s.isMember dev = false → dev ≠ s.devid.toNat → dev / 32 ∈ s.podGroups → (s.peer dev).expelled = false →
      (∀ j ∈ s.memb.joining, j.1 ≠ dev) → t.memb.joining = s.memb.joining ++ [(dev, dev)])) ∧
  (∀ (s : State) a b w, s.isLeader = false → s.isStandby = false → exec (.suspicionReport a b w) s = .next s) ∧
  (∀ (s : State) a d, (s.isLeader = true ∨ s.isStandby = true) → exec (.suspicionReport a d true) s = .next { s with memb := { s.memb with
    reports := s.memb.reports.filter (fun r => r != (a, d)) } }) ∧
  (∀ (s : State) a b c d, s.isLeader = true → s.memb.reports = [(a, d), (b, d)] → [a, b, c].Nodup → (a / 32 ≠ d / 32 ∨ b / 32 ≠ d / 32 ∨ c / 32 ≠ d / 32) →
    s.isMember d = true → (∀ p ∈ s.memb.probes, p.1 ≠ d) → d ∉ s.memb.leaving →
    ∃ t, exec (.suspicionReport c d false) s = .next t ∧ t.memb.probes = s.memb.probes ++ [(d, s.nanos)] ∧ t.fab.out = s.fab.out ++ [.probe d]) ∧
  (∀ (s : State) a d, (s.isLeader = true ∨ s.isStandby = true) → a / 32 = d / 32 → (∀ r ∈ s.memb.reports, r.2 = d → r.1 / 32 = d / 32) →
    exec (.suspicionReport a d false) s = .next { s with memb := { s.memb with
      reports := s.memb.reports.filter (fun r => r != (a, d)) ++ [(a, d)] } }) ∧
  (∀ (s : State) d at', (d, at') ∈ s.memb.probes → at' + 20000 ≤ s.nanos → ∃ t, exec (.probeTimeout d) s = .next t ∧ Expelled s t d ∧ t.events = s.events) ∧
  (∀ (s : State) d, (∀ p ∈ s.memb.probes, p.1 = d → s.nanos < p.2 + 20000) → exec (.probeTimeout d) s = .next s) ∧
  (∀ (s : State) d, (∃ p ∈ s.memb.probes, p.1 = d) → ∃ t, exec (.probeAnswer d) s = .next t ∧ t.events = s.events ++ [.unreachable d] ∧
    (∀ r ∈ t.memb.reports, r.2 ≠ d) ∧ (∀ p ∈ t.memb.probes, p.1 ≠ d) ∧
    (2 ≤ s.memb.answers.countP (fun a => a.1 = d ∧ s.nanos < a.2 + 10000000) → Expelled s t d) ∧
    (s.memb.answers.countP (fun a => a.1 = d ∧ s.nanos < a.2 + 10000000) < 2 → (d, s.nanos) ∈ t.memb.answers ∧ t.memb.leaving = s.memb.leaving)) ∧
  (∀ (s : State) d, (∀ p ∈ s.memb.probes, p.1 ≠ d) → exec (.probeAnswer d) s = .next s) ∧
  (∀ (s : State) d, s.isLeader = false → exec (.retireForce d) s = .next s ∧ exec (.retireHandoff d) s = .next s ∧
    ((s.isStandby = false ∨ d ≠ s.leader) → exec (.failureDeclaration d) s = .next s)) ∧
  (∀ (s : State), s.isStandby = true → ∃ t, exec (.failureDeclaration s.leader) s = .next t ∧ Expelled s t s.leader ∧ t.events = s.events) ∧
  (∀ (s : State) d, s.isLeader = true → ∃ t, exec (.failureDeclaration d) s = .next t ∧ Expelled s t d ∧ t.events = s.events) ∧
  (∀ (s : State) d, s.isLeader = true → s.retirable d = true →
    (d ≠ s.devid.toNat → ∃ t, exec (.retireForce d) s = .next t ∧ Expelled s t d ∧ t.events = s.events) ∧
    (d = s.devid.toNat → exec (.retireForce d) s = .next { s with fab := { s.fab with out := s.fab.out ++ [.failure s.standby d] } })) ∧
  (∀ (s : State) d, s.isLeader = true → s.retirable d = true → ∃ t, exec (.retireHandoff d) s = .next t ∧ OnlyMemb s t ∧ d ∈ t.memb.handoffs ∧
    t.memb.leaving = s.memb.leaving) ∧
  (∀ (s : State) d, s.isLeader = true → s.retirable d = false → ∀ i ∈ [Instr.retireForce d, .retireHandoff d],
    exec i s = .next { s with events := s.events ++ [.retireIgnored d] }) ∧
  (∀ (s : State), MayIssue s → s.isLeader = true → s.noticeDue = true → s.maySpace = true →
    (∀ j ∈ s.memb.joining, j.2 ≠ s.devid.toNat) → s.devid.toNat ∉ s.memb.leaving →
    ∃ t n, exec .generationIssue s = .next t ∧ Issued s t n ∧ n.leader.toNat = s.leader ∧
      ∀ d ∈ s.memb.handoffs, d ∈ s.members → d ∉ s.memb.leaving → (∀ j ∈ s.memb.joining, j.2 ≠ d) → d ∈ n.retiring) ∧
  (∀ (s : State), (s.memb.up = false ∨ s.isLeader = false ∨ s.quorum = false ∨ s.noticeDue = false ∨ s.maySpace = false) → exec .generationIssue s = .next s) ∧
  (∀ (s : State) d g, (s.isLeader = false ∨ g ≠ s.gen) → exec (.noticeAcknowledgement d g) s = .next s) ∧
  (∀ (s : State) d, s.isLeader = true → ∃ t, exec (.noticeAcknowledgement d s.gen) s = .next t ∧ OnlyMemb s t ∧ d ∈ t.memb.acks ∧
    ∀ x ∈ s.memb.acks, x ∈ t.memb.acks) ∧
  (∀ (s : State), MayIssue s → s.isStandby = true → s.leader ∈ s.memb.leaving → (∀ j ∈ s.memb.joining, j.2 ≠ s.devid.toNat) →
    s.devid.toNat ∉ s.memb.leaving → ∃ t n, exec .leaderTakeover s = .next t ∧ Issued s t n ∧
    t.leader = s.devid.toNat ∧ s.leader ∉ n.members) ∧
  (∀ (s : State), (s.memb.up = false ∨ s.isStandby = false ∨ s.leader ∉ s.memb.leaving ∨ s.quorum = false) → exec .leaderTakeover s = .next s) ∧
  (∀ (s : State) k data poison, s.memb.clone = none → exec (.stripeLand k data poison) s = .next s) ∧
  (∀ (s : State) c k off reps data, Cloning s c k off reps → (∃ d ∈ reps, s.isMember d = true) → data.length = 2 ^ 20 → s.landDue off = true →
    ∃ t, exec (.stripeLand k data []) s = .next t ∧ t.readBytes (s.hbm off) (2 ^ 20) = data ∧ StandsOutside s t [(s.hbm off, 2 ^ 20)] ∧
      (∃ c', t.memb.clone = some c' ∧ k ∈ c'.done ∧ (∀ j ∈ c.done, j ∈ c'.done)) ∧ t.wave = s.wave) ∧
  (∀ (s : State) c k off reps data poison, Cloning s c k off reps → poison ≠ [] →
    Map.find (fun _ => 0) c.tries k + 1 < (reps.filter s.isMember).length →
    ∃ t c', exec (.stripeLand k data poison) s = .next t ∧ t.memb.clone = some c' ∧ Map.find (fun _ => 0) c'.tries k = Map.find (fun _ => 0) c.tries k + 1 ∧
      c'.done = c.done ∧ t.mem = s.mem ∧ t.wave = s.wave) ∧
  (∀ (s : State) c k off reps data poison, Cloning s c k off reps → poison ≠ [] → (∃ d ∈ reps, s.isMember d = true) →
    (reps.filter s.isMember).length ≤ Map.find (fun _ => 0) c.tries k + 1 → data.length = 2 ^ 20 → s.landDue off = true →
    ∃ t, exec (.stripeLand k data poison) s = .next t ∧ t.readBytes (s.hbm off) (2 ^ 20) = data ∧ .clonePoison off ∈ t.events ∧
      ∀ j ∈ poison, t.isPoisoned (s.hbm off + 32 * j) = true) ∧
  (∀ (s : State) c k off reps data, Cloning s c k off reps → (∃ d ∈ reps, s.isMember d = true) → s.landDue off = false →
    exec (.stripeLand k data []) s = .next s) ∧
  (∀ (s : State) c k off reps data poison, Cloning s c k off reps → (∀ d ∈ reps, s.isMember d = false) →
    ∃ t, exec (.stripeLand k data poison) s = .next t ∧ t.memb.clone = none ∧ .cloneFailed c.lost ∈ t.events ∧ t.mem = s.mem) ∧
  (∀ (s : State) at', s.memb.viewSince = some at' → at' + 5000000000 ≤ s.nanos → ∃ t, exec .cloneTimeout s = .next t ∧ t.views = [] ∧
    t.memb.clone = none ∧ t.memb.viewSince = none ∧ (∀ c, s.memb.clone = some c → .cloneFailed c.lost ∈ t.events) ∧ t.wave = s.wave) ∧
  ∀ (s : State), (∀ at', s.memb.viewSince = some at' → s.nanos < at' + 5000000000) → exec .cloneTimeout s = .next s

/-- R329, R407 to R411, R414: a reset clears the machine and boots the image that passes its checks, or fails with the cause of the first
that it does not; the fused minimum rises by command only; an attestation report carries the nonce. The model's own choices in it: digests,
what the ROM finds, what a reset keeps, the time of a boot, and the management window (log entries 2, 21, 22, 55, 74 and 75). -/
def Obligations.BootSteps : Prop :=
  (∀ (s : State) img, imageGood img (fusedMin s) → ∃ t, exec (.deviceReset img) s = .next t ∧ ResetLeaves s t ∧
    ReadyWith t img.version.toNat (fusedMin s) ∧ t.nanos = 60000000) ∧
  (∀ (s : State) img c, imageCauses img (fusedMin s) c → ∃ t, exec (.deviceReset img) s = .next t ∧ ResetLeaves s t ∧
    t.reg 0 = BitVec.ofNat 64 (256 * c + 2) ∧ fusedMin t = fusedMin s) ∧
  (∀ (s : State) img, exec (.bootcmdReset img) s = exec (.deviceReset img) s) ∧
  (∀ (s : State) img, s.bootState ≠ 2 → exec (.bootcmdRestart img) s = .next s) ∧
  (∀ (s : State) img, s.bootState = 2 → imageGood img (fusedMin s) → ∃ t, exec (.bootcmdRestart img) s = .next t ∧
    ReadyWith t img.version.toNat (fusedMin s) ∧ ∀ a, (fpaDev a ≠ s.devid.toNat ∨ fpaSpace a ≠ 0) → t.byteAt a = s.byteAt a) ∧
  (∀ (s : State) img c, s.bootState = 2 → imageCauses img (fusedMin s) c → ∃ t, exec (.bootcmdRestart img) s = .next t ∧
    t.reg 0 = BitVec.ofNat 64 (256 * c + 2) ∧ t.mem = s.mem) ∧
  (∀ (s : State) v, s.bootState = 3 → fusedMin s < v.toNat → v.toNat ≤ (s.reg 0x10).toNat % 2 ^ 32 →
    ∃ t, exec (.bootcmdRaiseMin v) s = .next t ∧ OnlyRegister s t 0x10 (BitVec.ofNat 64 (v.toNat * 2 ^ 32 + (s.reg 0x10).toNat % 2 ^ 32))) ∧
  (∀ (s : State) v, (s.bootState ≠ 3 ∨ v.toNat ≤ fusedMin s ∨ (s.reg 0x10).toNat % 2 ^ 32 < v.toNat) → exec (.bootcmdRaiseMin v) s = .next s) ∧
  (∀ (s : State) a, getField (s.reg 0x108) 0 2 ≠ 1 → ∃ t, exec (.attreq a) s = .next t ∧ getField (t.reg 0x108) 0 2 = 1 ∧
    t.links.nonce = s.readBytes (s.hostAddr (a.toNat / 32 * 32 % 2 ^ 40)) 32 ∧ { t with regs := s.regs, links := s.links } = s) ∧
  (∀ (s : State) a, getField (s.reg 0x108) 0 2 = 1 → ∃ t, exec (.attreq a) s = .next t ∧ getField (t.reg 0x108) 0 2 = 1 ∧
    (t.reg 0x108).getLsbD 2 = true ∧ { t with regs := s.regs } = s) ∧
  (∀ (s : State), getField (s.reg 0x108) 0 2 = 1 → s.links.nonce.length = 32 → ∃ t, exec .attestationDone s = .next t ∧
    getField (t.reg 0x108) 0 2 = 2 ∧ (∀ k, k < 4 → t.reg (0x200 + 8 * k) = BitVec.ofNat 64 (ofBytesLE ((s.links.nonce.drop (8 * k)).take 8))) ∧
    t.reg 0x260 = BitVec.ofNat 64 (s.devid.toNat + 2 ^ 16 * s.gen.toNat + 2 ^ 32 * ((s.reg 0x10).toNat % 2 ^ 32)) ∧ t.reg 0x268 = s.reg svcOff ∧
    { t with regs := s.regs, fresh := s.fresh } = s) ∧
  ∀ (s : State), getField (s.reg 0x108) 0 2 ≠ 1 → exec .attestationDone s = .next s
end

