-- ==== Sys2Proof/Laws/Encoding.lean ====
section
/-! SUPPORT. The fields of an encoded word (R43): each format gives back what it was made of. -/

namespace Sys2Proof.Laws

variable (y : Bool) (op : BitVec 8) (d a b : Reg) (la lb : Bool)

/-- Bit `n` of a word of format F3. -/
theorem encF3_bit (n : Nat) : (encF3 y op d a b la lb).getLsbD n =
    if n < 1 then (BitVec.ofBool lb).getLsbD n else if n < 2 then (BitVec.ofBool la).getLsbD (n - 1)
    else if n < 9 then b.getLsbD (n - 2) else if n < 16 then a.getLsbD (n - 9) else if n < 23 then d.getLsbD (n - 16)
    else if n < 31 then op.getLsbD (n - 23) else (BitVec.ofBool y).getLsbD (n - 31) := by
  change BitVec.getLsbD (w := 1 + 8 + 7 + 7 + 7 + 1 + 1)
    (BitVec.ofBool y ++ op ++ d ++ a ++ b ++ BitVec.ofBool la ++ BitVec.ofBool lb) n = _
  simp only [BitVec.getLsbD_append]
  repeat' split
  all_goals first | omega | rfl

/-- Bit `n` of a word of format FI. -/
theorem encFI_bit (i : BitVec 9) (n : Nat) : (encFI y op d a i).getLsbD n =
    if n < 9 then i.getLsbD n else if n < 16 then a.getLsbD (n - 9) else if n < 23 then d.getLsbD (n - 16)
    else if n < 31 then op.getLsbD (n - 23) else (BitVec.ofBool y).getLsbD (n - 31) := by
  change BitVec.getLsbD (w := 1 + 8 + 7 + 7 + 9) (BitVec.ofBool y ++ op ++ d ++ a ++ i) n = _
  simp only [BitVec.getLsbD_append]
  repeat' split
  all_goals first | omega | rfl

/-- Bit `n` of a word of format FL. -/
theorem encFL_bit (i : BitVec 16) (n : Nat) : (encFL y op d i).getLsbD n =
    if n < 16 then i.getLsbD n else if n < 23 then d.getLsbD (n - 16)
    else if n < 31 then op.getLsbD (n - 23) else (BitVec.ofBool y).getLsbD (n - 31) := by
  change BitVec.getLsbD (w := 1 + 8 + 7 + 16) (BitVec.ofBool y ++ op ++ d ++ i) n = _
  simp only [BitVec.getLsbD_append]
  repeat' split
  all_goals first | omega | rfl

/-- Bit `n` of a word of format FJ. -/
theorem encFJ_bit (i : BitVec 23) (n : Nat) : (encFJ y op i).getLsbD n =
    if n < 23 then i.getLsbD n else if n < 31 then op.getLsbD (n - 23) else (BitVec.ofBool y).getLsbD (n - 31) := by
  change BitVec.getLsbD (w := 1 + 8 + 23) (BitVec.ofBool y ++ op ++ i) n = _
  simp only [BitVec.getLsbD_append]
  repeat' split
  all_goals first | omega | rfl

/-- A field is what its bits are. -/
theorem field_ext {n : Nat} (w : Lane) (lo : Nat) (x : BitVec n) (h : ∀ k, k < n → w.getLsbD (lo + k) = x.getLsbD k) :
    wordField w lo n = x := by
  apply BitVec.eq_of_getLsbD_eq
  intro k hk
  simp only [wordField, BitVec.getLsbD_extractLsb', hk, decide_true, Bool.true_and]
  exact h k hk

@[simp] theorem encF3_Y : wordY (encF3 y op d a b la lb) = y := by
  unfold wordY wordBit; rw [encF3_bit]; cases y <;> rfl
@[simp] theorem encF3_LA : bitLA (encF3 y op d a b la lb) = la := by
  unfold bitLA wordBit; rw [encF3_bit]; cases la <;> rfl
@[simp] theorem encF3_LB : bitLB (encF3 y op d a b la lb) = lb := by
  unfold bitLB wordBit; rw [encF3_bit]; cases lb <;> rfl
@[simp] theorem encF3_op : opcode (encF3 y op d a b la lb) = op.toNat := by
  unfold opcode; congr 1
  refine field_ext _ _ _ fun k hk => ?_
  rw [encF3_bit]; repeat' split
  all_goals first | omega | (congr 1; omega)
@[simp] theorem encF3_D : fieldD (encF3 y op d a b la lb) = d := by
  refine field_ext _ _ _ fun k hk => ?_
  rw [encF3_bit]; repeat' split
  all_goals first | omega | (congr 1; omega)
@[simp] theorem encF3_A : fieldA (encF3 y op d a b la lb) = a := by
  refine field_ext _ _ _ fun k hk => ?_
  rw [encF3_bit]; repeat' split
  all_goals first | omega | (congr 1; omega)
@[simp] theorem encF3_B : fieldB (encF3 y op d a b la lb) = b := by
  refine field_ext _ _ _ fun k hk => ?_
  rw [encF3_bit]; repeat' split
  all_goals first | omega | (congr 1; omega)

@[simp] theorem encFI_Y (i : BitVec 9) : wordY (encFI y op d a i) = y := by
  unfold wordY wordBit; rw [encFI_bit]; cases y <;> rfl
@[simp] theorem encFI_op (i : BitVec 9) : opcode (encFI y op d a i) = op.toNat := by
  unfold opcode; congr 1
  refine field_ext _ _ _ fun k hk => ?_
  rw [encFI_bit]; repeat' split
  all_goals first | omega | (congr 1; omega)
@[simp] theorem encFI_D (i : BitVec 9) : fieldD (encFI y op d a i) = d := by
  refine field_ext _ _ _ fun k hk => ?_
  rw [encFI_bit]; repeat' split
  all_goals first | omega | (congr 1; omega)
@[simp] theorem encFI_A (i : BitVec 9) : fieldA (encFI y op d a i) = a := by
  refine field_ext _ _ _ fun k hk => ?_
  rw [encFI_bit]; repeat' split
  all_goals first | omega | (congr 1; omega)
@[simp] theorem encFI_imm (i : BitVec 9) : imm9 (encFI y op d a i) = i := by
  refine field_ext _ _ _ fun k hk => ?_
  rw [encFI_bit, Nat.zero_add, if_pos hk]

/-- A part of the immediate of an FI word. -/
theorem encFI_part (i : BitVec 9) (lo n : Nat) (h : lo + n ≤ 9) : wordField (encFI y op d a i) lo n = i.extractLsb' lo n := by
  refine field_ext _ _ _ fun k hk => ?_
  rw [encFI_bit, if_pos (by omega), BitVec.getLsbD_extractLsb', decide_eq_true hk, Bool.true_and]
theorem encFI_bitOf (i : BitVec 9) (n : Nat) (h : n < 9) : wordBit (encFI y op d a i) n = i.getLsbD n := by
  unfold wordBit; rw [encFI_bit, if_pos h]

@[simp] theorem encFL_Y (i : BitVec 16) : wordY (encFL y op d i) = y := by
  unfold wordY wordBit; rw [encFL_bit]; cases y <;> rfl
@[simp] theorem encFL_op (i : BitVec 16) : opcode (encFL y op d i) = op.toNat := by
  unfold opcode; congr 1
  refine field_ext _ _ _ fun k hk => ?_
  rw [encFL_bit]; repeat' split
  all_goals first | omega | (congr 1; omega)
@[simp] theorem encFL_D (i : BitVec 16) : fieldD (encFL y op d i) = d := by
  refine field_ext _ _ _ fun k hk => ?_
  rw [encFL_bit]; repeat' split
  all_goals first | omega | (congr 1; omega)
@[simp] theorem encFL_imm (i : BitVec 16) : imm16 (encFL y op d i) = i := by
  refine field_ext _ _ _ fun k hk => ?_
  rw [encFL_bit, Nat.zero_add, if_pos hk]

@[simp] theorem encFJ_Y (i : BitVec 23) : wordY (encFJ y op i) = y := by
  unfold wordY wordBit; rw [encFJ_bit]; cases y <;> rfl
@[simp] theorem encFJ_op (i : BitVec 23) : opcode (encFJ y op i) = op.toNat := by
  unfold opcode; congr 1
  refine field_ext _ _ _ fun k hk => ?_
  rw [encFJ_bit]; repeat' split
  all_goals first | omega | (congr 1; omega)
@[simp] theorem encFJ_imm (i : BitVec 23) : imm23 (encFJ y op i) = i := by
  refine field_ext _ _ _ fun k hk => ?_
  rw [encFJ_bit, Nat.zero_add, if_pos hk]

end Sys2Proof.Laws
end

