-- ==== Sys2Proof/Laws/Exec.lean ====
section
/-! SUPPORT. What each instruction runs: one equation a constructor, so that no proof unfolds the dispatch. -/

namespace Sys2Proof.Laws

open Sys2Proof.Machine

@[simp] theorem exec_nop (y : Bool) (s : State) : exec (.nop y) s = execNop y s := rfl
@[simp] theorem exec_add (y : Bool) (d : Reg) (a : Reg) (b : Reg) (s : State) : exec (.add y d a b) s = execAdd y d a b s := rfl
@[simp] theorem exec_sub (y : Bool) (d : Reg) (a : Reg) (b : Reg) (s : State) : exec (.sub y d a b) s = execSub y d a b s := rfl
@[simp] theorem exec_addi (y : Bool) (d : Reg) (a : Reg) (im : BitVec 9) (s : State) : exec (.addi y d a im) s = execAddi y d a im s := rfl
@[simp] theorem exec_mul (y : Bool) (d : Reg) (a : Reg) (b : Reg) (s : State) : exec (.mul y d a b) s = execMul y d a b s := rfl
@[simp] theorem exec_mulh (y : Bool) (d : Reg) (a : Reg) (b : Reg) (s : State) : exec (.mulh y d a b) s = execMulh y d a b s := rfl
@[simp] theorem exec_mulhn (y : Bool) (d : Reg) (a : Reg) (b : Reg) (s : State) : exec (.mulhn y d a b) s = execMulhn y d a b s := rfl
@[simp] theorem exec_div (y : Bool) (d : Reg) (a : Reg) (b : Reg) (s : State) : exec (.div y d a b) s = execDiv y d a b s := rfl
@[simp] theorem exec_divn (y : Bool) (d : Reg) (a : Reg) (b : Reg) (s : State) : exec (.divn y d a b) s = execDivn y d a b s := rfl
@[simp] theorem exec_rem (y : Bool) (d : Reg) (a : Reg) (b : Reg) (s : State) : exec (.rem y d a b) s = execRem y d a b s := rfl
@[simp] theorem exec_remn (y : Bool) (d : Reg) (a : Reg) (b : Reg) (s : State) : exec (.remn y d a b) s = execRemn y d a b s := rfl
@[simp] theorem exec_and (y : Bool) (d : Reg) (a : Reg) (b : Reg) (s : State) : exec (.and y d a b) s = execAnd y d a b s := rfl
@[simp] theorem exec_or (y : Bool) (d : Reg) (a : Reg) (b : Reg) (s : State) : exec (.or y d a b) s = execOr y d a b s := rfl
@[simp] theorem exec_xor (y : Bool) (d : Reg) (a : Reg) (b : Reg) (s : State) : exec (.xor y d a b) s = execXor y d a b s := rfl
@[simp] theorem exec_andn (y : Bool) (d : Reg) (a : Reg) (b : Reg) (s : State) : exec (.andn y d a b) s = execAndn y d a b s := rfl
@[simp] theorem exec_andi (y : Bool) (d : Reg) (a : Reg) (im : BitVec 9) (s : State) : exec (.andi y d a im) s = execAndi y d a im s := rfl
@[simp] theorem exec_ori (y : Bool) (d : Reg) (a : Reg) (im : BitVec 9) (s : State) : exec (.ori y d a im) s = execOri y d a im s := rfl
@[simp] theorem exec_xori (y : Bool) (d : Reg) (a : Reg) (im : BitVec 9) (s : State) : exec (.xori y d a im) s = execXori y d a im s := rfl
@[simp] theorem exec_shl (y : Bool) (d : Reg) (a : Reg) (b : Reg) (s : State) : exec (.shl y d a b) s = execShl y d a b s := rfl
@[simp] theorem exec_shr (y : Bool) (d : Reg) (a : Reg) (b : Reg) (s : State) : exec (.shr y d a b) s = execShr y d a b s := rfl
@[simp] theorem exec_sha (y : Bool) (d : Reg) (a : Reg) (b : Reg) (s : State) : exec (.sha y d a b) s = execSha y d a b s := rfl
@[simp] theorem exec_shli (y : Bool) (d : Reg) (a : Reg) (im : BitVec 6) (s : State) : exec (.shli y d a im) s = execShli y d a im s := rfl
@[simp] theorem exec_shri (y : Bool) (d : Reg) (a : Reg) (im : BitVec 6) (s : State) : exec (.shri y d a im) s = execShri y d a im s := rfl
@[simp] theorem exec_shai (y : Bool) (d : Reg) (a : Reg) (im : BitVec 6) (s : State) : exec (.shai y d a im) s = execShai y d a im s := rfl
@[simp] theorem exec_min (y : Bool) (d : Reg) (a : Reg) (b : Reg) (s : State) : exec (.min y d a b) s = execMin y d a b s := rfl
@[simp] theorem exec_max (y : Bool) (d : Reg) (a : Reg) (b : Reg) (s : State) : exec (.max y d a b) s = execMax y d a b s := rfl
@[simp] theorem exec_minn (y : Bool) (d : Reg) (a : Reg) (b : Reg) (s : State) : exec (.minn y d a b) s = execMinn y d a b s := rfl
@[simp] theorem exec_maxn (y : Bool) (d : Reg) (a : Reg) (b : Reg) (s : State) : exec (.maxn y d a b) s = execMaxn y d a b s := rfl
@[simp] theorem exec_seq (y : Bool) (d : Reg) (a : Reg) (b : Reg) (s : State) : exec (.seq y d a b) s = execSeq y d a b s := rfl
@[simp] theorem exec_slt (y : Bool) (d : Reg) (a : Reg) (b : Reg) (s : State) : exec (.slt y d a b) s = execSlt y d a b s := rfl
@[simp] theorem exec_sltn (y : Bool) (d : Reg) (a : Reg) (b : Reg) (s : State) : exec (.sltn y d a b) s = execSltn y d a b s := rfl
@[simp] theorem exec_clz (y : Bool) (d : Reg) (a : Reg) (s : State) : exec (.clz y d a) s = execClz y d a s := rfl
@[simp] theorem exec_ctz (y : Bool) (d : Reg) (a : Reg) (s : State) : exec (.ctz y d a) s = execCtz y d a s := rfl
@[simp] theorem exec_popc (y : Bool) (d : Reg) (a : Reg) (s : State) : exec (.popc y d a) s = execPopc y d a s := rfl
@[simp] theorem exec_brev (y : Bool) (d : Reg) (a : Reg) (s : State) : exec (.brev y d a) s = execBrev y d a s := rfl
@[simp] theorem exec_bswap (y : Bool) (d : Reg) (a : Reg) (s : State) : exec (.bswap y d a) s = execBswap y d a s := rfl
@[simp] theorem exec_sext8 (y : Bool) (d : Reg) (a : Reg) (s : State) : exec (.sext8 y d a) s = execSext8 y d a s := rfl
@[simp] theorem exec_sext16 (y : Bool) (d : Reg) (a : Reg) (s : State) : exec (.sext16 y d a) s = execSext16 y d a s := rfl
@[simp] theorem exec_sext32 (y : Bool) (d : Reg) (a : Reg) (s : State) : exec (.sext32 y d a) s = execSext32 y d a s := rfl
@[simp] theorem exec_zext8 (y : Bool) (d : Reg) (a : Reg) (s : State) : exec (.zext8 y d a) s = execZext8 y d a s := rfl
@[simp] theorem exec_zext16 (y : Bool) (d : Reg) (a : Reg) (s : State) : exec (.zext16 y d a) s = execZext16 y d a s := rfl
@[simp] theorem exec_zext32 (y : Bool) (d : Reg) (a : Reg) (s : State) : exec (.zext32 y d a) s = execZext32 y d a s := rfl
@[simp] theorem exec_abs (y : Bool) (d : Reg) (a : Reg) (s : State) : exec (.abs y d a) s = execAbs y d a s := rfl
@[simp] theorem exec_neg (y : Bool) (d : Reg) (a : Reg) (s : State) : exec (.neg y d a) s = execNeg y d a s := rfl
@[simp] theorem exec_not (y : Bool) (d : Reg) (a : Reg) (s : State) : exec (.not y d a) s = execNot y d a s := rfl
@[simp] theorem exec_sel (y : Bool) (d : Reg) (a : Reg) (b : Reg) (s : State) : exec (.sel y d a b) s = execSel y d a b s := rfl
@[simp] theorem exec_set0 (y : Bool) (d : Reg) (im : BitVec 16) (s : State) : exec (.set0 y d im) s = execSet0 y d im s := rfl
@[simp] theorem exec_set16 (y : Bool) (d : Reg) (im : BitVec 16) (s : State) : exec (.set16 y d im) s = execSet16 y d im s := rfl
@[simp] theorem exec_set32 (y : Bool) (d : Reg) (im : BitVec 16) (s : State) : exec (.set32 y d im) s = execSet32 y d im s := rfl
@[simp] theorem exec_set48 (y : Bool) (d : Reg) (im : BitVec 16) (s : State) : exec (.set48 y d im) s = execSet48 y d im s := rfl
@[simp] theorem exec_adpc (y : Bool) (d : Reg) (im : BitVec 16) (s : State) : exec (.adpc y d im) s = execAdpc y d im s := rfl
@[simp] theorem exec_slti (y : Bool) (d : Reg) (a : Reg) (im : BitVec 9) (s : State) : exec (.slti y d a im) s = execSlti y d a im s := rfl
@[simp] theorem exec_fadd (y : Bool) (d : Reg) (a : Reg) (b : Reg) (s : State) : exec (.fadd y d a b) s = execFadd y d a b s := rfl
@[simp] theorem exec_fsub (y : Bool) (d : Reg) (a : Reg) (b : Reg) (s : State) : exec (.fsub y d a b) s = execFsub y d a b s := rfl
@[simp] theorem exec_fmul (y : Bool) (d : Reg) (a : Reg) (b : Reg) (s : State) : exec (.fmul y d a b) s = execFmul y d a b s := rfl
@[simp] theorem exec_ffma (y : Bool) (d : Reg) (a : Reg) (b : Reg) (s : State) : exec (.ffma y d a b) s = execFfma y d a b s := rfl
@[simp] theorem exec_fdiv (y : Bool) (d : Reg) (a : Reg) (b : Reg) (s : State) : exec (.fdiv y d a b) s = execFdiv y d a b s := rfl
@[simp] theorem exec_fmin (y : Bool) (d : Reg) (a : Reg) (b : Reg) (s : State) : exec (.fmin y d a b) s = execFmin y d a b s := rfl
@[simp] theorem exec_fmax (y : Bool) (d : Reg) (a : Reg) (b : Reg) (s : State) : exec (.fmax y d a b) s = execFmax y d a b s := rfl
@[simp] theorem exec_fsqrt (y : Bool) (d : Reg) (a : Reg) (s : State) : exec (.fsqrt y d a) s = execFsqrt y d a s := rfl
@[simp] theorem exec_fabs (y : Bool) (d : Reg) (a : Reg) (s : State) : exec (.fabs y d a) s = execFabs y d a s := rfl
@[simp] theorem exec_fneg (y : Bool) (d : Reg) (a : Reg) (s : State) : exec (.fneg y d a) s = execFneg y d a s := rfl
@[simp] theorem exec_fclass (y : Bool) (d : Reg) (a : Reg) (s : State) : exec (.fclass y d a) s = execFclass y d a s := rfl
@[simp] theorem exec_cvtF64I64 (y : Bool) (d : Reg) (a : Reg) (s : State) : exec (.cvtF64I64 y d a) s = execCvtF64I64 y d a s := rfl
@[simp] theorem exec_cvtF64N64 (y : Bool) (d : Reg) (a : Reg) (s : State) : exec (.cvtF64N64 y d a) s = execCvtF64N64 y d a s := rfl
@[simp] theorem exec_cvtI64F64 (y : Bool) (d : Reg) (a : Reg) (s : State) : exec (.cvtI64F64 y d a) s = execCvtI64F64 y d a s := rfl
@[simp] theorem exec_cvtN64F64 (y : Bool) (d : Reg) (a : Reg) (s : State) : exec (.cvtN64F64 y d a) s = execCvtN64F64 y d a s := rfl
@[simp] theorem exec_cvtF32F64 (y : Bool) (d : Reg) (a : Reg) (s : State) : exec (.cvtF32F64 y d a) s = execCvtF32F64 y d a s := rfl
@[simp] theorem exec_cvtF64F32 (y : Bool) (d : Reg) (a : Reg) (s : State) : exec (.cvtF64F32 y d a) s = execCvtF64F32 y d a s := rfl
@[simp] theorem exec_feq (y : Bool) (d : Reg) (a : Reg) (b : Reg) (s : State) : exec (.feq y d a b) s = execFeq y d a b s := rfl
@[simp] theorem exec_flt (y : Bool) (d : Reg) (a : Reg) (b : Reg) (s : State) : exec (.flt y d a b) s = execFlt y d a b s := rfl
@[simp] theorem exec_fle (y : Bool) (d : Reg) (a : Reg) (b : Reg) (s : State) : exec (.fle y d a b) s = execFle y d a b s := rfl
@[simp] theorem exec_br (y : Bool) (d : Reg) (im : BitVec 16) (s : State) : exec (.br y d im) s = execBr y d im s := rfl
@[simp] theorem exec_brz (y : Bool) (d : Reg) (im : BitVec 16) (s : State) : exec (.brz y d im) s = execBrz y d im s := rfl
@[simp] theorem exec_jmp (y : Bool) (im : BitVec 23) (s : State) : exec (.jmp y im) s = execJmp y im s := rfl
@[simp] theorem exec_call (y : Bool) (im : BitVec 23) (s : State) : exec (.call y im) s = execCall y im s := rfl
@[simp] theorem exec_jr (y : Bool) (a : Reg) (s : State) : exec (.jr y a) s = execJr y a s := rfl
@[simp] theorem exec_loop (y : Bool) (d : Reg) (im : BitVec 16) (s : State) : exec (.loop y d im) s = execLoop y d im s := rfl
@[simp] theorem exec_exit (y : Bool) (s : State) : exec (.exit y) s = execExit y s := rfl
@[simp] theorem exec_bany (y : Bool) (d : Reg) (im : BitVec 16) (s : State) : exec (.bany y d im) s = execBany y d im s := rfl
@[simp] theorem exec_bnone (y : Bool) (d : Reg) (im : BitVec 16) (s : State) : exec (.bnone y d im) s = execBnone y d im s := rfl
@[simp] theorem exec_sltni (y : Bool) (d : Reg) (a : Reg) (im : BitVec 9) (s : State) : exec (.sltni y d a im) s = execSltni y d a im s := rfl
@[simp] theorem exec_seqi (y : Bool) (d : Reg) (a : Reg) (im : BitVec 9) (s : State) : exec (.seqi y d a im) s = execSeqi y d a im s := rfl
@[simp] theorem exec_vadd (y : Bool) (d : Reg) (a : Reg) (b : Reg) (la : Bool) (lb : Bool) (s : State) : exec (.vadd y d a b la lb) s = execVadd y d a b la lb s := rfl
@[simp] theorem exec_vsub (y : Bool) (d : Reg) (a : Reg) (b : Reg) (la : Bool) (lb : Bool) (s : State) : exec (.vsub y d a b la lb) s = execVsub y d a b la lb s := rfl
@[simp] theorem exec_vmul (y : Bool) (d : Reg) (a : Reg) (b : Reg) (la : Bool) (lb : Bool) (s : State) : exec (.vmul y d a b la lb) s = execVmul y d a b la lb s := rfl
@[simp] theorem exec_vmulh (y : Bool) (d : Reg) (a : Reg) (b : Reg) (la : Bool) (lb : Bool) (s : State) : exec (.vmulh y d a b la lb) s = execVmulh y d a b la lb s := rfl
@[simp] theorem exec_vmulhn (y : Bool) (d : Reg) (a : Reg) (b : Reg) (la : Bool) (lb : Bool) (s : State) : exec (.vmulhn y d a b la lb) s = execVmulhn y d a b la lb s := rfl
@[simp] theorem exec_vmad (y : Bool) (d : Reg) (a : Reg) (b : Reg) (la : Bool) (lb : Bool) (s : State) : exec (.vmad y d a b la lb) s = execVmad y d a b la lb s := rfl
@[simp] theorem exec_vand (y : Bool) (d : Reg) (a : Reg) (b : Reg) (la : Bool) (lb : Bool) (s : State) : exec (.vand y d a b la lb) s = execVand y d a b la lb s := rfl
@[simp] theorem exec_vor (y : Bool) (d : Reg) (a : Reg) (b : Reg) (la : Bool) (lb : Bool) (s : State) : exec (.vor y d a b la lb) s = execVor y d a b la lb s := rfl
@[simp] theorem exec_vxor (y : Bool) (d : Reg) (a : Reg) (b : Reg) (la : Bool) (lb : Bool) (s : State) : exec (.vxor y d a b la lb) s = execVxor y d a b la lb s := rfl
@[simp] theorem exec_vshl (y : Bool) (d : Reg) (a : Reg) (b : Reg) (la : Bool) (lb : Bool) (s : State) : exec (.vshl y d a b la lb) s = execVshl y d a b la lb s := rfl
@[simp] theorem exec_vshr (y : Bool) (d : Reg) (a : Reg) (b : Reg) (la : Bool) (lb : Bool) (s : State) : exec (.vshr y d a b la lb) s = execVshr y d a b la lb s := rfl
@[simp] theorem exec_vsha (y : Bool) (d : Reg) (a : Reg) (b : Reg) (la : Bool) (lb : Bool) (s : State) : exec (.vsha y d a b la lb) s = execVsha y d a b la lb s := rfl
@[simp] theorem exec_vmin (y : Bool) (d : Reg) (a : Reg) (b : Reg) (la : Bool) (lb : Bool) (s : State) : exec (.vmin y d a b la lb) s = execVmin y d a b la lb s := rfl
@[simp] theorem exec_vmax (y : Bool) (d : Reg) (a : Reg) (b : Reg) (la : Bool) (lb : Bool) (s : State) : exec (.vmax y d a b la lb) s = execVmax y d a b la lb s := rfl
@[simp] theorem exec_vminn (y : Bool) (d : Reg) (a : Reg) (b : Reg) (la : Bool) (lb : Bool) (s : State) : exec (.vminn y d a b la lb) s = execVminn y d a b la lb s := rfl
@[simp] theorem exec_vmaxn (y : Bool) (d : Reg) (a : Reg) (b : Reg) (la : Bool) (lb : Bool) (s : State) : exec (.vmaxn y d a b la lb) s = execVmaxn y d a b la lb s := rfl
@[simp] theorem exec_vaddi (y : Bool) (d : Reg) (a : Reg) (im : BitVec 9) (s : State) : exec (.vaddi y d a im) s = execVaddi y d a im s := rfl
@[simp] theorem exec_vabs (y : Bool) (d : Reg) (a : Reg) (la : Bool) (s : State) : exec (.vabs y d a la) s = execVabs y d a la s := rfl
@[simp] theorem exec_vneg (y : Bool) (d : Reg) (a : Reg) (la : Bool) (s : State) : exec (.vneg y d a la) s = execVneg y d a la s := rfl
@[simp] theorem exec_vnot (y : Bool) (d : Reg) (a : Reg) (la : Bool) (s : State) : exec (.vnot y d a la) s = execVnot y d a la s := rfl
@[simp] theorem exec_vclz (y : Bool) (d : Reg) (a : Reg) (la : Bool) (s : State) : exec (.vclz y d a la) s = execVclz y d a la s := rfl
@[simp] theorem exec_vpopc (y : Bool) (d : Reg) (a : Reg) (la : Bool) (s : State) : exec (.vpopc y d a la) s = execVpopc y d a la s := rfl
@[simp] theorem exec_vbrev (y : Bool) (d : Reg) (a : Reg) (la : Bool) (s : State) : exec (.vbrev y d a la) s = execVbrev y d a la s := rfl
@[simp] theorem exec_vmov (y : Bool) (d : Reg) (a : Reg) (la : Bool) (s : State) : exec (.vmov y d a la) s = execVmov y d a la s := rfl
@[simp] theorem exec_vsext16 (y : Bool) (d : Reg) (a : Reg) (la : Bool) (s : State) : exec (.vsext16 y d a la) s = execVsext16 y d a la s := rfl
@[simp] theorem exec_vbcast (y : Bool) (d : Reg) (a : Reg) (s : State) : exec (.vbcast y d a) s = execVbcast y d a s := rfl
@[simp] theorem exec_vlaneid (y : Bool) (d : Reg) (s : State) : exec (.vlaneid y d) s = execVlaneid y d s := rfl
@[simp] theorem exec_vseq (y : Bool) (d : Reg) (a : Reg) (b : Reg) (la : Bool) (lb : Bool) (s : State) : exec (.vseq y d a b la lb) s = execVseq y d a b la lb s := rfl
@[simp] theorem exec_vsne (y : Bool) (d : Reg) (a : Reg) (b : Reg) (la : Bool) (lb : Bool) (s : State) : exec (.vsne y d a b la lb) s = execVsne y d a b la lb s := rfl
@[simp] theorem exec_vslt (y : Bool) (d : Reg) (a : Reg) (b : Reg) (la : Bool) (lb : Bool) (s : State) : exec (.vslt y d a b la lb) s = execVslt y d a b la lb s := rfl
@[simp] theorem exec_vsle (y : Bool) (d : Reg) (a : Reg) (b : Reg) (la : Bool) (lb : Bool) (s : State) : exec (.vsle y d a b la lb) s = execVsle y d a b la lb s := rfl
@[simp] theorem exec_vsltn (y : Bool) (d : Reg) (a : Reg) (b : Reg) (la : Bool) (lb : Bool) (s : State) : exec (.vsltn y d a b la lb) s = execVsltn y d a b la lb s := rfl
@[simp] theorem exec_vslen (y : Bool) (d : Reg) (a : Reg) (b : Reg) (la : Bool) (lb : Bool) (s : State) : exec (.vslen y d a b la lb) s = execVslen y d a b la lb s := rfl
@[simp] theorem exec_vperm (y : Bool) (d : Reg) (a : Reg) (b : Reg) (la : Bool) (lb : Bool) (s : State) : exec (.vperm y d a b la lb) s = execVperm y d a b la lb s := rfl
@[simp] theorem exec_vxshf (y : Bool) (d : Reg) (a : Reg) (im : BitVec 7) (s : State) : exec (.vxshf y d a im) s = execVxshf y d a im s := rfl
@[simp] theorem exec_vrotu (y : Bool) (d : Reg) (a : Reg) (im : BitVec 7) (s : State) : exec (.vrotu y d a im) s = execVrotu y d a im s := rfl
@[simp] theorem exec_vrotd (y : Bool) (d : Reg) (a : Reg) (im : BitVec 7) (s : State) : exec (.vrotd y d a im) s = execVrotd y d a im s := rfl
@[simp] theorem exec_vblane (y : Bool) (d : Reg) (a : Reg) (im : BitVec 7) (s : State) : exec (.vblane y d a im) s = execVblane y d a im s := rfl
@[simp] theorem exec_vredAdd (y : Bool) (d : Reg) (a : Reg) (la : Bool) (s : State) : exec (.vredAdd y d a la) s = execVredAdd y d a la s := rfl
@[simp] theorem exec_vredMin (y : Bool) (d : Reg) (a : Reg) (la : Bool) (s : State) : exec (.vredMin y d a la) s = execVredMin y d a la s := rfl
@[simp] theorem exec_vredMax (y : Bool) (d : Reg) (a : Reg) (la : Bool) (s : State) : exec (.vredMax y d a la) s = execVredMax y d a la s := rfl
@[simp] theorem exec_vredMinn (y : Bool) (d : Reg) (a : Reg) (la : Bool) (s : State) : exec (.vredMinn y d a la) s = execVredMinn y d a la s := rfl
@[simp] theorem exec_vredMaxn (y : Bool) (d : Reg) (a : Reg) (la : Bool) (s : State) : exec (.vredMaxn y d a la) s = execVredMaxn y d a la s := rfl
@[simp] theorem exec_vredAnd (y : Bool) (d : Reg) (a : Reg) (la : Bool) (s : State) : exec (.vredAnd y d a la) s = execVredAnd y d a la s := rfl
@[simp] theorem exec_vredOr (y : Bool) (d : Reg) (a : Reg) (la : Bool) (s : State) : exec (.vredOr y d a la) s = execVredOr y d a la s := rfl
@[simp] theorem exec_vredXor (y : Bool) (d : Reg) (a : Reg) (la : Bool) (s : State) : exec (.vredXor y d a la) s = execVredXor y d a la s := rfl
@[simp] theorem exec_vredFadd (y : Bool) (d : Reg) (a : Reg) (la : Bool) (s : State) : exec (.vredFadd y d a la) s = execVredFadd y d a la s := rfl
@[simp] theorem exec_vredFmin (y : Bool) (d : Reg) (a : Reg) (la : Bool) (s : State) : exec (.vredFmin y d a la) s = execVredFmin y d a la s := rfl
@[simp] theorem exec_vredFmax (y : Bool) (d : Reg) (a : Reg) (la : Bool) (s : State) : exec (.vredFmax y d a la) s = execVredFmax y d a la s := rfl
@[simp] theorem exec_vext (y : Bool) (d : Reg) (a : Reg) (b : Reg) (la : Bool) (s : State) : exec (.vext y d a b la) s = execVext y d a b la s := rfl
@[simp] theorem exec_vins (y : Bool) (d : Reg) (a : Reg) (b : Reg) (s : State) : exec (.vins y d a b) s = execVins y d a b s := rfl
@[simp] theorem exec_vcvtF32I32 (y : Bool) (d : Reg) (a : Reg) (la : Bool) (s : State) : exec (.vcvtF32I32 y d a la) s = execVcvtF32I32 y d a la s := rfl
@[simp] theorem exec_vcvtF32N32 (y : Bool) (d : Reg) (a : Reg) (la : Bool) (s : State) : exec (.vcvtF32N32 y d a la) s = execVcvtF32N32 y d a la s := rfl
@[simp] theorem exec_vcvtI32F32 (y : Bool) (d : Reg) (a : Reg) (la : Bool) (s : State) : exec (.vcvtI32F32 y d a la) s = execVcvtI32F32 y d a la s := rfl
@[simp] theorem exec_vcvtN32F32 (y : Bool) (d : Reg) (a : Reg) (la : Bool) (s : State) : exec (.vcvtN32F32 y d a la) s = execVcvtN32F32 y d a la s := rfl
@[simp] theorem exec_vcvtHF32Lo (y : Bool) (d : Reg) (a : Reg) (la : Bool) (s : State) : exec (.vcvtHF32Lo y d a la) s = execVcvtHF32Lo y d a la s := rfl
@[simp] theorem exec_vcvtHF32Hi (y : Bool) (d : Reg) (a : Reg) (la : Bool) (s : State) : exec (.vcvtHF32Hi y d a la) s = execVcvtHF32Hi y d a la s := rfl
@[simp] theorem exec_vcvtF32HLo (y : Bool) (d : Reg) (a : Reg) (la : Bool) (s : State) : exec (.vcvtF32HLo y d a la) s = execVcvtF32HLo y d a la s := rfl
@[simp] theorem exec_vcvtF32HHi (y : Bool) (d : Reg) (a : Reg) (la : Bool) (s : State) : exec (.vcvtF32HHi y d a la) s = execVcvtF32HHi y d a la s := rfl
@[simp] theorem exec_vcvtBfF32Lo (y : Bool) (d : Reg) (a : Reg) (la : Bool) (s : State) : exec (.vcvtBfF32Lo y d a la) s = execVcvtBfF32Lo y d a la s := rfl
@[simp] theorem exec_vcvtBfF32Hi (y : Bool) (d : Reg) (a : Reg) (la : Bool) (s : State) : exec (.vcvtBfF32Hi y d a la) s = execVcvtBfF32Hi y d a la s := rfl
@[simp] theorem exec_vcvtF32BfLo (y : Bool) (d : Reg) (a : Reg) (la : Bool) (s : State) : exec (.vcvtF32BfLo y d a la) s = execVcvtF32BfLo y d a la s := rfl
@[simp] theorem exec_vcvtF32BfHi (y : Bool) (d : Reg) (a : Reg) (la : Bool) (s : State) : exec (.vcvtF32BfHi y d a la) s = execVcvtF32BfHi y d a la s := rfl
@[simp] theorem exec_vcvtI16I32Lo (y : Bool) (d : Reg) (a : Reg) (la : Bool) (s : State) : exec (.vcvtI16I32Lo y d a la) s = execVcvtI16I32Lo y d a la s := rfl
@[simp] theorem exec_vcvtI16I32Hi (y : Bool) (d : Reg) (a : Reg) (la : Bool) (s : State) : exec (.vcvtI16I32Hi y d a la) s = execVcvtI16I32Hi y d a la s := rfl
@[simp] theorem exec_vcvtI32I16Lo (y : Bool) (d : Reg) (a : Reg) (la : Bool) (s : State) : exec (.vcvtI32I16Lo y d a la) s = execVcvtI32I16Lo y d a la s := rfl
@[simp] theorem exec_vcvtI32I16Hi (y : Bool) (d : Reg) (a : Reg) (la : Bool) (s : State) : exec (.vcvtI32I16Hi y d a la) s = execVcvtI32I16Hi y d a la s := rfl
@[simp] theorem exec_vfadd (y : Bool) (d : Reg) (a : Reg) (b : Reg) (la : Bool) (lb : Bool) (s : State) : exec (.vfadd y d a b la lb) s = execVfadd y d a b la lb s := rfl
@[simp] theorem exec_vfsub (y : Bool) (d : Reg) (a : Reg) (b : Reg) (la : Bool) (lb : Bool) (s : State) : exec (.vfsub y d a b la lb) s = execVfsub y d a b la lb s := rfl
@[simp] theorem exec_vfmul (y : Bool) (d : Reg) (a : Reg) (b : Reg) (la : Bool) (lb : Bool) (s : State) : exec (.vfmul y d a b la lb) s = execVfmul y d a b la lb s := rfl
@[simp] theorem exec_vfma (y : Bool) (d : Reg) (a : Reg) (b : Reg) (la : Bool) (lb : Bool) (s : State) : exec (.vfma y d a b la lb) s = execVfma y d a b la lb s := rfl
@[simp] theorem exec_vfmin (y : Bool) (d : Reg) (a : Reg) (b : Reg) (la : Bool) (lb : Bool) (s : State) : exec (.vfmin y d a b la lb) s = execVfmin y d a b la lb s := rfl
@[simp] theorem exec_vfmax (y : Bool) (d : Reg) (a : Reg) (b : Reg) (la : Bool) (lb : Bool) (s : State) : exec (.vfmax y d a b la lb) s = execVfmax y d a b la lb s := rfl
@[simp] theorem exec_vfeq (y : Bool) (d : Reg) (a : Reg) (b : Reg) (la : Bool) (lb : Bool) (s : State) : exec (.vfeq y d a b la lb) s = execVfeq y d a b la lb s := rfl
@[simp] theorem exec_vflt (y : Bool) (d : Reg) (a : Reg) (b : Reg) (la : Bool) (lb : Bool) (s : State) : exec (.vflt y d a b la lb) s = execVflt y d a b la lb s := rfl
@[simp] theorem exec_vfle (y : Bool) (d : Reg) (a : Reg) (b : Reg) (la : Bool) (lb : Bool) (s : State) : exec (.vfle y d a b la lb) s = execVfle y d a b la lb s := rfl
@[simp] theorem exec_vfaddH2 (y : Bool) (d : Reg) (a : Reg) (b : Reg) (la : Bool) (lb : Bool) (s : State) : exec (.vfaddH2 y d a b la lb) s = execVfaddH2 y d a b la lb s := rfl
@[simp] theorem exec_vfmulH2 (y : Bool) (d : Reg) (a : Reg) (b : Reg) (la : Bool) (lb : Bool) (s : State) : exec (.vfmulH2 y d a b la lb) s = execVfmulH2 y d a b la lb s := rfl
@[simp] theorem exec_vfmaH2 (y : Bool) (d : Reg) (a : Reg) (b : Reg) (la : Bool) (lb : Bool) (s : State) : exec (.vfmaH2 y d a b la lb) s = execVfmaH2 y d a b la lb s := rfl
@[simp] theorem exec_vfaddBf2 (y : Bool) (d : Reg) (a : Reg) (b : Reg) (la : Bool) (lb : Bool) (s : State) : exec (.vfaddBf2 y d a b la lb) s = execVfaddBf2 y d a b la lb s := rfl
@[simp] theorem exec_vfmulBf2 (y : Bool) (d : Reg) (a : Reg) (b : Reg) (la : Bool) (lb : Bool) (s : State) : exec (.vfmulBf2 y d a b la lb) s = execVfmulBf2 y d a b la lb s := rfl
@[simp] theorem exec_vfmaBf2 (y : Bool) (d : Reg) (a : Reg) (b : Reg) (la : Bool) (lb : Bool) (s : State) : exec (.vfmaBf2 y d a b la lb) s = execVfmaBf2 y d a b la lb s := rfl
@[simp] theorem exec_vfabs (y : Bool) (d : Reg) (a : Reg) (la : Bool) (s : State) : exec (.vfabs y d a la) s = execVfabs y d a la s := rfl
@[simp] theorem exec_vfneg (y : Bool) (d : Reg) (a : Reg) (la : Bool) (s : State) : exec (.vfneg y d a la) s = execVfneg y d a la s := rfl
@[simp] theorem exec_vfclass (y : Bool) (d : Reg) (a : Reg) (la : Bool) (s : State) : exec (.vfclass y d a la) s = execVfclass y d a la s := rfl
@[simp] theorem exec_vfrint (y : Bool) (d : Reg) (a : Reg) (la : Bool) (s : State) : exec (.vfrint y d a la) s = execVfrint y d a la s := rfl
@[simp] theorem exec_vffloor (y : Bool) (d : Reg) (a : Reg) (la : Bool) (s : State) : exec (.vffloor y d a la) s = execVffloor y d a la s := rfl
@[simp] theorem exec_vfceil (y : Bool) (d : Reg) (a : Reg) (la : Bool) (s : State) : exec (.vfceil y d a la) s = execVfceil y d a la s := rfl
@[simp] theorem exec_vftrunc (y : Bool) (d : Reg) (a : Reg) (la : Bool) (s : State) : exec (.vftrunc y d a la) s = execVftrunc y d a la s := rfl
@[simp] theorem exec_vrcp (y : Bool) (d : Reg) (a : Reg) (la : Bool) (s : State) : exec (.vrcp y d a la) s = execVrcp y d a la s := rfl
@[simp] theorem exec_vrsq (y : Bool) (d : Reg) (a : Reg) (la : Bool) (s : State) : exec (.vrsq y d a la) s = execVrsq y d a la s := rfl
@[simp] theorem exec_vsqrt (y : Bool) (d : Reg) (a : Reg) (la : Bool) (s : State) : exec (.vsqrt y d a la) s = execVsqrt y d a la s := rfl
@[simp] theorem exec_vexp2 (y : Bool) (d : Reg) (a : Reg) (la : Bool) (s : State) : exec (.vexp2 y d a la) s = execVexp2 y d a la s := rfl
@[simp] theorem exec_vlog2 (y : Bool) (d : Reg) (a : Reg) (la : Bool) (s : State) : exec (.vlog2 y d a la) s = execVlog2 y d a la s := rfl
@[simp] theorem exec_vexp (y : Bool) (d : Reg) (a : Reg) (la : Bool) (s : State) : exec (.vexp y d a la) s = execVexp y d a la s := rfl
@[simp] theorem exec_vlog (y : Bool) (d : Reg) (a : Reg) (la : Bool) (s : State) : exec (.vlog y d a la) s = execVlog y d a la s := rfl
@[simp] theorem exec_vsin (y : Bool) (d : Reg) (a : Reg) (la : Bool) (s : State) : exec (.vsin y d a la) s = execVsin y d a la s := rfl
@[simp] theorem exec_vcos (y : Bool) (d : Reg) (a : Reg) (la : Bool) (s : State) : exec (.vcos y d a la) s = execVcos y d a la s := rfl
@[simp] theorem exec_vtanh (y : Bool) (d : Reg) (a : Reg) (la : Bool) (s : State) : exec (.vtanh y d a la) s = execVtanh y d a la s := rfl
@[simp] theorem exec_vsigm (y : Bool) (d : Reg) (a : Reg) (la : Bool) (s : State) : exec (.vsigm y d a la) s = execVsigm y d a la s := rfl
@[simp] theorem exec_verf (y : Bool) (d : Reg) (a : Reg) (la : Bool) (s : State) : exec (.verf y d a la) s = execVerf y d a la s := rfl
@[simp] theorem exec_vfdiv (y : Bool) (d : Reg) (a : Reg) (b : Reg) (la : Bool) (lb : Bool) (s : State) : exec (.vfdiv y d a b la lb) s = execVfdiv y d a b la lb s := rfl
@[simp] theorem exec_vfdotH2 (y : Bool) (d : Reg) (a : Reg) (b : Reg) (la : Bool) (lb : Bool) (s : State) : exec (.vfdotH2 y d a b la lb) s = execVfdotH2 y d a b la lb s := rfl
@[simp] theorem exec_vfdotBf2 (y : Bool) (d : Reg) (a : Reg) (b : Reg) (la : Bool) (lb : Bool) (s : State) : exec (.vfdotBf2 y d a b la lb) s = execVfdotBf2 y d a b la lb s := rfl
@[simp] theorem exec_vcbx (y : Bool) (d : Reg) (a : Reg) (j : BitVec 3) (t : BitVec 2) (s : State) : exec (.vcbx y d a j t) s = execVcbx y d a j t s := rfl
@[simp] theorem exec_vhadd (y : Bool) (d : Reg) (a : Reg) (b : Reg) (la : Bool) (lb : Bool) (s : State) : exec (.vhadd y d a b la lb) s = execVhadd y d a b la lb s := rfl
@[simp] theorem exec_vhsub (y : Bool) (d : Reg) (a : Reg) (b : Reg) (la : Bool) (lb : Bool) (s : State) : exec (.vhsub y d a b la lb) s = execVhsub y d a b la lb s := rfl
@[simp] theorem exec_vhmul (y : Bool) (d : Reg) (a : Reg) (b : Reg) (la : Bool) (lb : Bool) (s : State) : exec (.vhmul y d a b la lb) s = execVhmul y d a b la lb s := rfl
@[simp] theorem exec_vhmin (y : Bool) (d : Reg) (a : Reg) (b : Reg) (la : Bool) (lb : Bool) (s : State) : exec (.vhmin y d a b la lb) s = execVhmin y d a b la lb s := rfl
@[simp] theorem exec_vhmax (y : Bool) (d : Reg) (a : Reg) (b : Reg) (la : Bool) (lb : Bool) (s : State) : exec (.vhmax y d a b la lb) s = execVhmax y d a b la lb s := rfl
@[simp] theorem exec_vhminn (y : Bool) (d : Reg) (a : Reg) (b : Reg) (la : Bool) (lb : Bool) (s : State) : exec (.vhminn y d a b la lb) s = execVhminn y d a b la lb s := rfl
@[simp] theorem exec_vhmaxn (y : Bool) (d : Reg) (a : Reg) (b : Reg) (la : Bool) (lb : Bool) (s : State) : exec (.vhmaxn y d a b la lb) s = execVhmaxn y d a b la lb s := rfl
@[simp] theorem exec_vbadd (y : Bool) (d : Reg) (a : Reg) (b : Reg) (la : Bool) (lb : Bool) (s : State) : exec (.vbadd y d a b la lb) s = execVbadd y d a b la lb s := rfl
@[simp] theorem exec_vbsub (y : Bool) (d : Reg) (a : Reg) (b : Reg) (la : Bool) (lb : Bool) (s : State) : exec (.vbsub y d a b la lb) s = execVbsub y d a b la lb s := rfl
@[simp] theorem exec_vbmin (y : Bool) (d : Reg) (a : Reg) (b : Reg) (la : Bool) (lb : Bool) (s : State) : exec (.vbmin y d a b la lb) s = execVbmin y d a b la lb s := rfl
@[simp] theorem exec_vbmax (y : Bool) (d : Reg) (a : Reg) (b : Reg) (la : Bool) (lb : Bool) (s : State) : exec (.vbmax y d a b la lb) s = execVbmax y d a b la lb s := rfl
@[simp] theorem exec_vnaddNf0 (y : Bool) (d : Reg) (a : Reg) (b : Reg) (la : Bool) (lb : Bool) (s : State) : exec (.vnaddNf0 y d a b la lb) s = execVnaddNf0 y d a b la lb s := rfl
@[simp] theorem exec_vnaddNf1 (y : Bool) (d : Reg) (a : Reg) (b : Reg) (la : Bool) (lb : Bool) (s : State) : exec (.vnaddNf1 y d a b la lb) s = execVnaddNf1 y d a b la lb s := rfl
@[simp] theorem exec_vnaddNf2 (y : Bool) (d : Reg) (a : Reg) (b : Reg) (la : Bool) (lb : Bool) (s : State) : exec (.vnaddNf2 y d a b la lb) s = execVnaddNf2 y d a b la lb s := rfl
@[simp] theorem exec_vnaddNf3 (y : Bool) (d : Reg) (a : Reg) (b : Reg) (la : Bool) (lb : Bool) (s : State) : exec (.vnaddNf3 y d a b la lb) s = execVnaddNf3 y d a b la lb s := rfl
@[simp] theorem exec_vnmulNf0 (y : Bool) (d : Reg) (a : Reg) (b : Reg) (la : Bool) (lb : Bool) (s : State) : exec (.vnmulNf0 y d a b la lb) s = execVnmulNf0 y d a b la lb s := rfl
@[simp] theorem exec_vnmulNf1 (y : Bool) (d : Reg) (a : Reg) (b : Reg) (la : Bool) (lb : Bool) (s : State) : exec (.vnmulNf1 y d a b la lb) s = execVnmulNf1 y d a b la lb s := rfl
@[simp] theorem exec_vnmulNf2 (y : Bool) (d : Reg) (a : Reg) (b : Reg) (la : Bool) (lb : Bool) (s : State) : exec (.vnmulNf2 y d a b la lb) s = execVnmulNf2 y d a b la lb s := rfl
@[simp] theorem exec_vnmulNf3 (y : Bool) (d : Reg) (a : Reg) (b : Reg) (la : Bool) (lb : Bool) (s : State) : exec (.vnmulNf3 y d a b la lb) s = execVnmulNf3 y d a b la lb s := rfl
@[simp] theorem exec_vndotNf0 (y : Bool) (d : Reg) (a : Reg) (b : Reg) (la : Bool) (lb : Bool) (s : State) : exec (.vndotNf0 y d a b la lb) s = execVndotNf0 y d a b la lb s := rfl
@[simp] theorem exec_vndotNf1 (y : Bool) (d : Reg) (a : Reg) (b : Reg) (la : Bool) (lb : Bool) (s : State) : exec (.vndotNf1 y d a b la lb) s = execVndotNf1 y d a b la lb s := rfl
@[simp] theorem exec_vndotNf2 (y : Bool) (d : Reg) (a : Reg) (b : Reg) (la : Bool) (lb : Bool) (s : State) : exec (.vndotNf2 y d a b la lb) s = execVndotNf2 y d a b la lb s := rfl
@[simp] theorem exec_vndotNf3 (y : Bool) (d : Reg) (a : Reg) (b : Reg) (la : Bool) (lb : Bool) (s : State) : exec (.vndotNf3 y d a b la lb) s = execVndotNf3 y d a b la lb s := rfl
@[simp] theorem exec_vncvtNf0 (y : Bool) (d : Reg) (a : Reg) (e : Bool) (j : BitVec 3) (s : State) : exec (.vncvtNf0 y d a e j) s = execVncvtNf0 y d a e j s := rfl
@[simp] theorem exec_vncvtNf1 (y : Bool) (d : Reg) (a : Reg) (e : Bool) (j : BitVec 3) (s : State) : exec (.vncvtNf1 y d a e j) s = execVncvtNf1 y d a e j s := rfl
@[simp] theorem exec_vncvtNf2 (y : Bool) (d : Reg) (a : Reg) (e : Bool) (j : BitVec 3) (s : State) : exec (.vncvtNf2 y d a e j) s = execVncvtNf2 y d a e j s := rfl
@[simp] theorem exec_vncvtNf3 (y : Bool) (d : Reg) (a : Reg) (e : Bool) (j : BitVec 3) (s : State) : exec (.vncvtNf3 y d a e j) s = execVncvtNf3 y d a e j s := rfl
@[simp] theorem exec_ldw (y : Bool) (d : Reg) (a : Reg) (im : BitVec 9) (s : State) : exec (.ldw y d a im) s = execLdw y d a im s := rfl
@[simp] theorem exec_ldwn (y : Bool) (d : Reg) (a : Reg) (im : BitVec 9) (s : State) : exec (.ldwn y d a im) s = execLdwn y d a im s := rfl
@[simp] theorem exec_ldd (y : Bool) (d : Reg) (a : Reg) (im : BitVec 9) (s : State) : exec (.ldd y d a im) s = execLdd y d a im s := rfl
@[simp] theorem exec_ldbn (y : Bool) (d : Reg) (a : Reg) (im : BitVec 9) (s : State) : exec (.ldbn y d a im) s = execLdbn y d a im s := rfl
@[simp] theorem exec_stw (y : Bool) (d : Reg) (a : Reg) (im : BitVec 9) (s : State) : exec (.stw y d a im) s = execStw y d a im s := rfl
@[simp] theorem exec_std (y : Bool) (d : Reg) (a : Reg) (im : BitVec 9) (s : State) : exec (.std y d a im) s = execStd y d a im s := rfl
@[simp] theorem exec_stb (y : Bool) (d : Reg) (a : Reg) (im : BitVec 9) (s : State) : exec (.stb y d a im) s = execStb y d a im s := rfl
@[simp] theorem exec_vld (y : Bool) (d : Reg) (a : Reg) (b : Reg) (lb : Bool) (s : State) : exec (.vld y d a b lb) s = execVld y d a b lb s := rfl
@[simp] theorem exec_vst (y : Bool) (d : Reg) (a : Reg) (b : Reg) (lb : Bool) (s : State) : exec (.vst y d a b lb) s = execVst y d a b lb s := rfl
@[simp] theorem exec_vldc (y : Bool) (d : Reg) (a : Reg) (sx : Bool) (im : BitVec 8) (s : State) : exec (.vldc y d a sx im) s = execVldc y d a sx im s := rfl
@[simp] theorem exec_vstc (y : Bool) (d : Reg) (a : Reg) (sx : Bool) (im : BitVec 8) (s : State) : exec (.vstc y d a sx im) s = execVstc y d a sx im s := rfl
@[simp] theorem exec_vlld (y : Bool) (d : Reg) (a : Reg) (b : Reg) (lb : Bool) (s : State) : exec (.vlld y d a b lb) s = execVlld y d a b lb s := rfl
@[simp] theorem exec_vlst (y : Bool) (d : Reg) (a : Reg) (b : Reg) (lb : Bool) (s : State) : exec (.vlst y d a b lb) s = execVlst y d a b lb s := rfl
@[simp] theorem exec_vlldc (y : Bool) (d : Reg) (a : Reg) (e : BitVec 2) (im : BitVec 7) (s : State) : exec (.vlldc y d a e im) s = execVlldc y d a e im s := rfl
@[simp] theorem exec_vlstc (y : Bool) (d : Reg) (a : Reg) (e : BitVec 2) (im : BitVec 7) (s : State) : exec (.vlstc y d a e im) s = execVlstc y d a e im s := rfl
@[simp] theorem exec_aadd (y : Bool) (d : Reg) (a : Reg) (b : Reg) (s : State) : exec (.aadd y d a b) s = execAadd y d a b s := rfl
@[simp] theorem exec_amin (y : Bool) (d : Reg) (a : Reg) (b : Reg) (s : State) : exec (.amin y d a b) s = execAmin y d a b s := rfl
@[simp] theorem exec_amax (y : Bool) (d : Reg) (a : Reg) (b : Reg) (s : State) : exec (.amax y d a b) s = execAmax y d a b s := rfl
@[simp] theorem exec_aminn (y : Bool) (d : Reg) (a : Reg) (b : Reg) (s : State) : exec (.aminn y d a b) s = execAminn y d a b s := rfl
@[simp] theorem exec_amaxn (y : Bool) (d : Reg) (a : Reg) (b : Reg) (s : State) : exec (.amaxn y d a b) s = execAmaxn y d a b s := rfl
@[simp] theorem exec_aand (y : Bool) (d : Reg) (a : Reg) (b : Reg) (s : State) : exec (.aand y d a b) s = execAand y d a b s := rfl
@[simp] theorem exec_aor (y : Bool) (d : Reg) (a : Reg) (b : Reg) (s : State) : exec (.aor y d a b) s = execAor y d a b s := rfl
@[simp] theorem exec_axor (y : Bool) (d : Reg) (a : Reg) (b : Reg) (s : State) : exec (.axor y d a b) s = execAxor y d a b s := rfl
@[simp] theorem exec_axchg (y : Bool) (d : Reg) (a : Reg) (b : Reg) (s : State) : exec (.axchg y d a b) s = execAxchg y d a b s := rfl
@[simp] theorem exec_acas (y : Bool) (d : Reg) (a : Reg) (b : Reg) (s : State) : exec (.acas y d a b) s = execAcas y d a b s := rfl
@[simp] theorem exec_afadd (y : Bool) (d : Reg) (a : Reg) (b : Reg) (s : State) : exec (.afadd y d a b) s = execAfadd y d a b s := rfl
@[simp] theorem exec_vaadd (y : Bool) (d : Reg) (a : Reg) (b : Reg) (lb : Bool) (s : State) : exec (.vaadd y d a b lb) s = execVaadd y d a b lb s := rfl
@[simp] theorem exec_fenceAll (y : Bool) (s : State) : exec (.fenceAll y) s = execFenceAll y s := rfl
@[simp] theorem exec_fenceSt (y : Bool) (s : State) : exec (.fenceSt y) s = execFenceSt y s := rfl
@[simp] theorem exec_fenceEngine (y : Bool) (s : State) : exec (.fenceEngine y) s = execFenceEngine y s := rfl
@[simp] theorem exec_fenceLm (y : Bool) (s : State) : exec (.fenceLm y) s = execFenceLm y s := rfl
@[simp] theorem exec_fenceHost (y : Bool) (s : State) : exec (.fenceHost y) s = execFenceHost y s := rfl
@[simp] theorem exec_fenceGen (y : Bool) (s : State) : exec (.fenceGen y) s = execFenceGen y s := rfl
@[simp] theorem exec_drainst (y : Bool) (s : State) : exec (.drainst y) s = execDrainst y s := rfl
@[simp] theorem exec_prefL2 (y : Bool) (a : Reg) (s : State) : exec (.prefL2 y a) s = execPrefL2 y a s := rfl
@[simp] theorem exec_prefL1 (y : Bool) (a : Reg) (s : State) : exec (.prefL1 y a) s = execPrefL1 y a s := rfl
@[simp] theorem exec_prefEvict (y : Bool) (a : Reg) (s : State) : exec (.prefEvict y a) s = execPrefEvict y a s := rfl
@[simp] theorem exec_prefPin (y : Bool) (a : Reg) (s : State) : exec (.prefPin y a) s = execPrefPin y a s := rfl
@[simp] theorem exec_prefUnpin (y : Bool) (a : Reg) (s : State) : exec (.prefUnpin y a) s = execPrefUnpin y a s := rfl
@[simp] theorem exec_vafadd (y : Bool) (d : Reg) (a : Reg) (b : Reg) (lb : Bool) (s : State) : exec (.vafadd y d a b lb) s = execVafadd y d a b lb s := rfl
@[simp] theorem exec_lmallocT (y : Bool) (d : Reg) (a : Reg) (s : State) : exec (.lmallocT y d a) s = execLmallocT y d a s := rfl
@[simp] theorem exec_lmallocH (y : Bool) (d : Reg) (a : Reg) (s : State) : exec (.lmallocH y d a) s = execLmallocH y d a s := rfl
@[simp] theorem exec_lmfree (y : Bool) (a : Reg) (s : State) : exec (.lmfree y a) s = execLmfree y a s := rfl
@[simp] theorem exec_lmrenew (y : Bool) (a : Reg) (b : Reg) (s : State) : exec (.lmrenew y a b) s = execLmrenew y a b s := rfl
@[simp] theorem exec_lmage (y : Bool) (d : Reg) (a : Reg) (s : State) : exec (.lmage y d a) s = execLmage y d a s := rfl
@[simp] theorem exec_fefillEmpty (y : Bool) (d : Reg) (a : Reg) (s : State) : exec (.fefillEmpty y d a) s = execFefillEmpty y d a s := rfl
@[simp] theorem exec_fefillFull (y : Bool) (d : Reg) (a : Reg) (s : State) : exec (.fefillFull y d a) s = execFefillFull y d a s := rfl
@[simp] theorem exec_xcopy (y : Bool) (d : Reg) (a : Reg) (b : Reg) (s : State) : exec (.xcopy y d a b) s = execXcopy y d a b s := rfl
@[simp] theorem exec_xpack (y : Bool) (d : Reg) (a : Reg) (b : Reg) (s : State) : exec (.xpack y d a b) s = execXpack y d a b s := rfl
@[simp] theorem exec_xgath (y : Bool) (d : Reg) (a : Reg) (b : Reg) (s : State) : exec (.xgath y d a b) s = execXgath y d a b s := rfl
@[simp] theorem exec_xscat (y : Bool) (d : Reg) (a : Reg) (b : Reg) (s : State) : exec (.xscat y d a b) s = execXscat y d a b s := rfl
@[simp] theorem exec_xback (y : Bool) (d : Reg) (a : Reg) (b : Reg) (s : State) : exec (.xback y d a b) s = execXback y d a b s := rfl
@[simp] theorem exec_xwait (y : Bool) (d : Reg) (a : Reg) (s : State) : exec (.xwait y d a) s = execXwait y d a s := rfl
@[simp] theorem exec_xstat (y : Bool) (d : Reg) (a : Reg) (s : State) : exec (.xstat y d a) s = execXstat y d a s := rfl
@[simp] theorem exec_xunpack (y : Bool) (d : Reg) (a : Reg) (b : Reg) (s : State) : exec (.xunpack y d a b) s = execXunpack y d a b s := rfl
@[simp] theorem exec_xfill (y : Bool) (d : Reg) (a : Reg) (b : Reg) (s : State) : exec (.xfill y d a b) s = execXfill y d a b s := rfl
@[simp] theorem exec_xcbexp (y : Bool) (d : Reg) (a : Reg) (b : Reg) (s : State) : exec (.xcbexp y d a b) s = execXcbexp y d a b s := rfl
@[simp] theorem exec_mma (y : Bool) (d : Reg) (a : Reg) (b : Reg) (s : State) : exec (.mma y d a b) s = execMma y d a b s := rfl
@[simp] theorem exec_mzero (y : Bool) (d : Reg) (s : State) : exec (.mzero y d) s = execMzero y d s := rfl
@[simp] theorem exec_mst (y : Bool) (d : Reg) (a : Reg) (b : Reg) (s : State) : exec (.mst y d a b) s = execMst y d a b s := rfl
@[simp] theorem exec_mld (y : Bool) (d : Reg) (a : Reg) (b : Reg) (s : State) : exec (.mld y d a b) s = execMld y d a b s := rfl
@[simp] theorem exec_mver (y : Bool) (d : Reg) (a : Reg) (s : State) : exec (.mver y d a) s = execMver y d a s := rfl
@[simp] theorem exec_mwait (y : Bool) (d : Reg) (s : State) : exec (.mwait y d) s = execMwait y d s := rfl
@[simp] theorem exec_mchkForce (y : Bool) (s : State) : exec (.mchkForce y) s = execMchkForce y s := rfl
@[simp] theorem exec_mchkStatus (y : Bool) (d : Reg) (s : State) : exec (.mchkStatus y d) s = execMchkStatus y d s := rfl
@[simp] theorem exec_mchkPeriod (y : Bool) (a : Reg) (s : State) : exec (.mchkPeriod y a) s = execMchkPeriod y a s := rfl
@[simp] theorem exec_cbload (y : Bool) (d : Reg) (a : Reg) (s : State) : exec (.cbload y d a) s = execCbload y d a s := rfl
@[simp] theorem exec_nfset (y : Bool) (d : Reg) (a : Reg) (s : State) : exec (.nfset y d a) s = execNfset y d a s := rfl
@[simp] theorem exec_rgbeg (y : Bool) (d : Reg) (a : Reg) (s : State) : exec (.rgbeg y d a) s = execRgbeg y d a s := rfl
@[simp] theorem exec_rgbind (y : Bool) (d : Reg) (a : Reg) (b : Reg) (s : State) : exec (.rgbind y d a b) s = execRgbind y d a b s := rfl
@[simp] theorem exec_rgend (y : Bool) (d : Reg) (s : State) : exec (.rgend y d) s = execRgend y d s := rfl
@[simp] theorem exec_rgabort (y : Bool) (s : State) : exec (.rgabort y) s = execRgabort y s := rfl
@[simp] theorem exec_rgstat (y : Bool) (d : Reg) (s : State) : exec (.rgstat y d) s = execRgstat y d s := rfl
@[simp] theorem exec_rgwait (y : Bool) (d : Reg) (s : State) : exec (.rgwait y d) s = execRgwait y d s := rfl
@[simp] theorem exec_qpush (y : Bool) (d : Reg) (a : Reg) (b : Reg) (s : State) : exec (.qpush y d a b) s = execQpush y d a b s := rfl
@[simp] theorem exec_qpushw (y : Bool) (d : Reg) (a : Reg) (b : Reg) (s : State) : exec (.qpushw y d a b) s = execQpushw y d a b s := rfl
@[simp] theorem exec_qpop (y : Bool) (d : Reg) (a : Reg) (b : Reg) (s : State) : exec (.qpop y d a b) s = execQpop y d a b s := rfl
@[simp] theorem exec_qfree (y : Bool) (d : Reg) (a : Reg) (s : State) : exec (.qfree y d a) s = execQfree y d a s := rfl
@[simp] theorem exec_qclose (y : Bool) (a : Reg) (s : State) : exec (.qclose y a) s = execQclose y a s := rfl
@[simp] theorem exec_flaunch (y : Bool) (d : Reg) (a : Reg) (s : State) : exec (.flaunch y d a) s = execFlaunch y d a s := rfl
@[simp] theorem exec_qpeek (y : Bool) (d : Reg) (a : Reg) (s : State) : exec (.qpeek y d a) s = execQpeek y d a s := rfl
@[simp] theorem exec_bar (y : Bool) (im : BitVec 3) (s : State) : exec (.bar y im) s = execBar y im s := rfl
@[simp] theorem exec_barv (y : Bool) (d : Reg) (im : BitVec 3) (s : State) : exec (.barv y d im) s = execBarv y d im s := rfl
@[simp] theorem exec_barw (y : Bool) (a : Reg) (im : BitVec 3) (s : State) : exec (.barw y a im) s = execBarw y a im s := rfl
@[simp] theorem exec_cleave (y : Bool) (s : State) : exec (.cleave y) s = execCleave y s := rfl
@[simp] theorem exec_xbar (y : Bool) (d : Reg) (a : Reg) (s : State) : exec (.xbar y d a) s = execXbar y d a s := rfl
@[simp] theorem exec_xbarv (y : Bool) (d : Reg) (a : Reg) (s : State) : exec (.xbarv y d a) s = execXbarv y d a s := rfl
@[simp] theorem exec_coll (y : Bool) (a : Reg) (s : State) : exec (.coll y a) s = execColl y a s := rfl
@[simp] theorem exec_cwait (y : Bool) (d : Reg) (a : Reg) (s : State) : exec (.cwait y d a) s = execCwait y d a s := rfl
@[simp] theorem exec_dpost (y : Bool) (d : Reg) (a : Reg) (s : State) : exec (.dpost y d a) s = execDpost y d a s := rfl
@[simp] theorem exec_xchg (y : Bool) (d : Reg) (a : Reg) (b : Reg) (s : State) : exec (.xchg y d a b) s = execXchg y d a b s := rfl
@[simp] theorem exec_gfence (y : Bool) (d : Reg) (a : Reg) (b : Reg) (s : State) : exec (.gfence y d a b) s = execGfence y d a b s := rfl
@[simp] theorem exec_gread (y : Bool) (d : Reg) (a : Reg) (b : Reg) (s : State) : exec (.gread y d a b) s = execGread y d a b s := rfl
@[simp] theorem exec_hbstat (y : Bool) (d : Reg) (a : Reg) (s : State) : exec (.hbstat y d a) s = execHbstat y d a s := rfl
@[simp] theorem exec_xstop (y : Bool) (a : Reg) (s : State) : exec (.xstop y a) s = execXstop y a s := rfl
@[simp] theorem exec_csrr (y : Bool) (d : Reg) (im : BitVec 9) (s : State) : exec (.csrr y d im) s = execCsrr y d im s := rfl
@[simp] theorem exec_csrw (y : Bool) (a : Reg) (im : BitVec 9) (s : State) : exec (.csrw y a im) s = execCsrw y a im s := rfl
@[simp] theorem exec_vwin (y : Bool) (im : BitVec 9) (s : State) : exec (.vwin y im) s = execVwin y im s := rfl
@[simp] theorem exec_trap (y : Bool) (im : BitVec 9) (s : State) : exec (.trap y im) s = execTrap y im s := rfl
@[simp] theorem exec_eret (y : Bool) (a : Reg) (b : Reg) (s : State) : exec (.eret y a b) s = execEret y a b s := rfl
@[simp] theorem exec_npre (y : Bool) (a : Reg) (s : State) : exec (.npre y a) s = execNpre y a s := rfl
@[simp] theorem exec_sfrpop (y : Bool) (d : Reg) (a : Reg) (s : State) : exec (.sfrpop y d a) s = execSfrpop y d a s := rfl
@[simp] theorem exec_ctkill (y : Bool) (a : Reg) (s : State) : exec (.ctkill y a) s = execCtkill y a s := rfl
@[simp] theorem exec_brk (y : Bool) (im : BitVec 16) (s : State) : exec (.brk y im) s = execBrk y im s := rfl
@[simp] theorem exec_wdarm (y : Bool) (s : State) : exec (.wdarm y) s = execWdarm y s := rfl
@[simp] theorem exec_illegal (word : BitVec 32) (s : State) : exec (.illegal word) s = execIllegal word s := rfl
@[simp] theorem exec_fetchFault (cause : Cause) (addr : Word) (s : State) : exec (.fetchFault cause addr) s = execFetchFault cause addr s := rfl
@[simp] theorem exec_loadReturn (crew : Nat) (wave : Nat) (k : Nat) (s : State) : exec (.loadReturn crew wave k) s = execLoadReturn crew wave k s := rfl
@[simp] theorem exec_sfuResult (core : Nat) (s : State) : exec (.sfuResult core) s = execSfuResult core s := rfl
@[simp] theorem exec_loadFaultReport (crew : Nat) (wave : Nat) (s : State) : exec (.loadFaultReport crew wave) s = execLoadFaultReport crew wave s := rfl
@[simp] theorem exec_storeFaultRecord (crew : Nat) (wave : Nat) (k : Nat) (s : State) : exec (.storeFaultRecord crew wave k) s = execStoreFaultRecord crew wave k s := rfl
@[simp] theorem exec_handlerEntry (crew : Nat) (wave : Nat) (s : State) : exec (.handlerEntry crew wave) s = execHandlerEntry crew wave s := rfl
@[simp] theorem exec_tokenRefill (die : Nat) (units : Nat) (s : State) : exec (.tokenRefill die units) s = execTokenRefill die units s := rfl
@[simp] theorem exec_tokenGrant (die : Nat) (s : State) : exec (.tokenGrant die) s = execTokenGrant die s := rfl
@[simp] theorem exec_matrixQueueEntry (crew : Nat) (wave : Nat) (s : State) : exec (.matrixQueueEntry crew wave) s = execMatrixQueueEntry crew wave s := rfl
@[simp] theorem exec_matrixOpStart (core : Nat) (s : State) : exec (.matrixOpStart core) s = execMatrixOpStart core s := rfl
@[simp] theorem exec_mmaComplete (core : Nat) (crew : Nat) (acc : Nat) (s : State) : exec (.mmaComplete core crew acc) s = execMmaComplete core crew acc s := rfl
@[simp] theorem exec_mmaSuspend (core : Nat) (crew : Nat) (acc : Nat) (s : State) : exec (.mmaSuspend core crew acc) s = execMmaSuspend core crew acc s := rfl
@[simp] theorem exec_checkMismatch (core : Nat) (crew : Nat) (acc : Nat) (s : State) : exec (.checkMismatch core crew acc) s = execCheckMismatch core crew acc s := rfl
@[simp] theorem exec_checkEnd (core : Nat) (crew : Nat) (acc : Nat) (third : Option Bool) (s : State) : exec (.checkEnd core crew acc third) s = execCheckEnd core crew acc third s := rfl
@[simp] theorem exec_mzeroComplete (core : Nat) (crew : Nat) (acc : Nat) (s : State) : exec (.mzeroComplete core crew acc) s = execMzeroComplete core crew acc s := rfl
@[simp] theorem exec_mstComplete (core : Nat) (crew : Nat) (acc : Nat) (s : State) : exec (.mstComplete core crew acc) s = execMstComplete core crew acc s := rfl
@[simp] theorem exec_mldComplete (core : Nat) (crew : Nat) (acc : Nat) (s : State) : exec (.mldComplete core crew acc) s = execMldComplete core crew acc s := rfl
@[simp] theorem exec_mldDiscard (core : Nat) (crew : Nat) (acc : Nat) (s : State) : exec (.mldDiscard core crew acc) s = execMldDiscard core crew acc s := rfl
@[simp] theorem exec_copyLineWrite (cmd : Nat) (s : State) : exec (.copyLineWrite cmd) s = execCopyLineWrite cmd s := rfl
@[simp] theorem exec_copyComplete (cmd : Nat) (s : State) : exec (.copyComplete cmd) s = execCopyComplete cmd s := rfl
@[simp] theorem exec_copyFault (cmd : Nat) (s : State) : exec (.copyFault cmd) s = execCopyFault cmd s := rfl
@[simp] theorem exec_lmLineExpire (core : Nat) (line : Nat) (s : State) : exec (.lmLineExpire core line) s = execLmLineExpire core line s := rfl
@[simp] theorem exec_heldLineRenewal (core : Nat) (line : Nat) (s : State) : exec (.heldLineRenewal core line) s = execHeldLineRenewal core line s := rfl
@[simp] theorem exec_floorTick (s : State) : exec .floorTick s = execFloorTick s := rfl
@[simp] theorem exec_homeLoad (crew : Nat) (wave : Nat) (k : Nat) (s : State) : exec (.homeLoad crew wave k) s = execHomeLoad crew wave k s := rfl
@[simp] theorem exec_homeStore (crew : Nat) (wave : Nat) (k : Nat) (s : State) : exec (.homeStore crew wave k) s = execHomeStore crew wave k s := rfl
@[simp] theorem exec_storePerform (crew : Nat) (wave : Nat) (k : Nat) (s : State) : exec (.storePerform crew wave k) s = execStorePerform crew wave k s := rfl
@[simp] theorem exec_recall (line : Nat) (s : State) : exec (.recall line) s = execRecall line s := rfl
@[simp] theorem exec_backInvalidation (line : Nat) (s : State) : exec (.backInvalidation line) s = execBackInvalidation line s := rfl
@[simp] theorem exec_hostAccess (req : HostReq) (s : State) : exec (.hostAccess req) s = execHostAccess req s := rfl
@[simp] theorem exec_pageWalk (die : Nat) (ctx : Nat) (va : Nat) (write : Bool) (s : State) : exec (.pageWalk die ctx va write) s = execPageWalk die ctx va write s := rfl
@[simp] theorem exec_viewRelease (spare : Nat) (s : State) : exec (.viewRelease spare) s = execViewRelease spare s := rfl
@[simp] theorem exec_dramScrub (stripe : Nat) (bad : List Nat) (s : State) : exec (.dramScrub stripe bad) s = execDramScrub stripe bad s := rfl
@[simp] theorem exec_softError (site : SoftSite) (s : State) : exec (.softError site) s = execSoftError site s := rfl
@[simp] theorem exec_shadowReplay (core : Nat) (s : State) : exec (.shadowReplay core) s = execShadowReplay core s := rfl
@[simp] theorem exec_rgnBitReport (region : Nat) (s : State) : exec (.rgnBitReport region) s = execRgnBitReport region s := rfl
@[simp] theorem exec_rgnBindResume (crew : Nat) (wave : Nat) (s : State) : exec (.rgnBindResume crew wave) s = execRgnBindResume crew wave s := rfl
@[simp] theorem exec_rgnCommit (region : Nat) (s : State) : exec (.rgnCommit region) s = execRgnCommit region s := rfl
@[simp] theorem exec_rgnDuration (region : Nat) (s : State) : exec (.rgnDuration region) s = execRgnDuration region s := rfl
@[simp] theorem exec_flowLaunch (ctx : Nat) (s : State) : exec (.flowLaunch ctx) s = execFlowLaunch ctx s := rfl
@[simp] theorem exec_demandSample (s : State) : exec .demandSample s = execDemandSample s := rfl
@[simp] theorem exec_crewPlace (die : Nat) (s : State) : exec (.crewPlace die) s = execCrewPlace die s := rfl
@[simp] theorem exec_preemptRequest (crew : Nat) (s : State) : exec (.preemptRequest crew) s = execPreemptRequest crew s := rfl
@[simp] theorem exec_preemptWithdraw (crew : Nat) (s : State) : exec (.preemptWithdraw crew) s = execPreemptWithdraw crew s := rfl
@[simp] theorem exec_pedlDeadline (crew : Nat) (s : State) : exec (.pedlDeadline crew) s = execPedlDeadline crew s := rfl
@[simp] theorem exec_npreWindowEnd (crew : Nat) (wave : Nat) (s : State) : exec (.npreWindowEnd crew wave) s = execNpreWindowEnd crew wave s := rfl
@[simp] theorem exec_preemptReport (crew : Nat) (s : State) : exec (.preemptReport crew) s = execPreemptReport crew s := rfl
@[simp] theorem exec_crewTake (crew : Nat) (s : State) : exec (.crewTake crew) s = execCrewTake crew s := rfl
@[simp] theorem exec_crewRestore (crew : Nat) (s : State) : exec (.crewRestore crew) s = execCrewRestore crew s := rfl
@[simp] theorem exec_restoreFinish (crew : Nat) (s : State) : exec (.restoreFinish crew) s = execRestoreFinish crew s := rfl
@[simp] theorem exec_barto (crew : Nat) (bar : Nat) (s : State) : exec (.barto crew bar) s = execBarto crew bar s := rfl
@[simp] theorem exec_watchdog (ctx : Nat) (s : State) : exec (.watchdog ctx) s = execWatchdog ctx s := rfl
@[simp] theorem exec_externalStall (ctx : Nat) (s : State) : exec (.externalStall ctx) s = execExternalStall ctx s := rfl
@[simp] theorem exec_infieldTestDue (quad : Nat) (s : State) : exec (.infieldTestDue quad) s = execInfieldTestDue quad s := rfl
@[simp] theorem exec_testPostpone (quad : Nat) (s : State) : exec (.testPostpone quad) s = execTestPostpone quad s := rfl
@[simp] theorem exec_collPacket (p : CollPacket) (s : State) : exec (.collPacket p) s = execCollPacket p s := rfl
@[simp] theorem exec_collComplete (coll : Nat) (s : State) : exec (.collComplete coll) s = execCollComplete coll s := rfl
@[simp] theorem exec_e2ePacket (p : E2EPacket) (s : State) : exec (.e2ePacket p) s = execE2ePacket p s := rfl
@[simp] theorem exec_e2eTimeout (dst : Nat) (seq : Nat) (s : State) : exec (.e2eTimeout dst seq) s = execE2eTimeout dst seq s := rfl
@[simp] theorem exec_keyExchange (peer : Nat) (gen : BitVec 16) (sigOk : Bool) (s : State) : exec (.keyExchange peer gen sigOk) s = execKeyExchange peer gen sigOk s := rfl
@[simp] theorem exec_linkReplay (port : Port) (s : State) : exec (.linkReplay port) s = execLinkReplay port s := rfl
@[simp] theorem exec_linkDown (port : Port) (s : State) : exec (.linkDown port) s = execLinkDown port s := rfl
@[simp] theorem exec_berWindow (port : Nat) (wl : Nat) (errs : Nat) (s : State) : exec (.berWindow port wl errs) s = execBerWindow port wl errs s := rfl
@[simp] theorem exec_retrainStart (port : Nat) (wl : Nat) (s : State) : exec (.retrainStart port wl) s = execRetrainStart port wl s := rfl
@[simp] theorem exec_trainingWindow (port : Nat) (wl : Nat) (errs : Nat) (s : State) : exec (.trainingWindow port wl errs) s = execTrainingWindow port wl errs s := rfl
@[simp] theorem exec_retrainTimeout (port : Nat) (wl : Nat) (s : State) : exec (.retrainTimeout port wl) s = execRetrainTimeout port wl s := rfl
@[simp] theorem exec_retrainStable (port : Nat) (wl : Nat) (s : State) : exec (.retrainStable port wl) s = execRetrainStable port wl s := rfl
@[simp] theorem exec_heartbeatPeriod (s : State) : exec .heartbeatPeriod s = execHeartbeatPeriod s := rfl
@[simp] theorem exec_heartbeat (dev : Nat) (gen : BitVec 16) (svc : Nat) (floor : Nat) (slotClock : Nat) (s : State) : exec (.heartbeat dev gen svc floor slotClock) s = execHeartbeat dev gen svc floor slotClock s := rfl
@[simp] theorem exec_beaconPeriod (s : State) : exec .beaconPeriod s = execBeaconPeriod s := rfl
@[simp] theorem exec_beacon (dev : Nat) (svc : Nat) (suspects : List Nat) (s : State) : exec (.beacon dev svc suspects) s = execBeacon dev svc suspects s := rfl
@[simp] theorem exec_suspicionReport (reporter : Nat) (target : Nat) (withdraw : Bool) (s : State) : exec (.suspicionReport reporter target withdraw) s = execSuspicionReport reporter target withdraw s := rfl
@[simp] theorem exec_probeTimeout (target : Nat) (s : State) : exec (.probeTimeout target) s = execProbeTimeout target s := rfl
@[simp] theorem exec_generationIssue (s : State) : exec .generationIssue s = execGenerationIssue s := rfl
@[simp] theorem exec_generationNotice (n : Notice) (s : State) : exec (.generationNotice n) s = execGenerationNotice n s := rfl
@[simp] theorem exec_removal (notice : Bool) (s : State) : exec (.removal notice) s = execRemoval notice s := rfl
@[simp] theorem exec_leaderTakeover (s : State) : exec .leaderTakeover s = execLeaderTakeover s := rfl
@[simp] theorem exec_stripeLand (stripe : Nat) (data : List Byte) (poison : List Nat) (s : State) : exec (.stripeLand stripe data poison) s = execStripeLand stripe data poison s := rfl
@[simp] theorem exec_cloneTimeout (s : State) : exec .cloneTimeout s = execCloneTimeout s := rfl
@[simp] theorem exec_replaceResend (s : State) : exec .replaceResend s = execReplaceResend s := rfl
@[simp] theorem exec_stepmark (s : State) : exec .stepmark s = execStepmark s := rfl
@[simp] theorem exec_wearTimeout (s : State) : exec .wearTimeout s = execWearTimeout s := rfl
@[simp] theorem exec_retireForce (dev : Nat) (s : State) : exec (.retireForce dev) s = execRetireForce dev s := rfl
@[simp] theorem exec_retireHandoff (dev : Nat) (s : State) : exec (.retireHandoff dev) s = execRetireHandoff dev s := rfl
@[simp] theorem exec_anvilSchedule (comm : Nat) (round : Nat) (s : State) : exec (.anvilSchedule comm round) s = execAnvilSchedule comm round s := rfl
@[simp] theorem exec_grant (g : GrantMsg) (s : State) : exec (.grant g) s = execGrant g s := rfl
@[simp] theorem exec_slotBoundary (s : State) : exec .slotBoundary s = execSlotBoundary s := rfl
@[simp] theorem exec_exchangeData (p : XData) (s : State) : exec (.exchangeData p) s = execExchangeData p s := rfl
@[simp] theorem exec_endMarker (p : XEnd) (s : State) : exec (.endMarker p) s = execEndMarker p s := rfl
@[simp] theorem exec_residualReport (p : XReport) (s : State) : exec (.residualReport p) s = execResidualReport p s := rfl
@[simp] theorem exec_arbiterTakeover (s : State) : exec .arbiterTakeover s = execArbiterTakeover s := rfl
@[simp] theorem exec_deviceReset (img : BootImage) (s : State) : exec (.deviceReset img) s = execDeviceReset img s := rfl
@[simp] theorem exec_bootcmdRestart (img : BootImage) (s : State) : exec (.bootcmdRestart img) s = execBootcmdRestart img s := rfl
@[simp] theorem exec_bootcmdRaiseMin (version : BitVec 32) (s : State) : exec (.bootcmdRaiseMin version) s = execBootcmdRaiseMin version s := rfl
@[simp] theorem exec_bootcmdReset (img : BootImage) (s : State) : exec (.bootcmdReset img) s = execBootcmdReset img s := rfl
@[simp] theorem exec_attreq (addr : Word) (s : State) : exec (.attreq addr) s = execAttreq addr s := rfl
@[simp] theorem exec_attestationDone (s : State) : exec .attestationDone s = execAttestationDone s := rfl
@[simp] theorem exec_contextCreate (ctx : Nat) (value : Word) (s : State) : exec (.contextCreate ctx value) s = execContextCreate ctx value s := rfl
@[simp] theorem exec_contextTerminate (ctx : Nat) (s : State) : exec (.contextTerminate ctx) s = execContextTerminate ctx s := rfl
@[simp] theorem exec_invalidate (ctx : Nat) (value : Word) (s : State) : exec (.invalidate ctx value) s = execInvalidate ctx value s := rfl
@[simp] theorem exec_invalidateDone (ctx : Nat) (s : State) : exec (.invalidateDone ctx) s = execInvalidateDone ctx s := rfl
@[simp] theorem exec_diagoccFree (ctx : Nat) (mask : Word) (s : State) : exec (.diagoccFree ctx mask) s = execDiagoccFree ctx mask s := rfl
@[simp] theorem exec_commConfigure (comm : Nat) (value : Word) (s : State) : exec (.commConfigure comm value) s = execCommConfigure comm value s := rfl
@[simp] theorem exec_thermalSample (celsius : Nat) (s : State) : exec (.thermalSample celsius) s = execThermalSample celsius s := rfl
@[simp] theorem exec_registerWrite (off : Nat) (size : Nat) (value : Word) (s : State) : exec (.registerWrite off size value) s = execRegisterWrite off size value s := rfl
@[simp] theorem exec_remoteLoadBlockingPoint (crew : Nat) (wave : Nat) (s : State) : exec (.remoteLoadBlockingPoint crew wave) s = execRemoteLoadBlockingPoint crew wave s := rfl
@[simp] theorem exec_linkRetrained (port : Port) (s : State) : exec (.linkRetrained port) s = execLinkRetrained port s := rfl
@[simp] theorem exec_probeAnswer (target : Nat) (s : State) : exec (.probeAnswer target) s = execProbeAnswer target s := rfl
@[simp] theorem exec_noticeAcknowledgement (dev : Nat) (gen : BitVec 16) (s : State) : exec (.noticeAcknowledgement dev gen) s = execNoticeAcknowledgement dev gen s := rfl
@[simp] theorem exec_failureDeclaration (dev : Nat) (s : State) : exec (.failureDeclaration dev) s = execFailureDeclaration dev s := rfl
@[simp] theorem exec_infieldTestEnd (quad : Nat) (result : TestResult) (s : State) : exec (.infieldTestEnd quad result) s = execInfieldTestEnd quad result s := rfl
@[simp] theorem exec_marginShortfall (what : Shortfall) (s : State) : exec (.marginShortfall what) s = execMarginShortfall what s := rfl
@[simp] theorem exec_postAcknowledgement (comm : Nat) (round : Nat) (standby : Bool) (s : State) : exec (.postAcknowledgement comm round standby) s = execPostAcknowledgement comm round standby s := rfl
@[simp] theorem exec_roundStopNotice (comm : Nat) (round : Nat) (s : State) : exec (.roundStopNotice comm round) s = execRoundStopNotice comm round s := rfl

end Sys2Proof.Laws
end

