-- ==== Sys2Proof/Laws/Map.lean ====
section
/-! SUPPORT. The laws of sparse maps: a read after a write, and the canonical form. -/

namespace Sys2Proof.Laws

open Sys2Proof.Machine

variable {α : Type}

theorem Map.find_erase_same (d : Nat → α) (m : Map α) (k : Nat) : Map.find d (Map.erase m k) k = d k := by
  induction m with
  | nil => rfl
  | cons e rest ih =>
    obtain ⟨k', v⟩ := e
    by_cases h : k' = k <;> simp [Map.erase, Map.find, h, ih]

theorem Map.find_erase_other (d : Nat → α) (m : Map α) {j k : Nat} (h : j ≠ k) :
    Map.find d (Map.erase m k) j = Map.find d m j := by
  induction m with
  | nil => rfl
  | cons e rest ih =>
    obtain ⟨k', v⟩ := e
    by_cases hk : k' = k
    · subst hk
      simp [Map.erase, Map.find, ih, Ne.symm h]
    · simp [Map.erase, Map.find, hk, ih]

theorem Map.find_insert_other (d : Nat → α) (m : Map α) {j k : Nat} (v : α) (h : j ≠ k) :
    Map.find d (Map.insert m k v) j = Map.find d m j := by
  induction m with
  | nil => simp [Map.insert, Map.find, Ne.symm h]
  | cons e rest ih =>
    obtain ⟨k', v'⟩ := e
    by_cases hk : k < k' <;> simp [Map.insert, Map.find, hk, ih, Ne.symm h]

/-- Every key of the map is below or above `k`: it is not listed. -/
theorem Map.find_insert_same (d : Nat → α) (m : Map α) (k : Nat) (v : α) (h : ∀ e ∈ m, e.1 ≠ k) :
    Map.find d (Map.insert m k v) k = v := by
  induction m with
  | nil => simp [Map.insert, Map.find]
  | cons e rest ih =>
    obtain ⟨k', v'⟩ := e
    have hk : k' ≠ k := h (k', v') (by simp)
    by_cases hl : k < k'
    · simp [Map.insert, Map.find, hl]
    · simp [Map.insert, Map.find, hl, hk]
      exact ih (fun e he => h e (by simp [he]))

theorem Map.erase_ne (m : Map α) (k : Nat) : ∀ e ∈ Map.erase m k, e.1 ≠ k := by
  induction m with
  | nil => simp [Map.erase]
  | cons e rest ih =>
    obtain ⟨k', v⟩ := e
    by_cases h : k' = k
    · simpa [Map.erase, h] using ih
    · simp only [Map.erase, h, if_false]
      intro e he
      rcases List.mem_cons.1 he with rfl | he
      · exact h
      · exact ih e he

theorem Map.mem_of_mem_erase (m : Map α) (k : Nat) : ∀ e ∈ Map.erase m k, e ∈ m := by
  induction m with
  | nil => simp [Map.erase]
  | cons e rest ih =>
    obtain ⟨k', v⟩ := e
    intro x hx
    by_cases h : k' = k
    · exact List.mem_cons_of_mem _ (ih x (by simpa [Map.erase, h] using hx))
    · simp only [Map.erase, h, if_false] at hx
      rcases List.mem_cons.1 hx with rfl | hx
      · simp
      · exact List.mem_cons_of_mem _ (ih x hx)

theorem Map.mem_insert (m : Map α) (k : Nat) (v : α) : ∀ e ∈ Map.insert m k v, e = (k, v) ∨ e ∈ m := by
  induction m with
  | nil => simp [Map.insert]
  | cons e rest ih =>
    obtain ⟨k', v'⟩ := e
    intro x hx
    by_cases h : k < k'
    · simpa [Map.insert, h] using hx
    · simp only [Map.insert, h, if_false] at hx
      rcases List.mem_cons.1 hx with rfl | hx
      · simp
      · rcases ih x hx with h' | h'
        · exact .inl h'
        · exact .inr (List.mem_cons_of_mem _ h')

variable [DecidableEq α]

/-- A read of the key that was written. -/
@[simp] theorem Map.find_put_same (d : Nat → α) (m : Map α) (k : Nat) (v : α) : Map.find d (Map.put d m k v) k = v := by
  unfold Map.put
  split
  · next h => rw [Map.find_erase_same, h]
  · exact Map.find_insert_same d _ k v (Map.erase_ne m k)

/-- A read of any other key. -/
theorem Map.find_put_other (d : Nat → α) (m : Map α) {j k : Nat} (v : α) (h : j ≠ k) :
    Map.find d (Map.put d m k v) j = Map.find d m j := by
  unfold Map.put
  split
  · exact Map.find_erase_other d m h
  · rw [Map.find_insert_other d _ v h, Map.find_erase_other d m h]

theorem Map.find_put (d : Nat → α) (m : Map α) (j k : Nat) (v : α) :
    Map.find d (Map.put d m k v) j = if j = k then v else Map.find d m j := by
  by_cases h : j = k
  · subst h; simp
  · simp [h, Map.find_put_other d m v h]

@[simp] theorem Map.wf_nil (d : Nat → α) : Map.wf d ([] : Map α) = true := rfl

theorem Map.wf_cons (d : Nat → α) (k : Nat) (v : α) (m : Map α) :
    Map.wf d ((k, v) :: m) = true ↔ (∀ e ∈ m, k < e.1) ∧ v ≠ d k ∧ Map.wf d m = true := by
  simp [Map.wf, List.all_eq_true, and_assoc]

theorem Map.wf_erase (d : Nat → α) (m : Map α) (k : Nat) (h : Map.wf d m = true) : Map.wf d (Map.erase m k) = true := by
  induction m with
  | nil => rfl
  | cons e rest ih =>
    obtain ⟨k', v⟩ := e
    obtain ⟨h1, h2, h3⟩ := (Map.wf_cons d k' v rest).1 h
    by_cases hk : k' = k
    · simpa [Map.erase, hk] using ih h3
    · simp only [Map.erase, hk, if_false]
      exact (Map.wf_cons d k' v _).2 ⟨fun e he => h1 e (Map.mem_of_mem_erase rest k e he), h2, ih h3⟩

theorem Map.wf_insert (d : Nat → α) (m : Map α) (k : Nat) (v : α) (h : Map.wf d m = true) (hv : v ≠ d k)
    (hk : ∀ e ∈ m, e.1 ≠ k) : Map.wf d (Map.insert m k v) = true := by
  induction m with
  | nil => simp [Map.insert, Map.wf, hv]
  | cons e rest ih =>
    obtain ⟨k', v'⟩ := e
    obtain ⟨h1, h2, h3⟩ := (Map.wf_cons d k' v' rest).1 h
    have hne : k' ≠ k := hk (k', v') (by simp)
    by_cases hl : k < k'
    · simp only [Map.insert, hl, if_true]
      refine (Map.wf_cons d k v _).2 ⟨?_, hv, h⟩
      intro e he
      rcases List.mem_cons.1 he with rfl | he
      · exact hl
      · exact Nat.lt_trans hl (h1 e he)
    · simp only [Map.insert, hl, if_false]
      refine (Map.wf_cons d k' v' _).2 ⟨?_, h2, ih h3 (fun e he => hk e (List.mem_cons_of_mem _ he))⟩
      intro e he
      rcases Map.mem_insert rest k v e he with rfl | he
      · simp only; omega
      · exact h1 e he

/-- A write keeps the canonical form. -/
theorem Map.wf_put (d : Nat → α) (m : Map α) (k : Nat) (v : α) (h : Map.wf d m = true) : Map.wf d (Map.put d m k v) = true := by
  unfold Map.put
  split
  · exact Map.wf_erase d m k h
  · next hv => exact Map.wf_insert d _ k v (Map.wf_erase d m k h) hv (Map.erase_ne m k)

/-- Taking entries out keeps the canonical form. -/
theorem Map.wf_filter (d : Nat → α) (m : Map α) (p : Nat × α → Bool) (h : Map.wf d m = true) : Map.wf d (m.filter p) = true := by
  induction m with
  | nil => rfl
  | cons e rest ih =>
    obtain ⟨k, v⟩ := e
    obtain ⟨h1, h2, h3⟩ := (Map.wf_cons d k v rest).1 h
    by_cases hp : p (k, v) = true
    · rw [List.filter_cons_of_pos hp]
      exact (Map.wf_cons d k v _).2 ⟨fun e he => h1 e (List.mem_of_mem_filter he), h2, ih h3⟩
    · rw [List.filter_cons_of_neg hp]
      exact ih h3

end Sys2Proof.Laws
end

