-- ==== Sys2Proof/Laws/State.lean ====
section
/-! SUPPORT. What each basic update of the state leaves alone: one equation per field and update, and the value of the field it sets. -/

namespace Sys2Proof.Laws

open Sys2Proof.Machine

@[simp] theorem State.setS_keeps (s : State) (r : Reg) (v : Word) :
    (s.setS r v).ps = s.ps ∧ (s.setS r v).cycles = s.cycles ∧ (s.setS r v).slow = s.slow ∧ (s.setS r v).fresh = s.fresh ∧
    (s.setS r v).devid = s.devid ∧ (s.setS r v).gen = s.gen ∧ (s.setS r v).mem = s.mem ∧ (s.setS r v).past = s.past ∧
    (s.setS r v).wseq = s.wseq ∧ (s.setS r v).poison = s.poison ∧ (s.setS r v).lines = s.lines ∧ (s.setS r v).copies = s.copies ∧
    (s.setS r v).floor = s.floor ∧ (s.setS r v).tickAt = s.tickAt ∧ (s.setS r v).linkPts = s.linkPts ∧ (s.setS r v).pins = s.pins ∧
    (s.setS r v).tlb = s.tlb ∧ (s.setS r v).pod = s.pod ∧ (s.setS r v).members = s.members ∧ (s.setS r v).views = s.views ∧
    (s.setS r v).regions = s.regions ∧ (s.setS r v).rgnStamp = s.rgnStamp ∧ (s.setS r v).rgnSeq = s.rgnSeq ∧
    (s.setS r v).rgnClock = s.rgnClock ∧ (s.setS r v).units = s.units ∧ (s.setS r v).samples = s.samples ∧
    (s.setS r v).flows = s.flows ∧ (s.setS r v).reserved = s.reserved ∧ (s.setS r v).crewIds = s.crewIds ∧ (s.setS r v).wd = s.wd ∧
    (s.setS r v).wdStall = s.wdStall ∧ (s.setS r v).lm = s.lm ∧ (s.setS r v).lmretn = s.lmretn ∧ (s.setS r v).lmStamp = s.lmStamp ∧
    (s.setS r v).lmMark = s.lmMark ∧ (s.setS r v).lmFull = s.lmFull ∧ (s.setS r v).lmPoison = s.lmPoison ∧
    (s.setS r v).lmClock = s.lmClock ∧ (s.setS r v).crew = s.crew ∧ (s.setS r v).crews = s.crews ∧
    (s.setS r v).nextHandle = s.nextHandle ∧ (s.setS r v).tickets = s.tickets ∧ (s.setS r v).cmds = s.cmds ∧
    (s.setS r v).nextCmd = s.nextCmd ∧ (s.setS r v).cores = s.cores ∧ (s.setS r v).dies = s.dies ∧ (s.setS r v).testDue = s.testDue ∧
    (s.setS r v).diagNext = s.diagNext ∧ (s.setS r v).fab = s.fab ∧ (s.setS r v).xch = s.xch ∧ (s.setS r v).memb = s.memb ∧
    (s.setS r v).links = s.links ∧ (s.setS r v).regs = s.regs ∧ (s.setS r v).events = s.events ∧ (s.setS r v).agenda = s.agenda :=
  ⟨rfl, rfl, rfl, rfl, rfl, rfl, rfl, rfl, rfl, rfl, rfl, rfl, rfl, rfl, rfl, rfl, rfl, rfl, rfl, rfl, rfl, rfl, rfl, rfl, rfl,
  rfl, rfl, rfl, rfl, rfl, rfl, rfl, rfl, rfl, rfl, rfl, rfl, rfl, rfl, rfl, rfl, rfl, rfl, rfl, rfl, rfl, rfl, rfl, rfl, rfl,
  rfl, rfl, rfl, rfl, rfl⟩

@[simp] theorem State.setS_wave (s : State) (r : Reg) (v : Word) : (s.setS r v).wave = s.wave.setS r v := rfl

@[simp] theorem State.setWave_keeps (s : State) (w : Wave) :
    (s.setWave w).ps = s.ps ∧ (s.setWave w).cycles = s.cycles ∧ (s.setWave w).slow = s.slow ∧ (s.setWave w).fresh = s.fresh ∧
    (s.setWave w).devid = s.devid ∧ (s.setWave w).gen = s.gen ∧ (s.setWave w).mem = s.mem ∧ (s.setWave w).past = s.past ∧
    (s.setWave w).wseq = s.wseq ∧ (s.setWave w).poison = s.poison ∧ (s.setWave w).lines = s.lines ∧ (s.setWave w).copies = s.copies ∧
    (s.setWave w).floor = s.floor ∧ (s.setWave w).tickAt = s.tickAt ∧ (s.setWave w).linkPts = s.linkPts ∧ (s.setWave w).pins = s.pins ∧
    (s.setWave w).tlb = s.tlb ∧ (s.setWave w).pod = s.pod ∧ (s.setWave w).members = s.members ∧ (s.setWave w).views = s.views ∧
    (s.setWave w).regions = s.regions ∧ (s.setWave w).rgnStamp = s.rgnStamp ∧ (s.setWave w).rgnSeq = s.rgnSeq ∧
    (s.setWave w).rgnClock = s.rgnClock ∧ (s.setWave w).units = s.units ∧ (s.setWave w).samples = s.samples ∧
    (s.setWave w).flows = s.flows ∧ (s.setWave w).reserved = s.reserved ∧ (s.setWave w).crewIds = s.crewIds ∧ (s.setWave w).wd = s.wd ∧
    (s.setWave w).wdStall = s.wdStall ∧ (s.setWave w).lm = s.lm ∧ (s.setWave w).lmretn = s.lmretn ∧ (s.setWave w).lmStamp = s.lmStamp ∧
    (s.setWave w).lmMark = s.lmMark ∧ (s.setWave w).lmFull = s.lmFull ∧ (s.setWave w).lmPoison = s.lmPoison ∧
    (s.setWave w).lmClock = s.lmClock ∧ (s.setWave w).crew = s.crew ∧ (s.setWave w).crews = s.crews ∧
    (s.setWave w).nextHandle = s.nextHandle ∧ (s.setWave w).tickets = s.tickets ∧ (s.setWave w).cmds = s.cmds ∧
    (s.setWave w).nextCmd = s.nextCmd ∧ (s.setWave w).cores = s.cores ∧ (s.setWave w).dies = s.dies ∧
    (s.setWave w).testDue = s.testDue ∧ (s.setWave w).diagNext = s.diagNext ∧ (s.setWave w).fab = s.fab ∧ (s.setWave w).xch = s.xch ∧
    (s.setWave w).memb = s.memb ∧ (s.setWave w).links = s.links ∧ (s.setWave w).regs = s.regs ∧ (s.setWave w).events = s.events ∧
    (s.setWave w).agenda = s.agenda :=
  ⟨rfl, rfl, rfl, rfl, rfl, rfl, rfl, rfl, rfl, rfl, rfl, rfl, rfl, rfl, rfl, rfl, rfl, rfl, rfl, rfl, rfl, rfl, rfl, rfl, rfl,
  rfl, rfl, rfl, rfl, rfl, rfl, rfl, rfl, rfl, rfl, rfl, rfl, rfl, rfl, rfl, rfl, rfl, rfl, rfl, rfl, rfl, rfl, rfl, rfl, rfl,
  rfl, rfl, rfl, rfl, rfl⟩

@[simp] theorem State.setWave_wave (s : State) (w : Wave) : (s.setWave w).wave = w := rfl

@[simp] theorem State.setCrew_keeps (s : State) (c : Crew) :
    (s.setCrew c).ps = s.ps ∧ (s.setCrew c).cycles = s.cycles ∧ (s.setCrew c).slow = s.slow ∧ (s.setCrew c).fresh = s.fresh ∧
    (s.setCrew c).devid = s.devid ∧ (s.setCrew c).gen = s.gen ∧ (s.setCrew c).mem = s.mem ∧ (s.setCrew c).past = s.past ∧
    (s.setCrew c).wseq = s.wseq ∧ (s.setCrew c).poison = s.poison ∧ (s.setCrew c).lines = s.lines ∧ (s.setCrew c).copies = s.copies ∧
    (s.setCrew c).floor = s.floor ∧ (s.setCrew c).tickAt = s.tickAt ∧ (s.setCrew c).linkPts = s.linkPts ∧ (s.setCrew c).pins = s.pins ∧
    (s.setCrew c).tlb = s.tlb ∧ (s.setCrew c).pod = s.pod ∧ (s.setCrew c).members = s.members ∧ (s.setCrew c).views = s.views ∧
    (s.setCrew c).regions = s.regions ∧ (s.setCrew c).rgnStamp = s.rgnStamp ∧ (s.setCrew c).rgnSeq = s.rgnSeq ∧
    (s.setCrew c).rgnClock = s.rgnClock ∧ (s.setCrew c).units = s.units ∧ (s.setCrew c).samples = s.samples ∧
    (s.setCrew c).flows = s.flows ∧ (s.setCrew c).reserved = s.reserved ∧ (s.setCrew c).crewIds = s.crewIds ∧ (s.setCrew c).wd = s.wd ∧
    (s.setCrew c).wdStall = s.wdStall ∧ (s.setCrew c).lm = s.lm ∧ (s.setCrew c).lmretn = s.lmretn ∧ (s.setCrew c).lmStamp = s.lmStamp ∧
    (s.setCrew c).lmMark = s.lmMark ∧ (s.setCrew c).lmFull = s.lmFull ∧ (s.setCrew c).lmPoison = s.lmPoison ∧
    (s.setCrew c).lmClock = s.lmClock ∧ (s.setCrew c).wave = s.wave ∧ (s.setCrew c).crews = s.crews ∧
    (s.setCrew c).nextHandle = s.nextHandle ∧ (s.setCrew c).tickets = s.tickets ∧ (s.setCrew c).cmds = s.cmds ∧
    (s.setCrew c).nextCmd = s.nextCmd ∧ (s.setCrew c).cores = s.cores ∧ (s.setCrew c).dies = s.dies ∧
    (s.setCrew c).testDue = s.testDue ∧ (s.setCrew c).diagNext = s.diagNext ∧ (s.setCrew c).fab = s.fab ∧ (s.setCrew c).xch = s.xch ∧
    (s.setCrew c).memb = s.memb ∧ (s.setCrew c).links = s.links ∧ (s.setCrew c).regs = s.regs ∧ (s.setCrew c).events = s.events ∧
    (s.setCrew c).agenda = s.agenda :=
  ⟨rfl, rfl, rfl, rfl, rfl, rfl, rfl, rfl, rfl, rfl, rfl, rfl, rfl, rfl, rfl, rfl, rfl, rfl, rfl, rfl, rfl, rfl, rfl, rfl, rfl,
  rfl, rfl, rfl, rfl, rfl, rfl, rfl, rfl, rfl, rfl, rfl, rfl, rfl, rfl, rfl, rfl, rfl, rfl, rfl, rfl, rfl, rfl, rfl, rfl, rfl,
  rfl, rfl, rfl, rfl, rfl⟩

@[simp] theorem State.setCrew_crew (s : State) (c : Crew) : (s.setCrew c).crew = c := rfl

@[simp] theorem State.setByte_keeps (s : State) (a : Nat) (b : Byte) :
    (s.setByte a b).ps = s.ps ∧ (s.setByte a b).cycles = s.cycles ∧ (s.setByte a b).slow = s.slow ∧ (s.setByte a b).fresh = s.fresh ∧
    (s.setByte a b).devid = s.devid ∧ (s.setByte a b).gen = s.gen ∧ (s.setByte a b).past = s.past ∧ (s.setByte a b).wseq = s.wseq ∧
    (s.setByte a b).poison = s.poison ∧ (s.setByte a b).lines = s.lines ∧ (s.setByte a b).copies = s.copies ∧
    (s.setByte a b).floor = s.floor ∧ (s.setByte a b).tickAt = s.tickAt ∧ (s.setByte a b).linkPts = s.linkPts ∧
    (s.setByte a b).pins = s.pins ∧ (s.setByte a b).tlb = s.tlb ∧ (s.setByte a b).pod = s.pod ∧ (s.setByte a b).members = s.members ∧
    (s.setByte a b).views = s.views ∧ (s.setByte a b).regions = s.regions ∧ (s.setByte a b).rgnStamp = s.rgnStamp ∧
    (s.setByte a b).rgnSeq = s.rgnSeq ∧ (s.setByte a b).rgnClock = s.rgnClock ∧ (s.setByte a b).units = s.units ∧
    (s.setByte a b).samples = s.samples ∧ (s.setByte a b).flows = s.flows ∧ (s.setByte a b).reserved = s.reserved ∧
    (s.setByte a b).crewIds = s.crewIds ∧ (s.setByte a b).wd = s.wd ∧ (s.setByte a b).wdStall = s.wdStall ∧ (s.setByte a b).lm = s.lm ∧
    (s.setByte a b).lmretn = s.lmretn ∧ (s.setByte a b).lmStamp = s.lmStamp ∧ (s.setByte a b).lmMark = s.lmMark ∧
    (s.setByte a b).lmFull = s.lmFull ∧ (s.setByte a b).lmPoison = s.lmPoison ∧ (s.setByte a b).lmClock = s.lmClock ∧
    (s.setByte a b).wave = s.wave ∧ (s.setByte a b).crew = s.crew ∧ (s.setByte a b).crews = s.crews ∧
    (s.setByte a b).nextHandle = s.nextHandle ∧ (s.setByte a b).tickets = s.tickets ∧ (s.setByte a b).cmds = s.cmds ∧
    (s.setByte a b).nextCmd = s.nextCmd ∧ (s.setByte a b).cores = s.cores ∧ (s.setByte a b).dies = s.dies ∧
    (s.setByte a b).testDue = s.testDue ∧ (s.setByte a b).diagNext = s.diagNext ∧ (s.setByte a b).fab = s.fab ∧
    (s.setByte a b).xch = s.xch ∧ (s.setByte a b).memb = s.memb ∧ (s.setByte a b).links = s.links ∧ (s.setByte a b).regs = s.regs ∧
    (s.setByte a b).events = s.events ∧ (s.setByte a b).agenda = s.agenda :=
  ⟨rfl, rfl, rfl, rfl, rfl, rfl, rfl, rfl, rfl, rfl, rfl, rfl, rfl, rfl, rfl, rfl, rfl, rfl, rfl, rfl, rfl, rfl, rfl, rfl, rfl,
  rfl, rfl, rfl, rfl, rfl, rfl, rfl, rfl, rfl, rfl, rfl, rfl, rfl, rfl, rfl, rfl, rfl, rfl, rfl, rfl, rfl, rfl, rfl, rfl, rfl,
  rfl, rfl, rfl, rfl, rfl⟩

@[simp] theorem State.setByte_mem (s : State) (a : Nat) (b : Byte) : (s.setByte a b).mem = Map.put memDefault s.mem a b := rfl

@[simp] theorem State.setPoison_keeps (s : State) (a : Nat) (p : Bool) :
    (s.setPoison a p).ps = s.ps ∧ (s.setPoison a p).cycles = s.cycles ∧ (s.setPoison a p).slow = s.slow ∧
    (s.setPoison a p).fresh = s.fresh ∧ (s.setPoison a p).devid = s.devid ∧ (s.setPoison a p).gen = s.gen ∧
    (s.setPoison a p).mem = s.mem ∧ (s.setPoison a p).past = s.past ∧ (s.setPoison a p).wseq = s.wseq ∧
    (s.setPoison a p).lines = s.lines ∧ (s.setPoison a p).copies = s.copies ∧ (s.setPoison a p).floor = s.floor ∧
    (s.setPoison a p).tickAt = s.tickAt ∧ (s.setPoison a p).linkPts = s.linkPts ∧ (s.setPoison a p).pins = s.pins ∧
    (s.setPoison a p).tlb = s.tlb ∧ (s.setPoison a p).pod = s.pod ∧ (s.setPoison a p).members = s.members ∧
    (s.setPoison a p).views = s.views ∧ (s.setPoison a p).regions = s.regions ∧ (s.setPoison a p).rgnStamp = s.rgnStamp ∧
    (s.setPoison a p).rgnSeq = s.rgnSeq ∧ (s.setPoison a p).rgnClock = s.rgnClock ∧ (s.setPoison a p).units = s.units ∧
    (s.setPoison a p).samples = s.samples ∧ (s.setPoison a p).flows = s.flows ∧ (s.setPoison a p).reserved = s.reserved ∧
    (s.setPoison a p).crewIds = s.crewIds ∧ (s.setPoison a p).wd = s.wd ∧ (s.setPoison a p).wdStall = s.wdStall ∧
    (s.setPoison a p).lm = s.lm ∧ (s.setPoison a p).lmretn = s.lmretn ∧ (s.setPoison a p).lmStamp = s.lmStamp ∧
    (s.setPoison a p).lmMark = s.lmMark ∧ (s.setPoison a p).lmFull = s.lmFull ∧ (s.setPoison a p).lmPoison = s.lmPoison ∧
    (s.setPoison a p).lmClock = s.lmClock ∧ (s.setPoison a p).wave = s.wave ∧ (s.setPoison a p).crew = s.crew ∧
    (s.setPoison a p).crews = s.crews ∧ (s.setPoison a p).nextHandle = s.nextHandle ∧ (s.setPoison a p).tickets = s.tickets ∧
    (s.setPoison a p).cmds = s.cmds ∧ (s.setPoison a p).nextCmd = s.nextCmd ∧ (s.setPoison a p).cores = s.cores ∧
    (s.setPoison a p).dies = s.dies ∧ (s.setPoison a p).testDue = s.testDue ∧ (s.setPoison a p).diagNext = s.diagNext ∧
    (s.setPoison a p).fab = s.fab ∧ (s.setPoison a p).xch = s.xch ∧ (s.setPoison a p).memb = s.memb ∧
    (s.setPoison a p).links = s.links ∧ (s.setPoison a p).regs = s.regs ∧ (s.setPoison a p).events = s.events ∧
    (s.setPoison a p).agenda = s.agenda :=
  ⟨rfl, rfl, rfl, rfl, rfl, rfl, rfl, rfl, rfl, rfl, rfl, rfl, rfl, rfl, rfl, rfl, rfl, rfl, rfl, rfl, rfl, rfl, rfl, rfl, rfl,
  rfl, rfl, rfl, rfl, rfl, rfl, rfl, rfl, rfl, rfl, rfl, rfl, rfl, rfl, rfl, rfl, rfl, rfl, rfl, rfl, rfl, rfl, rfl, rfl, rfl,
  rfl, rfl, rfl, rfl, rfl⟩

@[simp] theorem State.setPoison_poison (s : State) (a : Nat) (p : Bool) : (s.setPoison a p).poison = Map.put noPoison s.poison (a / 32) p := rfl

@[simp] theorem State.setLine_keeps (s : State) (l : Nat) (v : Line) :
    (s.setLine l v).ps = s.ps ∧ (s.setLine l v).cycles = s.cycles ∧ (s.setLine l v).slow = s.slow ∧ (s.setLine l v).fresh = s.fresh ∧
    (s.setLine l v).devid = s.devid ∧ (s.setLine l v).gen = s.gen ∧ (s.setLine l v).mem = s.mem ∧ (s.setLine l v).past = s.past ∧
    (s.setLine l v).wseq = s.wseq ∧ (s.setLine l v).poison = s.poison ∧ (s.setLine l v).copies = s.copies ∧
    (s.setLine l v).floor = s.floor ∧ (s.setLine l v).tickAt = s.tickAt ∧ (s.setLine l v).linkPts = s.linkPts ∧
    (s.setLine l v).pins = s.pins ∧ (s.setLine l v).tlb = s.tlb ∧ (s.setLine l v).pod = s.pod ∧ (s.setLine l v).members = s.members ∧
    (s.setLine l v).views = s.views ∧ (s.setLine l v).regions = s.regions ∧ (s.setLine l v).rgnStamp = s.rgnStamp ∧
    (s.setLine l v).rgnSeq = s.rgnSeq ∧ (s.setLine l v).rgnClock = s.rgnClock ∧ (s.setLine l v).units = s.units ∧
    (s.setLine l v).samples = s.samples ∧ (s.setLine l v).flows = s.flows ∧ (s.setLine l v).reserved = s.reserved ∧
    (s.setLine l v).crewIds = s.crewIds ∧ (s.setLine l v).wd = s.wd ∧ (s.setLine l v).wdStall = s.wdStall ∧ (s.setLine l v).lm = s.lm ∧
    (s.setLine l v).lmretn = s.lmretn ∧ (s.setLine l v).lmStamp = s.lmStamp ∧ (s.setLine l v).lmMark = s.lmMark ∧
    (s.setLine l v).lmFull = s.lmFull ∧ (s.setLine l v).lmPoison = s.lmPoison ∧ (s.setLine l v).lmClock = s.lmClock ∧
    (s.setLine l v).wave = s.wave ∧ (s.setLine l v).crew = s.crew ∧ (s.setLine l v).crews = s.crews ∧
    (s.setLine l v).nextHandle = s.nextHandle ∧ (s.setLine l v).tickets = s.tickets ∧ (s.setLine l v).cmds = s.cmds ∧
    (s.setLine l v).nextCmd = s.nextCmd ∧ (s.setLine l v).cores = s.cores ∧ (s.setLine l v).dies = s.dies ∧
    (s.setLine l v).testDue = s.testDue ∧ (s.setLine l v).diagNext = s.diagNext ∧ (s.setLine l v).fab = s.fab ∧
    (s.setLine l v).xch = s.xch ∧ (s.setLine l v).memb = s.memb ∧ (s.setLine l v).links = s.links ∧ (s.setLine l v).regs = s.regs ∧
    (s.setLine l v).events = s.events ∧ (s.setLine l v).agenda = s.agenda :=
  ⟨rfl, rfl, rfl, rfl, rfl, rfl, rfl, rfl, rfl, rfl, rfl, rfl, rfl, rfl, rfl, rfl, rfl, rfl, rfl, rfl, rfl, rfl, rfl, rfl, rfl,
  rfl, rfl, rfl, rfl, rfl, rfl, rfl, rfl, rfl, rfl, rfl, rfl, rfl, rfl, rfl, rfl, rfl, rfl, rfl, rfl, rfl, rfl, rfl, rfl, rfl,
  rfl, rfl, rfl, rfl, rfl⟩

@[simp] theorem State.setLine_lines (s : State) (l : Nat) (v : Line) : (s.setLine l v).lines = Map.put lineDefault s.lines l v := rfl

@[simp] theorem State.setReg_keeps (s : State) (o : Nat) (v : Word) :
    (s.setReg o v).ps = s.ps ∧ (s.setReg o v).cycles = s.cycles ∧ (s.setReg o v).slow = s.slow ∧ (s.setReg o v).fresh = s.fresh ∧
    (s.setReg o v).devid = s.devid ∧ (s.setReg o v).gen = s.gen ∧ (s.setReg o v).mem = s.mem ∧ (s.setReg o v).past = s.past ∧
    (s.setReg o v).wseq = s.wseq ∧ (s.setReg o v).poison = s.poison ∧ (s.setReg o v).lines = s.lines ∧
    (s.setReg o v).copies = s.copies ∧ (s.setReg o v).floor = s.floor ∧ (s.setReg o v).tickAt = s.tickAt ∧
    (s.setReg o v).linkPts = s.linkPts ∧ (s.setReg o v).pins = s.pins ∧ (s.setReg o v).tlb = s.tlb ∧ (s.setReg o v).pod = s.pod ∧
    (s.setReg o v).members = s.members ∧ (s.setReg o v).views = s.views ∧ (s.setReg o v).regions = s.regions ∧
    (s.setReg o v).rgnStamp = s.rgnStamp ∧ (s.setReg o v).rgnSeq = s.rgnSeq ∧ (s.setReg o v).rgnClock = s.rgnClock ∧
    (s.setReg o v).units = s.units ∧ (s.setReg o v).samples = s.samples ∧ (s.setReg o v).flows = s.flows ∧
    (s.setReg o v).reserved = s.reserved ∧ (s.setReg o v).crewIds = s.crewIds ∧ (s.setReg o v).wd = s.wd ∧
    (s.setReg o v).wdStall = s.wdStall ∧ (s.setReg o v).lm = s.lm ∧ (s.setReg o v).lmretn = s.lmretn ∧
    (s.setReg o v).lmStamp = s.lmStamp ∧ (s.setReg o v).lmMark = s.lmMark ∧ (s.setReg o v).lmFull = s.lmFull ∧
    (s.setReg o v).lmPoison = s.lmPoison ∧ (s.setReg o v).lmClock = s.lmClock ∧ (s.setReg o v).wave = s.wave ∧
    (s.setReg o v).crew = s.crew ∧ (s.setReg o v).crews = s.crews ∧ (s.setReg o v).nextHandle = s.nextHandle ∧
    (s.setReg o v).tickets = s.tickets ∧ (s.setReg o v).cmds = s.cmds ∧ (s.setReg o v).nextCmd = s.nextCmd ∧
    (s.setReg o v).cores = s.cores ∧ (s.setReg o v).dies = s.dies ∧ (s.setReg o v).testDue = s.testDue ∧
    (s.setReg o v).diagNext = s.diagNext ∧ (s.setReg o v).fab = s.fab ∧ (s.setReg o v).xch = s.xch ∧ (s.setReg o v).memb = s.memb ∧
    (s.setReg o v).links = s.links ∧ (s.setReg o v).events = s.events ∧ (s.setReg o v).agenda = s.agenda :=
  ⟨rfl, rfl, rfl, rfl, rfl, rfl, rfl, rfl, rfl, rfl, rfl, rfl, rfl, rfl, rfl, rfl, rfl, rfl, rfl, rfl, rfl, rfl, rfl, rfl, rfl,
  rfl, rfl, rfl, rfl, rfl, rfl, rfl, rfl, rfl, rfl, rfl, rfl, rfl, rfl, rfl, rfl, rfl, rfl, rfl, rfl, rfl, rfl, rfl, rfl, rfl,
  rfl, rfl, rfl, rfl, rfl⟩

@[simp] theorem State.setReg_regs (s : State) (o : Nat) (v : Word) : (s.setReg o v).regs = Map.put regReset s.regs o v := rfl

@[simp] theorem State.post_keeps (s : State) (e : HostEvent) :
    (s.post e).ps = s.ps ∧ (s.post e).cycles = s.cycles ∧ (s.post e).slow = s.slow ∧ (s.post e).fresh = s.fresh ∧
    (s.post e).devid = s.devid ∧ (s.post e).gen = s.gen ∧ (s.post e).mem = s.mem ∧ (s.post e).past = s.past ∧
    (s.post e).wseq = s.wseq ∧ (s.post e).poison = s.poison ∧ (s.post e).lines = s.lines ∧ (s.post e).copies = s.copies ∧
    (s.post e).floor = s.floor ∧ (s.post e).tickAt = s.tickAt ∧ (s.post e).linkPts = s.linkPts ∧ (s.post e).pins = s.pins ∧
    (s.post e).tlb = s.tlb ∧ (s.post e).pod = s.pod ∧ (s.post e).members = s.members ∧ (s.post e).views = s.views ∧
    (s.post e).regions = s.regions ∧ (s.post e).rgnStamp = s.rgnStamp ∧ (s.post e).rgnSeq = s.rgnSeq ∧
    (s.post e).rgnClock = s.rgnClock ∧ (s.post e).units = s.units ∧ (s.post e).samples = s.samples ∧ (s.post e).flows = s.flows ∧
    (s.post e).reserved = s.reserved ∧ (s.post e).crewIds = s.crewIds ∧ (s.post e).wd = s.wd ∧ (s.post e).wdStall = s.wdStall ∧
    (s.post e).lm = s.lm ∧ (s.post e).lmretn = s.lmretn ∧ (s.post e).lmStamp = s.lmStamp ∧ (s.post e).lmMark = s.lmMark ∧
    (s.post e).lmFull = s.lmFull ∧ (s.post e).lmPoison = s.lmPoison ∧ (s.post e).lmClock = s.lmClock ∧ (s.post e).wave = s.wave ∧
    (s.post e).crew = s.crew ∧ (s.post e).crews = s.crews ∧ (s.post e).nextHandle = s.nextHandle ∧ (s.post e).tickets = s.tickets ∧
    (s.post e).cmds = s.cmds ∧ (s.post e).nextCmd = s.nextCmd ∧ (s.post e).cores = s.cores ∧ (s.post e).dies = s.dies ∧
    (s.post e).testDue = s.testDue ∧ (s.post e).diagNext = s.diagNext ∧ (s.post e).fab = s.fab ∧ (s.post e).xch = s.xch ∧
    (s.post e).memb = s.memb ∧ (s.post e).links = s.links ∧ (s.post e).regs = s.regs ∧ (s.post e).agenda = s.agenda :=
  ⟨rfl, rfl, rfl, rfl, rfl, rfl, rfl, rfl, rfl, rfl, rfl, rfl, rfl, rfl, rfl, rfl, rfl, rfl, rfl, rfl, rfl, rfl, rfl, rfl, rfl,
  rfl, rfl, rfl, rfl, rfl, rfl, rfl, rfl, rfl, rfl, rfl, rfl, rfl, rfl, rfl, rfl, rfl, rfl, rfl, rfl, rfl, rfl, rfl, rfl, rfl,
  rfl, rfl, rfl, rfl, rfl⟩

@[simp] theorem State.post_events (s : State) (e : HostEvent) : (s.post e).events = s.events ++ [e] := rfl

@[simp] theorem State.elapse_keeps (s : State) (p : Nat) :
    (s.elapse p).slow = s.slow ∧ (s.elapse p).fresh = s.fresh ∧ (s.elapse p).devid = s.devid ∧ (s.elapse p).gen = s.gen ∧
    (s.elapse p).mem = s.mem ∧ (s.elapse p).past = s.past ∧ (s.elapse p).wseq = s.wseq ∧ (s.elapse p).poison = s.poison ∧
    (s.elapse p).lines = s.lines ∧ (s.elapse p).copies = s.copies ∧ (s.elapse p).floor = s.floor ∧ (s.elapse p).tickAt = s.tickAt ∧
    (s.elapse p).linkPts = s.linkPts ∧ (s.elapse p).pins = s.pins ∧ (s.elapse p).tlb = s.tlb ∧ (s.elapse p).pod = s.pod ∧
    (s.elapse p).members = s.members ∧ (s.elapse p).views = s.views ∧ (s.elapse p).regions = s.regions ∧
    (s.elapse p).rgnStamp = s.rgnStamp ∧ (s.elapse p).rgnSeq = s.rgnSeq ∧ (s.elapse p).rgnClock = s.rgnClock ∧
    (s.elapse p).units = s.units ∧ (s.elapse p).samples = s.samples ∧ (s.elapse p).flows = s.flows ∧
    (s.elapse p).reserved = s.reserved ∧ (s.elapse p).crewIds = s.crewIds ∧ (s.elapse p).wd = s.wd ∧ (s.elapse p).wdStall = s.wdStall ∧
    (s.elapse p).lm = s.lm ∧ (s.elapse p).lmretn = s.lmretn ∧ (s.elapse p).lmStamp = s.lmStamp ∧ (s.elapse p).lmMark = s.lmMark ∧
    (s.elapse p).lmFull = s.lmFull ∧ (s.elapse p).lmPoison = s.lmPoison ∧ (s.elapse p).lmClock = s.lmClock ∧
    (s.elapse p).wave = s.wave ∧ (s.elapse p).crew = s.crew ∧ (s.elapse p).crews = s.crews ∧ (s.elapse p).nextHandle = s.nextHandle ∧
    (s.elapse p).tickets = s.tickets ∧ (s.elapse p).cmds = s.cmds ∧ (s.elapse p).nextCmd = s.nextCmd ∧ (s.elapse p).cores = s.cores ∧
    (s.elapse p).dies = s.dies ∧ (s.elapse p).testDue = s.testDue ∧ (s.elapse p).diagNext = s.diagNext ∧ (s.elapse p).fab = s.fab ∧
    (s.elapse p).xch = s.xch ∧ (s.elapse p).memb = s.memb ∧ (s.elapse p).links = s.links ∧ (s.elapse p).regs = s.regs ∧
    (s.elapse p).events = s.events ∧ (s.elapse p).agenda = s.agenda :=
  ⟨rfl, rfl, rfl, rfl, rfl, rfl, rfl, rfl, rfl, rfl, rfl, rfl, rfl, rfl, rfl, rfl, rfl, rfl, rfl, rfl, rfl, rfl, rfl, rfl, rfl,
  rfl, rfl, rfl, rfl, rfl, rfl, rfl, rfl, rfl, rfl, rfl, rfl, rfl, rfl, rfl, rfl, rfl, rfl, rfl, rfl, rfl, rfl, rfl, rfl, rfl,
  rfl, rfl, rfl, rfl⟩

@[simp] theorem State.elapse_ps (s : State) (p : Nat) : (s.elapse p).ps = s.ps + p := rfl

@[simp] theorem State.orFlags_keeps (s : State) (f : BitVec 6) :
    (s.orFlags f).ps = s.ps ∧ (s.orFlags f).cycles = s.cycles ∧ (s.orFlags f).slow = s.slow ∧ (s.orFlags f).fresh = s.fresh ∧
    (s.orFlags f).devid = s.devid ∧ (s.orFlags f).gen = s.gen ∧ (s.orFlags f).mem = s.mem ∧ (s.orFlags f).past = s.past ∧
    (s.orFlags f).wseq = s.wseq ∧ (s.orFlags f).poison = s.poison ∧ (s.orFlags f).lines = s.lines ∧ (s.orFlags f).copies = s.copies ∧
    (s.orFlags f).floor = s.floor ∧ (s.orFlags f).tickAt = s.tickAt ∧ (s.orFlags f).linkPts = s.linkPts ∧ (s.orFlags f).pins = s.pins ∧
    (s.orFlags f).tlb = s.tlb ∧ (s.orFlags f).pod = s.pod ∧ (s.orFlags f).members = s.members ∧ (s.orFlags f).views = s.views ∧
    (s.orFlags f).regions = s.regions ∧ (s.orFlags f).rgnStamp = s.rgnStamp ∧ (s.orFlags f).rgnSeq = s.rgnSeq ∧
    (s.orFlags f).rgnClock = s.rgnClock ∧ (s.orFlags f).units = s.units ∧ (s.orFlags f).samples = s.samples ∧
    (s.orFlags f).flows = s.flows ∧ (s.orFlags f).reserved = s.reserved ∧ (s.orFlags f).crewIds = s.crewIds ∧ (s.orFlags f).wd = s.wd ∧
    (s.orFlags f).wdStall = s.wdStall ∧ (s.orFlags f).lm = s.lm ∧ (s.orFlags f).lmretn = s.lmretn ∧ (s.orFlags f).lmStamp = s.lmStamp ∧
    (s.orFlags f).lmMark = s.lmMark ∧ (s.orFlags f).lmFull = s.lmFull ∧ (s.orFlags f).lmPoison = s.lmPoison ∧
    (s.orFlags f).lmClock = s.lmClock ∧ (s.orFlags f).crew = s.crew ∧ (s.orFlags f).crews = s.crews ∧
    (s.orFlags f).nextHandle = s.nextHandle ∧ (s.orFlags f).tickets = s.tickets ∧ (s.orFlags f).cmds = s.cmds ∧
    (s.orFlags f).nextCmd = s.nextCmd ∧ (s.orFlags f).cores = s.cores ∧ (s.orFlags f).dies = s.dies ∧
    (s.orFlags f).testDue = s.testDue ∧ (s.orFlags f).diagNext = s.diagNext ∧ (s.orFlags f).fab = s.fab ∧ (s.orFlags f).xch = s.xch ∧
    (s.orFlags f).memb = s.memb ∧ (s.orFlags f).links = s.links ∧ (s.orFlags f).regs = s.regs ∧ (s.orFlags f).events = s.events ∧
    (s.orFlags f).agenda = s.agenda :=
  ⟨rfl, rfl, rfl, rfl, rfl, rfl, rfl, rfl, rfl, rfl, rfl, rfl, rfl, rfl, rfl, rfl, rfl, rfl, rfl, rfl, rfl, rfl, rfl, rfl, rfl,
  rfl, rfl, rfl, rfl, rfl, rfl, rfl, rfl, rfl, rfl, rfl, rfl, rfl, rfl, rfl, rfl, rfl, rfl, rfl, rfl, rfl, rfl, rfl, rfl, rfl,
  rfl, rfl, rfl, rfl, rfl⟩

@[simp] theorem State.orFlags_wave (s : State) (f : BitVec 6) : (s.orFlags f).wave = { s.wave with fflags := s.wave.fflags ||| f } := rfl

@[simp] theorem State.restartWd_keeps (s : State) :
    (s.restartWd).ps = s.ps ∧ (s.restartWd).cycles = s.cycles ∧ (s.restartWd).slow = s.slow ∧ (s.restartWd).fresh = s.fresh ∧
    (s.restartWd).devid = s.devid ∧ (s.restartWd).gen = s.gen ∧ (s.restartWd).mem = s.mem ∧ (s.restartWd).past = s.past ∧
    (s.restartWd).wseq = s.wseq ∧ (s.restartWd).poison = s.poison ∧ (s.restartWd).lines = s.lines ∧ (s.restartWd).copies = s.copies ∧
    (s.restartWd).floor = s.floor ∧ (s.restartWd).tickAt = s.tickAt ∧ (s.restartWd).linkPts = s.linkPts ∧ (s.restartWd).pins = s.pins ∧
    (s.restartWd).tlb = s.tlb ∧ (s.restartWd).pod = s.pod ∧ (s.restartWd).members = s.members ∧ (s.restartWd).views = s.views ∧
    (s.restartWd).regions = s.regions ∧ (s.restartWd).rgnStamp = s.rgnStamp ∧ (s.restartWd).rgnSeq = s.rgnSeq ∧
    (s.restartWd).rgnClock = s.rgnClock ∧ (s.restartWd).units = s.units ∧ (s.restartWd).samples = s.samples ∧
    (s.restartWd).flows = s.flows ∧ (s.restartWd).reserved = s.reserved ∧ (s.restartWd).crewIds = s.crewIds ∧ (s.restartWd).lm = s.lm ∧
    (s.restartWd).lmretn = s.lmretn ∧ (s.restartWd).lmStamp = s.lmStamp ∧ (s.restartWd).lmMark = s.lmMark ∧
    (s.restartWd).lmFull = s.lmFull ∧ (s.restartWd).lmPoison = s.lmPoison ∧ (s.restartWd).lmClock = s.lmClock ∧
    (s.restartWd).wave = s.wave ∧ (s.restartWd).crew = s.crew ∧ (s.restartWd).crews = s.crews ∧
    (s.restartWd).nextHandle = s.nextHandle ∧ (s.restartWd).tickets = s.tickets ∧ (s.restartWd).cmds = s.cmds ∧
    (s.restartWd).nextCmd = s.nextCmd ∧ (s.restartWd).cores = s.cores ∧ (s.restartWd).dies = s.dies ∧
    (s.restartWd).testDue = s.testDue ∧ (s.restartWd).diagNext = s.diagNext ∧ (s.restartWd).fab = s.fab ∧ (s.restartWd).xch = s.xch ∧
    (s.restartWd).memb = s.memb ∧ (s.restartWd).links = s.links ∧ (s.restartWd).regs = s.regs ∧ (s.restartWd).events = s.events ∧
    (s.restartWd).agenda = s.agenda :=
  ⟨rfl, rfl, rfl, rfl, rfl, rfl, rfl, rfl, rfl, rfl, rfl, rfl, rfl, rfl, rfl, rfl, rfl, rfl, rfl, rfl, rfl, rfl, rfl, rfl, rfl,
  rfl, rfl, rfl, rfl, rfl, rfl, rfl, rfl, rfl, rfl, rfl, rfl, rfl, rfl, rfl, rfl, rfl, rfl, rfl, rfl, rfl, rfl, rfl, rfl, rfl,
  rfl, rfl, rfl, rfl⟩

@[simp] theorem State.advanceTo_keeps (s : State) (y : Bool) (t : Word) :
    (s.advanceTo y t).ps = s.ps ∧ (s.advanceTo y t).cycles = s.cycles ∧ (s.advanceTo y t).slow = s.slow ∧
    (s.advanceTo y t).devid = s.devid ∧ (s.advanceTo y t).gen = s.gen ∧ (s.advanceTo y t).mem = s.mem ∧
    (s.advanceTo y t).past = s.past ∧ (s.advanceTo y t).wseq = s.wseq ∧ (s.advanceTo y t).poison = s.poison ∧
    (s.advanceTo y t).lines = s.lines ∧ (s.advanceTo y t).copies = s.copies ∧ (s.advanceTo y t).floor = s.floor ∧
    (s.advanceTo y t).tickAt = s.tickAt ∧ (s.advanceTo y t).linkPts = s.linkPts ∧ (s.advanceTo y t).pins = s.pins ∧
    (s.advanceTo y t).tlb = s.tlb ∧ (s.advanceTo y t).pod = s.pod ∧ (s.advanceTo y t).members = s.members ∧
    (s.advanceTo y t).views = s.views ∧ (s.advanceTo y t).regions = s.regions ∧ (s.advanceTo y t).rgnStamp = s.rgnStamp ∧
    (s.advanceTo y t).rgnSeq = s.rgnSeq ∧ (s.advanceTo y t).rgnClock = s.rgnClock ∧ (s.advanceTo y t).units = s.units ∧
    (s.advanceTo y t).samples = s.samples ∧ (s.advanceTo y t).flows = s.flows ∧ (s.advanceTo y t).reserved = s.reserved ∧
    (s.advanceTo y t).crewIds = s.crewIds ∧ (s.advanceTo y t).lm = s.lm ∧ (s.advanceTo y t).lmretn = s.lmretn ∧
    (s.advanceTo y t).lmStamp = s.lmStamp ∧ (s.advanceTo y t).lmMark = s.lmMark ∧ (s.advanceTo y t).lmFull = s.lmFull ∧
    (s.advanceTo y t).lmPoison = s.lmPoison ∧ (s.advanceTo y t).lmClock = s.lmClock ∧ (s.advanceTo y t).crew = s.crew ∧
    (s.advanceTo y t).crews = s.crews ∧ (s.advanceTo y t).nextHandle = s.nextHandle ∧ (s.advanceTo y t).tickets = s.tickets ∧
    (s.advanceTo y t).cmds = s.cmds ∧ (s.advanceTo y t).nextCmd = s.nextCmd ∧ (s.advanceTo y t).cores = s.cores ∧
    (s.advanceTo y t).dies = s.dies ∧ (s.advanceTo y t).testDue = s.testDue ∧ (s.advanceTo y t).diagNext = s.diagNext ∧
    (s.advanceTo y t).fab = s.fab ∧ (s.advanceTo y t).xch = s.xch ∧ (s.advanceTo y t).memb = s.memb ∧
    (s.advanceTo y t).links = s.links ∧ (s.advanceTo y t).regs = s.regs ∧ (s.advanceTo y t).events = s.events ∧
    (s.advanceTo y t).agenda = s.agenda :=
  ⟨rfl, rfl, rfl, rfl, rfl, rfl, rfl, rfl, rfl, rfl, rfl, rfl, rfl, rfl, rfl, rfl, rfl, rfl, rfl, rfl, rfl, rfl, rfl, rfl, rfl,
  rfl, rfl, rfl, rfl, rfl, rfl, rfl, rfl, rfl, rfl, rfl, rfl, rfl, rfl, rfl, rfl, rfl, rfl, rfl, rfl, rfl, rfl, rfl, rfl, rfl,
  rfl, rfl⟩

@[simp] theorem State.advanceTo_wave (s : State) (y : Bool) (t : Word) : (s.advanceTo y t).wave = { s.wave with pc := t, issued := s.wave.issued + 1, parked := y, block := none, qwait := none, collEnd := none, drain := false } := rfl

@[simp] theorem State.advanceTo_fresh (s : State) (y : Bool) (t : Word) : (s.advanceTo y t).fresh = s.fresh + 1 := rfl

@[simp] theorem State.advance_keeps (s : State) (y : Bool) :
    (s.advance y).ps = s.ps ∧ (s.advance y).cycles = s.cycles ∧ (s.advance y).slow = s.slow ∧ (s.advance y).devid = s.devid ∧
    (s.advance y).gen = s.gen ∧ (s.advance y).mem = s.mem ∧ (s.advance y).past = s.past ∧ (s.advance y).wseq = s.wseq ∧
    (s.advance y).poison = s.poison ∧ (s.advance y).lines = s.lines ∧ (s.advance y).copies = s.copies ∧ (s.advance y).floor = s.floor ∧
    (s.advance y).tickAt = s.tickAt ∧ (s.advance y).linkPts = s.linkPts ∧ (s.advance y).pins = s.pins ∧ (s.advance y).tlb = s.tlb ∧
    (s.advance y).pod = s.pod ∧ (s.advance y).members = s.members ∧ (s.advance y).views = s.views ∧ (s.advance y).regions = s.regions ∧
    (s.advance y).rgnStamp = s.rgnStamp ∧ (s.advance y).rgnSeq = s.rgnSeq ∧ (s.advance y).rgnClock = s.rgnClock ∧
    (s.advance y).units = s.units ∧ (s.advance y).samples = s.samples ∧ (s.advance y).flows = s.flows ∧
    (s.advance y).reserved = s.reserved ∧ (s.advance y).crewIds = s.crewIds ∧ (s.advance y).lm = s.lm ∧
    (s.advance y).lmretn = s.lmretn ∧ (s.advance y).lmStamp = s.lmStamp ∧ (s.advance y).lmMark = s.lmMark ∧
    (s.advance y).lmFull = s.lmFull ∧ (s.advance y).lmPoison = s.lmPoison ∧ (s.advance y).lmClock = s.lmClock ∧
    (s.advance y).crew = s.crew ∧ (s.advance y).crews = s.crews ∧ (s.advance y).nextHandle = s.nextHandle ∧
    (s.advance y).tickets = s.tickets ∧ (s.advance y).cmds = s.cmds ∧ (s.advance y).nextCmd = s.nextCmd ∧
    (s.advance y).cores = s.cores ∧ (s.advance y).dies = s.dies ∧ (s.advance y).testDue = s.testDue ∧
    (s.advance y).diagNext = s.diagNext ∧ (s.advance y).fab = s.fab ∧ (s.advance y).xch = s.xch ∧ (s.advance y).memb = s.memb ∧
    (s.advance y).links = s.links ∧ (s.advance y).regs = s.regs ∧ (s.advance y).events = s.events ∧ (s.advance y).agenda = s.agenda :=
  ⟨rfl, rfl, rfl, rfl, rfl, rfl, rfl, rfl, rfl, rfl, rfl, rfl, rfl, rfl, rfl, rfl, rfl, rfl, rfl, rfl, rfl, rfl, rfl, rfl, rfl,
  rfl, rfl, rfl, rfl, rfl, rfl, rfl, rfl, rfl, rfl, rfl, rfl, rfl, rfl, rfl, rfl, rfl, rfl, rfl, rfl, rfl, rfl, rfl, rfl, rfl,
  rfl, rfl⟩

@[simp] theorem State.advance_wave (s : State) (y : Bool) : (s.advance y).wave = { s.wave with pc := s.wave.pc + 4#64, issued := s.wave.issued + 1, parked := y, block := none, qwait := none, collEnd := none, drain := false } := rfl

@[simp] theorem State.advance_fresh (s : State) (y : Bool) : (s.advance y).fresh = s.fresh + 1 := rfl

@[simp] theorem State.wait_keeps (s : State) (b : Block) :
    (s.wait b).ps = s.ps ∧ (s.wait b).cycles = s.cycles ∧ (s.wait b).slow = s.slow ∧ (s.wait b).fresh = s.fresh ∧
    (s.wait b).devid = s.devid ∧ (s.wait b).gen = s.gen ∧ (s.wait b).mem = s.mem ∧ (s.wait b).past = s.past ∧
    (s.wait b).wseq = s.wseq ∧ (s.wait b).poison = s.poison ∧ (s.wait b).lines = s.lines ∧ (s.wait b).copies = s.copies ∧
    (s.wait b).floor = s.floor ∧ (s.wait b).tickAt = s.tickAt ∧ (s.wait b).linkPts = s.linkPts ∧ (s.wait b).pins = s.pins ∧
    (s.wait b).tlb = s.tlb ∧ (s.wait b).pod = s.pod ∧ (s.wait b).members = s.members ∧ (s.wait b).views = s.views ∧
    (s.wait b).regions = s.regions ∧ (s.wait b).rgnStamp = s.rgnStamp ∧ (s.wait b).rgnSeq = s.rgnSeq ∧
    (s.wait b).rgnClock = s.rgnClock ∧ (s.wait b).units = s.units ∧ (s.wait b).samples = s.samples ∧ (s.wait b).flows = s.flows ∧
    (s.wait b).reserved = s.reserved ∧ (s.wait b).crewIds = s.crewIds ∧ (s.wait b).wd = s.wd ∧ (s.wait b).wdStall = s.wdStall ∧
    (s.wait b).lm = s.lm ∧ (s.wait b).lmretn = s.lmretn ∧ (s.wait b).lmStamp = s.lmStamp ∧ (s.wait b).lmMark = s.lmMark ∧
    (s.wait b).lmFull = s.lmFull ∧ (s.wait b).lmPoison = s.lmPoison ∧ (s.wait b).lmClock = s.lmClock ∧ (s.wait b).crew = s.crew ∧
    (s.wait b).crews = s.crews ∧ (s.wait b).nextHandle = s.nextHandle ∧ (s.wait b).tickets = s.tickets ∧ (s.wait b).cmds = s.cmds ∧
    (s.wait b).nextCmd = s.nextCmd ∧ (s.wait b).cores = s.cores ∧ (s.wait b).dies = s.dies ∧ (s.wait b).testDue = s.testDue ∧
    (s.wait b).diagNext = s.diagNext ∧ (s.wait b).fab = s.fab ∧ (s.wait b).xch = s.xch ∧ (s.wait b).memb = s.memb ∧
    (s.wait b).links = s.links ∧ (s.wait b).regs = s.regs ∧ (s.wait b).events = s.events ∧ (s.wait b).agenda = s.agenda :=
  ⟨rfl, rfl, rfl, rfl, rfl, rfl, rfl, rfl, rfl, rfl, rfl, rfl, rfl, rfl, rfl, rfl, rfl, rfl, rfl, rfl, rfl, rfl, rfl, rfl, rfl,
  rfl, rfl, rfl, rfl, rfl, rfl, rfl, rfl, rfl, rfl, rfl, rfl, rfl, rfl, rfl, rfl, rfl, rfl, rfl, rfl, rfl, rfl, rfl, rfl, rfl,
  rfl, rfl, rfl, rfl, rfl⟩

@[simp] theorem State.wait_wave (s : State) (b : Block) : (s.wait b).wave = { s.wave with block := some b } := rfl

@[simp] theorem State.setCore_keeps (s : State) (n : Nat) (c : Core) :
    (s.setCore n c).ps = s.ps ∧ (s.setCore n c).cycles = s.cycles ∧ (s.setCore n c).slow = s.slow ∧ (s.setCore n c).fresh = s.fresh ∧
    (s.setCore n c).devid = s.devid ∧ (s.setCore n c).gen = s.gen ∧ (s.setCore n c).mem = s.mem ∧ (s.setCore n c).past = s.past ∧
    (s.setCore n c).wseq = s.wseq ∧ (s.setCore n c).poison = s.poison ∧ (s.setCore n c).lines = s.lines ∧
    (s.setCore n c).copies = s.copies ∧ (s.setCore n c).floor = s.floor ∧ (s.setCore n c).tickAt = s.tickAt ∧
    (s.setCore n c).linkPts = s.linkPts ∧ (s.setCore n c).pins = s.pins ∧ (s.setCore n c).tlb = s.tlb ∧ (s.setCore n c).pod = s.pod ∧
    (s.setCore n c).members = s.members ∧ (s.setCore n c).views = s.views ∧ (s.setCore n c).regions = s.regions ∧
    (s.setCore n c).rgnStamp = s.rgnStamp ∧ (s.setCore n c).rgnSeq = s.rgnSeq ∧ (s.setCore n c).rgnClock = s.rgnClock ∧
    (s.setCore n c).units = s.units ∧ (s.setCore n c).samples = s.samples ∧ (s.setCore n c).flows = s.flows ∧
    (s.setCore n c).reserved = s.reserved ∧ (s.setCore n c).crewIds = s.crewIds ∧ (s.setCore n c).wd = s.wd ∧
    (s.setCore n c).wdStall = s.wdStall ∧ (s.setCore n c).lm = s.lm ∧ (s.setCore n c).lmretn = s.lmretn ∧
    (s.setCore n c).lmStamp = s.lmStamp ∧ (s.setCore n c).lmMark = s.lmMark ∧ (s.setCore n c).lmFull = s.lmFull ∧
    (s.setCore n c).lmPoison = s.lmPoison ∧ (s.setCore n c).lmClock = s.lmClock ∧ (s.setCore n c).wave = s.wave ∧
    (s.setCore n c).crew = s.crew ∧ (s.setCore n c).crews = s.crews ∧ (s.setCore n c).nextHandle = s.nextHandle ∧
    (s.setCore n c).tickets = s.tickets ∧ (s.setCore n c).cmds = s.cmds ∧ (s.setCore n c).nextCmd = s.nextCmd ∧
    (s.setCore n c).dies = s.dies ∧ (s.setCore n c).testDue = s.testDue ∧ (s.setCore n c).diagNext = s.diagNext ∧
    (s.setCore n c).fab = s.fab ∧ (s.setCore n c).xch = s.xch ∧ (s.setCore n c).memb = s.memb ∧ (s.setCore n c).links = s.links ∧
    (s.setCore n c).regs = s.regs ∧ (s.setCore n c).events = s.events ∧ (s.setCore n c).agenda = s.agenda :=
  ⟨rfl, rfl, rfl, rfl, rfl, rfl, rfl, rfl, rfl, rfl, rfl, rfl, rfl, rfl, rfl, rfl, rfl, rfl, rfl, rfl, rfl, rfl, rfl, rfl, rfl,
  rfl, rfl, rfl, rfl, rfl, rfl, rfl, rfl, rfl, rfl, rfl, rfl, rfl, rfl, rfl, rfl, rfl, rfl, rfl, rfl, rfl, rfl, rfl, rfl, rfl,
  rfl, rfl, rfl, rfl, rfl⟩

@[simp] theorem State.setDie_keeps (s : State) (n : Nat) (d : Die) :
    (s.setDie n d).ps = s.ps ∧ (s.setDie n d).cycles = s.cycles ∧ (s.setDie n d).slow = s.slow ∧ (s.setDie n d).fresh = s.fresh ∧
    (s.setDie n d).devid = s.devid ∧ (s.setDie n d).gen = s.gen ∧ (s.setDie n d).mem = s.mem ∧ (s.setDie n d).past = s.past ∧
    (s.setDie n d).wseq = s.wseq ∧ (s.setDie n d).poison = s.poison ∧ (s.setDie n d).lines = s.lines ∧
    (s.setDie n d).copies = s.copies ∧ (s.setDie n d).floor = s.floor ∧ (s.setDie n d).tickAt = s.tickAt ∧
    (s.setDie n d).linkPts = s.linkPts ∧ (s.setDie n d).pins = s.pins ∧ (s.setDie n d).tlb = s.tlb ∧ (s.setDie n d).pod = s.pod ∧
    (s.setDie n d).members = s.members ∧ (s.setDie n d).views = s.views ∧ (s.setDie n d).regions = s.regions ∧
    (s.setDie n d).rgnStamp = s.rgnStamp ∧ (s.setDie n d).rgnSeq = s.rgnSeq ∧ (s.setDie n d).rgnClock = s.rgnClock ∧
    (s.setDie n d).units = s.units ∧ (s.setDie n d).samples = s.samples ∧ (s.setDie n d).flows = s.flows ∧
    (s.setDie n d).reserved = s.reserved ∧ (s.setDie n d).crewIds = s.crewIds ∧ (s.setDie n d).wd = s.wd ∧
    (s.setDie n d).wdStall = s.wdStall ∧ (s.setDie n d).lm = s.lm ∧ (s.setDie n d).lmretn = s.lmretn ∧
    (s.setDie n d).lmStamp = s.lmStamp ∧ (s.setDie n d).lmMark = s.lmMark ∧ (s.setDie n d).lmFull = s.lmFull ∧
    (s.setDie n d).lmPoison = s.lmPoison ∧ (s.setDie n d).lmClock = s.lmClock ∧ (s.setDie n d).wave = s.wave ∧
    (s.setDie n d).crew = s.crew ∧ (s.setDie n d).crews = s.crews ∧ (s.setDie n d).nextHandle = s.nextHandle ∧
    (s.setDie n d).tickets = s.tickets ∧ (s.setDie n d).cmds = s.cmds ∧ (s.setDie n d).nextCmd = s.nextCmd ∧
    (s.setDie n d).cores = s.cores ∧ (s.setDie n d).testDue = s.testDue ∧ (s.setDie n d).diagNext = s.diagNext ∧
    (s.setDie n d).fab = s.fab ∧ (s.setDie n d).xch = s.xch ∧ (s.setDie n d).memb = s.memb ∧ (s.setDie n d).links = s.links ∧
    (s.setDie n d).regs = s.regs ∧ (s.setDie n d).events = s.events ∧ (s.setDie n d).agenda = s.agenda :=
  ⟨rfl, rfl, rfl, rfl, rfl, rfl, rfl, rfl, rfl, rfl, rfl, rfl, rfl, rfl, rfl, rfl, rfl, rfl, rfl, rfl, rfl, rfl, rfl, rfl, rfl,
  rfl, rfl, rfl, rfl, rfl, rfl, rfl, rfl, rfl, rfl, rfl, rfl, rfl, rfl, rfl, rfl, rfl, rfl, rfl, rfl, rfl, rfl, rfl, rfl, rfl,
  rfl, rfl, rfl, rfl, rfl⟩

@[simp] theorem State.pushAccess_keeps (s : State) (o : AccOp) (ls : List LaneReq) (st : Bool) :
    (s.pushAccess o ls st).ps = s.ps ∧ (s.pushAccess o ls st).cycles = s.cycles ∧ (s.pushAccess o ls st).slow = s.slow ∧
    (s.pushAccess o ls st).fresh = s.fresh ∧ (s.pushAccess o ls st).devid = s.devid ∧ (s.pushAccess o ls st).gen = s.gen ∧
    (s.pushAccess o ls st).mem = s.mem ∧ (s.pushAccess o ls st).past = s.past ∧ (s.pushAccess o ls st).wseq = s.wseq ∧
    (s.pushAccess o ls st).poison = s.poison ∧ (s.pushAccess o ls st).lines = s.lines ∧ (s.pushAccess o ls st).copies = s.copies ∧
    (s.pushAccess o ls st).floor = s.floor ∧ (s.pushAccess o ls st).tickAt = s.tickAt ∧ (s.pushAccess o ls st).linkPts = s.linkPts ∧
    (s.pushAccess o ls st).pins = s.pins ∧ (s.pushAccess o ls st).tlb = s.tlb ∧ (s.pushAccess o ls st).pod = s.pod ∧
    (s.pushAccess o ls st).members = s.members ∧ (s.pushAccess o ls st).views = s.views ∧ (s.pushAccess o ls st).regions = s.regions ∧
    (s.pushAccess o ls st).rgnStamp = s.rgnStamp ∧ (s.pushAccess o ls st).rgnSeq = s.rgnSeq ∧
    (s.pushAccess o ls st).rgnClock = s.rgnClock ∧ (s.pushAccess o ls st).units = s.units ∧
    (s.pushAccess o ls st).samples = s.samples ∧ (s.pushAccess o ls st).flows = s.flows ∧
    (s.pushAccess o ls st).reserved = s.reserved ∧ (s.pushAccess o ls st).crewIds = s.crewIds ∧ (s.pushAccess o ls st).wd = s.wd ∧
    (s.pushAccess o ls st).wdStall = s.wdStall ∧ (s.pushAccess o ls st).lm = s.lm ∧ (s.pushAccess o ls st).lmretn = s.lmretn ∧
    (s.pushAccess o ls st).lmStamp = s.lmStamp ∧ (s.pushAccess o ls st).lmMark = s.lmMark ∧ (s.pushAccess o ls st).lmFull = s.lmFull ∧
    (s.pushAccess o ls st).lmPoison = s.lmPoison ∧ (s.pushAccess o ls st).lmClock = s.lmClock ∧ (s.pushAccess o ls st).crew = s.crew ∧
    (s.pushAccess o ls st).crews = s.crews ∧ (s.pushAccess o ls st).nextHandle = s.nextHandle ∧
    (s.pushAccess o ls st).tickets = s.tickets ∧ (s.pushAccess o ls st).cmds = s.cmds ∧ (s.pushAccess o ls st).nextCmd = s.nextCmd ∧
    (s.pushAccess o ls st).cores = s.cores ∧ (s.pushAccess o ls st).dies = s.dies ∧ (s.pushAccess o ls st).testDue = s.testDue ∧
    (s.pushAccess o ls st).diagNext = s.diagNext ∧ (s.pushAccess o ls st).fab = s.fab ∧ (s.pushAccess o ls st).xch = s.xch ∧
    (s.pushAccess o ls st).memb = s.memb ∧ (s.pushAccess o ls st).links = s.links ∧ (s.pushAccess o ls st).regs = s.regs ∧
    (s.pushAccess o ls st).events = s.events ∧ (s.pushAccess o ls st).agenda = s.agenda :=
  ⟨rfl, rfl, rfl, rfl, rfl, rfl, rfl, rfl, rfl, rfl, rfl, rfl, rfl, rfl, rfl, rfl, rfl, rfl, rfl, rfl, rfl, rfl, rfl, rfl, rfl,
  rfl, rfl, rfl, rfl, rfl, rfl, rfl, rfl, rfl, rfl, rfl, rfl, rfl, rfl, rfl, rfl, rfl, rfl, rfl, rfl, rfl, rfl, rfl, rfl, rfl,
  rfl, rfl, rfl, rfl, rfl⟩

@[simp] theorem State.raisePts_keeps (s : State) (w : Nat) :
    (s.raisePts w).ps = s.ps ∧ (s.raisePts w).cycles = s.cycles ∧ (s.raisePts w).slow = s.slow ∧ (s.raisePts w).fresh = s.fresh ∧
    (s.raisePts w).devid = s.devid ∧ (s.raisePts w).gen = s.gen ∧ (s.raisePts w).mem = s.mem ∧ (s.raisePts w).past = s.past ∧
    (s.raisePts w).wseq = s.wseq ∧ (s.raisePts w).poison = s.poison ∧ (s.raisePts w).lines = s.lines ∧
    (s.raisePts w).copies = s.copies ∧ (s.raisePts w).floor = s.floor ∧ (s.raisePts w).tickAt = s.tickAt ∧
    (s.raisePts w).linkPts = s.linkPts ∧ (s.raisePts w).pins = s.pins ∧ (s.raisePts w).tlb = s.tlb ∧ (s.raisePts w).pod = s.pod ∧
    (s.raisePts w).members = s.members ∧ (s.raisePts w).views = s.views ∧ (s.raisePts w).regions = s.regions ∧
    (s.raisePts w).rgnStamp = s.rgnStamp ∧ (s.raisePts w).rgnSeq = s.rgnSeq ∧ (s.raisePts w).rgnClock = s.rgnClock ∧
    (s.raisePts w).units = s.units ∧ (s.raisePts w).samples = s.samples ∧ (s.raisePts w).flows = s.flows ∧
    (s.raisePts w).reserved = s.reserved ∧ (s.raisePts w).crewIds = s.crewIds ∧ (s.raisePts w).wd = s.wd ∧
    (s.raisePts w).wdStall = s.wdStall ∧ (s.raisePts w).lm = s.lm ∧ (s.raisePts w).lmretn = s.lmretn ∧
    (s.raisePts w).lmStamp = s.lmStamp ∧ (s.raisePts w).lmMark = s.lmMark ∧ (s.raisePts w).lmFull = s.lmFull ∧
    (s.raisePts w).lmPoison = s.lmPoison ∧ (s.raisePts w).lmClock = s.lmClock ∧ (s.raisePts w).crew = s.crew ∧
    (s.raisePts w).crews = s.crews ∧ (s.raisePts w).nextHandle = s.nextHandle ∧ (s.raisePts w).tickets = s.tickets ∧
    (s.raisePts w).cmds = s.cmds ∧ (s.raisePts w).nextCmd = s.nextCmd ∧ (s.raisePts w).cores = s.cores ∧ (s.raisePts w).dies = s.dies ∧
    (s.raisePts w).testDue = s.testDue ∧ (s.raisePts w).diagNext = s.diagNext ∧ (s.raisePts w).fab = s.fab ∧
    (s.raisePts w).xch = s.xch ∧ (s.raisePts w).memb = s.memb ∧ (s.raisePts w).links = s.links ∧ (s.raisePts w).regs = s.regs ∧
    (s.raisePts w).events = s.events ∧ (s.raisePts w).agenda = s.agenda :=
  ⟨rfl, rfl, rfl, rfl, rfl, rfl, rfl, rfl, rfl, rfl, rfl, rfl, rfl, rfl, rfl, rfl, rfl, rfl, rfl, rfl, rfl, rfl, rfl, rfl, rfl,
  rfl, rfl, rfl, rfl, rfl, rfl, rfl, rfl, rfl, rfl, rfl, rfl, rfl, rfl, rfl, rfl, rfl, rfl, rfl, rfl, rfl, rfl, rfl, rfl, rfl,
  rfl, rfl, rfl, rfl, rfl⟩

@[simp] theorem State.raisePts_wave (s : State) (w : Nat) : (s.raisePts w).wave = { s.wave with pts := Max.max s.wave.pts w } := rfl

@[simp] theorem State.lmSetByte_keeps (s : State) (c : Nat) (o : Nat) (b : Byte) :
    (s.lmSetByte c o b).ps = s.ps ∧ (s.lmSetByte c o b).cycles = s.cycles ∧ (s.lmSetByte c o b).slow = s.slow ∧
    (s.lmSetByte c o b).fresh = s.fresh ∧ (s.lmSetByte c o b).devid = s.devid ∧ (s.lmSetByte c o b).gen = s.gen ∧
    (s.lmSetByte c o b).mem = s.mem ∧ (s.lmSetByte c o b).past = s.past ∧ (s.lmSetByte c o b).wseq = s.wseq ∧
    (s.lmSetByte c o b).poison = s.poison ∧ (s.lmSetByte c o b).lines = s.lines ∧ (s.lmSetByte c o b).copies = s.copies ∧
    (s.lmSetByte c o b).floor = s.floor ∧ (s.lmSetByte c o b).tickAt = s.tickAt ∧ (s.lmSetByte c o b).linkPts = s.linkPts ∧
    (s.lmSetByte c o b).pins = s.pins ∧ (s.lmSetByte c o b).tlb = s.tlb ∧ (s.lmSetByte c o b).pod = s.pod ∧
    (s.lmSetByte c o b).members = s.members ∧ (s.lmSetByte c o b).views = s.views ∧ (s.lmSetByte c o b).regions = s.regions ∧
    (s.lmSetByte c o b).rgnStamp = s.rgnStamp ∧ (s.lmSetByte c o b).rgnSeq = s.rgnSeq ∧ (s.lmSetByte c o b).rgnClock = s.rgnClock ∧
    (s.lmSetByte c o b).units = s.units ∧ (s.lmSetByte c o b).samples = s.samples ∧ (s.lmSetByte c o b).flows = s.flows ∧
    (s.lmSetByte c o b).reserved = s.reserved ∧ (s.lmSetByte c o b).crewIds = s.crewIds ∧ (s.lmSetByte c o b).wd = s.wd ∧
    (s.lmSetByte c o b).wdStall = s.wdStall ∧ (s.lmSetByte c o b).lmretn = s.lmretn ∧ (s.lmSetByte c o b).lmStamp = s.lmStamp ∧
    (s.lmSetByte c o b).lmMark = s.lmMark ∧ (s.lmSetByte c o b).lmFull = s.lmFull ∧ (s.lmSetByte c o b).lmPoison = s.lmPoison ∧
    (s.lmSetByte c o b).lmClock = s.lmClock ∧ (s.lmSetByte c o b).wave = s.wave ∧ (s.lmSetByte c o b).crew = s.crew ∧
    (s.lmSetByte c o b).crews = s.crews ∧ (s.lmSetByte c o b).nextHandle = s.nextHandle ∧ (s.lmSetByte c o b).tickets = s.tickets ∧
    (s.lmSetByte c o b).cmds = s.cmds ∧ (s.lmSetByte c o b).nextCmd = s.nextCmd ∧ (s.lmSetByte c o b).cores = s.cores ∧
    (s.lmSetByte c o b).dies = s.dies ∧ (s.lmSetByte c o b).testDue = s.testDue ∧ (s.lmSetByte c o b).diagNext = s.diagNext ∧
    (s.lmSetByte c o b).fab = s.fab ∧ (s.lmSetByte c o b).xch = s.xch ∧ (s.lmSetByte c o b).memb = s.memb ∧
    (s.lmSetByte c o b).links = s.links ∧ (s.lmSetByte c o b).regs = s.regs ∧ (s.lmSetByte c o b).events = s.events ∧
    (s.lmSetByte c o b).agenda = s.agenda :=
  ⟨rfl, rfl, rfl, rfl, rfl, rfl, rfl, rfl, rfl, rfl, rfl, rfl, rfl, rfl, rfl, rfl, rfl, rfl, rfl, rfl, rfl, rfl, rfl, rfl, rfl,
  rfl, rfl, rfl, rfl, rfl, rfl, rfl, rfl, rfl, rfl, rfl, rfl, rfl, rfl, rfl, rfl, rfl, rfl, rfl, rfl, rfl, rfl, rfl, rfl, rfl,
  rfl, rfl, rfl, rfl, rfl⟩

@[simp] theorem State.lmSetFull_keeps (s : State) (c : Nat) (o : Nat) (b : Bool) :
    (s.lmSetFull c o b).ps = s.ps ∧ (s.lmSetFull c o b).cycles = s.cycles ∧ (s.lmSetFull c o b).slow = s.slow ∧
    (s.lmSetFull c o b).fresh = s.fresh ∧ (s.lmSetFull c o b).devid = s.devid ∧ (s.lmSetFull c o b).gen = s.gen ∧
    (s.lmSetFull c o b).mem = s.mem ∧ (s.lmSetFull c o b).past = s.past ∧ (s.lmSetFull c o b).wseq = s.wseq ∧
    (s.lmSetFull c o b).poison = s.poison ∧ (s.lmSetFull c o b).lines = s.lines ∧ (s.lmSetFull c o b).copies = s.copies ∧
    (s.lmSetFull c o b).floor = s.floor ∧ (s.lmSetFull c o b).tickAt = s.tickAt ∧ (s.lmSetFull c o b).linkPts = s.linkPts ∧
    (s.lmSetFull c o b).pins = s.pins ∧ (s.lmSetFull c o b).tlb = s.tlb ∧ (s.lmSetFull c o b).pod = s.pod ∧
    (s.lmSetFull c o b).members = s.members ∧ (s.lmSetFull c o b).views = s.views ∧ (s.lmSetFull c o b).regions = s.regions ∧
    (s.lmSetFull c o b).rgnStamp = s.rgnStamp ∧ (s.lmSetFull c o b).rgnSeq = s.rgnSeq ∧ (s.lmSetFull c o b).rgnClock = s.rgnClock ∧
    (s.lmSetFull c o b).units = s.units ∧ (s.lmSetFull c o b).samples = s.samples ∧ (s.lmSetFull c o b).flows = s.flows ∧
    (s.lmSetFull c o b).reserved = s.reserved ∧ (s.lmSetFull c o b).crewIds = s.crewIds ∧ (s.lmSetFull c o b).wd = s.wd ∧
    (s.lmSetFull c o b).wdStall = s.wdStall ∧ (s.lmSetFull c o b).lm = s.lm ∧ (s.lmSetFull c o b).lmretn = s.lmretn ∧
    (s.lmSetFull c o b).lmStamp = s.lmStamp ∧ (s.lmSetFull c o b).lmMark = s.lmMark ∧ (s.lmSetFull c o b).lmPoison = s.lmPoison ∧
    (s.lmSetFull c o b).lmClock = s.lmClock ∧ (s.lmSetFull c o b).wave = s.wave ∧ (s.lmSetFull c o b).crew = s.crew ∧
    (s.lmSetFull c o b).crews = s.crews ∧ (s.lmSetFull c o b).nextHandle = s.nextHandle ∧ (s.lmSetFull c o b).tickets = s.tickets ∧
    (s.lmSetFull c o b).cmds = s.cmds ∧ (s.lmSetFull c o b).nextCmd = s.nextCmd ∧ (s.lmSetFull c o b).cores = s.cores ∧
    (s.lmSetFull c o b).dies = s.dies ∧ (s.lmSetFull c o b).testDue = s.testDue ∧ (s.lmSetFull c o b).diagNext = s.diagNext ∧
    (s.lmSetFull c o b).fab = s.fab ∧ (s.lmSetFull c o b).xch = s.xch ∧ (s.lmSetFull c o b).memb = s.memb ∧
    (s.lmSetFull c o b).links = s.links ∧ (s.lmSetFull c o b).regs = s.regs ∧ (s.lmSetFull c o b).events = s.events ∧
    (s.lmSetFull c o b).agenda = s.agenda :=
  ⟨rfl, rfl, rfl, rfl, rfl, rfl, rfl, rfl, rfl, rfl, rfl, rfl, rfl, rfl, rfl, rfl, rfl, rfl, rfl, rfl, rfl, rfl, rfl, rfl, rfl,
  rfl, rfl, rfl, rfl, rfl, rfl, rfl, rfl, rfl, rfl, rfl, rfl, rfl, rfl, rfl, rfl, rfl, rfl, rfl, rfl, rfl, rfl, rfl, rfl, rfl,
  rfl, rfl, rfl, rfl, rfl⟩

@[simp] theorem State.lmSetPoison_keeps (s : State) (c : Nat) (o : Nat) (b : Bool) :
    (s.lmSetPoison c o b).ps = s.ps ∧ (s.lmSetPoison c o b).cycles = s.cycles ∧ (s.lmSetPoison c o b).slow = s.slow ∧
    (s.lmSetPoison c o b).fresh = s.fresh ∧ (s.lmSetPoison c o b).devid = s.devid ∧ (s.lmSetPoison c o b).gen = s.gen ∧
    (s.lmSetPoison c o b).mem = s.mem ∧ (s.lmSetPoison c o b).past = s.past ∧ (s.lmSetPoison c o b).wseq = s.wseq ∧
    (s.lmSetPoison c o b).poison = s.poison ∧ (s.lmSetPoison c o b).lines = s.lines ∧ (s.lmSetPoison c o b).copies = s.copies ∧
    (s.lmSetPoison c o b).floor = s.floor ∧ (s.lmSetPoison c o b).tickAt = s.tickAt ∧ (s.lmSetPoison c o b).linkPts = s.linkPts ∧
    (s.lmSetPoison c o b).pins = s.pins ∧ (s.lmSetPoison c o b).tlb = s.tlb ∧ (s.lmSetPoison c o b).pod = s.pod ∧
    (s.lmSetPoison c o b).members = s.members ∧ (s.lmSetPoison c o b).views = s.views ∧ (s.lmSetPoison c o b).regions = s.regions ∧
    (s.lmSetPoison c o b).rgnStamp = s.rgnStamp ∧ (s.lmSetPoison c o b).rgnSeq = s.rgnSeq ∧
    (s.lmSetPoison c o b).rgnClock = s.rgnClock ∧ (s.lmSetPoison c o b).units = s.units ∧ (s.lmSetPoison c o b).samples = s.samples ∧
    (s.lmSetPoison c o b).flows = s.flows ∧ (s.lmSetPoison c o b).reserved = s.reserved ∧ (s.lmSetPoison c o b).crewIds = s.crewIds ∧
    (s.lmSetPoison c o b).wd = s.wd ∧ (s.lmSetPoison c o b).wdStall = s.wdStall ∧ (s.lmSetPoison c o b).lm = s.lm ∧
    (s.lmSetPoison c o b).lmretn = s.lmretn ∧ (s.lmSetPoison c o b).lmStamp = s.lmStamp ∧ (s.lmSetPoison c o b).lmMark = s.lmMark ∧
    (s.lmSetPoison c o b).lmFull = s.lmFull ∧ (s.lmSetPoison c o b).lmClock = s.lmClock ∧ (s.lmSetPoison c o b).wave = s.wave ∧
    (s.lmSetPoison c o b).crew = s.crew ∧ (s.lmSetPoison c o b).crews = s.crews ∧ (s.lmSetPoison c o b).nextHandle = s.nextHandle ∧
    (s.lmSetPoison c o b).tickets = s.tickets ∧ (s.lmSetPoison c o b).cmds = s.cmds ∧ (s.lmSetPoison c o b).nextCmd = s.nextCmd ∧
    (s.lmSetPoison c o b).cores = s.cores ∧ (s.lmSetPoison c o b).dies = s.dies ∧ (s.lmSetPoison c o b).testDue = s.testDue ∧
    (s.lmSetPoison c o b).diagNext = s.diagNext ∧ (s.lmSetPoison c o b).fab = s.fab ∧ (s.lmSetPoison c o b).xch = s.xch ∧
    (s.lmSetPoison c o b).memb = s.memb ∧ (s.lmSetPoison c o b).links = s.links ∧ (s.lmSetPoison c o b).regs = s.regs ∧
    (s.lmSetPoison c o b).events = s.events ∧ (s.lmSetPoison c o b).agenda = s.agenda :=
  ⟨rfl, rfl, rfl, rfl, rfl, rfl, rfl, rfl, rfl, rfl, rfl, rfl, rfl, rfl, rfl, rfl, rfl, rfl, rfl, rfl, rfl, rfl, rfl, rfl, rfl,
  rfl, rfl, rfl, rfl, rfl, rfl, rfl, rfl, rfl, rfl, rfl, rfl, rfl, rfl, rfl, rfl, rfl, rfl, rfl, rfl, rfl, rfl, rfl, rfl, rfl,
  rfl, rfl, rfl, rfl, rfl⟩

@[simp] theorem State.lmStampLine_keeps (s : State) (l : Nat) :
    (s.lmStampLine l).ps = s.ps ∧ (s.lmStampLine l).cycles = s.cycles ∧ (s.lmStampLine l).slow = s.slow ∧
    (s.lmStampLine l).fresh = s.fresh ∧ (s.lmStampLine l).devid = s.devid ∧ (s.lmStampLine l).gen = s.gen ∧
    (s.lmStampLine l).mem = s.mem ∧ (s.lmStampLine l).past = s.past ∧ (s.lmStampLine l).wseq = s.wseq ∧
    (s.lmStampLine l).poison = s.poison ∧ (s.lmStampLine l).lines = s.lines ∧ (s.lmStampLine l).copies = s.copies ∧
    (s.lmStampLine l).floor = s.floor ∧ (s.lmStampLine l).tickAt = s.tickAt ∧ (s.lmStampLine l).linkPts = s.linkPts ∧
    (s.lmStampLine l).pins = s.pins ∧ (s.lmStampLine l).tlb = s.tlb ∧ (s.lmStampLine l).pod = s.pod ∧
    (s.lmStampLine l).members = s.members ∧ (s.lmStampLine l).views = s.views ∧ (s.lmStampLine l).regions = s.regions ∧
    (s.lmStampLine l).rgnStamp = s.rgnStamp ∧ (s.lmStampLine l).rgnSeq = s.rgnSeq ∧ (s.lmStampLine l).rgnClock = s.rgnClock ∧
    (s.lmStampLine l).units = s.units ∧ (s.lmStampLine l).samples = s.samples ∧ (s.lmStampLine l).flows = s.flows ∧
    (s.lmStampLine l).reserved = s.reserved ∧ (s.lmStampLine l).crewIds = s.crewIds ∧ (s.lmStampLine l).wd = s.wd ∧
    (s.lmStampLine l).wdStall = s.wdStall ∧ (s.lmStampLine l).lm = s.lm ∧ (s.lmStampLine l).lmretn = s.lmretn ∧
    (s.lmStampLine l).lmFull = s.lmFull ∧ (s.lmStampLine l).lmPoison = s.lmPoison ∧ (s.lmStampLine l).lmClock = s.lmClock ∧
    (s.lmStampLine l).wave = s.wave ∧ (s.lmStampLine l).crew = s.crew ∧ (s.lmStampLine l).crews = s.crews ∧
    (s.lmStampLine l).nextHandle = s.nextHandle ∧ (s.lmStampLine l).tickets = s.tickets ∧ (s.lmStampLine l).cmds = s.cmds ∧
    (s.lmStampLine l).nextCmd = s.nextCmd ∧ (s.lmStampLine l).cores = s.cores ∧ (s.lmStampLine l).dies = s.dies ∧
    (s.lmStampLine l).testDue = s.testDue ∧ (s.lmStampLine l).diagNext = s.diagNext ∧ (s.lmStampLine l).fab = s.fab ∧
    (s.lmStampLine l).xch = s.xch ∧ (s.lmStampLine l).memb = s.memb ∧ (s.lmStampLine l).links = s.links ∧
    (s.lmStampLine l).regs = s.regs ∧ (s.lmStampLine l).events = s.events ∧ (s.lmStampLine l).agenda = s.agenda :=
  ⟨rfl, rfl, rfl, rfl, rfl, rfl, rfl, rfl, rfl, rfl, rfl, rfl, rfl, rfl, rfl, rfl, rfl, rfl, rfl, rfl, rfl, rfl, rfl, rfl, rfl,
  rfl, rfl, rfl, rfl, rfl, rfl, rfl, rfl, rfl, rfl, rfl, rfl, rfl, rfl, rfl, rfl, rfl, rfl, rfl, rfl, rfl, rfl, rfl, rfl, rfl,
  rfl, rfl, rfl, rfl⟩

@[simp] theorem State.putRegion_keeps (s : State) (r : Region) :
    (s.putRegion r).ps = s.ps ∧ (s.putRegion r).cycles = s.cycles ∧ (s.putRegion r).slow = s.slow ∧ (s.putRegion r).fresh = s.fresh ∧
    (s.putRegion r).devid = s.devid ∧ (s.putRegion r).gen = s.gen ∧ (s.putRegion r).mem = s.mem ∧ (s.putRegion r).past = s.past ∧
    (s.putRegion r).wseq = s.wseq ∧ (s.putRegion r).poison = s.poison ∧ (s.putRegion r).lines = s.lines ∧
    (s.putRegion r).copies = s.copies ∧ (s.putRegion r).floor = s.floor ∧ (s.putRegion r).tickAt = s.tickAt ∧
    (s.putRegion r).linkPts = s.linkPts ∧ (s.putRegion r).pins = s.pins ∧ (s.putRegion r).tlb = s.tlb ∧ (s.putRegion r).pod = s.pod ∧
    (s.putRegion r).members = s.members ∧ (s.putRegion r).views = s.views ∧ (s.putRegion r).rgnStamp = s.rgnStamp ∧
    (s.putRegion r).rgnSeq = s.rgnSeq ∧ (s.putRegion r).rgnClock = s.rgnClock ∧ (s.putRegion r).units = s.units ∧
    (s.putRegion r).samples = s.samples ∧ (s.putRegion r).flows = s.flows ∧ (s.putRegion r).reserved = s.reserved ∧
    (s.putRegion r).crewIds = s.crewIds ∧ (s.putRegion r).wd = s.wd ∧ (s.putRegion r).wdStall = s.wdStall ∧ (s.putRegion r).lm = s.lm ∧
    (s.putRegion r).lmretn = s.lmretn ∧ (s.putRegion r).lmStamp = s.lmStamp ∧ (s.putRegion r).lmMark = s.lmMark ∧
    (s.putRegion r).lmFull = s.lmFull ∧ (s.putRegion r).lmPoison = s.lmPoison ∧ (s.putRegion r).lmClock = s.lmClock ∧
    (s.putRegion r).wave = s.wave ∧ (s.putRegion r).crew = s.crew ∧ (s.putRegion r).crews = s.crews ∧
    (s.putRegion r).nextHandle = s.nextHandle ∧ (s.putRegion r).tickets = s.tickets ∧ (s.putRegion r).cmds = s.cmds ∧
    (s.putRegion r).nextCmd = s.nextCmd ∧ (s.putRegion r).cores = s.cores ∧ (s.putRegion r).dies = s.dies ∧
    (s.putRegion r).testDue = s.testDue ∧ (s.putRegion r).diagNext = s.diagNext ∧ (s.putRegion r).fab = s.fab ∧
    (s.putRegion r).xch = s.xch ∧ (s.putRegion r).memb = s.memb ∧ (s.putRegion r).links = s.links ∧ (s.putRegion r).regs = s.regs ∧
    (s.putRegion r).events = s.events ∧ (s.putRegion r).agenda = s.agenda :=
  ⟨rfl, rfl, rfl, rfl, rfl, rfl, rfl, rfl, rfl, rfl, rfl, rfl, rfl, rfl, rfl, rfl, rfl, rfl, rfl, rfl, rfl, rfl, rfl, rfl, rfl,
  rfl, rfl, rfl, rfl, rfl, rfl, rfl, rfl, rfl, rfl, rfl, rfl, rfl, rfl, rfl, rfl, rfl, rfl, rfl, rfl, rfl, rfl, rfl, rfl, rfl,
  rfl, rfl, rfl, rfl, rfl⟩

@[simp] theorem Wave.setVreg_keeps (w : Wave) (p : Nat) (v : Lanes) :
    (w.setVreg p v).idx = w.idx ∧ (w.setVreg p v).slot = w.slot ∧ (w.setVreg p v).status = w.status ∧ (w.setVreg p v).pc = w.pc ∧
    (w.setVreg p v).regs = w.regs ∧ (w.setVreg p v).freed = w.freed ∧ (w.setVreg p v).vwb = w.vwb ∧ (w.setVreg p v).nf = w.nf ∧
    (w.setVreg p v).cb = w.cb ∧ (w.setVreg p v).wctl = w.wctl ∧ (w.setVreg p v).fflags = w.fflags ∧ (w.setVreg p v).mrwin = w.mrwin ∧
    (w.setVreg p v).tvec = w.tvec ∧ (w.setVreg p v).tcause = w.tcause ∧ (w.setVreg p v).tpc = w.tpc ∧ (w.setVreg p v).taddr = w.taddr ∧
    (w.setVreg p v).tskid = w.tskid ∧ (w.setVreg p v).tdeadline = w.tdeadline ∧ (w.setVreg p v).inh = w.inh ∧
    (w.setVreg p v).npreEnd = w.npreEnd ∧ (w.setVreg p v).region = w.region ∧ (w.setVreg p v).retained = w.retained ∧
    (w.setVreg p v).rgLast = w.rgLast ∧ (w.setVreg p v).pfdrop = w.pfdrop ∧ (w.setVreg p v).stalecnt = w.stalecnt ∧
    (w.setVreg p v).chkForce = w.chkForce ∧ (w.setVreg p v).pts = w.pts ∧ (w.setVreg p v).seen = w.seen ∧
    (w.setVreg p v).streamClock = w.streamClock ∧ (w.setVreg p v).engClock = w.engClock ∧ (w.setVreg p v).lmFence = w.lmFence ∧
    (w.setVreg p v).parked = w.parked ∧ (w.setVreg p v).block = w.block ∧ (w.setVreg p v).qwait = w.qwait ∧
    (w.setVreg p v).xbarExt = w.xbarExt ∧ (w.setVreg p v).xbarPc = w.xbarPc ∧ (w.setVreg p v).collVa = w.collVa ∧
    (w.setVreg p v).collEnd = w.collEnd ∧ (w.setVreg p v).issued = w.issued ∧ (w.setVreg p v).entryIssued = w.entryIssued ∧
    (w.setVreg p v).accs = w.accs ∧ (w.setVreg p v).lmq = w.lmq ∧ (w.setVreg p v).nextId = w.nextId ∧ (w.setVreg p v).stop = w.stop ∧
    (w.setVreg p v).halting = w.halting ∧ (w.setVreg p v).heldCauses = w.heldCauses ∧ (w.setVreg p v).ret = w.ret ∧
    (w.setVreg p v).drain = w.drain ∧ (w.setVreg p v).stopped = w.stopped ∧ (w.setVreg p v).mreq = w.mreq :=
  ⟨rfl, rfl, rfl, rfl, rfl, rfl, rfl, rfl, rfl, rfl, rfl, rfl, rfl, rfl, rfl, rfl, rfl, rfl, rfl, rfl, rfl, rfl, rfl, rfl, rfl,
  rfl, rfl, rfl, rfl, rfl, rfl, rfl, rfl, rfl, rfl, rfl, rfl, rfl, rfl, rfl, rfl, rfl, rfl, rfl, rfl, rfl, rfl, rfl, rfl, rfl⟩

@[simp] theorem Wave.revive_keeps (w : Wave) (p : Nat) :
    (w.revive p).idx = w.idx ∧ (w.revive p).slot = w.slot ∧ (w.revive p).status = w.status ∧ (w.revive p).pc = w.pc ∧
    (w.revive p).regs = w.regs ∧ (w.revive p).vregs = w.vregs ∧ (w.revive p).vwb = w.vwb ∧ (w.revive p).nf = w.nf ∧
    (w.revive p).cb = w.cb ∧ (w.revive p).wctl = w.wctl ∧ (w.revive p).fflags = w.fflags ∧ (w.revive p).mrwin = w.mrwin ∧
    (w.revive p).tvec = w.tvec ∧ (w.revive p).tcause = w.tcause ∧ (w.revive p).tpc = w.tpc ∧ (w.revive p).taddr = w.taddr ∧
    (w.revive p).tskid = w.tskid ∧ (w.revive p).tdeadline = w.tdeadline ∧ (w.revive p).inh = w.inh ∧ (w.revive p).npreEnd = w.npreEnd ∧
    (w.revive p).region = w.region ∧ (w.revive p).retained = w.retained ∧ (w.revive p).rgLast = w.rgLast ∧
    (w.revive p).pfdrop = w.pfdrop ∧ (w.revive p).stalecnt = w.stalecnt ∧ (w.revive p).chkForce = w.chkForce ∧
    (w.revive p).pts = w.pts ∧ (w.revive p).seen = w.seen ∧ (w.revive p).streamClock = w.streamClock ∧
    (w.revive p).engClock = w.engClock ∧ (w.revive p).lmFence = w.lmFence ∧ (w.revive p).parked = w.parked ∧
    (w.revive p).block = w.block ∧ (w.revive p).qwait = w.qwait ∧ (w.revive p).xbarExt = w.xbarExt ∧ (w.revive p).xbarPc = w.xbarPc ∧
    (w.revive p).collVa = w.collVa ∧ (w.revive p).collEnd = w.collEnd ∧ (w.revive p).issued = w.issued ∧
    (w.revive p).entryIssued = w.entryIssued ∧ (w.revive p).accs = w.accs ∧ (w.revive p).lmq = w.lmq ∧ (w.revive p).nextId = w.nextId ∧
    (w.revive p).stop = w.stop ∧ (w.revive p).halting = w.halting ∧ (w.revive p).heldCauses = w.heldCauses ∧ (w.revive p).ret = w.ret ∧
    (w.revive p).drain = w.drain ∧ (w.revive p).stopped = w.stopped ∧ (w.revive p).mreq = w.mreq :=
  ⟨rfl, rfl, rfl, rfl, rfl, rfl, rfl, rfl, rfl, rfl, rfl, rfl, rfl, rfl, rfl, rfl, rfl, rfl, rfl, rfl, rfl, rfl, rfl, rfl, rfl,
  rfl, rfl, rfl, rfl, rfl, rfl, rfl, rfl, rfl, rfl, rfl, rfl, rfl, rfl, rfl, rfl, rfl, rfl, rfl, rfl, rfl, rfl, rfl, rfl, rfl⟩

@[simp] theorem Wave.free_keeps (w : Wave) (p : Nat) :
    (w.free p).idx = w.idx ∧ (w.free p).slot = w.slot ∧ (w.free p).status = w.status ∧ (w.free p).pc = w.pc ∧
    (w.free p).regs = w.regs ∧ (w.free p).vregs = w.vregs ∧ (w.free p).vwb = w.vwb ∧ (w.free p).nf = w.nf ∧ (w.free p).cb = w.cb ∧
    (w.free p).wctl = w.wctl ∧ (w.free p).fflags = w.fflags ∧ (w.free p).mrwin = w.mrwin ∧ (w.free p).tvec = w.tvec ∧
    (w.free p).tcause = w.tcause ∧ (w.free p).tpc = w.tpc ∧ (w.free p).taddr = w.taddr ∧ (w.free p).tskid = w.tskid ∧
    (w.free p).tdeadline = w.tdeadline ∧ (w.free p).inh = w.inh ∧ (w.free p).npreEnd = w.npreEnd ∧ (w.free p).region = w.region ∧
    (w.free p).retained = w.retained ∧ (w.free p).rgLast = w.rgLast ∧ (w.free p).pfdrop = w.pfdrop ∧ (w.free p).stalecnt = w.stalecnt ∧
    (w.free p).chkForce = w.chkForce ∧ (w.free p).pts = w.pts ∧ (w.free p).seen = w.seen ∧ (w.free p).streamClock = w.streamClock ∧
    (w.free p).engClock = w.engClock ∧ (w.free p).lmFence = w.lmFence ∧ (w.free p).parked = w.parked ∧ (w.free p).block = w.block ∧
    (w.free p).qwait = w.qwait ∧ (w.free p).xbarExt = w.xbarExt ∧ (w.free p).xbarPc = w.xbarPc ∧ (w.free p).collVa = w.collVa ∧
    (w.free p).collEnd = w.collEnd ∧ (w.free p).issued = w.issued ∧ (w.free p).entryIssued = w.entryIssued ∧ (w.free p).accs = w.accs ∧
    (w.free p).lmq = w.lmq ∧ (w.free p).nextId = w.nextId ∧ (w.free p).stop = w.stop ∧ (w.free p).halting = w.halting ∧
    (w.free p).heldCauses = w.heldCauses ∧ (w.free p).ret = w.ret ∧ (w.free p).drain = w.drain ∧ (w.free p).stopped = w.stopped ∧
    (w.free p).mreq = w.mreq :=
  ⟨rfl, rfl, rfl, rfl, rfl, rfl, rfl, rfl, rfl, rfl, rfl, rfl, rfl, rfl, rfl, rfl, rfl, rfl, rfl, rfl, rfl, rfl, rfl, rfl, rfl,
  rfl, rfl, rfl, rfl, rfl, rfl, rfl, rfl, rfl, rfl, rfl, rfl, rfl, rfl, rfl, rfl, rfl, rfl, rfl, rfl, rfl, rfl, rfl, rfl, rfl⟩

@[simp] theorem Wave.setS_keeps (w : Wave) (r : Reg) (v : Word) :
    (w.setS r v).idx = w.idx ∧ (w.setS r v).slot = w.slot ∧ (w.setS r v).status = w.status ∧ (w.setS r v).pc = w.pc ∧
    (w.setS r v).vregs = w.vregs ∧ (w.setS r v).freed = w.freed ∧ (w.setS r v).vwb = w.vwb ∧ (w.setS r v).nf = w.nf ∧
    (w.setS r v).cb = w.cb ∧ (w.setS r v).wctl = w.wctl ∧ (w.setS r v).fflags = w.fflags ∧ (w.setS r v).mrwin = w.mrwin ∧
    (w.setS r v).tvec = w.tvec ∧ (w.setS r v).tcause = w.tcause ∧ (w.setS r v).tpc = w.tpc ∧ (w.setS r v).taddr = w.taddr ∧
    (w.setS r v).tskid = w.tskid ∧ (w.setS r v).tdeadline = w.tdeadline ∧ (w.setS r v).inh = w.inh ∧ (w.setS r v).npreEnd = w.npreEnd ∧
    (w.setS r v).region = w.region ∧ (w.setS r v).retained = w.retained ∧ (w.setS r v).rgLast = w.rgLast ∧
    (w.setS r v).pfdrop = w.pfdrop ∧ (w.setS r v).stalecnt = w.stalecnt ∧ (w.setS r v).chkForce = w.chkForce ∧
    (w.setS r v).pts = w.pts ∧ (w.setS r v).seen = w.seen ∧ (w.setS r v).streamClock = w.streamClock ∧
    (w.setS r v).engClock = w.engClock ∧ (w.setS r v).lmFence = w.lmFence ∧ (w.setS r v).parked = w.parked ∧
    (w.setS r v).block = w.block ∧ (w.setS r v).qwait = w.qwait ∧ (w.setS r v).xbarExt = w.xbarExt ∧ (w.setS r v).xbarPc = w.xbarPc ∧
    (w.setS r v).collVa = w.collVa ∧ (w.setS r v).collEnd = w.collEnd ∧ (w.setS r v).issued = w.issued ∧
    (w.setS r v).entryIssued = w.entryIssued ∧ (w.setS r v).accs = w.accs ∧ (w.setS r v).lmq = w.lmq ∧ (w.setS r v).nextId = w.nextId ∧
    (w.setS r v).stop = w.stop ∧ (w.setS r v).halting = w.halting ∧ (w.setS r v).heldCauses = w.heldCauses ∧ (w.setS r v).ret = w.ret ∧
    (w.setS r v).drain = w.drain ∧ (w.setS r v).stopped = w.stopped ∧ (w.setS r v).mreq = w.mreq := by
  unfold Wave.setS
  split <;> simp

end Sys2Proof.Laws
end

