-- ==== Sys2Proof/Laws/Memory.lean ====
section
/-! SUPPORT. The laws of memory (R5, R176): a read after a write, what a write leaves alone, and the canonical form, which every operation
over memory keeps. -/

namespace Sys2Proof.Laws

open Sys2Proof.Machine

theorem State.byteAt_setByte (s : State) (a x : Nat) (b : Byte) : (s.setByte a b).byteAt x = if x = a then b else s.byteAt x := by
  simp [State.byteAt, Map.find_put]

/-- A fold of updates keeps what each of them keeps. -/
theorem foldl_keeps {α β γ : Type} (g : β → γ) (f : β → α → β) (h : ∀ b a, g (f b a) = g b) (l : List α) (b : β) :
    g (l.foldl f b) = g b := by
  induction l generalizing b with
  | nil => rfl
  | cons a rest ih => rw [List.foldl_cons, ih, h]

/-- A fold of updates keeps an invariant that each of them keeps. -/
theorem foldl_invariant {α β : Type} (P : β → Prop) (f : β → α → β) (h : ∀ b a, P b → P (f b a)) (l : List α) (b : β) (hb : P b) :
    P (l.foldl f b) := by
  induction l generalizing b with
  | nil => exact hb
  | cons a rest ih => exact ih _ (h b a hb)

/-- A byte outside the span of a write reads as before. -/
theorem State.byteAt_writeBytes_outside (s : State) (a : Nat) (bs : List Byte) (x : Nat) (h : x < a ∨ a + bs.length ≤ x) :
    (s.writeBytes a bs).byteAt x = s.byteAt x := by
  induction bs generalizing s a with
  | nil => rfl
  | cons b rest ih =>
    simp only [List.length_cons] at h
    have h' : x < a + 1 ∨ a + 1 + rest.length ≤ x := by omega
    simp only [State.writeBytes]
    rw [ih _ _ h', State.byteAt_setByte, if_neg (by omega)]

/-- A byte inside the span of a write reads as it was written. -/
theorem State.byteAt_writeBytes_inside (s : State) (a : Nat) (bs : List Byte) (k : Nat) (h : k < bs.length) :
    (s.writeBytes a bs).byteAt (a + k) = bs[k] := by
  induction bs generalizing s a k with
  | nil => simp at h
  | cons b rest ih =>
    simp only [State.writeBytes]
    cases k with
    | zero => rw [Nat.add_zero, State.byteAt_writeBytes_outside _ _ _ _ (by omega), State.byteAt_setByte]; simp
    | succ k =>
      have := ih (s.setByte a b) (a + 1) k (by simpa using h)
      rw [show a + (k + 1) = a + 1 + k by omega, this]
      rfl

/-- A read of the span that was written gives the bytes written. -/
theorem State.readBytes_writeBytes (s : State) (a : Nat) (bs : List Byte) : (s.writeBytes a bs).readBytes a bs.length = bs := by
  apply List.ext_getElem
  · simp [State.readBytes]
  · intro k h1 h2
    simp only [State.readBytes, List.getElem_map, List.getElem_range]
    exact State.byteAt_writeBytes_inside s a bs k h2

/-- A write changes memory alone. -/
theorem State.writeBytes_eq (s : State) (a : Nat) (bs : List Byte) : s.writeBytes a bs = { s with mem := (s.writeBytes a bs).mem } := by
  induction bs generalizing s a with
  | nil => rfl
  | cons b rest ih =>
    simp only [State.writeBytes]
    rw [ih]
    rfl

/-! ## The canonical form -/

theorem State.reset_memory_wf : Memory.wf State.reset.mem = true := rfl

theorem State.setByte_wf (s : State) (a : Nat) (b : Byte) (h : Memory.wf s.mem = true) : Memory.wf (s.setByte a b).mem = true :=
  Map.wf_put memDefault s.mem a b h

theorem State.writeBytes_wf (s : State) (a : Nat) (bs : List Byte) (h : Memory.wf s.mem = true) :
    Memory.wf (s.writeBytes a bs).mem = true := by
  induction bs generalizing s a with
  | nil => exact h
  | cons b rest ih => exact ih _ _ (State.setByte_wf s a b h)

theorem State.writeMem_wf (s : State) (a n v : Nat) (h : Memory.wf s.mem = true) : Memory.wf (s.writeMem a n v).mem = true :=
  State.writeBytes_wf s a _ h

/-! ## What leaves memory alone -/

theorem State.clearWhole_mem (s : State) (a n : Nat) : (s.clearWhole a n).mem = s.mem := by
  unfold State.clearWhole
  refine foldl_keeps State.mem _ ?_ _ s
  intro s x
  split <;> rfl

theorem State.stampWrite_mem (s : State) (w a n : Nat) : (s.stampWrite w a n).mem = s.mem := by
  unfold State.stampWrite
  refine foldl_keeps State.mem _ ?_ _ s
  intro s l
  simp only [State.setLine_keeps]

theorem State.logByte_mem (s : State) (k : Nat) (o n : Byte) : (s.logByte k o n).mem = s.mem := by
  unfold State.logByte
  split <;> rfl

theorem State.memLog_mem (s : State) (a : Nat) (bs : List Byte) : (s.memLog a bs).mem = s.mem := by
  unfold State.memLog
  split
  · split <;> rfl
  · refine foldl_keeps State.mem _ ?_ _ s
    intro s e
    split
    · rfl
    · exact State.logByte_mem _ _ _ _

theorem State.lmLog_mem (s : State) (c o : Nat) (bs : List Byte) : (s.lmLog c o bs).mem = s.mem := by
  unfold State.lmLog
  split
  · rfl
  · refine foldl_keeps State.mem _ ?_ _ s
    intro s e
    split
    · rfl
    · exact State.logByte_mem _ _ _ _

theorem State.lmPut_mem (s : State) (c o : Nat) (bs : List Byte) : (s.lmPut c o bs).mem = s.mem := by
  induction bs generalizing s o with
  | nil => rfl
  | cons b rest ih => simp only [State.lmPut, ih]; rfl

theorem State.lmWriteLine_mem (s : State) (c o : Nat) (bs : List Byte) : (s.lmWriteLine c o bs).mem = s.mem := by
  simp only [State.lmWriteLine, State.lmStampLine_keeps, State.lmPut_mem]
  split
  · rw [State.lmPut_mem]
  · rw [State.lmLog_mem]

theorem State.lmWriteFuel_mem (s : State) (fuel c o : Nat) (bs : List Byte) : (s.lmWriteFuel fuel c o bs).mem = s.mem := by
  induction fuel generalizing s o bs with
  | zero => rfl
  | succ fuel ih =>
    simp only [State.lmWriteFuel]
    split
    · rfl
    · rw [ih, State.lmWriteLine_mem]

theorem State.lmWrite_mem (s : State) (c o : Nat) (bs : List Byte) : (s.lmWrite c o bs).mem = s.mem := by
  unfold State.lmWrite
  refine (foldl_keeps State.mem _ ?_ _ _).trans (State.lmWriteFuel_mem s _ c o bs)
  intro s x
  split <;> rfl

theorem State.abortFuel_mem (s : State) (fuel id st : Nat) : (s.abortFuel fuel id st).mem = s.mem := by
  induction fuel generalizing s id st with
  | zero => rfl
  | succ fuel ih =>
    simp only [State.abortFuel]
    split
    · rfl
    · split
      · rfl
      · refine (foldl_keeps State.mem _ ?_ _ _).trans rfl
        intro s x
        exact ih s x 2

theorem State.abortRegion_mem (s : State) (id st : Nat) : (s.abortRegion id st).mem = s.mem := State.abortFuel_mem s _ id st

theorem State.interfere_mem (s : State) (a n : Nat) : (s.interfere a n).mem = s.mem := by
  unfold State.interfere
  split
  · rfl
  · refine foldl_keeps State.mem _ ?_ _ s
    intro s w
    refine foldl_keeps State.mem _ ?_ _ s
    intro s r
    exact State.abortRegion_mem s _ 4

theorem State.refresh_mem (s : State) (a n : Nat) : (s.refresh a n).mem = s.mem := by
  unfold State.refresh
  split
  · rfl
  · refine foldl_keeps State.mem _ ?_ _ s
    intro s w
    refine foldl_keeps State.mem _ ?_ _ s
    intro s r
    split
    · split
      · rfl
      · exact State.lmWrite_mem _ _ _ _
    · rfl

/-- What memory holds after a write depends on what it held before alone. -/
theorem State.writeBytes_mem_congr {s t : State} (h : s.mem = t.mem) (a : Nat) (bs : List Byte) :
    (s.writeBytes a bs).mem = (t.writeBytes a bs).mem := by
  induction bs generalizing s t a with
  | nil => exact h
  | cons b rest ih => exact ih (by simp [h]) (a + 1)

/-- A plain store changes no byte outside its span (R198). -/
theorem State.plainWrite_mem (s : State) (w a : Nat) (bs : List Byte) : (s.plainWrite w a bs).mem = ((s.interfere a bs.length).writeBytes a bs).mem := by
  simp only [State.plainWrite, State.refresh_mem, State.stampWrite_mem, State.clearWhole_mem]
  exact State.writeBytes_mem_congr (State.memLog_mem _ a bs) a bs

theorem State.byteAt_of_mem {s t : State} (h : t.mem = s.mem) (x : Nat) : t.byteAt x = s.byteAt x := by
  unfold State.byteAt; rw [h]

theorem State.plainWrite_outside (s : State) (w a : Nat) (bs : List Byte) (x : Nat) (h : x < a ∨ a + bs.length ≤ x) :
    (s.plainWrite w a bs).byteAt x = s.byteAt x := by
  rw [State.byteAt_of_mem (State.plainWrite_mem s w a bs), State.byteAt_writeBytes_outside _ _ _ _ h,
    State.byteAt_of_mem (State.interfere_mem s a bs.length)]

theorem State.plainWrite_inside (s : State) (w a : Nat) (bs : List Byte) (k : Nat) (h : k < bs.length) :
    (s.plainWrite w a bs).byteAt (a + k) = bs[k] := by
  rw [State.byteAt_of_mem (State.plainWrite_mem s w a bs), State.byteAt_writeBytes_inside _ _ _ _ h]

theorem State.plainWrite_wf (s : State) (w a : Nat) (bs : List Byte) (h : Memory.wf s.mem = true) :
    Memory.wf (s.plainWrite w a bs).mem = true := by
  rw [State.plainWrite_mem]
  refine State.writeBytes_wf _ _ _ ?_
  rw [State.interfere_mem]
  exact h

/-- Setting A and D of an entry keeps the canonical form (R332). -/
theorem State.touch_wf (s : State) (x : Xl) (w : Bool) (h : Memory.wf s.mem = true) : Memory.wf (s.touch x w).mem = true := by
  unfold State.touch
  extract_lets p q
  clear_value p q
  by_cases hq : p = q
  · rw [if_pos hq]; exact h
  · rw [if_neg hq]; exact State.plainWrite_wf s _ _ _ h

theorem State.hdrWrite_wf (s : State) (a o n v : Nat) (h : Memory.wf s.mem = true) : Memory.wf (s.hdrWrite a o n v).mem = true :=
  State.plainWrite_wf s _ _ _ h

/-- A reset that zeroes HBM keeps the canonical form (R329). -/
theorem State.zeroHbm_wf (s : State) (h : Memory.wf s.mem = true) : Memory.wf s.zeroHbm.mem = true :=
  Map.wf_filter memDefault s.mem _ h

end Sys2Proof.Laws
end

