-- ==== Sys2Proof/Laws/PerInstr.lean ====
section
/-! SUPPORT. Statements for all instructions, one lemma a constructor. RoundTrip: a well-formed instruction that a word encodes is what the
decoder reads from that word. -/

set_option linter.unusedSimpArgs false

namespace Sys2Proof.Laws

theorem parts_6_3 : ∀ i : BitVec 3, (0#6 ++ i).extractLsb' 3 6 = 0#6 ∧ (0#6 ++ i).extractLsb' 0 3 = i := by decide
theorem parts_3_6 : ∀ i : BitVec 6, (0#3 ++ i).extractLsb' 6 3 = 0#3 ∧ (0#3 ++ i).extractLsb' 0 6 = i := by decide
theorem parts_2_7 : ∀ (e : BitVec 2) (i : BitVec 7), (e ++ i).extractLsb' 7 2 = e ∧ (e ++ i).extractLsb' 0 7 = i := by decide
theorem parts_1_8 : ∀ (e : Bool) (i : BitVec 8), (BitVec.ofBool e ++ i)[8] = e ∧ (BitVec.ofBool e ++ i).extractLsb' 0 8 = i := by
  decide
theorem parts_vcbx : ∀ (j : BitVec 3) (t : BitVec 2), (0#1 ++ j ++ t ++ 0#3).extractLsb' 8 1 = 0#1 ∧
    (0#1 ++ j ++ t ++ 0#3).extractLsb' 0 3 = 0#3 ∧ (0#1 ++ j ++ t ++ 0#3).extractLsb' 5 3 = j ∧
    (0#1 ++ j ++ t ++ 0#3).extractLsb' 3 2 = t := by decide
theorem parts_vncvt : ∀ (e : Bool) (j : BitVec 3), (0#4 ++ BitVec.ofBool e ++ 0#1 ++ j).extractLsb' 5 4 = 0#4 ∧
    (0#4 ++ BitVec.ofBool e ++ 0#1 ++ j).extractLsb' 3 1 = 0#1 ∧ (0#4 ++ BitVec.ofBool e ++ 0#1 ++ j)[4] = e ∧
    (0#4 ++ BitVec.ofBool e ++ 0#1 ++ j).extractLsb' 0 3 = j := by decide

/-- What the decoder reads from the word of a well-formed instruction. -/
def RoundTrip.Statement (i : Instr) : Prop := i.wf = true → ∀ w, encode i = some w → decode w = .ok i

theorem RoundTrip.nop (y) : RoundTrip.Statement (.nop y) := by
  rintro - w ⟨⟩; simp [decode, decodeRow0, need, zeroD, zeroA, zeroB]
theorem RoundTrip.add (y d a b) : RoundTrip.Statement (.add y d a b) := by
  rintro - w ⟨⟩; simp [decode, decodeRow0, need, zeroD, zeroA, zeroB]
theorem RoundTrip.sub (y d a b) : RoundTrip.Statement (.sub y d a b) := by
  rintro - w ⟨⟩; simp [decode, decodeRow0, need, zeroD, zeroA, zeroB]
theorem RoundTrip.addi (y d a i) : RoundTrip.Statement (.addi y d a i) := by
  rintro - w ⟨⟩; simp [decode, decodeRow0, need, zeroD, zeroA, zeroB]
theorem RoundTrip.mul (y d a b) : RoundTrip.Statement (.mul y d a b) := by
  rintro - w ⟨⟩; simp [decode, decodeRow0, need, zeroD, zeroA, zeroB]
theorem RoundTrip.mulh (y d a b) : RoundTrip.Statement (.mulh y d a b) := by
  rintro - w ⟨⟩; simp [decode, decodeRow0, need, zeroD, zeroA, zeroB]
theorem RoundTrip.mulhn (y d a b) : RoundTrip.Statement (.mulhn y d a b) := by
  rintro - w ⟨⟩; simp [decode, decodeRow0, need, zeroD, zeroA, zeroB]
theorem RoundTrip.div (y d a b) : RoundTrip.Statement (.div y d a b) := by
  rintro - w ⟨⟩; simp [decode, decodeRow0, need, zeroD, zeroA, zeroB]
theorem RoundTrip.divn (y d a b) : RoundTrip.Statement (.divn y d a b) := by
  rintro - w ⟨⟩; simp [decode, decodeRow0, need, zeroD, zeroA, zeroB]
theorem RoundTrip.rem (y d a b) : RoundTrip.Statement (.rem y d a b) := by
  rintro - w ⟨⟩; simp [decode, decodeRow0, need, zeroD, zeroA, zeroB]
theorem RoundTrip.remn (y d a b) : RoundTrip.Statement (.remn y d a b) := by
  rintro - w ⟨⟩; simp [decode, decodeRow0, need, zeroD, zeroA, zeroB]
theorem RoundTrip.and (y d a b) : RoundTrip.Statement (.and y d a b) := by
  rintro - w ⟨⟩; simp [decode, decodeRow0, need, zeroD, zeroA, zeroB]
theorem RoundTrip.or (y d a b) : RoundTrip.Statement (.or y d a b) := by
  rintro - w ⟨⟩; simp [decode, decodeRow0, need, zeroD, zeroA, zeroB]
theorem RoundTrip.xor (y d a b) : RoundTrip.Statement (.xor y d a b) := by
  rintro - w ⟨⟩; simp [decode, decodeRow0, need, zeroD, zeroA, zeroB]
theorem RoundTrip.andn (y d a b) : RoundTrip.Statement (.andn y d a b) := by
  rintro - w ⟨⟩; simp [decode, decodeRow0, need, zeroD, zeroA, zeroB]
theorem RoundTrip.andi (y d a i) : RoundTrip.Statement (.andi y d a i) := by
  rintro - w ⟨⟩; simp [decode, decodeRow1, need, zeroD, zeroA, zeroB]
theorem RoundTrip.ori (y d a i) : RoundTrip.Statement (.ori y d a i) := by
  rintro - w ⟨⟩; simp [decode, decodeRow1, need, zeroD, zeroA, zeroB]
theorem RoundTrip.xori (y d a i) : RoundTrip.Statement (.xori y d a i) := by
  rintro - w ⟨⟩; simp [decode, decodeRow1, need, zeroD, zeroA, zeroB]
theorem RoundTrip.shl (y d a b) : RoundTrip.Statement (.shl y d a b) := by
  rintro - w ⟨⟩; simp [decode, decodeRow1, need, zeroD, zeroA, zeroB]
theorem RoundTrip.shr (y d a b) : RoundTrip.Statement (.shr y d a b) := by
  rintro - w ⟨⟩; simp [decode, decodeRow1, need, zeroD, zeroA, zeroB]
theorem RoundTrip.sha (y d a b) : RoundTrip.Statement (.sha y d a b) := by
  rintro - w ⟨⟩; simp [decode, decodeRow1, need, zeroD, zeroA, zeroB]
theorem RoundTrip.shli (y d a i) : RoundTrip.Statement (.shli y d a i) := by
  rintro - w ⟨⟩; simp [decode, decodeRow1, need, zeroD, zeroA, zeroB, encFI_part, parts_3_6]
theorem RoundTrip.shri (y d a i) : RoundTrip.Statement (.shri y d a i) := by
  rintro - w ⟨⟩; simp [decode, decodeRow1, need, zeroD, zeroA, zeroB, encFI_part, parts_3_6]
theorem RoundTrip.shai (y d a i) : RoundTrip.Statement (.shai y d a i) := by
  rintro - w ⟨⟩; simp [decode, decodeRow1, need, zeroD, zeroA, zeroB, encFI_part, parts_3_6]
theorem RoundTrip.min (y d a b) : RoundTrip.Statement (.min y d a b) := by
  rintro - w ⟨⟩; simp [decode, decodeRow1, need, zeroD, zeroA, zeroB]
theorem RoundTrip.max (y d a b) : RoundTrip.Statement (.max y d a b) := by
  rintro - w ⟨⟩; simp [decode, decodeRow1, need, zeroD, zeroA, zeroB]
theorem RoundTrip.minn (y d a b) : RoundTrip.Statement (.minn y d a b) := by
  rintro - w ⟨⟩; simp [decode, decodeRow1, need, zeroD, zeroA, zeroB]
theorem RoundTrip.maxn (y d a b) : RoundTrip.Statement (.maxn y d a b) := by
  rintro - w ⟨⟩; simp [decode, decodeRow1, need, zeroD, zeroA, zeroB]
theorem RoundTrip.seq (y d a b) : RoundTrip.Statement (.seq y d a b) := by
  rintro - w ⟨⟩; simp [decode, decodeRow1, need, zeroD, zeroA, zeroB]
theorem RoundTrip.slt (y d a b) : RoundTrip.Statement (.slt y d a b) := by
  rintro - w ⟨⟩; simp [decode, decodeRow1, need, zeroD, zeroA, zeroB]
theorem RoundTrip.sltn (y d a b) : RoundTrip.Statement (.sltn y d a b) := by
  rintro - w ⟨⟩; simp [decode, decodeRow1, need, zeroD, zeroA, zeroB]
theorem RoundTrip.clz (y d a) : RoundTrip.Statement (.clz y d a) := by
  rintro - w ⟨⟩; simp [decode, decodeRow2, need, zeroD, zeroA, zeroB, encFS]
theorem RoundTrip.ctz (y d a) : RoundTrip.Statement (.ctz y d a) := by
  rintro - w ⟨⟩; simp [decode, decodeRow2, need, zeroD, zeroA, zeroB, encFS]
theorem RoundTrip.popc (y d a) : RoundTrip.Statement (.popc y d a) := by
  rintro - w ⟨⟩; simp [decode, decodeRow2, need, zeroD, zeroA, zeroB, encFS]
theorem RoundTrip.brev (y d a) : RoundTrip.Statement (.brev y d a) := by
  rintro - w ⟨⟩; simp [decode, decodeRow2, need, zeroD, zeroA, zeroB, encFS]
theorem RoundTrip.bswap (y d a) : RoundTrip.Statement (.bswap y d a) := by
  rintro - w ⟨⟩; simp [decode, decodeRow2, need, zeroD, zeroA, zeroB, encFS]
theorem RoundTrip.sext8 (y d a) : RoundTrip.Statement (.sext8 y d a) := by
  rintro - w ⟨⟩; simp [decode, decodeRow2, need, zeroD, zeroA, zeroB, encFS]
theorem RoundTrip.sext16 (y d a) : RoundTrip.Statement (.sext16 y d a) := by
  rintro - w ⟨⟩; simp [decode, decodeRow2, need, zeroD, zeroA, zeroB, encFS]
theorem RoundTrip.sext32 (y d a) : RoundTrip.Statement (.sext32 y d a) := by
  rintro - w ⟨⟩; simp [decode, decodeRow2, need, zeroD, zeroA, zeroB, encFS]
theorem RoundTrip.zext8 (y d a) : RoundTrip.Statement (.zext8 y d a) := by
  rintro - w ⟨⟩; simp [decode, decodeRow2, need, zeroD, zeroA, zeroB, encFS]
theorem RoundTrip.zext16 (y d a) : RoundTrip.Statement (.zext16 y d a) := by
  rintro - w ⟨⟩; simp [decode, decodeRow2, need, zeroD, zeroA, zeroB, encFS]
theorem RoundTrip.zext32 (y d a) : RoundTrip.Statement (.zext32 y d a) := by
  rintro - w ⟨⟩; simp [decode, decodeRow2, need, zeroD, zeroA, zeroB, encFS]
theorem RoundTrip.abs (y d a) : RoundTrip.Statement (.abs y d a) := by
  rintro - w ⟨⟩; simp [decode, decodeRow2, need, zeroD, zeroA, zeroB, encFS]
theorem RoundTrip.neg (y d a) : RoundTrip.Statement (.neg y d a) := by
  rintro - w ⟨⟩; simp [decode, decodeRow2, need, zeroD, zeroA, zeroB, encFS]
theorem RoundTrip.not (y d a) : RoundTrip.Statement (.not y d a) := by
  rintro - w ⟨⟩; simp [decode, decodeRow2, need, zeroD, zeroA, zeroB, encFS]
theorem RoundTrip.sel (y d a b) : RoundTrip.Statement (.sel y d a b) := by
  rintro - w ⟨⟩; simp [decode, decodeRow2, need, zeroD, zeroA, zeroB]
theorem RoundTrip.set0 (y d i) : RoundTrip.Statement (.set0 y d i) := by
  rintro - w ⟨⟩; simp [decode, decodeRow2, need, zeroD, zeroA, zeroB]
theorem RoundTrip.set16 (y d i) : RoundTrip.Statement (.set16 y d i) := by
  rintro - w ⟨⟩; simp [decode, decodeRow2, need, zeroD, zeroA, zeroB]
theorem RoundTrip.set32 (y d i) : RoundTrip.Statement (.set32 y d i) := by
  rintro - w ⟨⟩; simp [decode, decodeRow2, need, zeroD, zeroA, zeroB]
theorem RoundTrip.set48 (y d i) : RoundTrip.Statement (.set48 y d i) := by
  rintro - w ⟨⟩; simp [decode, decodeRow2, need, zeroD, zeroA, zeroB]
theorem RoundTrip.adpc (y d i) : RoundTrip.Statement (.adpc y d i) := by
  rintro - w ⟨⟩; simp [decode, decodeRow2, need, zeroD, zeroA, zeroB]
theorem RoundTrip.slti (y d a i) : RoundTrip.Statement (.slti y d a i) := by
  rintro - w ⟨⟩; simp [decode, decodeRow2, need, zeroD, zeroA, zeroB]
theorem RoundTrip.fadd (y d a b) : RoundTrip.Statement (.fadd y d a b) := by
  rintro - w ⟨⟩; simp [decode, decodeRow2, need, zeroD, zeroA, zeroB]
theorem RoundTrip.fsub (y d a b) : RoundTrip.Statement (.fsub y d a b) := by
  rintro - w ⟨⟩; simp [decode, decodeRow2, need, zeroD, zeroA, zeroB]
theorem RoundTrip.fmul (y d a b) : RoundTrip.Statement (.fmul y d a b) := by
  rintro - w ⟨⟩; simp [decode, decodeRow2, need, zeroD, zeroA, zeroB]
theorem RoundTrip.ffma (y d a b) : RoundTrip.Statement (.ffma y d a b) := by
  rintro - w ⟨⟩; simp [decode, decodeRow2, need, zeroD, zeroA, zeroB]
theorem RoundTrip.fdiv (y d a b) : RoundTrip.Statement (.fdiv y d a b) := by
  rintro - w ⟨⟩; simp [decode, decodeRow2, need, zeroD, zeroA, zeroB]
theorem RoundTrip.fmin (y d a b) : RoundTrip.Statement (.fmin y d a b) := by
  rintro - w ⟨⟩; simp [decode, decodeRow2, need, zeroD, zeroA, zeroB]
theorem RoundTrip.fmax (y d a b) : RoundTrip.Statement (.fmax y d a b) := by
  rintro - w ⟨⟩; simp [decode, decodeRow2, need, zeroD, zeroA, zeroB]
theorem RoundTrip.fsqrt (y d a) : RoundTrip.Statement (.fsqrt y d a) := by
  rintro - w ⟨⟩; simp [decode, decodeRow2, need, zeroD, zeroA, zeroB, encFS]
theorem RoundTrip.fabs (y d a) : RoundTrip.Statement (.fabs y d a) := by
  rintro - w ⟨⟩; simp [decode, decodeRow2, need, zeroD, zeroA, zeroB, encFS]
theorem RoundTrip.fneg (y d a) : RoundTrip.Statement (.fneg y d a) := by
  rintro - w ⟨⟩; simp [decode, decodeRow2, need, zeroD, zeroA, zeroB, encFS]
theorem RoundTrip.fclass (y d a) : RoundTrip.Statement (.fclass y d a) := by
  rintro - w ⟨⟩; simp [decode, decodeRow2, need, zeroD, zeroA, zeroB, encFS]
theorem RoundTrip.cvtF64I64 (y d a) : RoundTrip.Statement (.cvtF64I64 y d a) := by
  rintro - w ⟨⟩; simp [decode, decodeRow2, need, zeroD, zeroA, zeroB, encFS]
theorem RoundTrip.cvtF64N64 (y d a) : RoundTrip.Statement (.cvtF64N64 y d a) := by
  rintro - w ⟨⟩; simp [decode, decodeRow2, need, zeroD, zeroA, zeroB, encFS]
theorem RoundTrip.cvtI64F64 (y d a) : RoundTrip.Statement (.cvtI64F64 y d a) := by
  rintro - w ⟨⟩; simp [decode, decodeRow2, need, zeroD, zeroA, zeroB, encFS]
theorem RoundTrip.cvtN64F64 (y d a) : RoundTrip.Statement (.cvtN64F64 y d a) := by
  rintro - w ⟨⟩; simp [decode, decodeRow2, need, zeroD, zeroA, zeroB, encFS]
theorem RoundTrip.cvtF32F64 (y d a) : RoundTrip.Statement (.cvtF32F64 y d a) := by
  rintro - w ⟨⟩; simp [decode, decodeRow2, need, zeroD, zeroA, zeroB, encFS]
theorem RoundTrip.cvtF64F32 (y d a) : RoundTrip.Statement (.cvtF64F32 y d a) := by
  rintro - w ⟨⟩; simp [decode, decodeRow2, need, zeroD, zeroA, zeroB, encFS]
theorem RoundTrip.feq (y d a b) : RoundTrip.Statement (.feq y d a b) := by
  rintro - w ⟨⟩; simp [decode, decodeRow3, need, zeroD, zeroA, zeroB]
theorem RoundTrip.flt (y d a b) : RoundTrip.Statement (.flt y d a b) := by
  rintro - w ⟨⟩; simp [decode, decodeRow3, need, zeroD, zeroA, zeroB]
theorem RoundTrip.fle (y d a b) : RoundTrip.Statement (.fle y d a b) := by
  rintro - w ⟨⟩; simp [decode, decodeRow3, need, zeroD, zeroA, zeroB]
theorem RoundTrip.br (y d i) : RoundTrip.Statement (.br y d i) := by
  rintro - w ⟨⟩; simp [decode, decodeRow3, need, zeroD, zeroA, zeroB]
theorem RoundTrip.brz (y d i) : RoundTrip.Statement (.brz y d i) := by
  rintro - w ⟨⟩; simp [decode, decodeRow3, need, zeroD, zeroA, zeroB]
theorem RoundTrip.jmp (y i) : RoundTrip.Statement (.jmp y i) := by
  rintro - w ⟨⟩; simp [decode, decodeRow3, need, zeroD, zeroA, zeroB]
theorem RoundTrip.call (y i) : RoundTrip.Statement (.call y i) := by
  rintro - w ⟨⟩; simp [decode, decodeRow3, need, zeroD, zeroA, zeroB]
theorem RoundTrip.jr (y a) : RoundTrip.Statement (.jr y a) := by
  rintro - w ⟨⟩; simp [decode, decodeRow3, need, zeroD, zeroA, zeroB]
theorem RoundTrip.loop (y d i) : RoundTrip.Statement (.loop y d i) := by
  rintro - w ⟨⟩; simp [decode, decodeRow3, need, zeroD, zeroA, zeroB]
theorem RoundTrip.exit (y) : RoundTrip.Statement (.exit y) := by
  rintro - w ⟨⟩; simp [decode, decodeRow3, need, zeroD, zeroA, zeroB]
theorem RoundTrip.bany (y d i) : RoundTrip.Statement (.bany y d i) := by
  rintro - w ⟨⟩; simp [decode, decodeRow3, need, zeroD, zeroA, zeroB]
theorem RoundTrip.bnone (y d i) : RoundTrip.Statement (.bnone y d i) := by
  rintro - w ⟨⟩; simp [decode, decodeRow3, need, zeroD, zeroA, zeroB]
theorem RoundTrip.sltni (y d a i) : RoundTrip.Statement (.sltni y d a i) := by
  rintro - w ⟨⟩; simp [decode, decodeRow3, need, zeroD, zeroA, zeroB]
theorem RoundTrip.seqi (y d a i) : RoundTrip.Statement (.seqi y d a i) := by
  rintro - w ⟨⟩; simp [decode, decodeRow3, need, zeroD, zeroA, zeroB]
theorem RoundTrip.vadd (y d a b la lb) : RoundTrip.Statement (.vadd y d a b la lb) := by
  rintro - w ⟨⟩; simp [decode, decodeRow4, need, zeroD, zeroA, zeroB]
theorem RoundTrip.vsub (y d a b la lb) : RoundTrip.Statement (.vsub y d a b la lb) := by
  rintro - w ⟨⟩; simp [decode, decodeRow4, need, zeroD, zeroA, zeroB]
theorem RoundTrip.vmul (y d a b la lb) : RoundTrip.Statement (.vmul y d a b la lb) := by
  rintro - w ⟨⟩; simp [decode, decodeRow4, need, zeroD, zeroA, zeroB]
theorem RoundTrip.vmulh (y d a b la lb) : RoundTrip.Statement (.vmulh y d a b la lb) := by
  rintro - w ⟨⟩; simp [decode, decodeRow4, need, zeroD, zeroA, zeroB]
theorem RoundTrip.vmulhn (y d a b la lb) : RoundTrip.Statement (.vmulhn y d a b la lb) := by
  rintro - w ⟨⟩; simp [decode, decodeRow4, need, zeroD, zeroA, zeroB]
theorem RoundTrip.vmad (y d a b la lb) : RoundTrip.Statement (.vmad y d a b la lb) := by
  rintro - w ⟨⟩; simp [decode, decodeRow4, need, zeroD, zeroA, zeroB]
theorem RoundTrip.vand (y d a b la lb) : RoundTrip.Statement (.vand y d a b la lb) := by
  rintro - w ⟨⟩; simp [decode, decodeRow4, need, zeroD, zeroA, zeroB]
theorem RoundTrip.vor (y d a b la lb) : RoundTrip.Statement (.vor y d a b la lb) := by
  rintro - w ⟨⟩; simp [decode, decodeRow4, need, zeroD, zeroA, zeroB]
theorem RoundTrip.vxor (y d a b la lb) : RoundTrip.Statement (.vxor y d a b la lb) := by
  rintro - w ⟨⟩; simp [decode, decodeRow4, need, zeroD, zeroA, zeroB]
theorem RoundTrip.vshl (y d a b la lb) : RoundTrip.Statement (.vshl y d a b la lb) := by
  rintro - w ⟨⟩; simp [decode, decodeRow4, need, zeroD, zeroA, zeroB]
theorem RoundTrip.vshr (y d a b la lb) : RoundTrip.Statement (.vshr y d a b la lb) := by
  rintro - w ⟨⟩; simp [decode, decodeRow4, need, zeroD, zeroA, zeroB]
theorem RoundTrip.vsha (y d a b la lb) : RoundTrip.Statement (.vsha y d a b la lb) := by
  rintro - w ⟨⟩; simp [decode, decodeRow4, need, zeroD, zeroA, zeroB]
theorem RoundTrip.vmin (y d a b la lb) : RoundTrip.Statement (.vmin y d a b la lb) := by
  rintro - w ⟨⟩; simp [decode, decodeRow4, need, zeroD, zeroA, zeroB]
theorem RoundTrip.vmax (y d a b la lb) : RoundTrip.Statement (.vmax y d a b la lb) := by
  rintro - w ⟨⟩; simp [decode, decodeRow4, need, zeroD, zeroA, zeroB]
theorem RoundTrip.vminn (y d a b la lb) : RoundTrip.Statement (.vminn y d a b la lb) := by
  rintro - w ⟨⟩; simp [decode, decodeRow4, need, zeroD, zeroA, zeroB]
theorem RoundTrip.vmaxn (y d a b la lb) : RoundTrip.Statement (.vmaxn y d a b la lb) := by
  rintro - w ⟨⟩; simp [decode, decodeRow4, need, zeroD, zeroA, zeroB]
theorem RoundTrip.vaddi (y d a i) : RoundTrip.Statement (.vaddi y d a i) := by
  rintro - w ⟨⟩; simp [decode, decodeRow5, need, zeroD, zeroA, zeroB]
theorem RoundTrip.vabs (y d a la) : RoundTrip.Statement (.vabs y d a la) := by
  rintro - w ⟨⟩; simp [decode, decodeRow5, need, zeroD, zeroA, zeroB, encFS]
theorem RoundTrip.vneg (y d a la) : RoundTrip.Statement (.vneg y d a la) := by
  rintro - w ⟨⟩; simp [decode, decodeRow5, need, zeroD, zeroA, zeroB, encFS]
theorem RoundTrip.vnot (y d a la) : RoundTrip.Statement (.vnot y d a la) := by
  rintro - w ⟨⟩; simp [decode, decodeRow5, need, zeroD, zeroA, zeroB, encFS]
theorem RoundTrip.vclz (y d a la) : RoundTrip.Statement (.vclz y d a la) := by
  rintro - w ⟨⟩; simp [decode, decodeRow5, need, zeroD, zeroA, zeroB, encFS]
theorem RoundTrip.vpopc (y d a la) : RoundTrip.Statement (.vpopc y d a la) := by
  rintro - w ⟨⟩; simp [decode, decodeRow5, need, zeroD, zeroA, zeroB, encFS]
theorem RoundTrip.vbrev (y d a la) : RoundTrip.Statement (.vbrev y d a la) := by
  rintro - w ⟨⟩; simp [decode, decodeRow5, need, zeroD, zeroA, zeroB, encFS]
theorem RoundTrip.vmov (y d a la) : RoundTrip.Statement (.vmov y d a la) := by
  rintro - w ⟨⟩; simp [decode, decodeRow5, need, zeroD, zeroA, zeroB, encFS]
theorem RoundTrip.vsext16 (y d a la) : RoundTrip.Statement (.vsext16 y d a la) := by
  rintro - w ⟨⟩; simp [decode, decodeRow5, need, zeroD, zeroA, zeroB, encFS]
theorem RoundTrip.vbcast (y d a) : RoundTrip.Statement (.vbcast y d a) := by
  rintro - w ⟨⟩; simp [decode, decodeRow5, need, zeroD, zeroA, zeroB]
theorem RoundTrip.vlaneid (y d) : RoundTrip.Statement (.vlaneid y d) := by
  rintro - w ⟨⟩; simp [decode, decodeRow5, need, zeroD, zeroA, zeroB]
theorem RoundTrip.vseq (y d a b la lb) : RoundTrip.Statement (.vseq y d a b la lb) := by
  rintro - w ⟨⟩; simp [decode, decodeRow5, need, zeroD, zeroA, zeroB]
theorem RoundTrip.vsne (y d a b la lb) : RoundTrip.Statement (.vsne y d a b la lb) := by
  rintro - w ⟨⟩; simp [decode, decodeRow5, need, zeroD, zeroA, zeroB]
theorem RoundTrip.vslt (y d a b la lb) : RoundTrip.Statement (.vslt y d a b la lb) := by
  rintro - w ⟨⟩; simp [decode, decodeRow5, need, zeroD, zeroA, zeroB]
theorem RoundTrip.vsle (y d a b la lb) : RoundTrip.Statement (.vsle y d a b la lb) := by
  rintro - w ⟨⟩; simp [decode, decodeRow5, need, zeroD, zeroA, zeroB]
theorem RoundTrip.vsltn (y d a b la lb) : RoundTrip.Statement (.vsltn y d a b la lb) := by
  rintro - w ⟨⟩; simp [decode, decodeRow5, need, zeroD, zeroA, zeroB]
theorem RoundTrip.vslen (y d a b la lb) : RoundTrip.Statement (.vslen y d a b la lb) := by
  rintro - w ⟨⟩; simp [decode, decodeRow5, need, zeroD, zeroA, zeroB]
theorem RoundTrip.vperm (y d a b la lb) : RoundTrip.Statement (.vperm y d a b la lb) := by
  rintro - w ⟨⟩; simp [decode, decodeRow5, need, zeroD, zeroA, zeroB]
theorem RoundTrip.vxshf (y d a i) : RoundTrip.Statement (.vxshf y d a i) := by
  rintro - w ⟨⟩; simp [decode, decodeRow5, need, zeroD, zeroA, zeroB, encFI_part, parts_2_7]
theorem RoundTrip.vrotu (y d a i) : RoundTrip.Statement (.vrotu y d a i) := by
  rintro - w ⟨⟩; simp [decode, decodeRow5, need, zeroD, zeroA, zeroB, encFI_part, parts_2_7]
theorem RoundTrip.vrotd (y d a i) : RoundTrip.Statement (.vrotd y d a i) := by
  rintro - w ⟨⟩; simp [decode, decodeRow5, need, zeroD, zeroA, zeroB, encFI_part, parts_2_7]
theorem RoundTrip.vblane (y d a i) : RoundTrip.Statement (.vblane y d a i) := by
  rintro - w ⟨⟩; simp [decode, decodeRow5, need, zeroD, zeroA, zeroB, encFI_part, parts_2_7]
theorem RoundTrip.vredAdd (y d a la) : RoundTrip.Statement (.vredAdd y d a la) := by
  rintro - w ⟨⟩; simp [decode, decodeRow5, need, zeroD, zeroA, zeroB, encFS]
theorem RoundTrip.vredMin (y d a la) : RoundTrip.Statement (.vredMin y d a la) := by
  rintro - w ⟨⟩; simp [decode, decodeRow5, need, zeroD, zeroA, zeroB, encFS]
theorem RoundTrip.vredMax (y d a la) : RoundTrip.Statement (.vredMax y d a la) := by
  rintro - w ⟨⟩; simp [decode, decodeRow5, need, zeroD, zeroA, zeroB, encFS]
theorem RoundTrip.vredMinn (y d a la) : RoundTrip.Statement (.vredMinn y d a la) := by
  rintro - w ⟨⟩; simp [decode, decodeRow5, need, zeroD, zeroA, zeroB, encFS]
theorem RoundTrip.vredMaxn (y d a la) : RoundTrip.Statement (.vredMaxn y d a la) := by
  rintro - w ⟨⟩; simp [decode, decodeRow5, need, zeroD, zeroA, zeroB, encFS]
theorem RoundTrip.vredAnd (y d a la) : RoundTrip.Statement (.vredAnd y d a la) := by
  rintro - w ⟨⟩; simp [decode, decodeRow5, need, zeroD, zeroA, zeroB, encFS]
theorem RoundTrip.vredOr (y d a la) : RoundTrip.Statement (.vredOr y d a la) := by
  rintro - w ⟨⟩; simp [decode, decodeRow5, need, zeroD, zeroA, zeroB, encFS]
theorem RoundTrip.vredXor (y d a la) : RoundTrip.Statement (.vredXor y d a la) := by
  rintro - w ⟨⟩; simp [decode, decodeRow5, need, zeroD, zeroA, zeroB, encFS]
theorem RoundTrip.vredFadd (y d a la) : RoundTrip.Statement (.vredFadd y d a la) := by
  rintro - w ⟨⟩; simp [decode, decodeRow5, need, zeroD, zeroA, zeroB, encFS]
theorem RoundTrip.vredFmin (y d a la) : RoundTrip.Statement (.vredFmin y d a la) := by
  rintro - w ⟨⟩; simp [decode, decodeRow5, need, zeroD, zeroA, zeroB, encFS]
theorem RoundTrip.vredFmax (y d a la) : RoundTrip.Statement (.vredFmax y d a la) := by
  rintro - w ⟨⟩; simp [decode, decodeRow5, need, zeroD, zeroA, zeroB, encFS]
theorem RoundTrip.vext (y d a b la) : RoundTrip.Statement (.vext y d a b la) := by
  rintro - w ⟨⟩; simp [decode, decodeRow5, need, zeroD, zeroA, zeroB]
theorem RoundTrip.vins (y d a b) : RoundTrip.Statement (.vins y d a b) := by
  rintro - w ⟨⟩; simp [decode, decodeRow5, need, zeroD, zeroA, zeroB]
theorem RoundTrip.vcvtF32I32 (y d a la) : RoundTrip.Statement (.vcvtF32I32 y d a la) := by
  rintro - w ⟨⟩; simp [decode, decodeRow5, need, zeroD, zeroA, zeroB, encFS]
theorem RoundTrip.vcvtF32N32 (y d a la) : RoundTrip.Statement (.vcvtF32N32 y d a la) := by
  rintro - w ⟨⟩; simp [decode, decodeRow5, need, zeroD, zeroA, zeroB, encFS]
theorem RoundTrip.vcvtI32F32 (y d a la) : RoundTrip.Statement (.vcvtI32F32 y d a la) := by
  rintro - w ⟨⟩; simp [decode, decodeRow5, need, zeroD, zeroA, zeroB, encFS]
theorem RoundTrip.vcvtN32F32 (y d a la) : RoundTrip.Statement (.vcvtN32F32 y d a la) := by
  rintro - w ⟨⟩; simp [decode, decodeRow5, need, zeroD, zeroA, zeroB, encFS]
theorem RoundTrip.vcvtHF32Lo (y d a la) : RoundTrip.Statement (.vcvtHF32Lo y d a la) := by
  rintro - w ⟨⟩; simp [decode, decodeRow5, need, zeroD, zeroA, zeroB, encFS]
theorem RoundTrip.vcvtHF32Hi (y d a la) : RoundTrip.Statement (.vcvtHF32Hi y d a la) := by
  rintro - w ⟨⟩; simp [decode, decodeRow5, need, zeroD, zeroA, zeroB, encFS]
theorem RoundTrip.vcvtF32HLo (y d a la) : RoundTrip.Statement (.vcvtF32HLo y d a la) := by
  rintro - w ⟨⟩; simp [decode, decodeRow5, need, zeroD, zeroA, zeroB, encFS]
theorem RoundTrip.vcvtF32HHi (y d a la) : RoundTrip.Statement (.vcvtF32HHi y d a la) := by
  rintro - w ⟨⟩; simp [decode, decodeRow5, need, zeroD, zeroA, zeroB, encFS]
theorem RoundTrip.vcvtBfF32Lo (y d a la) : RoundTrip.Statement (.vcvtBfF32Lo y d a la) := by
  rintro - w ⟨⟩; simp [decode, decodeRow5, need, zeroD, zeroA, zeroB, encFS]
theorem RoundTrip.vcvtBfF32Hi (y d a la) : RoundTrip.Statement (.vcvtBfF32Hi y d a la) := by
  rintro - w ⟨⟩; simp [decode, decodeRow5, need, zeroD, zeroA, zeroB, encFS]
theorem RoundTrip.vcvtF32BfLo (y d a la) : RoundTrip.Statement (.vcvtF32BfLo y d a la) := by
  rintro - w ⟨⟩; simp [decode, decodeRow5, need, zeroD, zeroA, zeroB, encFS]
theorem RoundTrip.vcvtF32BfHi (y d a la) : RoundTrip.Statement (.vcvtF32BfHi y d a la) := by
  rintro - w ⟨⟩; simp [decode, decodeRow5, need, zeroD, zeroA, zeroB, encFS]
theorem RoundTrip.vcvtI16I32Lo (y d a la) : RoundTrip.Statement (.vcvtI16I32Lo y d a la) := by
  rintro - w ⟨⟩; simp [decode, decodeRow5, need, zeroD, zeroA, zeroB, encFS]
theorem RoundTrip.vcvtI16I32Hi (y d a la) : RoundTrip.Statement (.vcvtI16I32Hi y d a la) := by
  rintro - w ⟨⟩; simp [decode, decodeRow5, need, zeroD, zeroA, zeroB, encFS]
theorem RoundTrip.vcvtI32I16Lo (y d a la) : RoundTrip.Statement (.vcvtI32I16Lo y d a la) := by
  rintro - w ⟨⟩; simp [decode, decodeRow5, need, zeroD, zeroA, zeroB, encFS]
theorem RoundTrip.vcvtI32I16Hi (y d a la) : RoundTrip.Statement (.vcvtI32I16Hi y d a la) := by
  rintro - w ⟨⟩; simp [decode, decodeRow5, need, zeroD, zeroA, zeroB, encFS]
theorem RoundTrip.vfadd (y d a b la lb) : RoundTrip.Statement (.vfadd y d a b la lb) := by
  rintro - w ⟨⟩; simp [decode, decodeRow6, need, zeroD, zeroA, zeroB]
theorem RoundTrip.vfsub (y d a b la lb) : RoundTrip.Statement (.vfsub y d a b la lb) := by
  rintro - w ⟨⟩; simp [decode, decodeRow6, need, zeroD, zeroA, zeroB]
theorem RoundTrip.vfmul (y d a b la lb) : RoundTrip.Statement (.vfmul y d a b la lb) := by
  rintro - w ⟨⟩; simp [decode, decodeRow6, need, zeroD, zeroA, zeroB]
theorem RoundTrip.vfma (y d a b la lb) : RoundTrip.Statement (.vfma y d a b la lb) := by
  rintro - w ⟨⟩; simp [decode, decodeRow6, need, zeroD, zeroA, zeroB]
theorem RoundTrip.vfmin (y d a b la lb) : RoundTrip.Statement (.vfmin y d a b la lb) := by
  rintro - w ⟨⟩; simp [decode, decodeRow6, need, zeroD, zeroA, zeroB]
theorem RoundTrip.vfmax (y d a b la lb) : RoundTrip.Statement (.vfmax y d a b la lb) := by
  rintro - w ⟨⟩; simp [decode, decodeRow6, need, zeroD, zeroA, zeroB]
theorem RoundTrip.vfeq (y d a b la lb) : RoundTrip.Statement (.vfeq y d a b la lb) := by
  rintro - w ⟨⟩; simp [decode, decodeRow6, need, zeroD, zeroA, zeroB]
theorem RoundTrip.vflt (y d a b la lb) : RoundTrip.Statement (.vflt y d a b la lb) := by
  rintro - w ⟨⟩; simp [decode, decodeRow6, need, zeroD, zeroA, zeroB]
theorem RoundTrip.vfle (y d a b la lb) : RoundTrip.Statement (.vfle y d a b la lb) := by
  rintro - w ⟨⟩; simp [decode, decodeRow6, need, zeroD, zeroA, zeroB]
theorem RoundTrip.vfaddH2 (y d a b la lb) : RoundTrip.Statement (.vfaddH2 y d a b la lb) := by
  rintro - w ⟨⟩; simp [decode, decodeRow6, need, zeroD, zeroA, zeroB]
theorem RoundTrip.vfmulH2 (y d a b la lb) : RoundTrip.Statement (.vfmulH2 y d a b la lb) := by
  rintro - w ⟨⟩; simp [decode, decodeRow6, need, zeroD, zeroA, zeroB]
theorem RoundTrip.vfmaH2 (y d a b la lb) : RoundTrip.Statement (.vfmaH2 y d a b la lb) := by
  rintro - w ⟨⟩; simp [decode, decodeRow6, need, zeroD, zeroA, zeroB]
theorem RoundTrip.vfaddBf2 (y d a b la lb) : RoundTrip.Statement (.vfaddBf2 y d a b la lb) := by
  rintro - w ⟨⟩; simp [decode, decodeRow6, need, zeroD, zeroA, zeroB]
theorem RoundTrip.vfmulBf2 (y d a b la lb) : RoundTrip.Statement (.vfmulBf2 y d a b la lb) := by
  rintro - w ⟨⟩; simp [decode, decodeRow6, need, zeroD, zeroA, zeroB]
theorem RoundTrip.vfmaBf2 (y d a b la lb) : RoundTrip.Statement (.vfmaBf2 y d a b la lb) := by
  rintro - w ⟨⟩; simp [decode, decodeRow6, need, zeroD, zeroA, zeroB]
theorem RoundTrip.vfabs (y d a la) : RoundTrip.Statement (.vfabs y d a la) := by
  rintro - w ⟨⟩; simp [decode, decodeRow6, need, zeroD, zeroA, zeroB, encFS]
theorem RoundTrip.vfneg (y d a la) : RoundTrip.Statement (.vfneg y d a la) := by
  rintro - w ⟨⟩; simp [decode, decodeRow6, need, zeroD, zeroA, zeroB, encFS]
theorem RoundTrip.vfclass (y d a la) : RoundTrip.Statement (.vfclass y d a la) := by
  rintro - w ⟨⟩; simp [decode, decodeRow6, need, zeroD, zeroA, zeroB, encFS]
theorem RoundTrip.vfrint (y d a la) : RoundTrip.Statement (.vfrint y d a la) := by
  rintro - w ⟨⟩; simp [decode, decodeRow6, need, zeroD, zeroA, zeroB, encFS]
theorem RoundTrip.vffloor (y d a la) : RoundTrip.Statement (.vffloor y d a la) := by
  rintro - w ⟨⟩; simp [decode, decodeRow6, need, zeroD, zeroA, zeroB, encFS]
theorem RoundTrip.vfceil (y d a la) : RoundTrip.Statement (.vfceil y d a la) := by
  rintro - w ⟨⟩; simp [decode, decodeRow6, need, zeroD, zeroA, zeroB, encFS]
theorem RoundTrip.vftrunc (y d a la) : RoundTrip.Statement (.vftrunc y d a la) := by
  rintro - w ⟨⟩; simp [decode, decodeRow6, need, zeroD, zeroA, zeroB, encFS]
theorem RoundTrip.vrcp (y d a la) : RoundTrip.Statement (.vrcp y d a la) := by
  rintro - w ⟨⟩; simp [decode, decodeRow7, need, zeroD, zeroA, zeroB, encFS]
theorem RoundTrip.vrsq (y d a la) : RoundTrip.Statement (.vrsq y d a la) := by
  rintro - w ⟨⟩; simp [decode, decodeRow7, need, zeroD, zeroA, zeroB, encFS]
theorem RoundTrip.vsqrt (y d a la) : RoundTrip.Statement (.vsqrt y d a la) := by
  rintro - w ⟨⟩; simp [decode, decodeRow7, need, zeroD, zeroA, zeroB, encFS]
theorem RoundTrip.vexp2 (y d a la) : RoundTrip.Statement (.vexp2 y d a la) := by
  rintro - w ⟨⟩; simp [decode, decodeRow7, need, zeroD, zeroA, zeroB, encFS]
theorem RoundTrip.vlog2 (y d a la) : RoundTrip.Statement (.vlog2 y d a la) := by
  rintro - w ⟨⟩; simp [decode, decodeRow7, need, zeroD, zeroA, zeroB, encFS]
theorem RoundTrip.vexp (y d a la) : RoundTrip.Statement (.vexp y d a la) := by
  rintro - w ⟨⟩; simp [decode, decodeRow7, need, zeroD, zeroA, zeroB, encFS]
theorem RoundTrip.vlog (y d a la) : RoundTrip.Statement (.vlog y d a la) := by
  rintro - w ⟨⟩; simp [decode, decodeRow7, need, zeroD, zeroA, zeroB, encFS]
theorem RoundTrip.vsin (y d a la) : RoundTrip.Statement (.vsin y d a la) := by
  rintro - w ⟨⟩; simp [decode, decodeRow7, need, zeroD, zeroA, zeroB, encFS]
theorem RoundTrip.vcos (y d a la) : RoundTrip.Statement (.vcos y d a la) := by
  rintro - w ⟨⟩; simp [decode, decodeRow7, need, zeroD, zeroA, zeroB, encFS]
theorem RoundTrip.vtanh (y d a la) : RoundTrip.Statement (.vtanh y d a la) := by
  rintro - w ⟨⟩; simp [decode, decodeRow7, need, zeroD, zeroA, zeroB, encFS]
theorem RoundTrip.vsigm (y d a la) : RoundTrip.Statement (.vsigm y d a la) := by
  rintro - w ⟨⟩; simp [decode, decodeRow7, need, zeroD, zeroA, zeroB, encFS]
theorem RoundTrip.verf (y d a la) : RoundTrip.Statement (.verf y d a la) := by
  rintro - w ⟨⟩; simp [decode, decodeRow7, need, zeroD, zeroA, zeroB, encFS]
theorem RoundTrip.vfdiv (y d a b la lb) : RoundTrip.Statement (.vfdiv y d a b la lb) := by
  rintro - w ⟨⟩; simp [decode, decodeRow7, need, zeroD, zeroA, zeroB]
theorem RoundTrip.vfdotH2 (y d a b la lb) : RoundTrip.Statement (.vfdotH2 y d a b la lb) := by
  rintro - w ⟨⟩; simp [decode, decodeRow7, need, zeroD, zeroA, zeroB]
theorem RoundTrip.vfdotBf2 (y d a b la lb) : RoundTrip.Statement (.vfdotBf2 y d a b la lb) := by
  rintro - w ⟨⟩; simp [decode, decodeRow7, need, zeroD, zeroA, zeroB]
theorem RoundTrip.vcbx (y d a j t) : RoundTrip.Statement (.vcbx y d a j t) := by
  rintro - w ⟨⟩; simp [decode, decodeRow7, need, zeroD, zeroA, zeroB, encFI_part, parts_vcbx]
theorem RoundTrip.vhadd (y d a b la lb) : RoundTrip.Statement (.vhadd y d a b la lb) := by
  rintro - w ⟨⟩; simp [decode, decodeRow7, need, zeroD, zeroA, zeroB]
theorem RoundTrip.vhsub (y d a b la lb) : RoundTrip.Statement (.vhsub y d a b la lb) := by
  rintro - w ⟨⟩; simp [decode, decodeRow7, need, zeroD, zeroA, zeroB]
theorem RoundTrip.vhmul (y d a b la lb) : RoundTrip.Statement (.vhmul y d a b la lb) := by
  rintro - w ⟨⟩; simp [decode, decodeRow7, need, zeroD, zeroA, zeroB]
theorem RoundTrip.vhmin (y d a b la lb) : RoundTrip.Statement (.vhmin y d a b la lb) := by
  rintro - w ⟨⟩; simp [decode, decodeRow7, need, zeroD, zeroA, zeroB]
theorem RoundTrip.vhmax (y d a b la lb) : RoundTrip.Statement (.vhmax y d a b la lb) := by
  rintro - w ⟨⟩; simp [decode, decodeRow7, need, zeroD, zeroA, zeroB]
theorem RoundTrip.vhminn (y d a b la lb) : RoundTrip.Statement (.vhminn y d a b la lb) := by
  rintro - w ⟨⟩; simp [decode, decodeRow7, need, zeroD, zeroA, zeroB]
theorem RoundTrip.vhmaxn (y d a b la lb) : RoundTrip.Statement (.vhmaxn y d a b la lb) := by
  rintro - w ⟨⟩; simp [decode, decodeRow7, need, zeroD, zeroA, zeroB]
theorem RoundTrip.vbadd (y d a b la lb) : RoundTrip.Statement (.vbadd y d a b la lb) := by
  rintro - w ⟨⟩; simp [decode, decodeRow7, need, zeroD, zeroA, zeroB]
theorem RoundTrip.vbsub (y d a b la lb) : RoundTrip.Statement (.vbsub y d a b la lb) := by
  rintro - w ⟨⟩; simp [decode, decodeRow7, need, zeroD, zeroA, zeroB]
theorem RoundTrip.vbmin (y d a b la lb) : RoundTrip.Statement (.vbmin y d a b la lb) := by
  rintro - w ⟨⟩; simp [decode, decodeRow7, need, zeroD, zeroA, zeroB]
theorem RoundTrip.vbmax (y d a b la lb) : RoundTrip.Statement (.vbmax y d a b la lb) := by
  rintro - w ⟨⟩; simp [decode, decodeRow7, need, zeroD, zeroA, zeroB]
theorem RoundTrip.vnaddNf0 (y d a b la lb) : RoundTrip.Statement (.vnaddNf0 y d a b la lb) := by
  rintro - w ⟨⟩; simp [decode, decodeRow8, need, zeroD, zeroA, zeroB]
theorem RoundTrip.vnaddNf1 (y d a b la lb) : RoundTrip.Statement (.vnaddNf1 y d a b la lb) := by
  rintro - w ⟨⟩; simp [decode, decodeRow8, need, zeroD, zeroA, zeroB]
theorem RoundTrip.vnaddNf2 (y d a b la lb) : RoundTrip.Statement (.vnaddNf2 y d a b la lb) := by
  rintro - w ⟨⟩; simp [decode, decodeRow8, need, zeroD, zeroA, zeroB]
theorem RoundTrip.vnaddNf3 (y d a b la lb) : RoundTrip.Statement (.vnaddNf3 y d a b la lb) := by
  rintro - w ⟨⟩; simp [decode, decodeRow8, need, zeroD, zeroA, zeroB]
theorem RoundTrip.vnmulNf0 (y d a b la lb) : RoundTrip.Statement (.vnmulNf0 y d a b la lb) := by
  rintro - w ⟨⟩; simp [decode, decodeRow8, need, zeroD, zeroA, zeroB]
theorem RoundTrip.vnmulNf1 (y d a b la lb) : RoundTrip.Statement (.vnmulNf1 y d a b la lb) := by
  rintro - w ⟨⟩; simp [decode, decodeRow8, need, zeroD, zeroA, zeroB]
theorem RoundTrip.vnmulNf2 (y d a b la lb) : RoundTrip.Statement (.vnmulNf2 y d a b la lb) := by
  rintro - w ⟨⟩; simp [decode, decodeRow8, need, zeroD, zeroA, zeroB]
theorem RoundTrip.vnmulNf3 (y d a b la lb) : RoundTrip.Statement (.vnmulNf3 y d a b la lb) := by
  rintro - w ⟨⟩; simp [decode, decodeRow8, need, zeroD, zeroA, zeroB]
theorem RoundTrip.vndotNf0 (y d a b la lb) : RoundTrip.Statement (.vndotNf0 y d a b la lb) := by
  rintro - w ⟨⟩; simp [decode, decodeRow8, need, zeroD, zeroA, zeroB]
theorem RoundTrip.vndotNf1 (y d a b la lb) : RoundTrip.Statement (.vndotNf1 y d a b la lb) := by
  rintro - w ⟨⟩; simp [decode, decodeRow8, need, zeroD, zeroA, zeroB]
theorem RoundTrip.vndotNf2 (y d a b la lb) : RoundTrip.Statement (.vndotNf2 y d a b la lb) := by
  rintro - w ⟨⟩; simp [decode, decodeRow8, need, zeroD, zeroA, zeroB]
theorem RoundTrip.vndotNf3 (y d a b la lb) : RoundTrip.Statement (.vndotNf3 y d a b la lb) := by
  rintro - w ⟨⟩; simp [decode, decodeRow8, need, zeroD, zeroA, zeroB]
theorem RoundTrip.vncvtNf0 (y d a e j) : RoundTrip.Statement (.vncvtNf0 y d a e j) := by
  rintro - w ⟨⟩; simp [decode, decodeRow8, need, zeroD, zeroA, zeroB, encFI_part, encFI_bitOf, parts_vncvt]
theorem RoundTrip.vncvtNf1 (y d a e j) : RoundTrip.Statement (.vncvtNf1 y d a e j) := by
  rintro - w ⟨⟩; simp [decode, decodeRow8, need, zeroD, zeroA, zeroB, encFI_part, encFI_bitOf, parts_vncvt]
theorem RoundTrip.vncvtNf2 (y d a e j) : RoundTrip.Statement (.vncvtNf2 y d a e j) := by
  rintro - w ⟨⟩; simp [decode, decodeRow8, need, zeroD, zeroA, zeroB, encFI_part, encFI_bitOf, parts_vncvt]
theorem RoundTrip.vncvtNf3 (y d a e j) : RoundTrip.Statement (.vncvtNf3 y d a e j) := by
  rintro - w ⟨⟩; simp [decode, decodeRow8, need, zeroD, zeroA, zeroB, encFI_part, encFI_bitOf, parts_vncvt]
theorem RoundTrip.ldw (y d a i) : RoundTrip.Statement (.ldw y d a i) := by
  rintro - w ⟨⟩; simp [decode, decodeRow9, need, zeroD, zeroA, zeroB]
theorem RoundTrip.ldwn (y d a i) : RoundTrip.Statement (.ldwn y d a i) := by
  rintro - w ⟨⟩; simp [decode, decodeRow9, need, zeroD, zeroA, zeroB]
theorem RoundTrip.ldd (y d a i) : RoundTrip.Statement (.ldd y d a i) := by
  rintro - w ⟨⟩; simp [decode, decodeRow9, need, zeroD, zeroA, zeroB]
theorem RoundTrip.ldbn (y d a i) : RoundTrip.Statement (.ldbn y d a i) := by
  rintro - w ⟨⟩; simp [decode, decodeRow9, need, zeroD, zeroA, zeroB]
theorem RoundTrip.stw (y d a i) : RoundTrip.Statement (.stw y d a i) := by
  rintro - w ⟨⟩; simp [decode, decodeRow9, need, zeroD, zeroA, zeroB]
theorem RoundTrip.std (y d a i) : RoundTrip.Statement (.std y d a i) := by
  rintro - w ⟨⟩; simp [decode, decodeRow9, need, zeroD, zeroA, zeroB]
theorem RoundTrip.stb (y d a i) : RoundTrip.Statement (.stb y d a i) := by
  rintro - w ⟨⟩; simp [decode, decodeRow9, need, zeroD, zeroA, zeroB]
theorem RoundTrip.vld (y d a b lb) : RoundTrip.Statement (.vld y d a b lb) := by
  rintro - w ⟨⟩; simp [decode, decodeRow9, need, zeroD, zeroA, zeroB]
theorem RoundTrip.vst (y d a b lb) : RoundTrip.Statement (.vst y d a b lb) := by
  rintro - w ⟨⟩; simp [decode, decodeRow9, need, zeroD, zeroA, zeroB]
theorem RoundTrip.vldc (y d a sx i) : RoundTrip.Statement (.vldc y d a sx i) := by
  rintro - w ⟨⟩; simp [decode, decodeRow9, need, zeroD, zeroA, zeroB, encFI_part, encFI_bitOf, parts_1_8]
theorem RoundTrip.vstc (y d a sx i) : RoundTrip.Statement (.vstc y d a sx i) := by
  rintro - w ⟨⟩; simp [decode, decodeRow9, need, zeroD, zeroA, zeroB, encFI_part, encFI_bitOf, parts_1_8]
theorem RoundTrip.vlld (y d a b lb) : RoundTrip.Statement (.vlld y d a b lb) := by
  rintro - w ⟨⟩; simp [decode, decodeRow9, need, zeroD, zeroA, zeroB]
theorem RoundTrip.vlst (y d a b lb) : RoundTrip.Statement (.vlst y d a b lb) := by
  rintro - w ⟨⟩; simp [decode, decodeRow9, need, zeroD, zeroA, zeroB]
theorem RoundTrip.vlldc (y d a e i) : RoundTrip.Statement (.vlldc y d a e i) := by
  intro h w hw; cases hw; have h2 : e ≠ 3#2 := by simpa [Instr.wf] using h
  simp [decode, decodeRow9, need, zeroD, zeroA, zeroB, encFI_part, parts_2_7, h2]
theorem RoundTrip.vlstc (y d a e i) : RoundTrip.Statement (.vlstc y d a e i) := by
  intro h w hw; cases hw; have h2 : e ≠ 3#2 := by simpa [Instr.wf] using h
  simp [decode, decodeRow9, need, zeroD, zeroA, zeroB, encFI_part, parts_2_7, h2]
theorem RoundTrip.aadd (y d a b) : RoundTrip.Statement (.aadd y d a b) := by
  rintro - w ⟨⟩; simp [decode, decodeRowA, need, zeroD, zeroA, zeroB]
theorem RoundTrip.amin (y d a b) : RoundTrip.Statement (.amin y d a b) := by
  rintro - w ⟨⟩; simp [decode, decodeRowA, need, zeroD, zeroA, zeroB]
theorem RoundTrip.amax (y d a b) : RoundTrip.Statement (.amax y d a b) := by
  rintro - w ⟨⟩; simp [decode, decodeRowA, need, zeroD, zeroA, zeroB]
theorem RoundTrip.aminn (y d a b) : RoundTrip.Statement (.aminn y d a b) := by
  rintro - w ⟨⟩; simp [decode, decodeRowA, need, zeroD, zeroA, zeroB]
theorem RoundTrip.amaxn (y d a b) : RoundTrip.Statement (.amaxn y d a b) := by
  rintro - w ⟨⟩; simp [decode, decodeRowA, need, zeroD, zeroA, zeroB]
theorem RoundTrip.aand (y d a b) : RoundTrip.Statement (.aand y d a b) := by
  rintro - w ⟨⟩; simp [decode, decodeRowA, need, zeroD, zeroA, zeroB]
theorem RoundTrip.aor (y d a b) : RoundTrip.Statement (.aor y d a b) := by
  rintro - w ⟨⟩; simp [decode, decodeRowA, need, zeroD, zeroA, zeroB]
theorem RoundTrip.axor (y d a b) : RoundTrip.Statement (.axor y d a b) := by
  rintro - w ⟨⟩; simp [decode, decodeRowA, need, zeroD, zeroA, zeroB]
theorem RoundTrip.axchg (y d a b) : RoundTrip.Statement (.axchg y d a b) := by
  rintro - w ⟨⟩; simp [decode, decodeRowA, need, zeroD, zeroA, zeroB]
theorem RoundTrip.acas (y d a b) : RoundTrip.Statement (.acas y d a b) := by
  rintro - w ⟨⟩; simp [decode, decodeRowA, need, zeroD, zeroA, zeroB]
theorem RoundTrip.afadd (y d a b) : RoundTrip.Statement (.afadd y d a b) := by
  rintro - w ⟨⟩; simp [decode, decodeRowA, need, zeroD, zeroA, zeroB]
theorem RoundTrip.vaadd (y d a b lb) : RoundTrip.Statement (.vaadd y d a b lb) := by
  rintro - w ⟨⟩; simp [decode, decodeRowA, need, zeroD, zeroA, zeroB]
theorem RoundTrip.fenceAll (y) : RoundTrip.Statement (.fenceAll y) := by
  rintro - w ⟨⟩; simp [decode, decodeRowA, need, zeroD, zeroA, zeroB, encFS]
theorem RoundTrip.fenceSt (y) : RoundTrip.Statement (.fenceSt y) := by
  rintro - w ⟨⟩; simp [decode, decodeRowA, need, zeroD, zeroA, zeroB, encFS]
theorem RoundTrip.fenceEngine (y) : RoundTrip.Statement (.fenceEngine y) := by
  rintro - w ⟨⟩; simp [decode, decodeRowA, need, zeroD, zeroA, zeroB, encFS]
theorem RoundTrip.fenceLm (y) : RoundTrip.Statement (.fenceLm y) := by
  rintro - w ⟨⟩; simp [decode, decodeRowA, need, zeroD, zeroA, zeroB, encFS]
theorem RoundTrip.fenceHost (y) : RoundTrip.Statement (.fenceHost y) := by
  rintro - w ⟨⟩; simp [decode, decodeRowA, need, zeroD, zeroA, zeroB, encFS]
theorem RoundTrip.fenceGen (y) : RoundTrip.Statement (.fenceGen y) := by
  rintro - w ⟨⟩; simp [decode, decodeRowA, need, zeroD, zeroA, zeroB, encFS]
theorem RoundTrip.drainst (y) : RoundTrip.Statement (.drainst y) := by
  rintro - w ⟨⟩; simp [decode, decodeRowA, need, zeroD, zeroA, zeroB]
theorem RoundTrip.prefL2 (y a) : RoundTrip.Statement (.prefL2 y a) := by
  rintro - w ⟨⟩; simp [decode, decodeRowA, need, zeroD, zeroA, zeroB, encFS]
theorem RoundTrip.prefL1 (y a) : RoundTrip.Statement (.prefL1 y a) := by
  rintro - w ⟨⟩; simp [decode, decodeRowA, need, zeroD, zeroA, zeroB, encFS]
theorem RoundTrip.prefEvict (y a) : RoundTrip.Statement (.prefEvict y a) := by
  rintro - w ⟨⟩; simp [decode, decodeRowA, need, zeroD, zeroA, zeroB, encFS]
theorem RoundTrip.prefPin (y a) : RoundTrip.Statement (.prefPin y a) := by
  rintro - w ⟨⟩; simp [decode, decodeRowA, need, zeroD, zeroA, zeroB, encFS]
theorem RoundTrip.prefUnpin (y a) : RoundTrip.Statement (.prefUnpin y a) := by
  rintro - w ⟨⟩; simp [decode, decodeRowA, need, zeroD, zeroA, zeroB, encFS]
theorem RoundTrip.vafadd (y d a b lb) : RoundTrip.Statement (.vafadd y d a b lb) := by
  rintro - w ⟨⟩; simp [decode, decodeRowA, need, zeroD, zeroA, zeroB]
theorem RoundTrip.lmallocT (y d a) : RoundTrip.Statement (.lmallocT y d a) := by
  rintro - w ⟨⟩; simp [decode, decodeRowB, need, zeroD, zeroA, zeroB]
theorem RoundTrip.lmallocH (y d a) : RoundTrip.Statement (.lmallocH y d a) := by
  rintro - w ⟨⟩; simp [decode, decodeRowB, need, zeroD, zeroA, zeroB]
theorem RoundTrip.lmfree (y a) : RoundTrip.Statement (.lmfree y a) := by
  rintro - w ⟨⟩; simp [decode, decodeRowB, need, zeroD, zeroA, zeroB]
theorem RoundTrip.lmrenew (y a b) : RoundTrip.Statement (.lmrenew y a b) := by
  rintro - w ⟨⟩; simp [decode, decodeRowB, need, zeroD, zeroA, zeroB]
theorem RoundTrip.lmage (y d a) : RoundTrip.Statement (.lmage y d a) := by
  rintro - w ⟨⟩; simp [decode, decodeRowB, need, zeroD, zeroA, zeroB]
theorem RoundTrip.fefillEmpty (y d a) : RoundTrip.Statement (.fefillEmpty y d a) := by
  rintro - w ⟨⟩; simp [decode, decodeRowB, need, zeroD, zeroA, zeroB, encFS]
theorem RoundTrip.fefillFull (y d a) : RoundTrip.Statement (.fefillFull y d a) := by
  rintro - w ⟨⟩; simp [decode, decodeRowB, need, zeroD, zeroA, zeroB, encFS]
theorem RoundTrip.xcopy (y d a b) : RoundTrip.Statement (.xcopy y d a b) := by
  rintro - w ⟨⟩; simp [decode, decodeRowB, need, zeroD, zeroA, zeroB]
theorem RoundTrip.xpack (y d a b) : RoundTrip.Statement (.xpack y d a b) := by
  rintro - w ⟨⟩; simp [decode, decodeRowB, need, zeroD, zeroA, zeroB]
theorem RoundTrip.xgath (y d a b) : RoundTrip.Statement (.xgath y d a b) := by
  rintro - w ⟨⟩; simp [decode, decodeRowB, need, zeroD, zeroA, zeroB]
theorem RoundTrip.xscat (y d a b) : RoundTrip.Statement (.xscat y d a b) := by
  rintro - w ⟨⟩; simp [decode, decodeRowB, need, zeroD, zeroA, zeroB]
theorem RoundTrip.xback (y d a b) : RoundTrip.Statement (.xback y d a b) := by
  rintro - w ⟨⟩; simp [decode, decodeRowB, need, zeroD, zeroA, zeroB]
theorem RoundTrip.xwait (y d a) : RoundTrip.Statement (.xwait y d a) := by
  rintro - w ⟨⟩; simp [decode, decodeRowB, need, zeroD, zeroA, zeroB]
theorem RoundTrip.xstat (y d a) : RoundTrip.Statement (.xstat y d a) := by
  rintro - w ⟨⟩; simp [decode, decodeRowB, need, zeroD, zeroA, zeroB]
theorem RoundTrip.xunpack (y d a b) : RoundTrip.Statement (.xunpack y d a b) := by
  rintro - w ⟨⟩; simp [decode, decodeRowB, need, zeroD, zeroA, zeroB]
theorem RoundTrip.xfill (y d a b) : RoundTrip.Statement (.xfill y d a b) := by
  rintro - w ⟨⟩; simp [decode, decodeRowB, need, zeroD, zeroA, zeroB]
theorem RoundTrip.xcbexp (y d a b) : RoundTrip.Statement (.xcbexp y d a b) := by
  rintro - w ⟨⟩; simp [decode, decodeRowB, need, zeroD, zeroA, zeroB]
theorem RoundTrip.mma (y d a b) : RoundTrip.Statement (.mma y d a b) := by
  rintro - w ⟨⟩; simp [decode, decodeRowC, need, zeroD, zeroA, zeroB]
theorem RoundTrip.mzero (y d) : RoundTrip.Statement (.mzero y d) := by
  rintro - w ⟨⟩; simp [decode, decodeRowC, need, zeroD, zeroA, zeroB]
theorem RoundTrip.mst (y d a b) : RoundTrip.Statement (.mst y d a b) := by
  rintro - w ⟨⟩; simp [decode, decodeRowC, need, zeroD, zeroA, zeroB]
theorem RoundTrip.mld (y d a b) : RoundTrip.Statement (.mld y d a b) := by
  rintro - w ⟨⟩; simp [decode, decodeRowC, need, zeroD, zeroA, zeroB]
theorem RoundTrip.mver (y d a) : RoundTrip.Statement (.mver y d a) := by
  rintro - w ⟨⟩; simp [decode, decodeRowC, need, zeroD, zeroA, zeroB]
theorem RoundTrip.mwait (y d) : RoundTrip.Statement (.mwait y d) := by
  rintro - w ⟨⟩; simp [decode, decodeRowC, need, zeroD, zeroA, zeroB]
theorem RoundTrip.mchkForce (y) : RoundTrip.Statement (.mchkForce y) := by
  rintro - w ⟨⟩; simp [decode, decodeRowC, need, zeroD, zeroA, zeroB, encFS]
theorem RoundTrip.mchkStatus (y d) : RoundTrip.Statement (.mchkStatus y d) := by
  rintro - w ⟨⟩; simp [decode, decodeRowC, need, zeroD, zeroA, zeroB, encFS]
theorem RoundTrip.mchkPeriod (y a) : RoundTrip.Statement (.mchkPeriod y a) := by
  rintro - w ⟨⟩; simp [decode, decodeRowC, need, zeroD, zeroA, zeroB, encFS]
theorem RoundTrip.cbload (y d a) : RoundTrip.Statement (.cbload y d a) := by
  rintro - w ⟨⟩; simp [decode, decodeRowC, need, zeroD, zeroA, zeroB]
theorem RoundTrip.nfset (y d a) : RoundTrip.Statement (.nfset y d a) := by
  rintro - w ⟨⟩; simp [decode, decodeRowC, need, zeroD, zeroA, zeroB]
theorem RoundTrip.rgbeg (y d a) : RoundTrip.Statement (.rgbeg y d a) := by
  rintro - w ⟨⟩; simp [decode, decodeRowD, need, zeroD, zeroA, zeroB]
theorem RoundTrip.rgbind (y d a b) : RoundTrip.Statement (.rgbind y d a b) := by
  rintro - w ⟨⟩; simp [decode, decodeRowD, need, zeroD, zeroA, zeroB]
theorem RoundTrip.rgend (y d) : RoundTrip.Statement (.rgend y d) := by
  rintro - w ⟨⟩; simp [decode, decodeRowD, need, zeroD, zeroA, zeroB]
theorem RoundTrip.rgabort (y) : RoundTrip.Statement (.rgabort y) := by
  rintro - w ⟨⟩; simp [decode, decodeRowD, need, zeroD, zeroA, zeroB]
theorem RoundTrip.rgstat (y d) : RoundTrip.Statement (.rgstat y d) := by
  rintro - w ⟨⟩; simp [decode, decodeRowD, need, zeroD, zeroA, zeroB]
theorem RoundTrip.rgwait (y d) : RoundTrip.Statement (.rgwait y d) := by
  rintro - w ⟨⟩; simp [decode, decodeRowD, need, zeroD, zeroA, zeroB]
theorem RoundTrip.qpush (y d a b) : RoundTrip.Statement (.qpush y d a b) := by
  rintro - w ⟨⟩; simp [decode, decodeRowD, need, zeroD, zeroA, zeroB]
theorem RoundTrip.qpushw (y d a b) : RoundTrip.Statement (.qpushw y d a b) := by
  rintro - w ⟨⟩; simp [decode, decodeRowD, need, zeroD, zeroA, zeroB]
theorem RoundTrip.qpop (y d a b) : RoundTrip.Statement (.qpop y d a b) := by
  rintro - w ⟨⟩; simp [decode, decodeRowD, need, zeroD, zeroA, zeroB]
theorem RoundTrip.qfree (y d a) : RoundTrip.Statement (.qfree y d a) := by
  rintro - w ⟨⟩; simp [decode, decodeRowD, need, zeroD, zeroA, zeroB]
theorem RoundTrip.qclose (y a) : RoundTrip.Statement (.qclose y a) := by
  rintro - w ⟨⟩; simp [decode, decodeRowD, need, zeroD, zeroA, zeroB]
theorem RoundTrip.flaunch (y d a) : RoundTrip.Statement (.flaunch y d a) := by
  rintro - w ⟨⟩; simp [decode, decodeRowD, need, zeroD, zeroA, zeroB]
theorem RoundTrip.qpeek (y d a) : RoundTrip.Statement (.qpeek y d a) := by
  rintro - w ⟨⟩; simp [decode, decodeRowD, need, zeroD, zeroA, zeroB]
theorem RoundTrip.bar (y i) : RoundTrip.Statement (.bar y i) := by
  rintro - w ⟨⟩; simp [decode, decodeRowE, need, zeroD, zeroA, zeroB, encFI_part, parts_6_3]
theorem RoundTrip.barv (y d i) : RoundTrip.Statement (.barv y d i) := by
  rintro - w ⟨⟩; simp [decode, decodeRowE, need, zeroD, zeroA, zeroB, encFI_part, parts_6_3]
theorem RoundTrip.barw (y a i) : RoundTrip.Statement (.barw y a i) := by
  rintro - w ⟨⟩; simp [decode, decodeRowE, need, zeroD, zeroA, zeroB, encFI_part, parts_6_3]
theorem RoundTrip.cleave (y) : RoundTrip.Statement (.cleave y) := by
  rintro - w ⟨⟩; simp [decode, decodeRowE, need, zeroD, zeroA, zeroB]
theorem RoundTrip.xbar (y d a) : RoundTrip.Statement (.xbar y d a) := by
  rintro - w ⟨⟩; simp [decode, decodeRowE, need, zeroD, zeroA, zeroB]
theorem RoundTrip.xbarv (y d a) : RoundTrip.Statement (.xbarv y d a) := by
  rintro - w ⟨⟩; simp [decode, decodeRowE, need, zeroD, zeroA, zeroB]
theorem RoundTrip.coll (y a) : RoundTrip.Statement (.coll y a) := by
  rintro - w ⟨⟩; simp [decode, decodeRowE, need, zeroD, zeroA, zeroB]
theorem RoundTrip.cwait (y d a) : RoundTrip.Statement (.cwait y d a) := by
  rintro - w ⟨⟩; simp [decode, decodeRowE, need, zeroD, zeroA, zeroB]
theorem RoundTrip.dpost (y d a) : RoundTrip.Statement (.dpost y d a) := by
  rintro - w ⟨⟩; simp [decode, decodeRowE, need, zeroD, zeroA, zeroB]
theorem RoundTrip.xchg (y d a b) : RoundTrip.Statement (.xchg y d a b) := by
  rintro - w ⟨⟩; simp [decode, decodeRowE, need, zeroD, zeroA, zeroB]
theorem RoundTrip.gfence (y d a b) : RoundTrip.Statement (.gfence y d a b) := by
  rintro - w ⟨⟩; simp [decode, decodeRowE, need, zeroD, zeroA, zeroB]
theorem RoundTrip.gread (y d a b) : RoundTrip.Statement (.gread y d a b) := by
  rintro - w ⟨⟩; simp [decode, decodeRowE, need, zeroD, zeroA, zeroB]
theorem RoundTrip.hbstat (y d a) : RoundTrip.Statement (.hbstat y d a) := by
  rintro - w ⟨⟩; simp [decode, decodeRowE, need, zeroD, zeroA, zeroB]
theorem RoundTrip.xstop (y a) : RoundTrip.Statement (.xstop y a) := by
  rintro - w ⟨⟩; simp [decode, decodeRowE, need, zeroD, zeroA, zeroB]
theorem RoundTrip.csrr (y d i) : RoundTrip.Statement (.csrr y d i) := by
  rintro - w ⟨⟩; simp [decode, decodeRowF, need, zeroD, zeroA, zeroB]
theorem RoundTrip.csrw (y a i) : RoundTrip.Statement (.csrw y a i) := by
  rintro - w ⟨⟩; simp [decode, decodeRowF, need, zeroD, zeroA, zeroB]
theorem RoundTrip.vwin (y i) : RoundTrip.Statement (.vwin y i) := by
  rintro - w ⟨⟩; simp [decode, decodeRowF, need, zeroD, zeroA, zeroB]
theorem RoundTrip.trap (y i) : RoundTrip.Statement (.trap y i) := by
  rintro - w ⟨⟩; simp [decode, decodeRowF, need, zeroD, zeroA, zeroB]
theorem RoundTrip.eret (y a b) : RoundTrip.Statement (.eret y a b) := by
  rintro - w ⟨⟩; simp [decode, decodeRowF, need, zeroD, zeroA, zeroB]
theorem RoundTrip.npre (y a) : RoundTrip.Statement (.npre y a) := by
  rintro - w ⟨⟩; simp [decode, decodeRowF, need, zeroD, zeroA, zeroB]
theorem RoundTrip.sfrpop (y d a) : RoundTrip.Statement (.sfrpop y d a) := by
  rintro - w ⟨⟩; simp [decode, decodeRowF, need, zeroD, zeroA, zeroB]
theorem RoundTrip.ctkill (y a) : RoundTrip.Statement (.ctkill y a) := by
  rintro - w ⟨⟩; simp [decode, decodeRowF, need, zeroD, zeroA, zeroB]
theorem RoundTrip.brk (y i) : RoundTrip.Statement (.brk y i) := by
  rintro - w ⟨⟩; simp [decode, decodeRowF, need, zeroD, zeroA, zeroB]
theorem RoundTrip.wdarm (y) : RoundTrip.Statement (.wdarm y) := by
  rintro - w ⟨⟩; simp [decode, decodeRowF, need, zeroD, zeroA, zeroB]
theorem RoundTrip.illegal (word) : RoundTrip.Statement (.illegal word) := by rintro - w ⟨⟩
theorem RoundTrip.fetchFault (cause addr) : RoundTrip.Statement (.fetchFault cause addr) := by rintro - w ⟨⟩
theorem RoundTrip.loadReturn (crew wave k) : RoundTrip.Statement (.loadReturn crew wave k) := by rintro - w ⟨⟩
theorem RoundTrip.sfuResult (core) : RoundTrip.Statement (.sfuResult core) := by rintro - w ⟨⟩
theorem RoundTrip.loadFaultReport (crew wave) : RoundTrip.Statement (.loadFaultReport crew wave) := by rintro - w ⟨⟩
theorem RoundTrip.storeFaultRecord (crew wave k) : RoundTrip.Statement (.storeFaultRecord crew wave k) := by rintro - w ⟨⟩
theorem RoundTrip.handlerEntry (crew wave) : RoundTrip.Statement (.handlerEntry crew wave) := by rintro - w ⟨⟩
theorem RoundTrip.tokenRefill (die units) : RoundTrip.Statement (.tokenRefill die units) := by rintro - w ⟨⟩
theorem RoundTrip.tokenGrant (die) : RoundTrip.Statement (.tokenGrant die) := by rintro - w ⟨⟩
theorem RoundTrip.matrixQueueEntry (crew wave) : RoundTrip.Statement (.matrixQueueEntry crew wave) := by rintro - w ⟨⟩
theorem RoundTrip.matrixOpStart (core) : RoundTrip.Statement (.matrixOpStart core) := by rintro - w ⟨⟩
theorem RoundTrip.mmaComplete (core crew acc) : RoundTrip.Statement (.mmaComplete core crew acc) := by rintro - w ⟨⟩
theorem RoundTrip.mmaSuspend (core crew acc) : RoundTrip.Statement (.mmaSuspend core crew acc) := by rintro - w ⟨⟩
theorem RoundTrip.checkMismatch (core crew acc) : RoundTrip.Statement (.checkMismatch core crew acc) := by rintro - w ⟨⟩
theorem RoundTrip.checkEnd (core crew acc third) : RoundTrip.Statement (.checkEnd core crew acc third) := by rintro - w ⟨⟩
theorem RoundTrip.mzeroComplete (core crew acc) : RoundTrip.Statement (.mzeroComplete core crew acc) := by rintro - w ⟨⟩
theorem RoundTrip.mstComplete (core crew acc) : RoundTrip.Statement (.mstComplete core crew acc) := by rintro - w ⟨⟩
theorem RoundTrip.mldComplete (core crew acc) : RoundTrip.Statement (.mldComplete core crew acc) := by rintro - w ⟨⟩
theorem RoundTrip.mldDiscard (core crew acc) : RoundTrip.Statement (.mldDiscard core crew acc) := by rintro - w ⟨⟩
theorem RoundTrip.copyLineWrite (cmd) : RoundTrip.Statement (.copyLineWrite cmd) := by rintro - w ⟨⟩
theorem RoundTrip.copyComplete (cmd) : RoundTrip.Statement (.copyComplete cmd) := by rintro - w ⟨⟩
theorem RoundTrip.copyFault (cmd) : RoundTrip.Statement (.copyFault cmd) := by rintro - w ⟨⟩
theorem RoundTrip.lmLineExpire (core line) : RoundTrip.Statement (.lmLineExpire core line) := by rintro - w ⟨⟩
theorem RoundTrip.heldLineRenewal (core line) : RoundTrip.Statement (.heldLineRenewal core line) := by rintro - w ⟨⟩
theorem RoundTrip.floorTick : RoundTrip.Statement .floorTick := by rintro - w ⟨⟩
theorem RoundTrip.homeLoad (crew wave k) : RoundTrip.Statement (.homeLoad crew wave k) := by rintro - w ⟨⟩
theorem RoundTrip.homeStore (crew wave k) : RoundTrip.Statement (.homeStore crew wave k) := by rintro - w ⟨⟩
theorem RoundTrip.storePerform (crew wave k) : RoundTrip.Statement (.storePerform crew wave k) := by rintro - w ⟨⟩
theorem RoundTrip.recall (line) : RoundTrip.Statement (.recall line) := by rintro - w ⟨⟩
theorem RoundTrip.backInvalidation (line) : RoundTrip.Statement (.backInvalidation line) := by rintro - w ⟨⟩
theorem RoundTrip.hostAccess (req) : RoundTrip.Statement (.hostAccess req) := by rintro - w ⟨⟩
theorem RoundTrip.pageWalk (die ctx va write) : RoundTrip.Statement (.pageWalk die ctx va write) := by rintro - w ⟨⟩
theorem RoundTrip.viewRelease (spare) : RoundTrip.Statement (.viewRelease spare) := by rintro - w ⟨⟩
theorem RoundTrip.dramScrub (stripe bad) : RoundTrip.Statement (.dramScrub stripe bad) := by rintro - w ⟨⟩
theorem RoundTrip.softError (site) : RoundTrip.Statement (.softError site) := by rintro - w ⟨⟩
theorem RoundTrip.shadowReplay (core) : RoundTrip.Statement (.shadowReplay core) := by rintro - w ⟨⟩
theorem RoundTrip.rgnBitReport (region) : RoundTrip.Statement (.rgnBitReport region) := by rintro - w ⟨⟩
theorem RoundTrip.rgnBindResume (crew wave) : RoundTrip.Statement (.rgnBindResume crew wave) := by rintro - w ⟨⟩
theorem RoundTrip.rgnCommit (region) : RoundTrip.Statement (.rgnCommit region) := by rintro - w ⟨⟩
theorem RoundTrip.rgnDuration (region) : RoundTrip.Statement (.rgnDuration region) := by rintro - w ⟨⟩
theorem RoundTrip.flowLaunch (ctx) : RoundTrip.Statement (.flowLaunch ctx) := by rintro - w ⟨⟩
theorem RoundTrip.demandSample : RoundTrip.Statement .demandSample := by rintro - w ⟨⟩
theorem RoundTrip.crewPlace (die) : RoundTrip.Statement (.crewPlace die) := by rintro - w ⟨⟩
theorem RoundTrip.preemptRequest (crew) : RoundTrip.Statement (.preemptRequest crew) := by rintro - w ⟨⟩
theorem RoundTrip.preemptWithdraw (crew) : RoundTrip.Statement (.preemptWithdraw crew) := by rintro - w ⟨⟩
theorem RoundTrip.pedlDeadline (crew) : RoundTrip.Statement (.pedlDeadline crew) := by rintro - w ⟨⟩
theorem RoundTrip.npreWindowEnd (crew wave) : RoundTrip.Statement (.npreWindowEnd crew wave) := by rintro - w ⟨⟩
theorem RoundTrip.preemptReport (crew) : RoundTrip.Statement (.preemptReport crew) := by rintro - w ⟨⟩
theorem RoundTrip.crewTake (crew) : RoundTrip.Statement (.crewTake crew) := by rintro - w ⟨⟩
theorem RoundTrip.crewRestore (crew) : RoundTrip.Statement (.crewRestore crew) := by rintro - w ⟨⟩
theorem RoundTrip.restoreFinish (crew) : RoundTrip.Statement (.restoreFinish crew) := by rintro - w ⟨⟩
theorem RoundTrip.barto (crew bar) : RoundTrip.Statement (.barto crew bar) := by rintro - w ⟨⟩
theorem RoundTrip.watchdog (ctx) : RoundTrip.Statement (.watchdog ctx) := by rintro - w ⟨⟩
theorem RoundTrip.externalStall (ctx) : RoundTrip.Statement (.externalStall ctx) := by rintro - w ⟨⟩
theorem RoundTrip.infieldTestDue (quad) : RoundTrip.Statement (.infieldTestDue quad) := by rintro - w ⟨⟩
theorem RoundTrip.testPostpone (quad) : RoundTrip.Statement (.testPostpone quad) := by rintro - w ⟨⟩
theorem RoundTrip.collPacket (p) : RoundTrip.Statement (.collPacket p) := by rintro - w ⟨⟩
theorem RoundTrip.collComplete (coll) : RoundTrip.Statement (.collComplete coll) := by rintro - w ⟨⟩
theorem RoundTrip.e2ePacket (p) : RoundTrip.Statement (.e2ePacket p) := by rintro - w ⟨⟩
theorem RoundTrip.e2eTimeout (dst seq) : RoundTrip.Statement (.e2eTimeout dst seq) := by rintro - w ⟨⟩
theorem RoundTrip.keyExchange (peer gen sigOk) : RoundTrip.Statement (.keyExchange peer gen sigOk) := by rintro - w ⟨⟩
theorem RoundTrip.linkReplay (port) : RoundTrip.Statement (.linkReplay port) := by rintro - w ⟨⟩
theorem RoundTrip.linkDown (port) : RoundTrip.Statement (.linkDown port) := by rintro - w ⟨⟩
theorem RoundTrip.berWindow (port wl errs) : RoundTrip.Statement (.berWindow port wl errs) := by rintro - w ⟨⟩
theorem RoundTrip.retrainStart (port wl) : RoundTrip.Statement (.retrainStart port wl) := by rintro - w ⟨⟩
theorem RoundTrip.trainingWindow (port wl errs) : RoundTrip.Statement (.trainingWindow port wl errs) := by rintro - w ⟨⟩
theorem RoundTrip.retrainTimeout (port wl) : RoundTrip.Statement (.retrainTimeout port wl) := by rintro - w ⟨⟩
theorem RoundTrip.retrainStable (port wl) : RoundTrip.Statement (.retrainStable port wl) := by rintro - w ⟨⟩
theorem RoundTrip.heartbeatPeriod : RoundTrip.Statement .heartbeatPeriod := by rintro - w ⟨⟩
theorem RoundTrip.heartbeat (dev gen svc floor slotClock) : RoundTrip.Statement (.heartbeat dev gen svc floor slotClock) := by rintro - w ⟨⟩
theorem RoundTrip.beaconPeriod : RoundTrip.Statement .beaconPeriod := by rintro - w ⟨⟩
theorem RoundTrip.beacon (dev svc suspects) : RoundTrip.Statement (.beacon dev svc suspects) := by rintro - w ⟨⟩
theorem RoundTrip.suspicionReport (reporter target withdraw) : RoundTrip.Statement (.suspicionReport reporter target withdraw) := by rintro - w ⟨⟩
theorem RoundTrip.probeTimeout (target) : RoundTrip.Statement (.probeTimeout target) := by rintro - w ⟨⟩
theorem RoundTrip.generationIssue : RoundTrip.Statement .generationIssue := by rintro - w ⟨⟩
theorem RoundTrip.generationNotice (n) : RoundTrip.Statement (.generationNotice n) := by rintro - w ⟨⟩
theorem RoundTrip.removal (notice) : RoundTrip.Statement (.removal notice) := by rintro - w ⟨⟩
theorem RoundTrip.leaderTakeover : RoundTrip.Statement .leaderTakeover := by rintro - w ⟨⟩
theorem RoundTrip.stripeLand (stripe data poison) : RoundTrip.Statement (.stripeLand stripe data poison) := by rintro - w ⟨⟩
theorem RoundTrip.cloneTimeout : RoundTrip.Statement .cloneTimeout := by rintro - w ⟨⟩
theorem RoundTrip.replaceResend : RoundTrip.Statement .replaceResend := by rintro - w ⟨⟩
theorem RoundTrip.stepmark : RoundTrip.Statement .stepmark := by rintro - w ⟨⟩
theorem RoundTrip.wearTimeout : RoundTrip.Statement .wearTimeout := by rintro - w ⟨⟩
theorem RoundTrip.retireForce (dev) : RoundTrip.Statement (.retireForce dev) := by rintro - w ⟨⟩
theorem RoundTrip.retireHandoff (dev) : RoundTrip.Statement (.retireHandoff dev) := by rintro - w ⟨⟩
theorem RoundTrip.anvilSchedule (comm round) : RoundTrip.Statement (.anvilSchedule comm round) := by rintro - w ⟨⟩
theorem RoundTrip.grant (g) : RoundTrip.Statement (.grant g) := by rintro - w ⟨⟩
theorem RoundTrip.slotBoundary : RoundTrip.Statement .slotBoundary := by rintro - w ⟨⟩
theorem RoundTrip.exchangeData (p) : RoundTrip.Statement (.exchangeData p) := by rintro - w ⟨⟩
theorem RoundTrip.endMarker (p) : RoundTrip.Statement (.endMarker p) := by rintro - w ⟨⟩
theorem RoundTrip.residualReport (p) : RoundTrip.Statement (.residualReport p) := by rintro - w ⟨⟩
theorem RoundTrip.arbiterTakeover : RoundTrip.Statement .arbiterTakeover := by rintro - w ⟨⟩
theorem RoundTrip.deviceReset (img) : RoundTrip.Statement (.deviceReset img) := by rintro - w ⟨⟩
theorem RoundTrip.bootcmdRestart (img) : RoundTrip.Statement (.bootcmdRestart img) := by rintro - w ⟨⟩
theorem RoundTrip.bootcmdRaiseMin (version) : RoundTrip.Statement (.bootcmdRaiseMin version) := by rintro - w ⟨⟩
theorem RoundTrip.bootcmdReset (img) : RoundTrip.Statement (.bootcmdReset img) := by rintro - w ⟨⟩
theorem RoundTrip.attreq (addr) : RoundTrip.Statement (.attreq addr) := by rintro - w ⟨⟩
theorem RoundTrip.attestationDone : RoundTrip.Statement .attestationDone := by rintro - w ⟨⟩
theorem RoundTrip.contextCreate (ctx value) : RoundTrip.Statement (.contextCreate ctx value) := by rintro - w ⟨⟩
theorem RoundTrip.contextTerminate (ctx) : RoundTrip.Statement (.contextTerminate ctx) := by rintro - w ⟨⟩
theorem RoundTrip.invalidate (ctx value) : RoundTrip.Statement (.invalidate ctx value) := by rintro - w ⟨⟩
theorem RoundTrip.invalidateDone (ctx) : RoundTrip.Statement (.invalidateDone ctx) := by rintro - w ⟨⟩
theorem RoundTrip.diagoccFree (ctx mask) : RoundTrip.Statement (.diagoccFree ctx mask) := by rintro - w ⟨⟩
theorem RoundTrip.commConfigure (comm value) : RoundTrip.Statement (.commConfigure comm value) := by rintro - w ⟨⟩
theorem RoundTrip.thermalSample (celsius) : RoundTrip.Statement (.thermalSample celsius) := by rintro - w ⟨⟩
theorem RoundTrip.registerWrite (off size value) : RoundTrip.Statement (.registerWrite off size value) := by rintro - w ⟨⟩
theorem RoundTrip.remoteLoadBlockingPoint (crew wave) : RoundTrip.Statement (.remoteLoadBlockingPoint crew wave) := by rintro - w ⟨⟩
theorem RoundTrip.linkRetrained (port) : RoundTrip.Statement (.linkRetrained port) := by rintro - w ⟨⟩
theorem RoundTrip.probeAnswer (target) : RoundTrip.Statement (.probeAnswer target) := by rintro - w ⟨⟩
theorem RoundTrip.noticeAcknowledgement (dev gen) : RoundTrip.Statement (.noticeAcknowledgement dev gen) := by rintro - w ⟨⟩
theorem RoundTrip.failureDeclaration (dev) : RoundTrip.Statement (.failureDeclaration dev) := by rintro - w ⟨⟩
theorem RoundTrip.infieldTestEnd (quad result) : RoundTrip.Statement (.infieldTestEnd quad result) := by rintro - w ⟨⟩
theorem RoundTrip.marginShortfall (what) : RoundTrip.Statement (.marginShortfall what) := by rintro - w ⟨⟩
theorem RoundTrip.postAcknowledgement (comm round standby) : RoundTrip.Statement (.postAcknowledgement comm round standby) := by rintro - w ⟨⟩
theorem RoundTrip.roundStopNotice (comm round) : RoundTrip.Statement (.roundStopNotice comm round) := by rintro - w ⟨⟩

end Sys2Proof.Laws
end

