-- ==== Sys2Proof/Laws/Registers.lean ====
section
/-! SUPPORT. The laws of the scalar and the vector registers (R29 to R34). -/

namespace Sys2Proof.Laws

open Sys2Proof.Machine

/-- s0 reads as zero (R29). -/
@[simp] theorem Wave.getS_zero (w : Wave) : w.getS 0#7 = 0#64 := rfl

/-- A write to s0 is discarded (R29). -/
@[simp] theorem Wave.setS_zero (w : Wave) (v : Word) : w.setS 0#7 v = w := rfl

/-- A read of the register that was written (R29, R31). -/
theorem Wave.getS_setS_same (w : Wave) (r : Reg) (v : Word) : (w.setS r v).getS r = if r = 0#7 then 0#64 else keepS r v := by
  unfold Wave.setS
  split <;> simp_all [Wave.getS]

/-- A read of any other register. -/
theorem Wave.getS_setS_other (w : Wave) {q r : Reg} (v : Word) (h : q ≠ r) : (w.setS r v).getS q = w.getS q := by
  unfold Wave.setS
  split
  · rfl
  · unfold Wave.getS
    split
    · rfl
    · have hn : r.toNat ≠ q.toNat := fun e => h (BitVec.eq_of_toNat_eq e.symm)
      exact Vector.getElem_set_ne (by omega) (by omega) hn

@[simp] theorem State.getS_zero (s : State) : s.getS 0#7 = 0#64 := rfl

theorem State.getS_setS_same (s : State) (r : Reg) (v : Word) : (s.setS r v).getS r = if r = 0#7 then 0#64 else keepS r v :=
  Wave.getS_setS_same s.wave r v

theorem State.getS_setS_other (s : State) {q r : Reg} (v : Word) (h : q ≠ r) : (s.setS r v).getS q = s.getS q :=
  Wave.getS_setS_other s.wave v h

/-- Outside the mask registers a scalar keeps the whole value. -/
theorem keepS_of_lt {r : Reg} (v : Word) (h : r < 125#7) : keepS r v = v := by
  unfold keepS
  split
  · next g => exact absurd g (BitVec.not_le.2 h)
  · rfl

/-- Reads do not see what the end of a word changes. -/
@[simp] theorem State.getS_advanceTo (s : State) (y : Bool) (t : Word) (r : Reg) : (s.advanceTo y t).getS r = s.getS r := rfl
@[simp] theorem State.getS_advance (s : State) (y : Bool) (r : Reg) : (s.advance y).getS r = s.getS r := rfl
@[simp] theorem State.getS_orFlags (s : State) (f : BitVec 6) (r : Reg) : (s.orFlags f).getS r = s.getS r := rfl
@[simp] theorem State.getS_wait (s : State) (b : Block) (r : Reg) : (s.wait b).getS r = s.getS r := rfl

@[simp] theorem Wave.vreg_setVreg_same (w : Wave) (p : Nat) (v : Lanes) : (w.setVreg p v).vreg p = v := by
  simp [Wave.setVreg, Wave.vreg]

theorem Wave.vreg_setVreg_other (w : Wave) {p q : Nat} (v : Lanes) (h : q ≠ p) : (w.setVreg p v).vreg q = w.vreg q := by
  simp [Wave.setVreg, Wave.vreg, Map.find_put_other _ _ _ h]

@[simp] theorem Wave.vreg_setS (w : Wave) (r : Reg) (v : Word) (p : Nat) : (w.setS r v).vreg p = w.vreg p := by
  simp [Wave.vreg]

@[simp] theorem Wave.vreg_revive (w : Wave) (p q : Nat) : (w.revive p).vreg q = w.vreg q := rfl
@[simp] theorem Wave.vreg_free (w : Wave) (p q : Nat) : (w.free p).vreg q = w.vreg q := rfl

/-- A freed register is freed (R33). -/
theorem mem_insertNat (l : List Nat) (n k : Nat) : k ∈ insertNat l n ↔ k = n ∨ k ∈ l := by
  induction l with
  | nil => simp [insertNat]
  | cons a rest ih =>
    unfold insertNat
    split
    · simp
    · split
      · next h => subst h; simp
      · simp [ih]
        tauto

theorem Wave.isFreed_free (w : Wave) (p q : Nat) : (w.free p).isFreed q = (q == p || w.isFreed q) := by
  rw [Bool.eq_iff_iff]
  simp [Wave.isFreed, Wave.free, mem_insertNat]

theorem Wave.isFreed_revive (w : Wave) (p q : Nat) : (w.revive p).isFreed q = (q != p && w.isFreed q) := by
  rw [Bool.eq_iff_iff]
  simp [Wave.isFreed, Wave.revive, List.mem_filter]
  tauto

/-- Every lane of a register that a vector word writes: the value in an active lane, what stood there in any other (R33, R57). -/
theorem State.writeV_lane (s : State) (p : Nat) (f : Nat → Lane) (i : Nat) (h : i < 96) :
    ((s.writeV p f).wave.vreg p)[i] = if s.wave.active i then f i else (s.oldV p)[i] := by
  simp [State.writeV]

theorem State.writeV_other (s : State) {p q : Nat} (f : Nat → Lane) (h : q ≠ p) :
    (s.writeV p f).wave.vreg q = s.wave.vreg q := by
  simp [State.writeV, Wave.vreg_setVreg_other _ _ h]

/-- Freeing sources leaves every register's contents. -/
theorem State.freeUsed_vreg (s : State) (srcs : List (Reg × Bool)) (d : Option Reg) (q : Nat) :
    (s.freeUsed srcs d).wave.vreg q = s.wave.vreg q := by
  unfold State.freeUsed
  induction srcs generalizing s with
  | nil => rfl
  | cons e rest ih =>
    rw [List.foldl_cons, ih]
    split <;> rfl

/-- Freeing sources changes only the list of freed registers (R33). -/
theorem State.freeUsed_eq (s : State) (srcs : List (Reg × Bool)) (d : Option Reg) :
    ∃ l, s.freeUsed srcs d = { s with wave := { s.wave with freed := l } } := by
  unfold State.freeUsed
  induction srcs generalizing s with
  | nil => exact ⟨s.wave.freed, rfl⟩
  | cons e rest ih =>
    rw [List.foldl_cons]
    obtain ⟨l, hl⟩ := ih (if e.2 && decide (d ≠ some e.1) then { s with wave := s.wave.free (s.wave.phys e.1) } else s)
    refine ⟨l, ?_⟩
    rw [hl]
    split <;> rfl

end Sys2Proof.Laws
end

