-- ==== Sys2Proof/Laws/Words.lean ====
section
/-! SUPPORT. What a word of a wave can do: it runs on a live wave alone (R18); a vector word with an empty mask only goes on (R37), one that
names a register outside the allocation or, under STRICT, a freed source traps (R32, R34); and what taking an exception writes (R354). -/

namespace Sys2Proof.Laws

open Sys2Proof.Machine

theorem State.onWave_next (s t : State) (k : State → State) : s.onWave k = .next t ↔ s.wave.status = .live ∧ k s = t := by
  unfold State.onWave Wave.live
  split <;> simp_all

theorem State.onWave_live (s : State) (k : State → State) (h : s.wave.status = .live) : s.onWave k = .next (k s) := by
  simp [State.onWave, Wave.live, h]

/-- A vector word with an empty mask only goes on (R37). -/
theorem State.vectorWord_empty (s : State) (y : Bool) (srcs : List (Reg × Bool)) (d : Option Reg) (k : State → State)
    (h : s.wave.maskEmpty = true) : s.vectorWord y srcs d k = s.advance y := by
  simp [State.vectorWord, h]

/-- A vector word whose registers lie in the allocation and, under STRICT, whose sources are not freed has its effect. -/
theorem State.vectorWord_ready (s : State) (y : Bool) (srcs : List (Reg × Bool)) (d : Option Reg) (k : State → State)
    (hm : s.wave.maskEmpty = false) (ha : ∀ r ∈ srcs.map (fun e => e.1) ++ d.toList, s.wave.phys r < s.crew.valloc)
    (hf : s.wave.strict = true → ∀ e ∈ srcs, s.wave.isFreed (s.wave.phys e.1) = false) :
    s.vectorWord y srcs d k = k s := by
  have h1 : ((srcs.map (fun e => e.1) ++ d.toList).any (fun r => decide (s.crew.valloc ≤ s.wave.phys r))) = false := by
    rw [List.any_eq_false]
    intro r hr
    have := ha r hr
    simp only [decide_eq_true_eq]
    omega
  have h2 : (s.wave.strict && srcs.any (fun e => s.wave.isFreed (s.wave.phys e.1))) = false := by
    cases hs : s.wave.strict with
    | false => rfl
    | true =>
      rw [Bool.true_and, List.any_eq_false]
      intro e he
      simp [hf hs e he]
  simp only [State.vectorWord, hm, h1, h2, Bool.false_eq_true, if_false]

/-- A vector word that names a register outside the allocation raises OPERAND (R32). -/
theorem State.vectorWord_outside (s : State) (y : Bool) (srcs : List (Reg × Bool)) (d : Option Reg) (k : State → State)
    (hm : s.wave.maskEmpty = false) (r : Reg) (hr : r ∈ srcs.map (fun e => e.1) ++ d.toList) (ha : s.crew.valloc ≤ s.wave.phys r) :
    s.vectorWord y srcs d k = s.trap .operand 0#64 := by
  have h1 : ((srcs.map (fun e => e.1) ++ d.toList).any (fun r => decide (s.crew.valloc ≤ s.wave.phys r))) = true :=
    List.any_eq_true.2 ⟨r, hr, by simpa using ha⟩
  simp only [State.vectorWord, hm, h1, Bool.false_eq_true, if_false, if_true]

/-- Under STRICT a word that reads a freed register raises OPERAND (R34). -/
theorem State.vectorWord_strict (s : State) (y : Bool) (srcs : List (Reg × Bool)) (d : Option Reg) (k : State → State)
    (hm : s.wave.maskEmpty = false) (hs : s.wave.strict = true) (e : Reg × Bool) (he : e ∈ srcs)
    (hf : s.wave.isFreed (s.wave.phys e.1) = true) : s.vectorWord y srcs d k = s.trap .operand 0#64 := by
  have h2 : (s.wave.strict && srcs.any (fun e => s.wave.isFreed (s.wave.phys e.1))) = true := by
    rw [hs, Bool.true_and]
    exact List.any_eq_true.2 ⟨e, he, hf⟩
  simp only [State.vectorWord, hm, h2, Bool.false_eq_true, if_false, if_true]
  split <;> rfl

/-! ## Taking an exception -/

/-- The wave after steps 2 to 4 of handler entry with a handler (R354). -/
theorem State.enter_wave (s : State) (st : Stop) (h : s.wave.tvec ≠ 0#64) :
    (s.enter st).wave.pc = s.wave.tvec ∧ (s.enter st).wave.inh = true ∧ (s.enter st).wave.tpc = st.tpc ∧
    (s.enter st).wave.taddr = st.taddr ∧ (s.enter st).wave.tcause = BitVec.ofNat 64 (causeCode st.cause) ∧
    (s.enter st).wave.tdeadline = st.deadline ∧ (s.enter st).wave.tvec = s.wave.tvec ∧ (s.enter st).wave.stop = none := by
  simp [State.enter, h]

/-- The entry registers (R351, R354, R355): s112 and s113 hold the cause's words, s114 and s115 the wake record, s116 to s119 zero. -/
theorem State.enter_regs (s : State) (st : Stop) (h : s.wave.tvec ≠ 0#64) :
    (s.enter st).getS 112#7 = st.r112 ∧ (s.enter st).getS 113#7 = s.wave.entryArg st ∧ (s.enter st).getS 114#7 = s.wave.wake.1 ∧
    (s.enter st).getS 115#7 = s.wave.wake.2 ∧ (s.enter st).getS 116#7 = 0#64 ∧ (s.enter st).getS 117#7 = 0#64 ∧
    (s.enter st).getS 118#7 = 0#64 ∧ (s.enter st).getS 119#7 = 0#64 := by
  have key (r : Reg) : (s.enter st).getS r = ((((((((s.wave.setS 112#7 st.r112).setS 113#7 (s.wave.entryArg st)).setS 114#7
      s.wave.wake.1).setS 115#7 s.wave.wake.2).setS 116#7 0#64).setS 117#7 0#64).setS 118#7 0#64).setS 119#7 0#64).getS r := by
    simp only [State.enter, h, if_false]
    rfl
  refine ⟨?_, ?_, ?_, ?_, ?_, ?_, ?_, ?_⟩ <;> rw [key] <;>
    simp [Wave.getS_setS_same, Wave.getS_setS_other, keepS]

/-- Every other register stands as before (R354). -/
theorem State.enter_others (s : State) (st : Stop) (h : s.wave.tvec ≠ 0#64) (r : Reg) (hr : r < 112#7 ∨ 119#7 < r) :
    (s.enter st).getS r = s.getS r := by
  have key : (s.enter st).getS r = ((((((((s.wave.setS 112#7 st.r112).setS 113#7 (s.wave.entryArg st)).setS 114#7
      s.wave.wake.1).setS 115#7 s.wave.wake.2).setS 116#7 0#64).setS 117#7 0#64).setS 118#7 0#64).setS 119#7 0#64).getS r := by
    simp only [State.enter, h, if_false]
    rfl
  have hne : ∀ q : Reg, 112#7 ≤ q → q ≤ 119#7 → r ≠ q := by
    intro q h1 h2 e
    subst e
    rcases hr with h3 | h3 <;> simp only [BitVec.lt_def, BitVec.le_def] at * <;> omega
  rw [key]
  simp only [Wave.getS_setS_other _ _ (hne 112#7 (by decide) (by decide)), Wave.getS_setS_other _ _ (hne 113#7 (by decide) (by decide)),
    Wave.getS_setS_other _ _ (hne 114#7 (by decide) (by decide)), Wave.getS_setS_other _ _ (hne 115#7 (by decide) (by decide)),
    Wave.getS_setS_other _ _ (hne 116#7 (by decide) (by decide)), Wave.getS_setS_other _ _ (hne 117#7 (by decide) (by decide)),
    Wave.getS_setS_other _ _ (hne 118#7 (by decide) (by decide)), Wave.getS_setS_other _ _ (hne 119#7 (by decide) (by decide))]
  rfl

/-- Without a handler the crew ends on the cause (R354). -/
theorem State.enter_none (s : State) (st : Stop) (h : s.wave.tvec = 0#64) : s.enter st = s.killCrew (some st.cause) 0#64 := by
  simp [State.enter, h]

/-- A cause in a handler ends the crew (R347). -/
theorem State.raiseStop_inh (s : State) (st : Stop) (h : s.wave.inh = true) : s.raiseStop st = s.killCrew (some st.cause) 0#64 := by
  simp [State.raiseStop, h]

/-! ## What comes over the fabric, and records of a crew that drains (R360, R407) -/

@[simp] theorem State.fromFabric_ready (s : State) (f : State → State) (h : s.ready = true) : s.fromFabric f = .next (f s) := by
  simp [State.fromFabric, h]

@[simp] theorem State.fromFabric_not_ready (s : State) (f : State → State) (h : s.ready = false) : s.fromFabric f = .next s := by
  simp [State.fromFabric, h]

@[simp] theorem State.record_discards (s : State) (h : Nat) (r : SfRec) (hd : s.discardsOf h = true) : s.record h r = s := by
  simp [State.record, hd]

end Sys2Proof.Laws
end

