-- ==== Sys2Proof/Tests/Slice0.lean ====
section
/-! SUPPORT. Tests of the model: ill-formed terms that `Instr.wf` refuses, words written out from the encoding tables of the spec, single steps
with the results that the rules of the spec give by hand, and for each statement of Obligations.lean states and operands that meet the
hypotheses of its clauses. -/

namespace Sys2Proof.Tests

open Sys2Proof Sys2Proof.Machine Sys2Proof.Stmt

set_option Elab.async false

/-! ## Ill-formed terms (R12, R15, R61, R203, R228, R289, R294, R329, R374, R412) -/

theorem test_wf_lm_size : (Instr.vlldc false 1#7 1#7 3#2 0#7).wf = false ∧ (Instr.vlstc false 1#7 1#7 3#2 0#7).wf = false := by decide

theorem test_wf_wave : ∀ i ∈ [Instr.loadReturn 1 16 0, .loadFaultReport 1 16, .storeFaultRecord 1 16 0, .handlerEntry 1 16, .matrixQueueEntry 1 16,
    .homeLoad 1 16 0, .homeStore 1 16 0, .storePerform 1 16 0, .rgnBindResume 1 16, .npreWindowEnd 1 16, .remoteLoadBlockingPoint 1 16],
    i.wf = false := by decide

theorem test_wf_core : ∀ i ∈ [Instr.sfuResult 256, .matrixOpStart 256, .shadowReplay 256, .mmaComplete 256 1 0, .mmaSuspend 256 1 0,
    .checkMismatch 256 1 0, .checkEnd 256 1 0 none, .mzeroComplete 256 1 0, .mstComplete 256 1 0, .mldComplete 256 1 0, .mldDiscard 256 1 0,
    .lmLineExpire 256 0, .heldLineRenewal 256 0], i.wf = false := by decide

theorem test_wf_accumulator : ∀ i ∈ [Instr.mmaComplete 0 1 16, .mmaSuspend 0 1 16, .checkMismatch 0 1 16, .checkEnd 0 1 16 none,
    .mzeroComplete 0 1 16, .mstComplete 0 1 16, .mldComplete 0 1 16, .mldDiscard 0 1 16], i.wf = false := by decide

theorem test_wf_line : (Instr.lmLineExpire 0 32768).wf = false ∧ (Instr.heldLineRenewal 0 32768).wf = false := by decide

theorem test_wf_die_context : ∀ i ∈ [Instr.tokenRefill 8 0, .tokenGrant 8, .crewPlace 8, .pageWalk 8 0 0 false, .pageWalk 0 64 0 false,
    .flowLaunch 64, .watchdog 64, .externalStall 64, .contextCreate 64 0#64, .contextTerminate 64, .invalidate 64 0#64, .invalidateDone 64,
    .diagoccFree 64 0#64], i.wf = false := by decide

theorem test_wf_device : ∀ i ∈ [Instr.viewRelease 65536, .keyExchange 65536 0#16 true, .heartbeat 65536 0#16 0 0 0, .beacon 65536 0 [],
    .suspicionReport 65536 0 false, .suspicionReport 0 65536 false, .probeTimeout 65536, .retireForce 65536, .retireHandoff 65536,
    .probeAnswer 65536, .noticeAcknowledgement 65536 0#16, .failureDeclaration 65536], i.wf = false := by decide

theorem test_wf_region_barrier_quad : ∀ i ∈ [Instr.rgnBitReport 1024, .rgnCommit 1024, .rgnDuration 1024, .barto 1 8, .infieldTestDue 64,
    .infieldTestEnd 64 .pass, .testPostpone 64], i.wf = false := by decide

theorem test_wf_port : ∀ i ∈ [Instr.linkReplay (.electrical 31), .linkDown (.global 48), .linkRetrained (.electrical 31), .berWindow 48 0 0,
    .berWindow 0 8 0, .retrainStart 48 0, .retrainStart 0 8, .trainingWindow 48 0 0, .trainingWindow 0 8 0, .retrainTimeout 48 0,
    .retrainTimeout 0 8, .retrainStable 48 0, .retrainStable 0 8], i.wf = false := by decide

theorem test_wf_communicator_size : ∀ i ∈ [Instr.anvilSchedule 64 0, .commConfigure 64 0#64, .postAcknowledgement 64 0 false, .roundStopNotice 64 0,
    .registerWrite 0 2 0#64], i.wf = false := by decide

/-! ## Words written out from the encoding tables (R43 to R62, R77) -/

theorem test_decode_nop_to_andi :
    decode 0b1_00000001_0000000_0000000_0000000_00#32 = .ok (.nop true) ∧
    decode 0b1_00000010_1010101_0101010_0010011_00#32 = .ok (.add true 85#7 42#7 19#7) ∧
    decode 0b1_00000011_1010101_0101010_0010011_00#32 = .ok (.sub true 85#7 42#7 19#7) ∧
    decode 0b1_00000100_1010101_0101010_0101100_11#32 = .ok (.addi true 85#7 42#7 179#9) ∧
    decode 0b1_00000101_1010101_0101010_0010011_00#32 = .ok (.mul true 85#7 42#7 19#7) ∧
    decode 0b1_00000110_1010101_0101010_0010011_00#32 = .ok (.mulh true 85#7 42#7 19#7) ∧
    decode 0b1_00000111_1010101_0101010_0010011_00#32 = .ok (.mulhn true 85#7 42#7 19#7) ∧
    decode 0b1_00001000_1010101_0101010_0010011_00#32 = .ok (.div true 85#7 42#7 19#7) ∧
    decode 0b1_00001001_1010101_0101010_0010011_00#32 = .ok (.divn true 85#7 42#7 19#7) ∧
    decode 0b1_00001010_1010101_0101010_0010011_00#32 = .ok (.rem true 85#7 42#7 19#7) ∧
    decode 0b1_00001011_1010101_0101010_0010011_00#32 = .ok (.remn true 85#7 42#7 19#7) ∧
    decode 0b1_00001100_1010101_0101010_0010011_00#32 = .ok (.and true 85#7 42#7 19#7) ∧
    decode 0b1_00001101_1010101_0101010_0010011_00#32 = .ok (.or true 85#7 42#7 19#7) ∧
    decode 0b1_00001110_1010101_0101010_0010011_00#32 = .ok (.xor true 85#7 42#7 19#7) ∧
    decode 0b1_00001111_1010101_0101010_0010011_00#32 = .ok (.andn true 85#7 42#7 19#7) ∧
    decode 0b1_00010000_1010101_0101010_0101100_11#32 = .ok (.andi true 85#7 42#7 179#9) := by decide +kernel

theorem test_decode_ori_to_clz :
    decode 0b1_00010001_1010101_0101010_0101100_11#32 = .ok (.ori true 85#7 42#7 179#9) ∧
    decode 0b1_00010010_1010101_0101010_0101100_11#32 = .ok (.xori true 85#7 42#7 179#9) ∧
    decode 0b1_00010011_1010101_0101010_0010011_00#32 = .ok (.shl true 85#7 42#7 19#7) ∧
    decode 0b1_00010100_1010101_0101010_0010011_00#32 = .ok (.shr true 85#7 42#7 19#7) ∧
    decode 0b1_00010101_1010101_0101010_0010011_00#32 = .ok (.sha true 85#7 42#7 19#7) ∧
    decode 0b1_00010110_1010101_0101010_0001100_11#32 = .ok (.shli true 85#7 42#7 51#6) ∧
    decode 0b1_00010111_1010101_0101010_0001100_11#32 = .ok (.shri true 85#7 42#7 51#6) ∧
    decode 0b1_00011000_1010101_0101010_0001100_11#32 = .ok (.shai true 85#7 42#7 51#6) ∧
    decode 0b1_00011001_1010101_0101010_0010011_00#32 = .ok (.min true 85#7 42#7 19#7) ∧
    decode 0b1_00011010_1010101_0101010_0010011_00#32 = .ok (.max true 85#7 42#7 19#7) ∧
    decode 0b1_00011011_1010101_0101010_0010011_00#32 = .ok (.minn true 85#7 42#7 19#7) ∧
    decode 0b1_00011100_1010101_0101010_0010011_00#32 = .ok (.maxn true 85#7 42#7 19#7) ∧
    decode 0b1_00011101_1010101_0101010_0010011_00#32 = .ok (.seq true 85#7 42#7 19#7) ∧
    decode 0b1_00011110_1010101_0101010_0010011_00#32 = .ok (.slt true 85#7 42#7 19#7) ∧
    decode 0b1_00011111_1010101_0101010_0010011_00#32 = .ok (.sltn true 85#7 42#7 19#7) ∧
    decode 0b1_00100000_1010101_0101010_0000000_00#32 = .ok (.clz true 85#7 42#7) := by decide +kernel

theorem test_decode_ctz_to_set16 :
    decode 0b1_00100000_1010101_0101010_0000001_00#32 = .ok (.ctz true 85#7 42#7) ∧
    decode 0b1_00100000_1010101_0101010_0000010_00#32 = .ok (.popc true 85#7 42#7) ∧
    decode 0b1_00100000_1010101_0101010_0000011_00#32 = .ok (.brev true 85#7 42#7) ∧
    decode 0b1_00100000_1010101_0101010_0000100_00#32 = .ok (.bswap true 85#7 42#7) ∧
    decode 0b1_00100000_1010101_0101010_0000101_00#32 = .ok (.sext8 true 85#7 42#7) ∧
    decode 0b1_00100000_1010101_0101010_0000110_00#32 = .ok (.sext16 true 85#7 42#7) ∧
    decode 0b1_00100000_1010101_0101010_0000111_00#32 = .ok (.sext32 true 85#7 42#7) ∧
    decode 0b1_00100000_1010101_0101010_0001000_00#32 = .ok (.zext8 true 85#7 42#7) ∧
    decode 0b1_00100000_1010101_0101010_0001001_00#32 = .ok (.zext16 true 85#7 42#7) ∧
    decode 0b1_00100000_1010101_0101010_0001010_00#32 = .ok (.zext32 true 85#7 42#7) ∧
    decode 0b1_00100000_1010101_0101010_0001011_00#32 = .ok (.abs true 85#7 42#7) ∧
    decode 0b1_00100000_1010101_0101010_0001100_00#32 = .ok (.neg true 85#7 42#7) ∧
    decode 0b1_00100000_1010101_0101010_0001101_00#32 = .ok (.not true 85#7 42#7) ∧
    decode 0b1_00100001_1010101_0101010_0010011_00#32 = .ok (.sel true 85#7 42#7 19#7) ∧
    decode 0b1_00100010_1010101_0110100_1101011_00#32 = .ok (.set0 true 85#7 27052#16) ∧
    decode 0b1_00100011_1010101_0110100_1101011_00#32 = .ok (.set16 true 85#7 27052#16) := by decide +kernel

theorem test_decode_set32_to_cvtF64I64 :
    decode 0b1_00100100_1010101_0110100_1101011_00#32 = .ok (.set32 true 85#7 27052#16) ∧
    decode 0b1_00100101_1010101_0110100_1101011_00#32 = .ok (.set48 true 85#7 27052#16) ∧
    decode 0b1_00100110_1010101_0110100_1101011_00#32 = .ok (.adpc true 85#7 27052#16) ∧
    decode 0b1_00100111_1010101_0101010_0101100_11#32 = .ok (.slti true 85#7 42#7 179#9) ∧
    decode 0b1_00101000_1010101_0101010_0010011_00#32 = .ok (.fadd true 85#7 42#7 19#7) ∧
    decode 0b1_00101001_1010101_0101010_0010011_00#32 = .ok (.fsub true 85#7 42#7 19#7) ∧
    decode 0b1_00101010_1010101_0101010_0010011_00#32 = .ok (.fmul true 85#7 42#7 19#7) ∧
    decode 0b1_00101011_1010101_0101010_0010011_00#32 = .ok (.ffma true 85#7 42#7 19#7) ∧
    decode 0b1_00101100_1010101_0101010_0010011_00#32 = .ok (.fdiv true 85#7 42#7 19#7) ∧
    decode 0b1_00101101_1010101_0101010_0010011_00#32 = .ok (.fmin true 85#7 42#7 19#7) ∧
    decode 0b1_00101110_1010101_0101010_0010011_00#32 = .ok (.fmax true 85#7 42#7 19#7) ∧
    decode 0b1_00101111_1010101_0101010_0000000_00#32 = .ok (.fsqrt true 85#7 42#7) ∧
    decode 0b1_00101111_1010101_0101010_0000001_00#32 = .ok (.fabs true 85#7 42#7) ∧
    decode 0b1_00101111_1010101_0101010_0000010_00#32 = .ok (.fneg true 85#7 42#7) ∧
    decode 0b1_00101111_1010101_0101010_0000011_00#32 = .ok (.fclass true 85#7 42#7) ∧
    decode 0b1_00101111_1010101_0101010_0000100_00#32 = .ok (.cvtF64I64 true 85#7 42#7) := by decide +kernel

theorem test_decode_cvtF64N64_to_bany :
    decode 0b1_00101111_1010101_0101010_0000101_00#32 = .ok (.cvtF64N64 true 85#7 42#7) ∧
    decode 0b1_00101111_1010101_0101010_0000110_00#32 = .ok (.cvtI64F64 true 85#7 42#7) ∧
    decode 0b1_00101111_1010101_0101010_0000111_00#32 = .ok (.cvtN64F64 true 85#7 42#7) ∧
    decode 0b1_00101111_1010101_0101010_0001000_00#32 = .ok (.cvtF32F64 true 85#7 42#7) ∧
    decode 0b1_00101111_1010101_0101010_0001001_00#32 = .ok (.cvtF64F32 true 85#7 42#7) ∧
    decode 0b1_00110000_1010101_0101010_0010011_00#32 = .ok (.feq true 85#7 42#7 19#7) ∧
    decode 0b1_00110001_1010101_0101010_0010011_00#32 = .ok (.flt true 85#7 42#7 19#7) ∧
    decode 0b1_00110010_1010101_0101010_0010011_00#32 = .ok (.fle true 85#7 42#7 19#7) ∧
    decode 0b1_00110011_1010101_0110100_1101011_00#32 = .ok (.br true 85#7 27052#16) ∧
    decode 0b1_00110100_1010101_0110100_1101011_00#32 = .ok (.brz true 85#7 27052#16) ∧
    decode 0b1_00110101_0001010_1101001_1010110_01#32 = .ok (.jmp true 709465#23) ∧
    decode 0b1_00110110_0001010_1101001_1010110_01#32 = .ok (.call true 709465#23) ∧
    decode 0b1_00110111_0000000_0101010_0000000_00#32 = .ok (.jr true 42#7) ∧
    decode 0b1_00111000_1010101_0110100_1101011_00#32 = .ok (.loop true 85#7 27052#16) ∧
    decode 0b1_00111001_0000000_0000000_0000000_00#32 = .ok (.exit true) ∧
    decode 0b1_00111010_1010101_0110100_1101011_00#32 = .ok (.bany true 85#7 27052#16) := by decide +kernel

theorem test_decode_bnone_to_vmin :
    decode 0b1_00111011_1010101_0110100_1101011_00#32 = .ok (.bnone true 85#7 27052#16) ∧
    decode 0b1_00111100_1010101_0101010_0101100_11#32 = .ok (.sltni true 85#7 42#7 179#9) ∧
    decode 0b1_00111101_1010101_0101010_0101100_11#32 = .ok (.seqi true 85#7 42#7 179#9) ∧
    decode 0b1_01000000_1010101_0101010_0010011_11#32 = .ok (.vadd true 85#7 42#7 19#7 true true) ∧
    decode 0b1_01000001_1010101_0101010_0010011_11#32 = .ok (.vsub true 85#7 42#7 19#7 true true) ∧
    decode 0b1_01000010_1010101_0101010_0010011_11#32 = .ok (.vmul true 85#7 42#7 19#7 true true) ∧
    decode 0b1_01000011_1010101_0101010_0010011_11#32 = .ok (.vmulh true 85#7 42#7 19#7 true true) ∧
    decode 0b1_01000100_1010101_0101010_0010011_11#32 = .ok (.vmulhn true 85#7 42#7 19#7 true true) ∧
    decode 0b1_01000101_1010101_0101010_0010011_11#32 = .ok (.vmad true 85#7 42#7 19#7 true true) ∧
    decode 0b1_01000110_1010101_0101010_0010011_11#32 = .ok (.vand true 85#7 42#7 19#7 true true) ∧
    decode 0b1_01000111_1010101_0101010_0010011_11#32 = .ok (.vor true 85#7 42#7 19#7 true true) ∧
    decode 0b1_01001000_1010101_0101010_0010011_11#32 = .ok (.vxor true 85#7 42#7 19#7 true true) ∧
    decode 0b1_01001001_1010101_0101010_0010011_11#32 = .ok (.vshl true 85#7 42#7 19#7 true true) ∧
    decode 0b1_01001010_1010101_0101010_0010011_11#32 = .ok (.vshr true 85#7 42#7 19#7 true true) ∧
    decode 0b1_01001011_1010101_0101010_0010011_11#32 = .ok (.vsha true 85#7 42#7 19#7 true true) ∧
    decode 0b1_01001100_1010101_0101010_0010011_11#32 = .ok (.vmin true 85#7 42#7 19#7 true true) := by decide +kernel

theorem test_decode_vmax_to_vsne :
    decode 0b1_01001101_1010101_0101010_0010011_11#32 = .ok (.vmax true 85#7 42#7 19#7 true true) ∧
    decode 0b1_01001110_1010101_0101010_0010011_11#32 = .ok (.vminn true 85#7 42#7 19#7 true true) ∧
    decode 0b1_01001111_1010101_0101010_0010011_11#32 = .ok (.vmaxn true 85#7 42#7 19#7 true true) ∧
    decode 0b1_01010000_1010101_0101010_0101100_11#32 = .ok (.vaddi true 85#7 42#7 179#9) ∧
    decode 0b1_01010001_1010101_0101010_0000000_10#32 = .ok (.vabs true 85#7 42#7 true) ∧
    decode 0b1_01010001_1010101_0101010_0000001_10#32 = .ok (.vneg true 85#7 42#7 true) ∧
    decode 0b1_01010001_1010101_0101010_0000010_10#32 = .ok (.vnot true 85#7 42#7 true) ∧
    decode 0b1_01010001_1010101_0101010_0000011_10#32 = .ok (.vclz true 85#7 42#7 true) ∧
    decode 0b1_01010001_1010101_0101010_0000100_10#32 = .ok (.vpopc true 85#7 42#7 true) ∧
    decode 0b1_01010001_1010101_0101010_0000101_10#32 = .ok (.vbrev true 85#7 42#7 true) ∧
    decode 0b1_01010001_1010101_0101010_0000110_10#32 = .ok (.vmov true 85#7 42#7 true) ∧
    decode 0b1_01010001_1010101_0101010_0000111_10#32 = .ok (.vsext16 true 85#7 42#7 true) ∧
    decode 0b1_01010010_1010101_0101010_0000000_00#32 = .ok (.vbcast true 85#7 42#7) ∧
    decode 0b1_01010011_1010101_0000000_0000000_00#32 = .ok (.vlaneid true 85#7) ∧
    decode 0b1_01010100_1010101_0101010_0010011_11#32 = .ok (.vseq true 85#7 42#7 19#7 true true) ∧
    decode 0b1_01010101_1010101_0101010_0010011_11#32 = .ok (.vsne true 85#7 42#7 19#7 true true) := by decide +kernel

theorem test_decode_vslt_to_vredOr :
    decode 0b1_01010110_1010101_0101010_0010011_11#32 = .ok (.vslt true 85#7 42#7 19#7 true true) ∧
    decode 0b1_01010111_1010101_0101010_0010011_11#32 = .ok (.vsle true 85#7 42#7 19#7 true true) ∧
    decode 0b1_01011000_1010101_0101010_0010011_11#32 = .ok (.vsltn true 85#7 42#7 19#7 true true) ∧
    decode 0b1_01011001_1010101_0101010_0010011_11#32 = .ok (.vslen true 85#7 42#7 19#7 true true) ∧
    decode 0b1_01011010_1010101_0101010_0010011_11#32 = .ok (.vperm true 85#7 42#7 19#7 true true) ∧
    decode 0b1_01011011_1010101_0101010_0001100_11#32 = .ok (.vxshf true 85#7 42#7 51#7) ∧
    decode 0b1_01011011_1010101_0101010_0101100_11#32 = .ok (.vrotu true 85#7 42#7 51#7) ∧
    decode 0b1_01011011_1010101_0101010_1001100_11#32 = .ok (.vrotd true 85#7 42#7 51#7) ∧
    decode 0b1_01011011_1010101_0101010_1101100_11#32 = .ok (.vblane true 85#7 42#7 51#7) ∧
    decode 0b1_01011100_1010101_0101010_0000000_10#32 = .ok (.vredAdd true 85#7 42#7 true) ∧
    decode 0b1_01011100_1010101_0101010_0000001_10#32 = .ok (.vredMin true 85#7 42#7 true) ∧
    decode 0b1_01011100_1010101_0101010_0000010_10#32 = .ok (.vredMax true 85#7 42#7 true) ∧
    decode 0b1_01011100_1010101_0101010_0000011_10#32 = .ok (.vredMinn true 85#7 42#7 true) ∧
    decode 0b1_01011100_1010101_0101010_0000100_10#32 = .ok (.vredMaxn true 85#7 42#7 true) ∧
    decode 0b1_01011100_1010101_0101010_0000101_10#32 = .ok (.vredAnd true 85#7 42#7 true) ∧
    decode 0b1_01011100_1010101_0101010_0000110_10#32 = .ok (.vredOr true 85#7 42#7 true) := by decide +kernel

theorem test_decode_vredXor_to_vcvtBfF32Hi :
    decode 0b1_01011100_1010101_0101010_0000111_10#32 = .ok (.vredXor true 85#7 42#7 true) ∧
    decode 0b1_01011100_1010101_0101010_0001000_10#32 = .ok (.vredFadd true 85#7 42#7 true) ∧
    decode 0b1_01011100_1010101_0101010_0001001_10#32 = .ok (.vredFmin true 85#7 42#7 true) ∧
    decode 0b1_01011100_1010101_0101010_0001010_10#32 = .ok (.vredFmax true 85#7 42#7 true) ∧
    decode 0b1_01011101_1010101_0101010_0010011_10#32 = .ok (.vext true 85#7 42#7 19#7 true) ∧
    decode 0b1_01011110_1010101_0101010_0010011_00#32 = .ok (.vins true 85#7 42#7 19#7) ∧
    decode 0b1_01011111_1010101_0101010_0000000_10#32 = .ok (.vcvtF32I32 true 85#7 42#7 true) ∧
    decode 0b1_01011111_1010101_0101010_0000001_10#32 = .ok (.vcvtF32N32 true 85#7 42#7 true) ∧
    decode 0b1_01011111_1010101_0101010_0000010_10#32 = .ok (.vcvtI32F32 true 85#7 42#7 true) ∧
    decode 0b1_01011111_1010101_0101010_0000011_10#32 = .ok (.vcvtN32F32 true 85#7 42#7 true) ∧
    decode 0b1_01011111_1010101_0101010_0000100_10#32 = .ok (.vcvtHF32Lo true 85#7 42#7 true) ∧
    decode 0b1_01011111_1010101_0101010_0000101_10#32 = .ok (.vcvtHF32Hi true 85#7 42#7 true) ∧
    decode 0b1_01011111_1010101_0101010_0000110_10#32 = .ok (.vcvtF32HLo true 85#7 42#7 true) ∧
    decode 0b1_01011111_1010101_0101010_0000111_10#32 = .ok (.vcvtF32HHi true 85#7 42#7 true) ∧
    decode 0b1_01011111_1010101_0101010_0001000_10#32 = .ok (.vcvtBfF32Lo true 85#7 42#7 true) ∧
    decode 0b1_01011111_1010101_0101010_0001001_10#32 = .ok (.vcvtBfF32Hi true 85#7 42#7 true) := by decide +kernel

theorem test_decode_vcvtF32BfLo_to_vfaddH2 :
    decode 0b1_01011111_1010101_0101010_0001010_10#32 = .ok (.vcvtF32BfLo true 85#7 42#7 true) ∧
    decode 0b1_01011111_1010101_0101010_0001011_10#32 = .ok (.vcvtF32BfHi true 85#7 42#7 true) ∧
    decode 0b1_01011111_1010101_0101010_0001100_10#32 = .ok (.vcvtI16I32Lo true 85#7 42#7 true) ∧
    decode 0b1_01011111_1010101_0101010_0001101_10#32 = .ok (.vcvtI16I32Hi true 85#7 42#7 true) ∧
    decode 0b1_01011111_1010101_0101010_0001110_10#32 = .ok (.vcvtI32I16Lo true 85#7 42#7 true) ∧
    decode 0b1_01011111_1010101_0101010_0001111_10#32 = .ok (.vcvtI32I16Hi true 85#7 42#7 true) ∧
    decode 0b1_01100000_1010101_0101010_0010011_11#32 = .ok (.vfadd true 85#7 42#7 19#7 true true) ∧
    decode 0b1_01100001_1010101_0101010_0010011_11#32 = .ok (.vfsub true 85#7 42#7 19#7 true true) ∧
    decode 0b1_01100010_1010101_0101010_0010011_11#32 = .ok (.vfmul true 85#7 42#7 19#7 true true) ∧
    decode 0b1_01100011_1010101_0101010_0010011_11#32 = .ok (.vfma true 85#7 42#7 19#7 true true) ∧
    decode 0b1_01100100_1010101_0101010_0010011_11#32 = .ok (.vfmin true 85#7 42#7 19#7 true true) ∧
    decode 0b1_01100101_1010101_0101010_0010011_11#32 = .ok (.vfmax true 85#7 42#7 19#7 true true) ∧
    decode 0b1_01100110_1010101_0101010_0010011_11#32 = .ok (.vfeq true 85#7 42#7 19#7 true true) ∧
    decode 0b1_01100111_1010101_0101010_0010011_11#32 = .ok (.vflt true 85#7 42#7 19#7 true true) ∧
    decode 0b1_01101000_1010101_0101010_0010011_11#32 = .ok (.vfle true 85#7 42#7 19#7 true true) ∧
    decode 0b1_01101001_1010101_0101010_0010011_11#32 = .ok (.vfaddH2 true 85#7 42#7 19#7 true true) := by decide +kernel

theorem test_decode_vfmulH2_to_vexp2 :
    decode 0b1_01101010_1010101_0101010_0010011_11#32 = .ok (.vfmulH2 true 85#7 42#7 19#7 true true) ∧
    decode 0b1_01101011_1010101_0101010_0010011_11#32 = .ok (.vfmaH2 true 85#7 42#7 19#7 true true) ∧
    decode 0b1_01101100_1010101_0101010_0010011_11#32 = .ok (.vfaddBf2 true 85#7 42#7 19#7 true true) ∧
    decode 0b1_01101101_1010101_0101010_0010011_11#32 = .ok (.vfmulBf2 true 85#7 42#7 19#7 true true) ∧
    decode 0b1_01101110_1010101_0101010_0010011_11#32 = .ok (.vfmaBf2 true 85#7 42#7 19#7 true true) ∧
    decode 0b1_01101111_1010101_0101010_0000000_10#32 = .ok (.vfabs true 85#7 42#7 true) ∧
    decode 0b1_01101111_1010101_0101010_0000001_10#32 = .ok (.vfneg true 85#7 42#7 true) ∧
    decode 0b1_01101111_1010101_0101010_0000010_10#32 = .ok (.vfclass true 85#7 42#7 true) ∧
    decode 0b1_01101111_1010101_0101010_0000011_10#32 = .ok (.vfrint true 85#7 42#7 true) ∧
    decode 0b1_01101111_1010101_0101010_0000100_10#32 = .ok (.vffloor true 85#7 42#7 true) ∧
    decode 0b1_01101111_1010101_0101010_0000101_10#32 = .ok (.vfceil true 85#7 42#7 true) ∧
    decode 0b1_01101111_1010101_0101010_0000110_10#32 = .ok (.vftrunc true 85#7 42#7 true) ∧
    decode 0b1_01110000_1010101_0101010_0000000_10#32 = .ok (.vrcp true 85#7 42#7 true) ∧
    decode 0b1_01110000_1010101_0101010_0000001_10#32 = .ok (.vrsq true 85#7 42#7 true) ∧
    decode 0b1_01110000_1010101_0101010_0000010_10#32 = .ok (.vsqrt true 85#7 42#7 true) ∧
    decode 0b1_01110000_1010101_0101010_0000011_10#32 = .ok (.vexp2 true 85#7 42#7 true) := by decide +kernel

theorem test_decode_vlog2_to_vhmin :
    decode 0b1_01110000_1010101_0101010_0000100_10#32 = .ok (.vlog2 true 85#7 42#7 true) ∧
    decode 0b1_01110000_1010101_0101010_0000101_10#32 = .ok (.vexp true 85#7 42#7 true) ∧
    decode 0b1_01110000_1010101_0101010_0000110_10#32 = .ok (.vlog true 85#7 42#7 true) ∧
    decode 0b1_01110000_1010101_0101010_0000111_10#32 = .ok (.vsin true 85#7 42#7 true) ∧
    decode 0b1_01110000_1010101_0101010_0001000_10#32 = .ok (.vcos true 85#7 42#7 true) ∧
    decode 0b1_01110000_1010101_0101010_0001001_10#32 = .ok (.vtanh true 85#7 42#7 true) ∧
    decode 0b1_01110000_1010101_0101010_0001010_10#32 = .ok (.vsigm true 85#7 42#7 true) ∧
    decode 0b1_01110000_1010101_0101010_0001011_10#32 = .ok (.verf true 85#7 42#7 true) ∧
    decode 0b1_01110001_1010101_0101010_0010011_11#32 = .ok (.vfdiv true 85#7 42#7 19#7 true true) ∧
    decode 0b1_01110010_1010101_0101010_0010011_11#32 = .ok (.vfdotH2 true 85#7 42#7 19#7 true true) ∧
    decode 0b1_01110011_1010101_0101010_0010011_11#32 = .ok (.vfdotBf2 true 85#7 42#7 19#7 true true) ∧
    decode 0b1_01110100_1010101_0101010_0011010_00#32 = .ok (.vcbx true 85#7 42#7 3#3 1#2) ∧
    decode 0b1_01110101_1010101_0101010_0010011_11#32 = .ok (.vhadd true 85#7 42#7 19#7 true true) ∧
    decode 0b1_01110110_1010101_0101010_0010011_11#32 = .ok (.vhsub true 85#7 42#7 19#7 true true) ∧
    decode 0b1_01110111_1010101_0101010_0010011_11#32 = .ok (.vhmul true 85#7 42#7 19#7 true true) ∧
    decode 0b1_01111000_1010101_0101010_0010011_11#32 = .ok (.vhmin true 85#7 42#7 19#7 true true) := by decide +kernel

theorem test_decode_vhmax_to_vndotNf0 :
    decode 0b1_01111001_1010101_0101010_0010011_11#32 = .ok (.vhmax true 85#7 42#7 19#7 true true) ∧
    decode 0b1_01111010_1010101_0101010_0010011_11#32 = .ok (.vhminn true 85#7 42#7 19#7 true true) ∧
    decode 0b1_01111011_1010101_0101010_0010011_11#32 = .ok (.vhmaxn true 85#7 42#7 19#7 true true) ∧
    decode 0b1_01111100_1010101_0101010_0010011_11#32 = .ok (.vbadd true 85#7 42#7 19#7 true true) ∧
    decode 0b1_01111101_1010101_0101010_0010011_11#32 = .ok (.vbsub true 85#7 42#7 19#7 true true) ∧
    decode 0b1_01111110_1010101_0101010_0010011_11#32 = .ok (.vbmin true 85#7 42#7 19#7 true true) ∧
    decode 0b1_01111111_1010101_0101010_0010011_11#32 = .ok (.vbmax true 85#7 42#7 19#7 true true) ∧
    decode 0b1_10000000_1010101_0101010_0010011_11#32 = .ok (.vnaddNf0 true 85#7 42#7 19#7 true true) ∧
    decode 0b1_10000001_1010101_0101010_0010011_11#32 = .ok (.vnaddNf1 true 85#7 42#7 19#7 true true) ∧
    decode 0b1_10000010_1010101_0101010_0010011_11#32 = .ok (.vnaddNf2 true 85#7 42#7 19#7 true true) ∧
    decode 0b1_10000011_1010101_0101010_0010011_11#32 = .ok (.vnaddNf3 true 85#7 42#7 19#7 true true) ∧
    decode 0b1_10000100_1010101_0101010_0010011_11#32 = .ok (.vnmulNf0 true 85#7 42#7 19#7 true true) ∧
    decode 0b1_10000101_1010101_0101010_0010011_11#32 = .ok (.vnmulNf1 true 85#7 42#7 19#7 true true) ∧
    decode 0b1_10000110_1010101_0101010_0010011_11#32 = .ok (.vnmulNf2 true 85#7 42#7 19#7 true true) ∧
    decode 0b1_10000111_1010101_0101010_0010011_11#32 = .ok (.vnmulNf3 true 85#7 42#7 19#7 true true) ∧
    decode 0b1_10001000_1010101_0101010_0010011_11#32 = .ok (.vndotNf0 true 85#7 42#7 19#7 true true) := by decide +kernel

theorem test_decode_vndotNf1_to_vst :
    decode 0b1_10001001_1010101_0101010_0010011_11#32 = .ok (.vndotNf1 true 85#7 42#7 19#7 true true) ∧
    decode 0b1_10001010_1010101_0101010_0010011_11#32 = .ok (.vndotNf2 true 85#7 42#7 19#7 true true) ∧
    decode 0b1_10001011_1010101_0101010_0010011_11#32 = .ok (.vndotNf3 true 85#7 42#7 19#7 true true) ∧
    decode 0b1_10001100_1010101_0101010_0000100_01#32 = .ok (.vncvtNf0 true 85#7 42#7 true 1#3) ∧
    decode 0b1_10001101_1010101_0101010_0000100_01#32 = .ok (.vncvtNf1 true 85#7 42#7 true 1#3) ∧
    decode 0b1_10001110_1010101_0101010_0000100_01#32 = .ok (.vncvtNf2 true 85#7 42#7 true 1#3) ∧
    decode 0b1_10001111_1010101_0101010_0000100_01#32 = .ok (.vncvtNf3 true 85#7 42#7 true 1#3) ∧
    decode 0b1_10010000_1010101_0101010_0101100_11#32 = .ok (.ldw true 85#7 42#7 179#9) ∧
    decode 0b1_10010001_1010101_0101010_0101100_11#32 = .ok (.ldwn true 85#7 42#7 179#9) ∧
    decode 0b1_10010010_1010101_0101010_0101100_11#32 = .ok (.ldd true 85#7 42#7 179#9) ∧
    decode 0b1_10010011_1010101_0101010_0101100_11#32 = .ok (.ldbn true 85#7 42#7 179#9) ∧
    decode 0b1_10010100_1010101_0101010_0101100_11#32 = .ok (.stw true 85#7 42#7 179#9) ∧
    decode 0b1_10010101_1010101_0101010_0101100_11#32 = .ok (.std true 85#7 42#7 179#9) ∧
    decode 0b1_10010110_1010101_0101010_0101100_11#32 = .ok (.stb true 85#7 42#7 179#9) ∧
    decode 0b1_10010111_1010101_0101010_0010011_01#32 = .ok (.vld true 85#7 42#7 19#7 true) ∧
    decode 0b1_10011000_1010101_0101010_0010011_01#32 = .ok (.vst true 85#7 42#7 19#7 true) := by decide +kernel

theorem test_decode_vldc_to_acas :
    decode 0b1_10011001_1010101_0101010_1010110_01#32 = .ok (.vldc true 85#7 42#7 true 89#8) ∧
    decode 0b1_10011010_1010101_0101010_1010110_01#32 = .ok (.vstc true 85#7 42#7 true 89#8) ∧
    decode 0b1_10011011_1010101_0101010_0010011_01#32 = .ok (.vlld true 85#7 42#7 19#7 true) ∧
    decode 0b1_10011100_1010101_0101010_0010011_01#32 = .ok (.vlst true 85#7 42#7 19#7 true) ∧
    decode 0b1_10011101_1010101_0101010_1010110_01#32 = .ok (.vlldc true 85#7 42#7 2#2 89#7) ∧
    decode 0b1_10011110_1010101_0101010_1010110_01#32 = .ok (.vlstc true 85#7 42#7 2#2 89#7) ∧
    decode 0b1_10100000_1010101_0101010_0010011_00#32 = .ok (.aadd true 85#7 42#7 19#7) ∧
    decode 0b1_10100001_1010101_0101010_0010011_00#32 = .ok (.amin true 85#7 42#7 19#7) ∧
    decode 0b1_10100010_1010101_0101010_0010011_00#32 = .ok (.amax true 85#7 42#7 19#7) ∧
    decode 0b1_10100011_1010101_0101010_0010011_00#32 = .ok (.aminn true 85#7 42#7 19#7) ∧
    decode 0b1_10100100_1010101_0101010_0010011_00#32 = .ok (.amaxn true 85#7 42#7 19#7) ∧
    decode 0b1_10100101_1010101_0101010_0010011_00#32 = .ok (.aand true 85#7 42#7 19#7) ∧
    decode 0b1_10100110_1010101_0101010_0010011_00#32 = .ok (.aor true 85#7 42#7 19#7) ∧
    decode 0b1_10100111_1010101_0101010_0010011_00#32 = .ok (.axor true 85#7 42#7 19#7) ∧
    decode 0b1_10101000_1010101_0101010_0010011_00#32 = .ok (.axchg true 85#7 42#7 19#7) ∧
    decode 0b1_10101001_1010101_0101010_0010011_00#32 = .ok (.acas true 85#7 42#7 19#7) := by decide +kernel

theorem test_decode_afadd_to_lmallocT :
    decode 0b1_10101010_1010101_0101010_0010011_00#32 = .ok (.afadd true 85#7 42#7 19#7) ∧
    decode 0b1_10101011_1010101_0101010_0010011_01#32 = .ok (.vaadd true 85#7 42#7 19#7 true) ∧
    decode 0b1_10101100_0000000_0000000_0000000_00#32 = .ok (.fenceAll true) ∧
    decode 0b1_10101100_0000000_0000000_0000001_00#32 = .ok (.fenceSt true) ∧
    decode 0b1_10101100_0000000_0000000_0000010_00#32 = .ok (.fenceEngine true) ∧
    decode 0b1_10101100_0000000_0000000_0000011_00#32 = .ok (.fenceLm true) ∧
    decode 0b1_10101100_0000000_0000000_0000100_00#32 = .ok (.fenceHost true) ∧
    decode 0b1_10101100_0000000_0000000_0000101_00#32 = .ok (.fenceGen true) ∧
    decode 0b1_10101101_0000000_0000000_0000000_00#32 = .ok (.drainst true) ∧
    decode 0b1_10101110_0000000_0101010_0000000_00#32 = .ok (.prefL2 true 42#7) ∧
    decode 0b1_10101110_0000000_0101010_0000001_00#32 = .ok (.prefL1 true 42#7) ∧
    decode 0b1_10101110_0000000_0101010_0000010_00#32 = .ok (.prefEvict true 42#7) ∧
    decode 0b1_10101110_0000000_0101010_0000011_00#32 = .ok (.prefPin true 42#7) ∧
    decode 0b1_10101110_0000000_0101010_0000100_00#32 = .ok (.prefUnpin true 42#7) ∧
    decode 0b1_10101111_1010101_0101010_0010011_01#32 = .ok (.vafadd true 85#7 42#7 19#7 true) ∧
    decode 0b1_10110000_1010101_0101010_0000000_00#32 = .ok (.lmallocT true 85#7 42#7) := by decide +kernel

theorem test_decode_lmallocH_to_xcbexp :
    decode 0b1_10110000_1010101_0101010_0000000_01#32 = .ok (.lmallocH true 85#7 42#7) ∧
    decode 0b1_10110001_0000000_0101010_0000000_00#32 = .ok (.lmfree true 42#7) ∧
    decode 0b1_10110010_0000000_0101010_0010011_00#32 = .ok (.lmrenew true 42#7 19#7) ∧
    decode 0b1_10110011_1010101_0101010_0000000_00#32 = .ok (.lmage true 85#7 42#7) ∧
    decode 0b1_10110100_1010101_0101010_0000000_00#32 = .ok (.fefillEmpty true 85#7 42#7) ∧
    decode 0b1_10110100_1010101_0101010_0000001_00#32 = .ok (.fefillFull true 85#7 42#7) ∧
    decode 0b1_10110101_1010101_0101010_0010011_00#32 = .ok (.xcopy true 85#7 42#7 19#7) ∧
    decode 0b1_10110110_1010101_0101010_0010011_00#32 = .ok (.xpack true 85#7 42#7 19#7) ∧
    decode 0b1_10110111_1010101_0101010_0010011_00#32 = .ok (.xgath true 85#7 42#7 19#7) ∧
    decode 0b1_10111000_1010101_0101010_0010011_00#32 = .ok (.xscat true 85#7 42#7 19#7) ∧
    decode 0b1_10111001_1010101_0101010_0010011_00#32 = .ok (.xback true 85#7 42#7 19#7) ∧
    decode 0b1_10111010_1010101_0101010_0000000_00#32 = .ok (.xwait true 85#7 42#7) ∧
    decode 0b1_10111011_1010101_0101010_0000000_00#32 = .ok (.xstat true 85#7 42#7) ∧
    decode 0b1_10111100_1010101_0101010_0010011_00#32 = .ok (.xunpack true 85#7 42#7 19#7) ∧
    decode 0b1_10111101_1010101_0101010_0010011_00#32 = .ok (.xfill true 85#7 42#7 19#7) ∧
    decode 0b1_10111110_1010101_0101010_0010011_00#32 = .ok (.xcbexp true 85#7 42#7 19#7) := by decide +kernel

theorem test_decode_mma_to_rgstat :
    decode 0b1_11000000_1010101_0101010_0010011_00#32 = .ok (.mma true 85#7 42#7 19#7) ∧
    decode 0b1_11000001_1010101_0000000_0000000_00#32 = .ok (.mzero true 85#7) ∧
    decode 0b1_11000010_1010101_0101010_0010011_00#32 = .ok (.mst true 85#7 42#7 19#7) ∧
    decode 0b1_11000011_1010101_0101010_0010011_00#32 = .ok (.mld true 85#7 42#7 19#7) ∧
    decode 0b1_11000100_1010101_0101010_0000000_00#32 = .ok (.mver true 85#7 42#7) ∧
    decode 0b1_11000101_1010101_0000000_0000000_00#32 = .ok (.mwait true 85#7) ∧
    decode 0b1_11000110_0000000_0000000_0000000_00#32 = .ok (.mchkForce true) ∧
    decode 0b1_11000110_1010101_0000000_0000001_00#32 = .ok (.mchkStatus true 85#7) ∧
    decode 0b1_11000110_0000000_0101010_0000010_00#32 = .ok (.mchkPeriod true 42#7) ∧
    decode 0b1_11001000_1010101_0101010_0000000_00#32 = .ok (.cbload true 85#7 42#7) ∧
    decode 0b1_11001001_1010101_0101010_0000000_00#32 = .ok (.nfset true 85#7 42#7) ∧
    decode 0b1_11010000_1010101_0101010_0000000_00#32 = .ok (.rgbeg true 85#7 42#7) ∧
    decode 0b1_11010001_1010101_0101010_0010011_00#32 = .ok (.rgbind true 85#7 42#7 19#7) ∧
    decode 0b1_11010010_1010101_0000000_0000000_00#32 = .ok (.rgend true 85#7) ∧
    decode 0b1_11010011_0000000_0000000_0000000_00#32 = .ok (.rgabort true) ∧
    decode 0b1_11010100_1010101_0000000_0000000_00#32 = .ok (.rgstat true 85#7) := by decide +kernel

theorem test_decode_rgwait_to_cwait :
    decode 0b1_11010101_1010101_0000000_0000000_00#32 = .ok (.rgwait true 85#7) ∧
    decode 0b1_11011000_1010101_0101010_0010011_00#32 = .ok (.qpush true 85#7 42#7 19#7) ∧
    decode 0b1_11011001_1010101_0101010_0010011_00#32 = .ok (.qpushw true 85#7 42#7 19#7) ∧
    decode 0b1_11011010_1010101_0101010_0010011_00#32 = .ok (.qpop true 85#7 42#7 19#7) ∧
    decode 0b1_11011011_1010101_0101010_0000000_00#32 = .ok (.qfree true 85#7 42#7) ∧
    decode 0b1_11011100_0000000_0101010_0000000_00#32 = .ok (.qclose true 42#7) ∧
    decode 0b1_11011101_1010101_0101010_0000000_00#32 = .ok (.flaunch true 85#7 42#7) ∧
    decode 0b1_11011110_1010101_0101010_0000000_00#32 = .ok (.qpeek true 85#7 42#7) ∧
    decode 0b1_11100000_0000000_0000000_0000000_01#32 = .ok (.bar true 1#3) ∧
    decode 0b1_11100001_1010101_0000000_0000001_00#32 = .ok (.barv true 85#7 4#3) ∧
    decode 0b1_11100010_0000000_0101010_0000001_00#32 = .ok (.barw true 42#7 4#3) ∧
    decode 0b1_11100011_0000000_0000000_0000000_00#32 = .ok (.cleave true) ∧
    decode 0b1_11100100_1010101_0101010_0000000_00#32 = .ok (.xbar true 85#7 42#7) ∧
    decode 0b1_11100101_1010101_0101010_0000000_00#32 = .ok (.xbarv true 85#7 42#7) ∧
    decode 0b1_11101000_0000000_0101010_0000000_00#32 = .ok (.coll true 42#7) ∧
    decode 0b1_11101001_1010101_0101010_0000000_00#32 = .ok (.cwait true 85#7 42#7) := by decide +kernel

theorem test_decode_dpost_to_wdarm :
    decode 0b1_11101010_1010101_0101010_0000000_00#32 = .ok (.dpost true 85#7 42#7) ∧
    decode 0b1_11101011_1010101_0101010_0010011_00#32 = .ok (.xchg true 85#7 42#7 19#7) ∧
    decode 0b1_11101100_1010101_0101010_0010011_00#32 = .ok (.gfence true 85#7 42#7 19#7) ∧
    decode 0b1_11101101_1010101_0101010_0010011_00#32 = .ok (.gread true 85#7 42#7 19#7) ∧
    decode 0b1_11101110_1010101_0101010_0000000_00#32 = .ok (.hbstat true 85#7 42#7) ∧
    decode 0b1_11101111_0000000_0101010_0000000_00#32 = .ok (.xstop true 42#7) ∧
    decode 0b1_11110000_1010101_0000000_1101011_00#32 = .ok (.csrr true 85#7 428#9) ∧
    decode 0b1_11110001_0000000_0101010_1101011_00#32 = .ok (.csrw true 42#7 428#9) ∧
    decode 0b1_11110010_0000000_0000000_1010110_01#32 = .ok (.vwin true 345#9) ∧
    decode 0b1_11110011_0000000_0000000_1010110_01#32 = .ok (.trap true 345#9) ∧
    decode 0b1_11110100_0000000_0101010_0010011_00#32 = .ok (.eret true 42#7 19#7) ∧
    decode 0b1_11110101_0000000_0101010_0000000_00#32 = .ok (.npre true 42#7) ∧
    decode 0b1_11110110_1010101_0101010_0000000_00#32 = .ok (.sfrpop true 85#7 42#7) ∧
    decode 0b1_11110111_0000000_0101010_0000000_00#32 = .ok (.ctkill true 42#7) ∧
    decode 0b1_11111000_0000000_1101001_1010110_01#32 = .ok (.brk true 54105#16) ∧
    decode 0b1_11111001_0000000_0000000_0000000_00#32 = .ok (.wdarm true) := by decide +kernel

/-! ## States for the tests -/

/-- A wave in focus on core 0 with a page of code, as `State.withFetchWord` places it. -/
def base : State := State.reset.withFetchWord 32 0

/-- `base` with scalars set. -/
def baseS (rs : List (Reg × Word)) : State := rs.foldl (fun s e => s.setS e.1 e.2) base

/-- `base` with its wave changed. -/
def baseW (f : Wave → Wave) : State := { base with wave := f base.wave }

/-- The page of code replaced by a word, and the wave set up with scalars. -/
def baseI (w : Nat) (rs : List (Reg × Word)) : State := rs.foldl (fun s e => s.setS e.1 e.2) (State.reset.withFetchWord 32 w)

/-- `VecReady` as a computation. -/
def vecOk (s : State) (srcs : List (Reg × Bool)) (d : Option Reg) : Bool :=
  decide (s.wave.status = .live) && !s.wave.maskEmpty && srcs.all (fun e => decide (s.wave.phys e.1 < s.crew.valloc)) &&
    d.all (fun r => decide (s.wave.phys r < s.crew.valloc)) && (!s.wave.strict || srcs.all (fun e => !s.wave.isFreed (s.wave.phys e.1)))

theorem vecReady_of (s : State) (srcs : List (Reg × Bool)) (d : Option Reg) (h : vecOk s srcs d = true) : VecReady s srcs d := by
  cases d <;> simp_all [vecOk, VecReady, Live, List.all_eq_true] <;> grind

/-- A result that is a given value, or a given error, as a computation; and the value of a result. -/
def isOk {α β : Type} [DecidableEq β] (e : Except α β) (x : β) : Bool := match e with | .ok y => decide (y = x) | .error _ => false
def isError {α β : Type} [DecidableEq α] (e : Except α β) (x : α) : Bool := match e with | .ok _ => false | .error y => decide (y = x)
def valOf {α β : Type} (d : β) (e : Except α β) : β := match e with | .ok y => y | .error _ => d

/-- Whether a result is a value. -/
def okB {α β : Type} (e : Except α β) : Bool := match e with | .ok _ => true | .error _ => false

theorem okB_eq {α β : Type} (d : β) (e : Except α β) (h : okB e = true) : e = .ok (valOf d e) := by
  cases e <;> simp_all [okB, valOf]

theorem isOk_eq {α β : Type} [DecidableEq β] (e : Except α β) (x : β) (h : isOk e x = true) : e = .ok x := by
  cases e <;> simp_all [isOk]

theorem isError_eq {α β : Type} [DecidableEq α] (e : Except α β) (x : α) (h : isError e x = true) : e = .error x := by
  cases e <;> simp_all [isError]

/-- The next state of an outcome, and whether there is one. -/
def nextOf (o : Host.Outcome State Fault Refusal) : State := match o with | .next t => t | _ => base
def nextB (o : Host.Outcome State Fault Refusal) : Bool := match o with | .next _ => true | _ => false

theorem nextB_eq (o : Host.Outcome State Fault Refusal) (h : nextB o = true) : o = .next (nextOf o) := by
  cases o <;> simp_all [nextB, nextOf]

/-! ## States and operands that meet the hypotheses of the statements -/

theorem test_witness_tables :
    (∃ e, e ∈ binaryTable) ∧ (∃ e, e ∈ immediateTable) ∧ (∃ e, e ∈ shiftTable) ∧ (∃ e, e ∈ unaryTable) ∧ (∃ e, e ∈ lane3Table) ∧
    (∃ e, e ∈ halfTable) ∧ (∃ e, e ∈ byteTable) ∧ (∃ e, e ∈ lane2Table) ∧ (∃ e, e ∈ compareTable) ∧ (∃ e, e ∈ reduceTable) ∧
    (∃ e, e ∈ convertTable) ∧ (∃ e, e ∈ narrowTable) ∧ (∃ e, e ∈ float3Table) ∧ (∃ e, e ∈ float2Table) ∧ (∃ e, e ∈ vfloat3Table) ∧
    (∃ e, e ∈ vfloatAccTable) ∧ (∃ e, e ∈ vfloat2Table) ∧ (∃ e, e ∈ specialTable) ∧ (∃ e, e ∈ narrow3Table) ∧ (∃ e, e ∈ narrowDotTable) ∧
    (∃ e, e ∈ narrowConvertTable) ∧ (∃ e, e ∈ loadTable) ∧ (∃ e, e ∈ storeTable) ∧ (∃ e, e ∈ atomicTable) ∧ (∃ e, e ∈ fenceTable) ∧
    (∃ e, e ∈ hintTable) := by
  refine ⟨?_, ?_, ?_, ?_, ?_, ?_, ?_, ?_, ?_, ?_, ?_, ?_, ?_, ?_, ?_, ?_, ?_, ?_, ?_, ?_, ?_, ?_, ?_, ?_, ?_, ?_⟩ <;>
    exact ⟨_, List.mem_cons_self⟩

/-- ScalarBinaryWords, ScalarImmediateUnaryConstantWords, ScalarFloatWords: a live wave. -/
theorem test_witness_scalar_words : Live base ∧ Live (baseS [(1#7, 0#64), (127#7, 5#64)]) := by unfold Live; decide +kernel

/-- A wave whose STRICT bit is set and whose vector register 5 is freed. -/
def strict5 : State := baseW (fun w => { w.free 5 with wctl := 8#4 })

/-- VectorIntegerWords, VectorCompareWords, LaneMoveWords, ReductionWords, VectorConversionWords, VectorFloatWords, SpecialFunctionWords: vector
words with their registers inside the allocation of 64, at both ends of it, with and without STRICT. -/
theorem test_witness_vector_words :
    VecReady base [(0#7, true), (63#7, false), (1#7, false)] (some 63#7) ∧ VecReady base [(63#7, true)] (some 0#7) ∧ VecReady base [] (some 5#7) ∧
    VecReady base [(63#7, true), (0#7, true)] none ∧ VecReady strict5 [(4#7, true), (6#7, true)] (some 5#7) ∧ strict5.wave.strict = true := by
  refine ⟨vecReady_of _ _ _ ?_, vecReady_of _ _ _ ?_, vecReady_of _ _ _ ?_, vecReady_of _ _ _ ?_, vecReady_of _ _ _ ?_, ?_⟩ <;> decide +kernel

/-- VectorCompareWords: D = s125 is the last triple and s126 the first that is refused. -/
theorem test_witness_compare : Live base ∧ base.wave.maskEmpty = false ∧ (125#7 ≤ 125#7) ∧ (125#7 < 126#7) := by unfold Live; decide +kernel

/-- LaneMoveWords: lane 95 is the last one, 96 the first that is refused. -/
theorem test_witness_lane_number :
    VecReady (baseS [(2#7, 95#64)]) [(1#7, true)] none ∧ VecReady (baseS [(2#7, 95#64)]) [] (some 1#7) ∧
    ((baseS [(2#7, 95#64)]).getS 2#7).toNat ≤ 95 ∧ Live (baseS [(2#7, 96#64)]) ∧ (baseS [(2#7, 96#64)]).wave.maskEmpty = false ∧
    95 < ((baseS [(2#7, 96#64)]).getS 2#7).toNat := by
  refine ⟨vecReady_of _ _ _ ?_, vecReady_of _ _ _ ?_, ?_⟩ <;> (try unfold Live) <;> decide +kernel

/-- VectorWordsAreGuarded: an empty mask; a destination, a source outside the allocation; a freed source under STRICT. -/
theorem test_witness_vector_guards :
    (∃ w, encode (.vadd true 1#7 2#7 3#7 false false) = some w ∧ vectorClass w = true) ∧
    (let s := baseS [(125#7, 0#64), (126#7, 0#64), (127#7, 0#64)]; Live s ∧ s.wave.maskEmpty = true) ∧
    base.crew.valloc ≤ base.wave.phys 64#7 ∧ base.wave.maskEmpty = false ∧ strict5.wave.maskEmpty = false ∧ Live strict5 ∧
    (strict5.wave.strict = true ∧ strict5.wave.isFreed (strict5.wave.phys 5#7) = true) := by
  refine ⟨⟨_, rfl, ?_⟩, ?_⟩ <;> (try unfold Live) <;> decide +kernel

/-- SpecialFunctionWords: a word of the wave in focus waits at the head of core 0's unit. -/
theorem test_witness_sfu_result :
    let s := base.setCore 0 { base.coreAt 0 with sfu := [⟨base.crew.handle, base.wave.idx, 3, [(0, 1#32)], 0#6⟩] }
    (s.coreAt 0).sfu = ⟨s.crew.handle, s.wave.idx, 3, [(0, 1#32)], 0#6⟩ :: [] ∧ Live s ∧ s.wave.stop = none ∧ s.wave.halting = none := by
  unfold Live; decide +kernel

/-- NarrowFormatWords: E4M3 in nf0, and a descriptor that names no format in nf1; element 3 is the last of a lane of four. -/
def narrow : State := baseW (fun w => { w with nf := (w.nf.set 0 0x810734#32).set 1 0xFFFFFFFF#32 })

theorem test_witness_narrow :
    (∃ p, nfFmt (narrow.wave.nf.getD 0 0#32) = some p ∧ (3#3).toNat < perLane p.2) ∧ nfFmt (narrow.wave.nf.getD 1 0#32) = none ∧
    VecReady narrow [(1#7, true), (2#7, true), (3#7, false)] (some 3#7) ∧ VecReady narrow [(1#7, false)] (some 3#7) := by
  refine ⟨⟨(⟨4, 3, 7, 1⟩, 8), ?_⟩, ?_⟩
  · decide +kernel
  · refine ⟨?_, vecReady_of _ _ _ ?_, vecReady_of _ _ _ ?_⟩ <;> decide +kernel

/-- ControlRegisterWords: each clause's operands at their bounds: RM 4 and 5, a window that just fits and one that does not. -/
theorem test_witness_control_registers :
    Live base ∧ (base.csr 0x050).isSome = true ∧ (base.csr 0x013).isSome = true ∧ base.sfuPending = false ∧ (0x012#9).toNat ∈ controlIds ∧
    (0x00A#9).toNat ∉ controlIds ∧ ((baseS [(1#7, 4#64)]).getS 1#7 |>.setWidth 3 : BitVec 3).toNat ≤ 4 ∧
    4 < ((baseS [(1#7, 5#64)]).getS 1#7 |>.setWidth 3 : BitVec 3).toNat ∧
    ((32#9).toNat % 32 = 0 ∧ (32#9).toNat + 32 ≤ base.crew.valloc) ∧ base.crew.valloc < (64#9).toNat + 32 ∧ (33#9).toNat % 32 ≠ 0 := by
  unfold Live; decide +kernel

/-- BranchWords: an aligned and an unaligned target of `jr`; the last triple. -/
theorem test_witness_branches :
    Live (baseS [(1#7, 0x20000#64), (2#7, 0x20002#64)]) ∧ ((baseS [(1#7, 0x20000#64)]).getS 1#7).toNat % 4 = 0 ∧
    ((baseS [(2#7, 0x20002#64)]).getS 2#7).toNat % 4 ≠ 0 ∧ (125#7 ≤ 125#7) ∧ (125#7 < 126#7) := by unfold Live; decide +kernel

/-- ScalarMemoryWords: aligned and unaligned addresses, codebooks 3 and 4. -/
theorem test_witness_scalar_memory :
    let s := baseS [(1#7, 0x20020#64), (2#7, 0x20021#64)]
    Live s ∧ (∀ e ∈ [1, 4, 8], (s.getS 1#7 + (511#9).signExtend 64 * BitVec.ofNat 64 e).toNat % e = 0) ∧
    (s.getS 2#7 + (511#9).signExtend 64 * BitVec.ofNat 64 4).toNat % 4 ≠ 0 ∧ (s.getS 1#7).toNat % 32 = 0 ∧ (s.getS 2#7).toNat % 32 ≠ 0 ∧
    (s.getS 1#7).toNat % 8 = 0 ∧ (s.getS 2#7).toNat % 8 ≠ 0 ∧ (3#7 ≤ 3#7) ∧ (3#7 < 4#7) := by unfold Live; decide +kernel

/-- A vector register of offsets 0, 4, 8, …, and one whose last lane is no multiple of 4. -/
def offsets : State := baseW (fun w => (w.setS 1#7 0x20000#64).setVreg 2 (Vector.ofFn (fun i => BitVec.ofNat 32 (4 * i.val))))
def oddOffset : State := baseW (fun w => (w.setS 1#7 0x20000#64).setVreg 2 (Vector.ofFn (fun i => if i.val = 95 then 2#32 else 0#32)))

/-- VectorMemoryWords: lane offsets that are multiples of 4, and a lane that is not. -/
theorem test_witness_vector_memory :
    VecReady offsets [(2#7, true), (3#7, false)] (some 3#7) ∧ VecReady offsets [(2#7, true), (3#7, false)] none ∧
    VecReady oddOffset [(2#7, true)] (some 3#7) ∧ (offsets.getS 1#7).toNat % 4 = 0 ∧
    (∀ l ∈ gathers offsets 1#7 2#7 (fun _ => 0#64), l.va.toNat % 4 = 0) ∧
    (gathers oddOffset 1#7 2#7 (fun _ => 0#64)).find? (fun l => l.va.toNat % 4 ≠ 0) = some (request 95 0x20002#64 0#64 2#32) := by
  refine ⟨vecReady_of _ _ _ ?_, vecReady_of _ _ _ ?_, vecReady_of _ _ _ ?_, ?_⟩ <;> decide +kernel

/-- An ordinary store of the wave that still has to perform. -/
def storing : State := baseW (fun w => { w with accs := [⟨1, 0x10000#64, 1, .st 0 0#32 8, [request 0 0x20000#64 7#64 0#32], false, false, .queued, 0⟩], nextId := 2 })

/-- FenceAndHintWords: a fence with nothing to wait for and one with a store, a line that translates, one that does not, room for a pin. -/
theorem test_witness_fences_hints :
    (Live base ∧ base.faultFound = false) ∧ (∀ e ∈ fenceTable, e.2.1 base = false) ∧ Live storing ∧ storing.wave.accs.any Access.left = true ∧
    (baseS [(1#7, 0x10000#64)]).hintLine ((baseS [(1#7, 0x10000#64)]).getS 1#7) ≠ none ∧ base.hintLine 0x50000#64 = none ∧
    (∃ x, base.hintLine 0x10000#64 = some x ∧ base.pinRoom (lineOf x.fpa) = true) := by
  refine ⟨?_, ?_, ?_, ?_, ?_, ?_, ?_⟩
  case refine_2 => simp only [fenceTable, List.forall_mem_cons, List.not_mem_nil, false_implies, implies_true, and_true]; decide +kernel
  case refine_7 => exact ⟨(base.hintLine 0x10000#64).get (by decide +kernel), by simp, by decide +kernel⟩
  all_goals (try unfold Live); decide +kernel

/-- A second live wave of the crew, wave 1. -/
def sibling (w : Wave) : Wave := { w with idx := 1, slot := 1 }

/-- `base` with a sibling wave. -/
def pair : State := { base with crew := { base.crew with size := 2, others := [sibling base.wave] } }

/-- `base` with a page of data at virtual address 0x20000, HBM offset 0x200000, with R, W and MS set. -/
def withData (s : State) : State := s.writeMem 0x120010 8 (placedEntry 0x200000 0x107)

/-- Where an address translates to; a place of no meaning where it does not. -/
def xlOf (s : State) (va : Word) (k : Want) : Xl := match s.xlateVa va k false with | .ok x => x | .error _ => ⟨0, 0#64, 0⟩

/-- An accumulator word with its descriptors: accumulator 0, version 0, K = 32; A of 16 planes at LM 0, B of bytes at 0x8800. -/
def mmaRegs : List (Reg × Word) := [(1#7, 0#64), (2#7, 0x400000000000#64), (3#7, 0x0001400000008000#64)]

/-- AccumulatorWordsEnterTheQueue: `mzero`, `mld` and `mst` of accumulator 0 with a tile at LM 0. -/
theorem test_witness_tile_words :
    let s := baseS [(1#7, 0#64), (2#7, 0#64), (3#7, 0#64)]
    Live s ∧ MiwOk s (s.getS 1#7) false ∧ EntersAtOnce s (s.capture .mzero false (s.getS 1#7) 0#64 0#64) ∧
    (epwOf (s.getS 2#7)).okMld = true ∧ TileOk s (epwOf (s.getS 2#7)).dest (s.getS 3#7) (127 * 512 + 512) ∧ s.wave.lmStoresLeft = false ∧
    EntersAtOnce s (s.capture .mld false (s.getS 1#7) (s.getS 2#7) (s.getS 3#7)) ∧
    (epwOf (s.getS 2#7)).okMst s.wave.nf.toList = true ∧
    TileOk s (epwOf (s.getS 2#7)).dest (s.getS 3#7) (128 * (epwOf (s.getS 2#7)).rowStride s.wave.nf.toList) ∧
    s.crew.lmBad (epwOf (s.getS 2#7)).voff (epwOf (s.getS 2#7)).vecBytes = none ∧
    s.lmUnreadable s.crew.core (epwOf (s.getS 2#7)).voff (epwOf (s.getS 2#7)).vecBytes = none ∧
    EntersAtOnce s (s.capture .mst false (s.getS 1#7) (s.getS 2#7) (s.getS 3#7)) ∧
    s.mstLines (mstOp s false (s.getS 1#7) (s.getS 2#7) (s.getS 3#7)) = [] := by
  unfold Live MiwOk EntersAtOnce TileOk; decide +kernel

/-- An `mst` of a tile of 128 rows of 512 bytes to memory at 0x20000, the whole data page. -/
def storingTile : State := withData (baseS [(1#7, 0#64), (2#7, 0x800#64), (3#7, 0x20000#64)])

theorem test_witness_tile_to_memory :
    let s := storingTile
    Live s ∧ MiwOk s (s.getS 1#7) false ∧ (epwOf (s.getS 2#7)).okMst s.wave.nf.toList = true ∧ (epwOf (s.getS 2#7)).dest = true ∧
    TileOk s (epwOf (s.getS 2#7)).dest (s.getS 3#7) (128 * (epwOf (s.getS 2#7)).rowStride s.wave.nf.toList) ∧
    (epwOf (s.getS 2#7)).vecBytes = 0 ∧ EntersAtOnce s (s.capture .mst false (s.getS 1#7) (s.getS 2#7) (s.getS 3#7)) ∧
    s.mstLines (mstOp s false (s.getS 1#7) (s.getS 2#7) (s.getS 3#7)) ≠ [] := by
  unfold Live MiwOk EntersAtOnce TileOk; decide +kernel

/-- AccumulatorWordsEnterTheQueue: an `mma` whose tokens the pool holds, one whose tokens it does not, and accumulator 16 of 16. -/
theorem test_witness_mma :
    let u := baseS mmaRegs
    let s := u.setDie 0 { u.dieAt 0 with ptok := 32 }
    (Live s ∧ MmaOk s (s.getS 1#7) (s.getS 2#7) (s.getS 3#7) (.int true 8) ∧
      EntersAtOnce s (mmaOp s false (s.getS 1#7) (s.getS 2#7) (s.getS 3#7)) ∧ (s.dieAt (dieOf s.crew.core)).requests = [] ∧
      mmaCost (tdOf (s.getS 2#7)).prec (tdOf (s.getS 3#7)).prec (miwOf (s.getS 1#7)).K (mmaChecked s (s.getS 1#7)) ≤
        (s.dieAt (dieOf s.crew.core)).ptok) ∧
    (MmaOk u (u.getS 1#7) (u.getS 2#7) (u.getS 3#7) (.int true 8) ∧ u.wave.mreq = none ∧ (u.dieAt (dieOf u.crew.core)).requests = [] ∧
      (u.dieAt (dieOf u.crew.core)).ptok <
        mmaCost (tdOf (u.getS 2#7)).prec (tdOf (u.getS 3#7)).prec (miwOf (u.getS 1#7)).K (mmaChecked u (u.getS 1#7))) ∧
    ({ s with crew := { s.crew with naccs := 8 } } : State).crew.naccs ≤ (miwOf 8#64).acc := by
  unfold Live MmaOk MiwOk EntersAtOnce; decide +kernel

/-- AccumulatorStatusAndCheckWords: accumulator 15 of 16; versions that have passed and one that has not; periods 0, 1, 4096 and 4097. -/
theorem test_witness_accumulator_status :
    Live base ∧ (15#4).toNat < base.crew.naccs ∧ MiwOk base 0#64 false ∧
    ((base.crew.acc 0).ver - (miwOf 0#64).ver).toNat < 32768 ∧ MiwOk base 0x10#64 false ∧
    32768 ≤ ((base.crew.acc 0).ver - (miwOf 0x10#64).ver).toNat ∧ 1 ≤ (1#64).toNat ∧ (4096#64).toNat ≤ 4096 ∧ (0#64).toNat < 1 ∧
    4096 < (4097#64).toNat ∧ (3#7 ≤ 3#7) ∧ (3#7 < 4#7) := by unfold Live MiwOk; decide +kernel

/-- `pair` with its barriers set. -/
def pairBar (b : Barrier) : State := { pair with crew := { pair.crew with bars := Vector.replicate 8 b } }
def phase5 : State := pairBar { Barrier.fresh 3#16 with phase := 5#16 }
def arrived1 : State := pairBar { Barrier.fresh 3#16 with arrived := 1#16 }

/-- CrewBarrierWords: the last to arrive, a first of two, one that has arrived. -/
theorem test_witness_crew_barriers :
    (Live base ∧ MayArrive base 0#3 ∧ LastToArrive base 0#3) ∧ (Live phase5 ∧ MayArrive phase5 7#3 ∧ ¬ LastToArrive phase5 7#3) ∧
    Live arrived1 ∧ (arrived1.crew.bar 7#3).arrived.getLsbD arrived1.wave.idx = true := by
  unfold Live MayArrive LastToArrive; decide +kernel

/-- CrewBarrierWords: `barw` in phase 5 on the phases at both ends of those that have passed and of those that have not. -/
theorem test_witness_barrier_phases :
    (phase5.crew.bar 0#3).phase = 5#16 ∧ (1 ≤ (5#16 - 4#16).toNat ∧ (5#16 - 4#16).toNat ≤ 32767) ∧
    (1 ≤ (5#16 - 32774#16).toNat ∧ (5#16 - 32774#16).toNat ≤ 32767) ∧ ¬ (1 ≤ (5#16 - 5#16).toNat) ∧ ¬ ((5#16 - 32773#16).toNat ≤ 32767) := by
  decide +kernel

/-- WaveEndWords: a last wave, one of two, one with a store to perform, one with an open region. -/
theorem test_witness_wave_end :
    (Live base ∧ base.drainLeft = false ∧ base.faultFound = false ∧ LastWave base) ∧
    (Live pair ∧ pair.wave.region = none ∧ pair.drainLeft = false ∧ pair.faultFound = false ∧ ¬ LastWave pair ∧
      pair.crew.state = .running) ∧
    storing.drainLeft = true ∧ (baseW (fun w => { w with region := some 1 })).wave.region.isSome = true := by
  unfold Live LastWave; decide +kernel

/-- WindowAndWatchdogWords: without and with a request that has not been entered for. -/
theorem test_witness_windows :
    let s := { baseS [(1#7, 1#64)] with crew := { base.crew with preempt := some ⟨0, false, false, 0, none, false⟩ } }
    (Live base ∧ base.crew.preempt = none) ∧ Live s ∧ s.crew.preempt = some ⟨0, false, false, 0, none, false⟩ ∧ s.getS 1#7 ≠ 0#64 := by
  unfold Live; decide +kernel

/-- A queue of 4 records of 64 bytes at virtual address 0x20000, its records from 0x21000; S[1] names it and S[2] an LM offset. -/
def withQueue (head tail free flags : Nat) : State :=
  let s := withData (baseS [(1#7, 0x20000#64), (2#7, 0x10#64)])
  ((((((s.writeMem 0x200000 8 head).writeMem 0x200008 8 tail).writeMem 0x200010 4 4).writeMem 0x200014 4 64).writeMem 0x200018 4 free).writeMem
    0x20001C 4 flags).writeMem 0x200028 8 0x21000

/-- `ReachesHome` as a computation. -/
def reaches (s : State) (va : Word) (n : Nat) (x : Xl) (k : Want) : Bool :=
  s.wave.qwait.isNone && !s.loadFaultPending && !s.wave.beforeLeft && isOk (s.xlateVa va k false) x && s.homeOpen none x &&
    !s.anyPoison x.fpa n && !s.snapWaits x

theorem reaches_of (s : State) (va : Word) (n : Nat) (x : Xl) (k : Want) (h : reaches s va n x k = true) : ReachesHome s va n x k := by
  simp only [reaches, Bool.and_eq_true, Bool.not_eq_true', Option.isNone_iff_eq_none] at h
  obtain ⟨⟨⟨⟨⟨⟨a, b⟩, c⟩, d⟩, e⟩, f⟩, g⟩ := h
  exact ⟨a, b, c, isOk_eq _ _ d, e, f, g⟩

/-- The header in S[1], and the header line that no word waits at and that can be changed now. -/
def hdrX (s : State) : Xl := xlOf s 0x20000#64 .atomic
def queueReady (s : State) : Bool :=
  decide (s.wave.status = .live) && decide ((s.getS 1#7).toNat % 128 = 0) && decide ((s.getS 2#7).toNat % 16 = 0) &&
    decide (s.crew.lmBad (s.getS 2#7).toNat 256 = none) && reaches s 0x20000#64 128 (hdrX s) .atomic && decide (s.getS 1#7 = 0x20000#64) &&
    decide (s.waitersAt (hdrX s).fpa = []) && s.groupDue [((hdrX s).fpa, 64)] &&
    (lmLines s.crew.core (s.getS 2#7).toNat (s.hdr (hdrX s).fpa).rsz).all (fun l => !s.lmExpired l)

/-- What the queue clauses ask of the header in S[1]. -/
theorem queueReady_of (s : State) (h : queueReady s = true) :
    Live s ∧ (s.getS 1#7).toNat % 128 = 0 ∧ (s.getS 2#7).toNat % 16 = 0 ∧ s.crew.lmBad (s.getS 2#7).toNat 256 = none ∧
      ReachesHome s (s.getS 1#7) 128 (hdrX s) .atomic ∧ ChangesNow s (hdrX s) [] ∧ RecordFresh s 2#7 (hdrX s) := by
  simp only [queueReady, Bool.and_eq_true, decide_eq_true_eq, List.all_eq_true, Bool.not_eq_true'] at h
  obtain ⟨⟨⟨⟨⟨⟨⟨⟨a, b⟩, c⟩, d⟩, e⟩, f⟩, g⟩, i⟩, j⟩ := h
  exact ⟨a, b, c, d, f ▸ reaches_of _ _ _ _ _ e, ⟨g, i⟩, j⟩

def pushReq (s : State) (w : Bool) : QReq := s.pushReq (s.getS 1#7) 0x10 3#7 w
def slotX (s : State) (va : Word) (k : Want) : Xl := xlOf s va k

theorem test_witness_queue_push :
    let s := withQueue 1 2 1 0
    let xs := slotX s 0x21080#64 .store
    queueReady s = true ∧ s.queueFault (pushReq s false) = none ∧ s.queueFault (pushReq s true) = none ∧ (s.hdr (hdrX s).fpa).closed = false ∧
    (s.hdr (hdrX s).fpa).free ≠ 0 ∧ isOk (s.slotAt (hdrX s).fpa (s.hdr (hdrX s).fpa) (s.hdr (hdrX s).fpa).tail .store) xs = true ∧
    ChangesNow s (hdrX s) [(xs.fpa, (s.hdr (hdrX s).fpa).rsz)] ∧ s.snapWaits xs = false ∧ s.homeOpen none xs = true ∧ xs.fpa = 0x201080 := by
  unfold ChangesNow; decide +kernel

/-- QueueWords: a closed queue, a queue without free slots, an empty one, and one that stands at both. -/
theorem test_witness_queue_full_closed :
    (queueReady (withQueue 1 2 1 1) = true ∧ (∀ w, (withQueue 1 2 1 1).queueFault (pushReq (withQueue 1 2 1 1) w) = none) ∧
      ((withQueue 1 2 1 1).hdr 0x200000).closed = true) ∧
    queueReady (withQueue 1 2 0 0) = true ∧ (∀ w, (withQueue 1 2 0 0).queueFault (pushReq (withQueue 1 2 0 0) w) = none) ∧
    ((withQueue 1 2 0 0).hdr 0x200000).closed = false ∧ ((withQueue 1 2 0 0).hdr 0x200000).free = 0 ∧ (hdrX (withQueue 1 2 0 0)).fpa = 0x200000 := by
  decide +kernel

theorem test_witness_queue_pop :
    (queueReady (withQueue 2 2 1 1) = true ∧ (withQueue 2 2 1 1).queueFault (.pop 0x20000#64 0x10 3#7) = none ∧
      ((withQueue 2 2 1 1).hdr 0x200000).occ = 0 ∧ ((withQueue 2 2 1 1).hdr 0x200000).closed = true) ∧
    (queueReady (withQueue 2 2 1 0) = true ∧ (withQueue 2 2 1 0).queueFault (.pop 0x20000#64 0x10 3#7) = none ∧
      ((withQueue 2 2 1 0).hdr 0x200000).occ = 0 ∧ ((withQueue 2 2 1 0).hdr 0x200000).closed = false) ∧
    let s := withQueue 1 2 1 0
    let xs := slotX s 0x21040#64 .load
    queueReady s = true ∧ s.queueFault (.pop 0x20000#64 0x10 3#7) = none ∧ (s.hdr 0x200000).occ ≠ 0 ∧
    isOk (s.slotAt (hdrX s).fpa (s.hdr (hdrX s).fpa) (s.hdr (hdrX s).fpa).head .load) xs = true ∧
    ChangesNow s (hdrX s) [(xs.fpa, (s.hdr (hdrX s).fpa).rsz)] ∧ s.homeOpen none xs = true ∧ xs.fpa = 0x201040 ∧
    s.anyPoison xs.fpa (s.hdr (hdrX s).fpa).rsz = false := by unfold ChangesNow; decide +kernel

/-- QueueWords: `qclose` and `qpeek` at a sound header, and addresses that are no multiple of 128. -/
theorem test_witness_queue_close_peek :
    (withQueue 1 2 1 0).queueFault (.close 0x20000#64) = none ∧ (withQueue 1 2 1 0).queueFault (.peek 0x20000#64 3#7) = none ∧
    ((baseS [(1#7, 0x20040#64)]).getS 1#7).toNat % 128 ≠ 0 ∧ Live (baseS [(1#7, 0x20040#64)]) := by unfold Live; decide +kernel

/-- `withQueue` with a record held from it, popped by the crew or at its dispatch. -/
def withHeld (dispatch : Bool) : State :=
  let s := withQueue 1 2 1 0
  { s with crew := { s.crew with held := [⟨0x20000#64, 1, 0, dispatch⟩] } }

/-- QueueWords: `qfree` of a popped record, of a dispatch record, and of none. -/
theorem test_witness_queue_free :
    (queueReady (withHeld false) = true ∧ (withHeld false).getS 1#7 ≠ 0#64 ∧ (withHeld false).queueFault (.free 0x20000#64 3#7) = none ∧
      ∃ h ∈ (withHeld false).crew.held, h.hdr = (withHeld false).getS 1#7 ∧ h.dispatch = false) ∧
    (queueReady (withHeld true) = true ∧ (withHeld true).getS 5#7 = 0#64 ∧ (withHeld true).queueFault (.free 0x20000#64 3#7) = none ∧
      (withHeld true).crew.held.find? HeldRec.dispatch = some ⟨0x20000#64, 1, 0, true⟩ ∧
      ∀ k ∈ (withHeld true).crew.held, k.hdr = 0x20000#64 → k.dispatch = true) ∧
    (∀ h ∈ (withHeld true).crew.held, h.dispatch = false → h.hdr ≠ (withHeld true).getS 1#7) ∧
    ∀ h ∈ base.crew.held, h.dispatch = false := by decide +kernel

/-- A cross-crew barrier at 0x20000 with COUNT and TARGET. -/
def withBarrier (count target : Nat) : State :=
  ((withData (baseS [(1#7, 0x20000#64), (2#7, 0x10#64)])).writeMem 0x200000 4 count).writeMem 0x200004 4 target

/-- CrossCrewBarrierAndLaunchWords: an arrival that completes a phase and one that does not; a record for `flaunch` (empty, so refused with the
code of its first entry) and one whose eight entries are sound. -/
theorem test_witness_cross_crew_barriers :
    (queueReady (withBarrier 1 2) = true ∧ (withBarrier 1 2).queueFault (.xbar 0x20000#64 3#7 false) = none ∧
      (withBarrier 1 2).queueFault (.xbar 0x20000#64 3#7 true) = none) ∧
    (queueReady (withBarrier 0 2) = true ∧ (withBarrier 0 2).queueFault (.xbar 0x20000#64 3#7 true) = none) ∧
    ((baseS [(1#7, 0x20020#64)]).getS 1#7).toNat % 64 ≠ 0 ∧ ((baseS [(1#7, 0x20080#64)]).getS 1#7).toNat % 256 ≠ 0 := by
  decide +kernel

/-- A flow record whose only stage forms one crew of one wave; `ceil` is its CEIL. -/
def flowRecord (ceil : Nat) : List Byte :=
  bytesLE 8 0x10000 ++ [1#8, 2#8, 0#8, 0#8] ++ bytesLE 4 256 ++ bytesLE 8 1 ++ bytesLE 2 0 ++ bytesLE 2 ceil ++ [1#8, 2#8, 0#8, 0#8] ++
    List.replicate 224 0#8

def withFlowRecord : State := (withData (baseS [(1#7, 0x20000#64)])).writeBytes 0x200000 (flowRecord 1)

theorem test_witness_launch :
    (base.launchFlow 0 0 (flowRecord 1)).2.toNat % 2 ^ 16 = 0 ∧ (base.launchFlow 0 0 (flowRecord 0)).2.toNat % 2 ^ 16 = 1 ∧
    badEntry ((List.range 8).map (entryOf (flowRecord 0))) = some 0 ∧ Live withFlowRecord ∧ (withFlowRecord.getS 1#7).toNat % 256 = 0 ∧
    ReachesHome withFlowRecord (withFlowRecord.getS 1#7) 256 (xlOf withFlowRecord 0x20000#64 .load) .load := by
  unfold Live
  refine ⟨?_, ?_, ?_, ?_, ?_, reaches_of _ _ _ _ _ ?_⟩ <;> decide +kernel

/-- PreciseCausesEnterTheHandler, CausesThatEndTheCrew: a wave with a handler; one in a handler; one without. -/
def handled : State := baseW (fun w => { w with tvec := 0x10000#64 })
def inHandler : State := { handled with wave := { handled.wave with inh := true, tpc := 0x10004#64 }, crew := { handled.crew with state := .halted } }

theorem test_witness_handler_entry :
    MayEnter handled ∧ Cause.operand ≠ .halt ∧ inHandler.wave.inh = true ∧
    (base.wave.inh = false ∧ base.wave.stop = none ∧ base.wave.tvec = 0#64 ∧ base.sfuPending = false) ∧
    ((∀ w ∈ base.crewWaves, w.mustDrain = false) ∧ base.mstRuns = false) ∧ ∃ w ∈ storing.crewWaves, w.mustDrain = true := by
  unfold MayEnter CanEnter Live; decide +kernel

/-- An unperformed access of a page that is not mapped, of a wave in its handler or not. -/
def strayAccess (inh : Bool) (op : AccOp) : Access := ⟨1, 0x10000#64, 1, op, [request 0 0x50000#64 7#64 0#32], false, inh, .queued, 0⟩
def straying (s : State) (accs : List Access) : State := { s with wave := { s.wave with parked := true, issued := 2, nextId := 2, accs := accs } }
def strayLoad : State := straying handled [strayAccess false (.ld 5#7 8 false)]
def strayFault : Access × (Cause × Nat × Word × Bool) := (strayAccess false (.ld 5#7 8 false), (.xlateLd, 0, 0x50000#64, false))
def strayBar : State := { strayLoad with wave := { strayLoad.wave with block := some (.bar 1 0#16) } }
def strayHalted : State := { strayLoad with wave := { strayLoad.wave with halting := some (1, .operand, 3) } }

/-- PreciseCausesEnterTheHandler, FaultSteps, FenceAndHintWords, WaveEndWords: a load fault found, in a wave that runs on or stops, also for a halt. -/
theorem test_witness_found_fault :
    (CanEnter strayLoad ∧ strayLoad.ownFault = some strayFault ∧ strayLoad.faultFound = true ∧ strayLoad.runsOn = false) ∧
    (CanEnter strayBar ∧ strayBar.ownFault = some strayFault ∧ strayBar.focusCrew.dying = false ∧ strayBar.runsOn = true) ∧
    CanEnter strayHalted ∧ strayHalted.wave.halting = some (1, .operand, 3) ∧ strayHalted.ownFault = some strayFault := by
  unfold CanEnter Live
  refine ⟨?_, ?_, ?_⟩ <;> decide +kernel

/-- A wave in its handler with s1 zero and the given wake record. -/
def returning (r114 : Word) : State := { inHandler with wave := (inHandler.wave.setS 1#7 0#64).setS 114#7 r114 }

def strayInside : State := straying (returning 0#64) [strayAccess true (.ld 5#7 8 false)]
def strayRepair : State :=
  straying (returning 0#64) [{ strayAccess false (.ld 5#7 8 false) with phase := .held }, strayAccess true (.st 0 0#32 8)]

/-- TrapWords: a return that waits for a load fault, and for a store of the handler before held accesses. -/
theorem test_witness_eret_waits :
    (Live strayInside ∧ strayInside.wave.inh = true ∧ strayInside.getS 1#7 = 0#64 ∧ (strayInside.getS 114#7).toNat % 16 ≤ 4 ∧
      strayInside.faultFound = true) ∧
    Live strayRepair ∧ strayRepair.wave.inh = true ∧ (strayRepair.getS 1#7).getLsbD 0 = false ∧ strayRepair.faultFound = false ∧
      strayRepair.repairsLeft = true := by
  unfold Live; decide +kernel


def halfReturned : State := { inHandler with crew := { inHandler.crew with others := [sibling inHandler.wave] } }
def taken : State := { inHandler with crew := { inHandler.crew with state := .taking, preempt := some ⟨0, true, true, 0, none, false⟩ } }

/-- TrapWords: a return of each kind of wake record, with another wave still in the halt, and out of a taking. -/
theorem test_witness_eret :
    (∀ k ∈ [0, 1, 2, 3, 4], EretOk (returning (BitVec.ofNat 64 k)) 1#7 2#7) ∧
    (inHandler.crew.state = .halted ∧ inHandler.crew.restoring = false ∧ inHandler.crew.preempt = none ∧ inHandler.wave.stop = none ∧
      inHandler.wave.halting = none ∧ inHandler.wave.heldCauses = [] ∧ inHandler.crew.others = []) ∧
    4 < ((returning 5#64).getS 114#7).toNat % 16 ∧ ((8#64 : Word) >>> 3 ≠ 0#64) := by
  refine ⟨?_, ?_⟩
  · unfold EretOk Live; decide +kernel
  · decide +kernel

theorem test_witness_eret_others :
    EretOk halfReturned 1#7 2#7 ∧ halfReturned.crew.state = .halted ∧ (∃ w ∈ halfReturned.crew.others, w.idx ≠ halfReturned.wave.idx ∧ StillHalted w) ∧
    EretOk taken 1#7 2#7 ∧ taken.crew.state = .taking ∧ taken.crew.preempt = some ⟨0, true, true, 0, none, false⟩ ∧ taken.crew.others = [] := by
  unfold EretOk Live StillHalted; decide +kernel

/-- A store-fault record of a scalar store of 8 bytes. -/
def sfRecord : SfRec := ⟨0x20000#64, 0x10000#64, 0, .protSt, 8, 0, false, 0#32, 1#96, bytesLE 8 7⟩
def withRecord : State :=
  let s := withData (baseS [(1#7, 0x20000#64), (2#7, 0x20020#64)])
  { s with crew := { s.crew with sfr := [sfRecord] } }

/-- Where the record goes. -/
def recordX : Xl := xlOf withRecord 0x20000#64 .store

theorem test_witness_store_fault_record :
    (Live withRecord ∧ (withRecord.getS 1#7).toNat % 64 = 0 ∧ withRecord.crew.sfr = sfRecord :: [] ∧ withRecord.wave.beforeLeft = false ∧
      withRecord.snapWaits recordX = false) ∧
    recordParts (withRecord.getS 1#7).toNat = [(0x20000, 0, 512)] ∧ withRecord.xlateVa 0x20000#64 .store false = .ok recordX ∧
    (withRecord.keyed recordX = true ∧ (∀ l ∈ linesOf recordX.fpa 512, withRecord.lineFree none (128 * l) = true) ∧
      withRecord.groupDue [(recordX.fpa, 512)] = true) ∧
    (withRecord.getS 2#7).toNat % 64 ≠ 0 ∧ base.crew.sfr = [] := by
  unfold Live
  refine ⟨?_, ?_, isOk_eq _ _ ?_, ?_⟩ <;> decide +kernel

/-- LocalMemoryAccessWords: words of LM 0, 4, 8, … at the lanes, the last one at 4 * 2 * 95; an LM word before them; empty and full granules; an
offset that is no word and one past the allocation. -/
def lmOffsets (first step : Nat) : State :=
  baseW (fun w => w.setVreg 2 (Vector.ofFn (fun i => BitVec.ofNat 32 (first + step * i.val))))

/-- `base` with every granule of the first 1,024 bytes of LM full, and an LM word of the wave first in line: lanes 0 to 3 at 0, 4, 8 and 12. -/
def allFull : State := { base with lmFull := (List.range 64).map (fun g => (g, true)) }
def lmLanes : List (Nat × Nat × Lane) := [(0, 0, 7#32), (1, 4, 8#32), (2, 8, 9#32), (3, 12, 7#32)]
def lmFirst (s : State) (load : Bool) (mode : Nat) : State :=
  { s with wave := { s.wave with lmq := [⟨1, 0x10000#64, 1, load, mode, 5, lmLanes, lmLanes, false⟩], nextId := 2 } }

theorem test_witness_lm_words :
    VecReady (lmOffsets 0 4) [(2#7, true), (3#7, false)] (some 3#7) ∧ VecReady (lmOffsets 0 4) [(2#7, true), (3#7, false)] none ∧
    LmPlaced (lmOffsets 0 4) (gatherOffs (lmOffsets 0 4) 0#7 2#7) ∧ VecReady base [(3#7, false)] (some 3#7) ∧ VecReady base [] (some 3#7) ∧
    VecReady base [(3#7, false)] none ∧ LmPlaced base (strideOffs base 0#7 2#7) := by
  unfold LmPlaced
  refine ⟨vecReady_of _ _ _ ?_, vecReady_of _ _ _ ?_, ?_, vecReady_of _ _ _ ?_, vecReady_of _ _ _ ?_, vecReady_of _ _ _ ?_, ?_⟩ <;>
    decide +kernel

/-- LocalMemoryAccessWords: loads that find their granules full, one that finds them empty, and stores. -/
theorem test_witness_lm_lanes :
    (∀ load mode, mode < 3 → LmFirst (lmFirst allFull load mode) ⟨1, 0x10000#64, 1, load, mode, 5, lmLanes, lmLanes, false⟩ []) ∧
    (∀ mode, mode < 3 → LmReadable (lmFirst allFull true mode) ⟨1, 0x10000#64, 1, true, mode, 5, lmLanes, lmLanes, false⟩) ∧
    lmGuard < (lmFirst allFull false 0).lmretn ∧
    LmFirst (lmFirst base true 1) ⟨1, 0x10000#64, 1, true, 1, 5, lmLanes, lmLanes, false⟩ [] ∧
    ∀ e ∈ lmLanes, (lmFirst base true 1).lmFullAt (lmFirst base true 1).crew.core e.2.1 = false := by
  unfold LmFirst LmReadable Live; decide +kernel

theorem test_witness_lm_refused :
    VecReady (lmOffsets 2 0) [(2#7, true)] (some 3#7) ∧ (lmOffsets 2 0).wave.lanes.head? = some 0 ∧
    (gatherOffs (lmOffsets 2 0) 0#7 2#7 0).toNat % 4 ≠ 0 ∧ VecReady (lmOffsets 65536 0) [(2#7, true)] (some 3#7) ∧
    (lmOffsets 65536 0).wave.lanes.head? = some 0 ∧
    (∀ j ∈ (lmOffsets 65536 0).wave.lanes, (gatherOffs (lmOffsets 65536 0) 0#7 2#7 j).toNat % 4 = 0) ∧
    (lmOffsets 65536 0).crew.lmBad (gatherOffs (lmOffsets 65536 0) 0#7 2#7 0).toNat 4 ≠ none ∧
    (lmOffsets 65532 0).crew.lmBad (gatherOffs (lmOffsets 65532 0) 0#7 2#7 0).toNat 4 = none := by
  refine ⟨vecReady_of _ _ _ ?_, ?_, ?_, vecReady_of _ _ _ ?_, ?_⟩ <;> decide +kernel

/-- `base` with a transient segment at 0 and a held one at 256. -/
def segments : State := { baseS [(1#7, 0#64), (2#7, 256#64), (3#7, 511#64), (4#7, 512#64)] with
  crew := { base.crew with segs := [⟨0, 256, false⟩, ⟨256, 256, true⟩] } }

/-- SegmentWords: a request that fits, and with the smallest and the whole of what is left; one that does not fit; a size of 0; bounds of the
segments; an expired line. -/
theorem test_witness_segments :
    Live segments ∧ findGap segments.crew.lmBase (segments.crew.lmBase + segments.crew.lmSize) 256 segments.crew.segs = some 512 ∧
    findGap segments.crew.lmBase (segments.crew.lmBase + segments.crew.lmSize) 65024 segments.crew.segs = some 512 ∧
    findGap segments.crew.lmBase (segments.crew.lmBase + segments.crew.lmSize) 65280 segments.crew.segs = none ∧
    segments.crew.segs.length < 16 ∧ segments.heldBytes segments.crew.core + 256 ≤ 2 ^ 21 ∧ segments.wave.lmq = [] ∧ segments.getS 1#7 = 0#64 ∧
    segments.crew.segs.find? (fun g => g.off = (segments.getS 2#7).toNat) = some ⟨256, 256, true⟩ ∧
    (∀ g ∈ segments.crew.segs, g.off ≠ (segments.getS 3#7).toNat) ∧
    segments.crew.segs.Pairwise (fun g h => g.off + g.size ≤ h.off) ∧ ∀ g ∈ segments.crew.segs, g.off + g.size ≤ 65536 := by
  unfold Live; decide +kernel

theorem test_witness_renew_age_fill :
    segments.crew.lmBad (segments.getS 1#7).toNat (segments.getS 2#7).toNat = none ∧
    (∀ l ∈ lmLines segments.crew.core (segments.getS 1#7).toNat (segments.getS 2#7).toNat, segments.lmExpired l = false) ∧
    (segments.crew.lmBad (segments.getS 4#7).toNat 1 = none ∧ segments.lmExpired (lmLineOf segments.crew.core (segments.getS 4#7).toNat) = false ∧
      ∀ g ∈ segments.crew.segs, g.held = true → (segments.getS 4#7).toNat < g.off ∨ g.off + g.size ≤ (segments.getS 4#7).toNat) ∧
    ({ segments with lmMark := [(0, true)] } : State).lmExpired (lmLineOf 0 0) = true ∧
    (segments.crew.lmBad (segments.getS 3#7).toNat 1 = none ∧ segments.lmExpired (lmLineOf segments.crew.core (segments.getS 3#7).toNat) = false ∧
      ∃ g ∈ segments.crew.segs, g.held = true ∧ g.off ≤ (segments.getS 3#7).toNat ∧ (segments.getS 3#7).toNat < g.off + g.size) ∧
    (segments.getS 2#7).toNat % 16 = 0 ∧ (segments.getS 4#7).toNat % 16 = 0 ∧
    segments.crew.lmBad (segments.getS 4#7).toNat (segments.getS 2#7).toNat = none := by decide +kernel

/-- S[1] to S[3] for a copy word: its control word, its source and its destination. -/
def copying (xcw src dst : Word) : State := baseS [(1#7, xcw), (2#7, src), (3#7, dst)]

/-- CopyWordsStartCommands: each kind of command with operands that its checks pass: 4 bytes in LM, one row of 4 bytes, a packed tile of one row and
K = 32 in binary16, an empty command, and a command with nothing to move. -/
theorem test_witness_copy_fits :
    CmdFits (copying 0x30000000004#64 0#64 0x100#64) .copy 1#7 2#7 3#7 ∧ CmdFits (copying 0x30000000004#64 0#64 0x100#64) .fill 1#7 2#7 3#7 ∧
    CmdFits (copying 0x30000010004#64 0#64 0x100#64) .gath 1#7 2#7 3#7 ∧ CmdFits (copying 0x30000010004#64 0#64 0x100#64) .scat 1#7 2#7 3#7 ∧
    CmdFits (copying 0x30000010004#64 0#64 0x100#64) .back 1#7 2#7 3#7 ∧ CmdFits (copying 0x30000000000#64 0#64 0x100#64) .copy 1#7 2#7 3#7 := by
  unfold CmdFits Inside; decide +kernel

/-- The packed forms: SFMT 0x08 (binary16), PREC 16, BLK 0. -/
def packing : State := copying 0x00402300_00200001#64 0#64 0x1000#64
def unpacking : State := copying 0x00402300_00200001#64 0#64 0x1000#64
def expanding : State := copying 0x00006300_00000008#64 0#64 0x1000#64

theorem test_witness_pack_fits :
    CmdFits packing .pack 1#7 2#7 3#7 ∧ CmdFits unpacking .unpack 1#7 2#7 3#7 ∧ CmdFits expanding .cbexp 1#7 2#7 3#7 := by
  unfold CmdFits Inside
  refine ⟨⟨.flt binary16 16, ?_⟩, ⟨binary16, 16, ?_⟩, ?_⟩ <;> decide +kernel

/-- CopyWordsStartCommands: a free tag with and without an entry of the engine, a BUSY tag; words that raise FORMAT and ALIGN. -/
def copied : State := copying 0x30000000004#64 0#64 0x100#64
def crowded : State := { copied with cmds := List.replicate 64 (cmdOf copied .copy 1#7 2#7 3#7) }
def tagged (t : Tag) : State := { copied with crew := { copied.crew with tags := [(0, t)] } }

theorem test_witness_copy_start :
    Live copied ∧ MayStart copied 1#7 ∧ (cmdOf copied .copy 1#7 2#7 3#7).total ≠ 0 ∧ copied.cmdRoom = true ∧
    (cmdOf (copying 0x30000000000#64 0#64 0x100#64) .copy 1#7 2#7 3#7).total = 0 ∧ MayStart (copying 0x30000000000#64 0#64 0x100#64) 1#7 ∧
    MayStart crowded 1#7 ∧ crowded.cmdRoom = false ∧ (tagged .busy).crew.tag (ctl (tagged .busy) 1#7).tag = .busy ∧
    (ctl (copying 0x200000000000000#64 0#64 0#64) 1#7).ok = false ∧
    (ctl (copying 0x30000000004#64 2#64 0#64) 1#7).plain = true ∧ ((copying 0x30000000004#64 2#64 0#64).getS 2#7).toNat % 4 ≠ 0 := by
  unfold Live MayStart; decide +kernel

/-- CopyTagWords: a mask with a BUSY tag and one without; tags 63 and 64. -/
theorem test_witness_copy_tags :
    (∀ k, k < 64 → ((tagged (.done 3)).getS 1#7).getLsbD k = true → (tagged (.done 3)).crew.tag k ≠ .busy) ∧
    ((tagged .busy).wave.setS 4#7 1#64 |>.getS 4#7).getLsbD 0 = true ∧ (tagged .busy).crew.tag 0 = .busy ∧ (63#64).toNat ≤ 63 ∧
    63 < (64#64).toNat := by decide +kernel

/-- `base` with a page of plain memory at virtual address 0x30000, HBM offset 0x210000. -/
def plain : State := base.writeMem 0x120018 8 (placedEntry 0x210000 7)
def region0 : Region := opened plain 0 0 0
def dirtyRegion : Region :=
  { region0 with pieces := [⟨0x30000, 0x210000, 0, 4⟩], marks := [(0x84000, ⟨false, true, 1, 0, []⟩)], ranges := 1, bytes := 4 }

/-- `plain` with a region held by the wave, in range registers S[1] to S[3]. -/
def withRegion (r : Region) : State :=
  { plain with
    regions := [r], wave := { (((plain.wave.setS 1#7 0x30000#64).setS 2#7 0#64).setS 3#7 4#64) with region := some r.id } }
def withRetained : State := { plain with regions := [{ region0 with state := 3 }], wave := { plain.wave.setS 1#7 1#64 with retained := some 0 } }

/-- RegionWords: opening with a free id, with a retained one, and with none free. -/
theorem test_witness_region_begin :
    (Live base ∧ base.wave.region = none ∧ base.wave.retained = none ∧ base.getS 1#7 = 0#64 ∧ base.freeRegionId = some 0) ∧
    (withRetained.wave.region = none ∧ withRetained.wave.retained = some 0 ∧ withRetained.getS 1#7 ≠ 0#64 ∧
      withRetained.region? 0 = some { region0 with state := 3 }) ∧
    (withRegion region0).wave.region.isSome = true := by unfold Live; decide +kernel

def fullUnit : State := { base with regions := (List.range 1024).map (fun i => { region0 with id := i }) }

theorem test_witness_region_none_free : fullUnit.freeRegionId = none ∧ fullUnit.wave = base.wave := by
  refine ⟨?_, rfl⟩
  simp only [State.freeRegionId, List.find?_eq_none, List.mem_range, fullUnit]
  intro i hi
  simp only [Bool.not_eq_true, List.all_eq_false, List.mem_map, List.mem_range]
  exact ⟨_, ⟨i, hi, rfl⟩, by simp⟩

/-- RegionWords: a range of one word that binds; an active region without and with a predecessor; a dirty region that commits; an aborted one. -/
theorem test_witness_region_words :
    (Live (withRegion region0) ∧ (withRegion region0).openRegion = some region0 ∧ (withRegion region0).wave.region = some region0.id ∧
      region0.state = 1 ∧ region0.core = (withRegion region0).crew.core ∧ lmGuard < (withRegion region0).lmretn ∧
      (withRegion region0).wave.block = none ∧ (∀ q ∈ (withRegion region0).regions, ∀ m ∈ q.marks, m.2.dirty = false) ∧
      region0.reports = [] ∧ region0.preds = [] ∧ (withRegion region0).wave.beforeLeft = false ∧ (withRegion region0).overdue region0 = false ∧
      region0.binding = none ∧ (bindTouched (withRegion region0) [⟨0x30000, 0x210000, 0, 4⟩]).regions = (withRegion region0).regions) ∧
    (withRegion dirtyRegion).wave.beforeLeft = false ∧ (straying (withRegion region0) [strayAccess false (.st 0 0#32 8)]).wave.beforeLeft = true ∧
    BindOk (withRegion region0) region0 1#7 2#7 3#7 [⟨0x30000, 0x210000, 0, 4⟩] ∧
    CommitsNow (withRegion dirtyRegion) dirtyRegion ∧ dirtyRegion.dirtyWords = [(0x84000, 0)] ∧
    (withRegion { region0 with preds := [(1, false)] }).openRegion = some { region0 with preds := [(1, false)] } ∧
    (withRegion { region0 with state := 2, status := 1 }).openRegion = some { region0 with state := 2, status := 1 } := by
  unfold Live BindOk CommitsNow
  refine ⟨?_, ?_, ?_, ⟨?_, ?_, ?_, ?_, ?_, isOk_eq _ _ ?_, ?_⟩, ?_⟩ <;> decide +kernel

/-- Communicator 0 of devices 0 and 1 in bank 0 for the current generation. -/
def withComm (s : State) : State := (s.setReg (commOff 0) 0x8000000000000002#64).writeBank 0 0 s.gen [0#16, 1#16]

/-- A collective descriptor at 0x20000: OP, COUNT, GEN; SRC 0x20100, DST 0x20200. -/
def withColl (op count gen : Nat) : State :=
  let s := (withComm (withData (baseS [(1#7, 0x20000#64)]))).writeMem 0x200002 1 op
  (((s.writeMem 0x200004 4 count).writeMem 0x200008 8 0x20100).writeMem 0x200010 8 0x20200).writeMem 0x200018 2 gen

/-- The descriptor's page. -/
def descX (s : State) : Xl := xlOf s 0x20000#64 .load

/-- `DescReady` for S[1] as a computation. -/
def descOk (s : State) : Bool :=
  isOk (s.descPage (s.getS 1#7)) (some (descX s)) && !s.wave.beforeLeft && s.homeOpen none (descX s) &&
    !(descRead s (descX s)).anyPoison (descX s).fpa 64

theorem descReady_of (s : State) (h : descOk s = true) : DescReady s (s.getS 1#7) (descX s) := by
  simp only [descOk, Bool.and_eq_true, Bool.not_eq_true'] at h
  exact ⟨isOk_eq _ _ h.1.1.1, h.1.1.2, h.1.2, h.2⟩

def ins (s : State) : List (Xl × Nat × Nat) := valOf [] ((descRead s (descX s)).enginePieces 0 0 0x20100 16 .load)
def outs (s : State) : List (Xl × Nat × Nat) := valOf [] ((descRead s (descX s)).enginePieces 0 0 0x20200 16 .store)

/-- CollectiveAndGenerationWords: a sum of 4 elements that starts, a descriptor of another generation, one with a COUNT of 0, no descriptor. -/
theorem test_witness_collective_start :
    Live (withColl 0 4 0) ∧ DescReady (withColl 0 4 0) ((withColl 0 4 0).getS 1#7) (descX (withColl 0 4 0)) ∧
    (let d := collOf (withColl 0 4 0) (descX (withColl 0 4 0))
     d.gen = (withColl 0 4 0).gen.toNat ∧ d.op = 0 ∧ d.src = 0x20100 ∧ d.dst = 0x20200 ∧ (withColl 0 4 0).collDetail d = 0 ∧ collIn d.op d.count = 16 ∧
       collOut d.op d.count ((withColl 0 4 0).bankCount 0 ((withColl 0 4 0).curBank 0)) = 16) ∧
    (descRead (withColl 0 4 0) (descX (withColl 0 4 0))).enginePieces 0 0 0x20100 16 .load = .ok (ins (withColl 0 4 0)) ∧
    (descRead (withColl 0 4 0) (descX (withColl 0 4 0))).enginePieces 0 0 0x20200 16 .store = .ok (outs (withColl 0 4 0)) ∧
    (withColl 0 4 0).fab.colls.length < 64 ∧ (withColl 0 4 0).removed = false ∧
    collReads (withColl 0 4 0) (collOf (withColl 0 4 0) (descX (withColl 0 4 0))) = 16 ∧
    collWrites (withColl 0 4 0) (collOf (withColl 0 4 0) (descX (withColl 0 4 0))) = 16 := by
  unfold Live
  refine ⟨?_, descReady_of _ ?_, ?_, isOk_eq _ _ ?_, isOk_eq _ _ ?_, ?_⟩ <;> decide +kernel

/-- The same on a removed device, with SRC on a page that is not mapped, and with every entry of the engine taken. -/
def removedColl : State := (withColl 0 4 0).setReg 0x130000 0x80#64
def sourceless : State := (withColl 0 4 0).writeMem 0x200008 8 0x50000
def fullEngine : State :=
  let k : Coll := ⟨1, 1, 0, 0, 0, 1, 0, 0, 2, 0, 4, 0, 0x200000, 0x30000#64, 0x20200, [], 0, false, 0x20100, 0, true⟩
  { withColl 0 4 0 with fab := { (withColl 0 4 0).fab with colls := List.replicate 64 k } }

theorem test_witness_collective_ends_at_once :
    (DescReady removedColl (removedColl.getS 1#7) (descX removedColl) ∧ (collOf removedColl (descX removedColl)).gen = removedColl.gen.toNat ∧
      removedColl.collDetail (collOf removedColl (descX removedColl)) = 0 ∧ removedColl.removed = true ∧ removedColl.fab.colls.length < 64 ∧
      removedColl.units = []) ∧
    (DescReady sourceless (sourceless.getS 1#7) (descX sourceless) ∧ (collOf sourceless (descX sourceless)).gen = sourceless.gen.toNat ∧
      sourceless.collDetail (collOf sourceless (descX sourceless)) = 0 ∧ sourceless.removed = false ∧
      (descRead sourceless (descX sourceless)).enginePieces sourceless.crew.core sourceless.crew.ctx (collOf sourceless (descX sourceless)).src
        (collReads sourceless (collOf sourceless (descX sourceless))) .load = .error .xlateLd) ∧
    fullEngine.descPage (fullEngine.getS 1#7) = .ok (some (descX fullEngine)) ∧ 64 ≤ fullEngine.fab.colls.length := by
  refine ⟨⟨descReady_of _ ?_, ?_⟩, ⟨descReady_of _ ?_, ?_, ?_, ?_, isError_eq _ _ ?_⟩, isOk_eq _ _ ?_, ?_⟩ <;> decide +kernel

theorem test_witness_collective_refused :
    DescReady (withColl 0 4 1) ((withColl 0 4 1).getS 1#7) (descX (withColl 0 4 1)) ∧
    (collOf (withColl 0 4 1) (descX (withColl 0 4 1))).gen ≠ (withColl 0 4 1).gen.toNat ∧
    DescReady (withColl 0 0 0) ((withColl 0 0 0).getS 1#7) (descX (withColl 0 0 0)) ∧
    (withColl 0 0 0).collDetail (collOf (withColl 0 0 0) (descX (withColl 0 0 0))) = 4 ∧
    base.descPage 0x20020#64 = .error .align ∧ (0x20000#64 + 0x20#64 : Word).toNat % 4 = 0 ∧ (withColl 0 4 0).fab.colls = [] := by
  refine ⟨descReady_of _ ?_, ?_, descReady_of _ ?_, ?_, isError_eq _ _ ?_, ?_⟩ <;> decide +kernel

/-- A collective in flight on descriptor 0x20000. -/
def inColl : State :=
  let s := withColl 0 4 0
  { s with fab := { s.fab with colls := [⟨1, s.crew.handle, 0, 0, 0, 0, 0, 0, 2, 0, 4, 0, 0x200000, 0x20000#64, 0x20200, [], 0, false, 0x20100, 0, true⟩] } }

/-- Communicator 0 with bank 1 for the generation and bank 0 for another; and with no bank for it. -/
def staleBank : State := ((withComm base).writeBank 0 0 7#16 [0#16]).writeBank 0 1 0#16 [0#16, 1#16]
def noBank : State := (withComm base).writeBank 0 0 7#16 [0#16]

/-- CollectiveAndGenerationWords: `cwait` in flight and of a collective that has ended; `gfence` in the current bank, from the other one, and with none, or behind; `gread` of both
ends of a rank table; `hbstat` of a heartbeat peer, of another device and past the last; a communicator that is not configured. -/
theorem test_witness_generation_words :
    (inColl.wave.collEnd = none ∧ ∃ c ∈ inColl.fab.colls, c.ctx = inColl.crew.ctx ∧ c.descVa = inColl.getS 1#7) ∧
    (baseW (fun w => { w with collEnd := some 2#64 })).wave.collEnd = some 2#64 ∧
    ((withComm base).configured 0 = true ∧ ((withComm base).gen.toNat + 65536 - 0) % 65536 < 32768 ∧
      (withComm base).genBank 0 = some ((withComm base).curBank 0)) ∧
    (staleBank.configured 0 = true ∧ staleBank.genBank 0 = some 1 ∧ 1 ≠ staleBank.curBank 0 ∧ ∀ c ∈ staleBank.fab.colls, c.comm ≠ 0) ∧
    (noBank.configured 0 = true ∧ noBank.genBank 0 = none) ∧ 32768 ≤ ((withComm base).gen.toNat + 65536 - 32768) % 65536 ∧
    ((withComm base).gen.toNat + 65536 - 32769) % 65536 < 32768 ∧ (1 < (withComm base).bankCount 0 0 ∧ ¬ 2 < (withComm base).bankCount 0 0) ∧
    ({ base with members := [0, 1], devid := 0#16 } : State).hbPeers.contains 1 = true ∧
    ({ base with memb := { base.memb with partners := [65535] } } : State).hbPeers.contains 65535 = true ∧
    (base.hbPeers.contains 65535 = false ∧ (base.peer 65535).expelled = false) ∧ base.configured 0 = false ∧ base.configured 64 = false := by
  decide +kernel

/-- An exchange descriptor at 0x20000: NDEST, ROUND, GEN, with its demand at 0x20100. -/
def withXchg (ndest round gen : Nat) : State :=
  let s := (withComm (withData (baseS [(1#7, 0x20000#64)]))).writeMem 0x200002 2 ndest
  (((s.writeMem 0x200004 4 round).writeMem 0x200008 8 0x20100).writeMem 0x200020 2 gen).writeMem 0x200108 8 5

def posts : List Nat × List (Xl × Nat × Nat) :=
  valOf ([], []) ((descRead (withXchg 2 0 0) (descX (withXchg 2 0 0))).postCheck (xchgOf (withXchg 2 0 0) (descX (withXchg 2 0 0))))

/-- ExchangeWords: a demand that is posted, one of another generation, one with a wrong NDEST. -/
theorem test_witness_demand_post :
    postedBy (withXchg 2 0 0) ((withXchg 2 0 0).getS 1#7) = none ∧
    DescReady (withXchg 2 0 0) ((withXchg 2 0 0).getS 1#7) (descX (withXchg 2 0 0)) ∧
    (xchgOf (withXchg 2 0 0) (descX (withXchg 2 0 0))).gen = (withXchg 2 0 0).gen.toNat ∧
    (descRead (withXchg 2 0 0) (descX (withXchg 2 0 0))).postCheck (xchgOf (withXchg 2 0 0) (descX (withXchg 2 0 0))) = .ok posts ∧
    posts.1 = [0, 5] ∧ (withXchg 2 0 0).xch.acting = false ∧ (withXchg 2 0 1).units = [] ∧
    (∀ r ∈ [0, 1], (descRead (withXchg 2 0 r) (descX (withXchg 2 0 r))).tableOpen (xchgOf (withXchg 2 0 r) (descX (withXchg 2 0 r))).demand 16 = true) ∧
    (descRead (withXchg 3 0 0) (descX (withXchg 3 0 0))).tableOpen (xchgOf (withXchg 3 0 0) (descX (withXchg 3 0 0))).demand 24 = true ∧ DescReady (withXchg 2 0 1) ((withXchg 2 0 1).getS 1#7) (descX (withXchg 2 0 1)) ∧
    (xchgOf (withXchg 2 0 1) (descX (withXchg 2 0 1))).gen ≠ (withXchg 2 0 1).gen.toNat ∧
    DescReady (withXchg 3 0 0) ((withXchg 3 0 0).getS 1#7) (descX (withXchg 3 0 0)) ∧
    (descRead (withXchg 3 0 0) (descX (withXchg 3 0 0))).postCheck (xchgOf (withXchg 3 0 0) (descX (withXchg 3 0 0))) = .error (3, 0) := by
  refine ⟨?_, descReady_of _ ?_, ?_, isOk_eq _ _ ?_, ?_, ?_, ?_, ?_, ?_, descReady_of _ ?_, ?_, descReady_of _ ?_, isError_eq _ _ ?_⟩ <;> decide +kernel

/-- A round that the wave has posted on descriptor 0x20000, with its acknowledgements. -/
def round0 (primary standby posting : Bool) : Round where
  id := 1
  crew := base.crew.handle
  wave := 0
  core := 0
  ctx := 0
  comm := 0
  n := 2
  round := 0
  rank := 0
  gen := 0#16
  desc := 0x200000
  descVa := 0x20000#64
  sendq := 0x20200
  recv := 0x20300
  entries := [0, 5]
  uncapped := 5
  ackPrimary := primary
  ackStandby := standby
  posting := posting
  started := false
  ended := false
  stopped := false
  sends := [⟨0x20400, 64, 0, false⟩]
  recvs := []
  first := []
  capped := false
  residual := false
  arbchg := false
  calGen := 0#16
  pts := 0
  owned := []
  tables := []
  since := 0

def withRound (r : Round) : State :=
  let s := withXchg 2 0 0
  { s with xch := { s.xch with rounds := [r], nextRound := [(0, 1)] } }

/-- A round that has been posted and can start: its queue for rank 1 at 0x20400, its buffer at 0x20500, 64 bytes each. -/
def posted : Round := { round0 true true false with sends := [] }
def startable : State :=
  let s := withRound posted
  (((s.writeMem 0x200210 8 0x20400).writeMem 0x200218 8 64).writeMem 0x200310 8 0x20500).writeMem 0x200318 4 64
def tableBytes (va : Nat) : List (Xl × Nat × Nat) × List Byte :=
  valOf ([], []) ((descRead startable (descX startable)).readTable va 32)

/-- ExchangeWords: both acknowledgements, and one missing; a posted round that ended. -/
theorem test_witness_post_waits :
    (postedBy (withRound (round0 true true true)) 0x20000#64 = some (round0 true true true)) ∧
    postedBy (withRound (round0 true false true)) 0x20000#64 = some (round0 true false true) ∧ (round0 true false true).ended = false ∧
    postedBy (withRound { round0 true false true with ended := true }) 0x20000#64 = some { round0 true false true with ended := true } := by
  decide +kernel

/-- ExchangeWords: `xchg` of a round that can start, of none, of one in flight, and as a wait. -/
theorem test_witness_round_starts :
    (DescReady startable (startable.getS 1#7) (descX startable) ∧ startable.wave.collEnd = none ∧
      startable.round? (xchgOf startable (descX startable)).comm (xchgOf startable (descX startable)).round = some posted) ∧
    MayStartRound (descRead startable (descX startable)) posted (tableBytes 0x20200).2 (tableBytes 0x20300).2 := by
  refine ⟨⟨descReady_of _ ?_, ?_⟩, ?_, ?_, ?_, ?_, ?_, ?_, ⟨(tableBytes 0x20200).1, isOk_eq _ _ ?_⟩, ⟨(tableBytes 0x20300).1, isOk_eq _ _ ?_⟩, ?_, ?_⟩
  case refine_11 =>
    intro j hj
    have : j = 0 ∨ j = 1 := by have : posted.n = 2 := rfl; omega
    rcases this with rfl | rfl
    · refine ⟨by decide +kernel, by decide +kernel, by decide +kernel, by decide +kernel, _, okB_eq [] _ (by decide +kernel)⟩
    · refine ⟨by decide +kernel, by decide +kernel, by decide +kernel, by decide +kernel, _, okB_eq [] _ (by decide +kernel)⟩
  all_goals decide +kernel

theorem test_witness_exchange_words :
    ((withXchg 2 0 0).getS 0#7 = 0#64 ∧ (withXchg 2 0 0).round? 0 0 = none ∧ (withXchg 2 0 0).wasPosted 0 0 = false ∧
      (withXchg 2 0 0).units = [] ∧ (withXchg 2 0 0).wave.collEnd = none) ∧
    (withXchg 2 0 0).descPage 0x20000#64 = .ok (some (descX (withXchg 2 0 0))) ∧ ¬ InFlight (withXchg 2 0 0) 0x20000#64 ∧
    InFlight (withRound (round0 true true false)) 0x20000#64 ∧ DescReady (withRound (round0 true true false)) 0x20000#64
      (descX (withRound (round0 true true false))) ∧
    (withRound { posted with started := true }).round? 0 0 = some { posted with started := true } ∧ posted.posting = false ∧
    (baseW (fun w => { w with collEnd := some 2#64 })).wave.collEnd = some 2#64 ∧ 2 < (3#64).toNat := by
  refine ⟨?_, isOk_eq _ _ ?_, ?_, ?_, descReady_of (withRound (round0 true true false)) ?_, ?_⟩
  case refine_3 => unfold InFlight; decide +kernel
  case refine_4 => unfold InFlight; decide +kernel
  all_goals decide +kernel

/-- ExchangeWords: `xstop` of a round whose arbiter is another device, and where this device is the arbiter; and of none. -/
def stopping : State := (withRound (round0 true true false)).setReg 0x130008 0x10001#64
def stoppingHere : State := { withRound (round0 true true false) with xch := { (withRound (round0 true true false)).xch with acting := true } }

theorem test_witness_round_stops :
    (DescReady stopping (stopping.getS 1#7) (descX stopping) ∧
      stopping.round? (xchgOf stopping (descX stopping)).comm (xchgOf stopping (descX stopping)).round = some (round0 true true false) ∧
      stopping.xch.acting = false ∧ stopping.arbiter ≠ stopping.devid.toNat ∧ stopping.route .control stopping.arbiter ≠ none) ∧
    (DescReady stoppingHere (stoppingHere.getS 1#7) (descX stoppingHere) ∧
      stoppingHere.round? (xchgOf stoppingHere (descX stoppingHere)).comm (xchgOf stoppingHere (descX stoppingHere)).round =
        some (round0 true true false) ∧
      stoppingHere.xch.acting = true ∧ ∀ q ∈ stoppingHere.xch.rounds, q.comm = 0 → q.round = 0 → q.id = 1) ∧
    DescReady (withXchg 2 0 0) ((withXchg 2 0 0).getS 1#7) (descX (withXchg 2 0 0)) := by
  refine ⟨⟨descReady_of _ ?_, ?_⟩, ⟨descReady_of _ ?_, ?_⟩, descReady_of _ ?_⟩ <;> decide +kernel

/-- StepRunsDecodedWord: a wave about to issue; the page of code, poisoned; a pc that does not translate. -/
theorem test_witness_step :
    AboutToIssue base ∧ base.xlateVa base.wave.pc .fetch false = .ok ⟨0x130000, BitVec.ofNat 64 (placedEntry 0x130000 0xF), 0x120008⟩ ∧
    base.isPoisoned 0x130000 = false ∧ (base.setPoison 0x130000 true).isPoisoned 0x130000 = true ∧ AboutToIssue (base.setPoison 0x130000 true) ∧
    base.xlateVa 0x50000#64 .fetch false = .error .xlateLd ∧ AboutToIssue (baseW (fun w => { w with pc := 0x50000#64 })) := by
  unfold AboutToIssue; decide +kernel

/-- EncodeThenDecode, DecodeThenEncode, EveryStepKeepsMemoryForm: an instruction word, and a state whose memory has its form. -/
theorem test_witness_words_and_memory :
    (∃ w, (Instr.wf (.vlldc false 1#7 2#7 2#2 3#7)) = true ∧ encode (.vlldc false 1#7 2#7 2#2 3#7) = some w ∧
      decode w = .ok (.vlldc false 1#7 2#7 2#2 3#7)) ∧ Memory.wf base.mem = true := by
  refine ⟨⟨_, rfl, rfl, ?_⟩, ?_⟩ <;> decide +kernel

/-- `base` with the data page and one access of the wave. -/
def accessing (op : AccOp) (va : Word) (ph : Phase) : State :=
  let s := withData base
  { s with wave := { s.wave with accs := [⟨1, 0x10000#64, 1, op, [request 0 va 7#64 0#32], false, false, ph, 0⟩], nextId := 2, issued := 1 } }

def theAccess (op : AccOp) (va : Word) (ph : Phase) : Access := ⟨1, 0x10000#64, 1, op, [request 0 va 7#64 0#32], false, false, ph, 0⟩

/-- Where the access translates to. -/
def there (s : State) (k : Want) : List Xl := [xlOf s 0x20000#64 k]

/-- LoadSteps: a scalar load at its home with clean and with poisoned memory. -/
theorem test_witness_home_load :
    let op := AccOp.ld 5#7 8 false
    let s := accessing op 0x20000#64 .queued
    let u := s.setPoison 0x200000 true
    AtItsHome s (theAccess op 0x20000#64 .queued) (there s .load) ∧ op.isLoad = true ∧ EntriesApart op.laneBytes (there s .load) ∧
    (∀ x ∈ there s .load, s.anyPoison x.fpa op.laneBytes = false) ∧ AtItsHome u (theAccess op 0x20000#64 .queued) (there u .load) ∧
    (∀ x ∈ there u .load, u.anyPoison x.fpa op.laneBytes = true) ∧ EntriesElsewhere op.laneBytes (there s .load) ∧
    ∀ l ∈ linesAt op.laneBytes (there s .load), (s.line l).excl ≠ some s.crew.core := by
  unfold AtItsHome Present EntriesApart EntriesElsewhere OpenHere; decide +kernel

/-- LoadSteps: a scalar load, an atomic, a vector load and a codebook load on their way back. -/
theorem test_witness_load_return :
    Present (accessing (.ld 5#7 4 true) 0x20000#64 (.done [(0, 7#64)])) ∧
    (accessing (.ld 5#7 4 true) 0x20000#64 (.done [(0, 7#64)])).access? 1 = some (theAccess (.ld 5#7 4 true) 0x20000#64 (.done [(0, 7#64)])) ∧
    (accessing (.atomic .add 5#7) 0x20000#64 (.done [(0, 7#64)])).access? 1 = some (theAccess (.atomic .add 5#7) 0x20000#64 (.done [(0, 7#64)])) ∧
    (accessing (.vld 5) 0x20000#64 (.done [(0, 7#64), (95, 8#64)])).access? 1 =
      some (theAccess (.vld 5) 0x20000#64 (.done [(0, 7#64), (95, 8#64)])) ∧
    (accessing (.cb 3) 0x20000#64 (.done [(0, 7#64), (15, 8#64)])).access? 1 =
      some (theAccess (.cb 3) 0x20000#64 (.done [(0, 7#64), (15, 8#64)])) := by
  unfold Present; decide +kernel

/-- `base` with a page of its own device registers at virtual address 0x40000, and a load of 8 bytes from its offset 8. -/
def loadingRegister : State :=
  let s := base.writeMem 0x120020 8 (placedEntry (2 * 2 ^ 40) 7)
  { s with wave := { s.wave with accs := [theAccess (.ld 5#7 8 false) 0x40008#64 .queued], nextId := 2, issued := 1 } }

theorem test_witness_register_load :
    loadingRegister.access? 1 = some (theAccess (.ld 5#7 8 false) 0x40008#64 .queued) ∧ Present loadingRegister ∧
    loadingRegister.inTurn (theAccess (.ld 5#7 8 false) 0x40008#64 .queued) = true ∧
    (theAccess (.ld 5#7 8 false) 0x40008#64 .queued).xlate loadingRegister (request 0 0x40008#64 7#64 0#32) =
      .ok ⟨2 * 2 ^ 40 + 8, BitVec.ofNat 64 (placedEntry (2 * 2 ^ 40) 7), 0x120020⟩ ∧
    fpaSpace (2 * 2 ^ 40 + 8) = 2 ∧ fpaDev (2 * 2 ^ 40 + 8) = loadingRegister.devid.toNat ∧
    OpenHere loadingRegister ⟨2 * 2 ^ 40 + 8, BitVec.ofNat 64 (placedEntry (2 * 2 ^ 40) 7), 0x120020⟩ 8 := by
  unfold Present OpenHere; decide +kernel

/-- LoadSteps, StoreSteps: a step that names another wave than the one in focus finds it. -/
theorem test_witness_other_wave :
    ∃ t, pair.focus pair.crew.handle 1 = some t ∧ t.wave.status ≠ .absent ∧ t.crew.handle = pair.crew.handle ∧ t.wave.idx = 1 := by
  refine ⟨(pair.focus pair.crew.handle 1).get (by decide +kernel), by simp, ?_⟩; decide +kernel

/-- `accessing` with a snapshot page and an open view over it. -/
def viewed (op : AccOp) (ph : Phase) : State :=
  let s := (accessing op 0x20000#64 ph).writeMem 0x120010 8 (placedEntry 0x200000 0x187)
  { s with views := [⟨1, 0x200000, 0x10000⟩] }

/-- StoreSteps: a store that asks, one that waits on a view, one that performs, at the last timestamp within F + LEASE and one past it. -/
theorem test_witness_store :
    let op := AccOp.st 0 0#32 8
    let s := accessing op 0x20000#64 .queued
    let u := accessing op 0x20000#64 (.asked 10)
    let v := accessing op 0x20000#64 (.asked 11)
    AtItsHome s (theAccess op 0x20000#64 .queued) (there s .store) ∧ op.isStore = true ∧ (∀ x ∈ there s .store, s.snapWaits x = false) ∧
    (AtItsHome u (theAccess op 0x20000#64 (.asked 10)) (there u .store) ∧ max 10 (askedStamp u 8 (there u .store)) ≤ u.floor + u.lease ∧
      EntriesApart 8 (there u .store) ∧ LanesApart 8 (there u .store)) ∧
    AtItsHome v (theAccess op 0x20000#64 (.asked 11)) (there v .store) ∧ v.floor + v.lease < max 11 (askedStamp v 8 (there v .store)) := by
  unfold AtItsHome Present EntriesApart LanesApart OpenHere; decide +kernel

theorem test_witness_store_view :
    AtItsHome (viewed (.st 0 0#32 8) .queued) (theAccess (.st 0 0#32 8) 0x20000#64 .queued) (there (viewed (.st 0 0#32 8) .queued) .store) ∧
    (∃ x ∈ there (viewed (.st 0 0#32 8) .queued) .store, (viewed (.st 0 0#32 8) .queued).snapWaits x = true) ∧
    (viewed (.st 0 0#32 8) .queued).wave.block = none := by
  unfold AtItsHome Present OpenHere; decide +kernel

theorem test_witness_atomic :
    let op := AccOp.atomic .add 5#7
    let s := accessing op 0x20000#64 (.asked 1)
    AtItsHome s (theAccess op 0x20000#64 (.asked 1)) (there s .atomic) ∧ s.snapWaits (xlOf s 0x20000#64 .atomic) = false ∧
    max 1 (askedStamp s 8 (there s .atomic)) ≤ s.floor + s.lease ∧ EntriesApart 8 (there s .atomic) ∧
    s.anyPoison (xlOf s 0x20000#64 .atomic).fpa 8 = false := by
  unfold AtItsHome Present EntriesApart OpenHere; decide +kernel

/-- FaultSteps: words that are none, of the vector class with an empty mask and otherwise; a fetch fault; a wave with a cause; a halted wave. -/
theorem test_witness_illegal_fetch :
    (Live base ∧ base.wave.maskEmpty = false ∧ vectorOp (opOf 0#32) = false) ∧
    (let s := baseS [(125#7, 0#64), (126#7, 0#64), (127#7, 0#64)]
     Live s ∧ vectorOp (opOf 0x20000003#32) = true ∧ s.wave.maskEmpty = true) ∧
    MayEnter handled ∧ handled.lookup 0 0 0x50000 ≠ .table ∧ Cause.xlateLd ≠ .halt := by unfold Live MayEnter CanEnter Live; decide +kernel

def stopWith (st : Stop) : State := { handled with wave := { handled.wave with stop := some st } }
def haltedWave : State := { handled with wave := { handled.wave with halting := some (1, .operand, 3), issued := 7 } }

theorem test_witness_handler_entry_steps :
    CanEnter { stopWith ⟨.operand, 0x10000#64, 0#64, 0#64, 0#64, 0#64, false⟩ with
      wave := { (stopWith ⟨.operand, 0x10000#64, 0#64, 0#64, 0#64, 0#64, false⟩).wave with stop := none } } ∧
    MayEnter haltedWave ∧ haltedWave.wave.halting = some (1, .operand, 3) ∧ 3 ≤ haltedWave.wave.issued := by
  unfold MayEnter CanEnter Live; decide +kernel

/-- A load and a store to a page that is not mapped, in a wave with a handler that cannot issue. -/
def faulting (op : AccOp) : State :=
  { handled with wave := { handled.wave with
      parked := true, issued := 2, nextId := 2, accs := [⟨1, 0x10000#64, 1, op, [request 0 0x50000#64 7#64 0#32], false, false, .queued, 0⟩] } }
def faultingAccess (op : AccOp) : Access := ⟨1, 0x10000#64, 1, op, [request 0 0x50000#64 7#64 0#32], false, false, .queued, 0⟩

theorem test_witness_load_fault :
    CanEnter (faulting (.ld 5#7 8 false)) ∧ (faulting (.ld 5#7 8 false)).wave.ret = none ∧ (faulting (.ld 5#7 8 false)).wave.accs = faultingAccess (.ld 5#7 8 false) :: [] ∧
    (faulting (.ld 5#7 8 false)).transFault (faultingAccess (.ld 5#7 8 false)) = some (.xlateLd, request 0 0x50000#64 7#64 0#32) ∧
    (faulting (.ld 5#7 8 false)).lookup 0 0 0x50000 ≠ .table ∧ (faulting (.ld 5#7 8 false)).runsOn = false ∧ (faulting (.ld 5#7 8 false)).focusCrew.dying = false ∧
    1 < (faulting (.ld 5#7 8 false)).wave.issued := by
  unfold CanEnter Live; decide +kernel

theorem test_witness_store_fault :
    MayTake (faulting (.st 0 0#32 8)) ∧ (faulting (.st 0 0#32 8)).access? 1 = some (faultingAccess (.st 0 0#32 8)) ∧
    (faulting (.st 0 0#32 8)).inTurn (faultingAccess (.st 0 0#32 8)) = true ∧
    (faultingAccess (.st 0 0#32 8)).xlate (faulting (.st 0 0#32 8)) (request 0 0x50000#64 7#64 0#32) = .error .xlateSt ∧
    (faulting (.st 0 0#32 8)).discards = false ∧ (faulting (.st 0 0#32 8)).crew.sfr.length < 16 ∧
    (accessing (.st 0 0#32 8) 0x20000#64 .queued).lanesBad (theAccess (.st 0 0#32 8) 0x20000#64 .queued) = [] ∧
    (let s := { faulting (.st 0 0#32 8) with wave := { (faulting (.st 0 0#32 8)).wave with block := some .kill } }
     Present s ∧ s.discards = true ∧ s.access? 1 = some (faultingAccess (.st 0 0#32 8)) ∧ s.inTurn (faultingAccess (.st 0 0#32 8)) = true ∧
      (faultingAccess (.st 0 0#32 8)).xlate s (request 0 0x50000#64 7#64 0#32) = .error .xlateSt) := by
  unfold Present MayTake MayEnter CanEnter Live; decide +kernel

/-- An operation as its word captures it, in execution on core 0, in a wave with a handler. -/
def mopOf (kind : MKind) (w1 w2 : Word) : MOp :=
  { (handled.capture kind false 0#64 w1 w2) with stage := .running }
def running (m : MOp) : State := handled.setCore 0 { handled.coreAt 0 with mops := [m] }
def mmaRun : MOp := mopOf .mma 0x400000000000#64 0x0001400000008000#64
def mldRun : MOp := mopOf .mld 0#64 0#64
def mstRun (rows : Nat) : MOp := { mopOf .mst 0#64 0#64 with rows := rows }

/-- Every byte of the untouched LM of core 0 can be read, and is 0. -/
theorem lm_bytes (since k : Nat) : (running mmaRun).operandByte 0 0 since false 0 k = .ok 0#8 ∧
    (running mmaRun).operandByte 0 0 since false 0x8000 k = .ok 0#8 := ⟨rfl, rfl⟩

/-- AccumulatorSteps: an `mma` that can read its operands, in a state where nothing raced. -/
theorem test_witness_mma_complete :
    Runs (running mmaRun) 0 mmaRun.crew 0 .mma mmaRun ∧
    OperandBytes (running mmaRun) 0 mmaRun 0 (mmaRun.args.K / mmaRun.args.L) (fun _ => 0#8) (fun _ => 0#8) := by
  refine ⟨by unfold Runs; decide +kernel, fun b _ _ => ⟨fun k _ => ?_, fun k _ => ?_⟩⟩
  · exact (lm_bytes _ k).1
  · exact (lm_bytes _ k).2

/-- AccumulatorSteps: a block that cannot be read, and the other operations in execution. -/
def poisoned (m : MOp) : State := { running m with lmPoison := [(0, true)] }

theorem test_witness_mma_suspend :
    Runs (poisoned mmaRun) 0 mmaRun.crew 0 .mma mmaRun ∧ Hears (poisoned mmaRun) mmaRun.crew mmaRun.wave ∧
    ((poisoned mmaRun).accOf mmaRun.crew 0).prog < mmaRun.args.K / mmaRun.args.L ∧
    (poisoned mmaRun).blockFault 0 mmaRun 0 = some (some .poison, 0, 0) ∧
    Runs (poisoned mldRun) 0 mldRun.crew 0 .mld mldRun ∧ Hears (poisoned mldRun) mldRun.crew mldRun.wave ∧
    (poisoned mldRun).mldFault 0 mldRun = some (some .poison, 0) := by
  unfold Runs Hears MayTake MayEnter CanEnter Live; decide +kernel

theorem test_witness_tile_steps :
    Runs (running (mopOf .mzero 0#64 0#64)) 0 1 0 .mzero (mopOf .mzero 0#64 0#64) ∧ Runs (running mldRun) 0 1 0 .mld mldRun ∧
    (∀ r k, (running mldRun).mldByte 0 mldRun r k = .ok 0#8) ∧ Runs (running (mstRun 128)) 0 1 0 .mst (mstRun 128) ∧
    ((running (mstRun 0)).coreAt 0).checkPending 1 0 = false ∧ (epwOf (mstRun 0).w1).okMst (mstRun 0).nf = true ∧
    (mstRun 0).w2.toNat + 128 * (epwOf (mstRun 0).w1).rowStride (mstRun 0).nf ≤ 2 ^ 23 ∧ lmGuard < (running (mstRun 0)).lmretn := by
  refine ⟨by unfold Runs; decide +kernel, by unfold Runs; decide +kernel, fun r k => rfl, ?_⟩
  unfold Runs; decide +kernel

/-- MatrixQueueAndCheckSteps: an operation whose tokens are granted, due and not due; one that starts; a request that the pool holds and one that it
does not. -/
def asking (m : MOp) (granted : Bool) : State := { handled with wave := { handled.wave with mreq := some (m, granted) } }
def requesting (ptok : Nat) : State := (asking mmaRun false).setDie 0 { Die.reset with ptok := ptok, requests := [(1, 0, 32)] }
def heldVersion : State :=
  let s := asking { mmaRun with stage := .queued } true
  { s with wave := { s.wave with block := some .version }, crew := { s.crew with state := .taking } }

theorem test_witness_queue_entry :
    (let s := asking { mmaRun with stage := .queued } true
     Live s ∧ s.wave.mreq = some ({ mmaRun with stage := .queued }, true) ∧ s.wave.block = none ∧ (s.crew.acc mmaRun.acc).vacant = false ∧
       s.mstLines { mmaRun with stage := .queued } = [] ∧ (s.coreAt 0).entries < 8 ∧
       mmaRun.ver = (s.crew.acc mmaRun.acc).ver + BitVec.ofNat 16 ((s.coreAt 0).ahead mmaRun.crew mmaRun.acc) ∧ (s.coreAt 0).mops = []) ∧
    (5#16 : BitVec 16) ≠ (handled.crew.acc 0).ver + BitVec.ofNat 16 ((handled.coreAt 0).ahead 1 0) ∧
    (Live heldVersion ∧ heldVersion.wave.mreq = some ({ mmaRun with stage := .queued }, true) ∧ heldVersion.wave.block = some .version ∧
      heldVersion.heldAtWait = true) ∧
    (let s := running { mmaRun with stage := .queued }
     (s.coreAt 0).mops = { mmaRun with stage := .queued } :: [] ∧ mmaRun.ver = (s.accOf mmaRun.crew mmaRun.acc).ver ∧ (s.coreAt 0).arrayAt ≤ s.ps) ∧
    (let s := running { mmaRun with stage := .queued, ver := 5#16 }
     ∀ q ∈ (s.coreAt 0).mops, q.stage = .queued → q.ver ≠ (s.accOf q.crew q.acc).ver) := by
  unfold Live; decide +kernel

theorem test_witness_tokens :
    (Live (requesting 32) ∧ ((requesting 32).dieAt 0).requests = (1, 0, 32) :: [] ∧ 32 ≤ ((requesting 32).dieAt 0).ptok ∧
      (requesting 32).crew.handle = 1 ∧ (requesting 32).wave.idx = 0 ∧ (requesting 32).wave.mreq = some (mmaRun, false)) ∧
    ((requesting 31).dieAt 0).requests = (1, 0, 32) :: [] ∧ ((requesting 31).dieAt 0).ptok < 32 ∧
    base.micros ≤ (base.dieAt 7).refills ∧ (({ base with ps := 1000000 } : State).dieAt 7).refills < ({ base with ps := 1000000 } : State).micros := by
  unfold Live; decide +kernel

/-- MatrixQueueAndCheckSteps: a check that runs, one that has found mismatches, with a spare row left and without; an `mst` of the accumulator
that runs; mismatches that name row 7 by two rows, or by one and the third run. -/
def checkRun (bad : List (Nat × Nat)) : MOp := { mmaRun with stage := .checking, bad := bad, rho := 5 }
def checking (bad : List (Nat × Nat)) (rows : Nat) : State :=
  handled.setCore 0 { handled.coreAt 0 with mops := [checkRun bad, { mstRun 2 with stored := [.lm 0] }], spareRows := rows }

theorem test_witness_checks :
    (((checking [] 0).coreAt 0).mop? 1 0 (fun q => q.stage == .checking) = some (checkRun []) ∧
      Hears (checking [] 0) 1 0 ∧ ((checking [] 0).coreAt 0).mop? 1 0 (fun q => q.stage == .running && q.kind == .mst) = some { mstRun 2 with stored := [.lm 0] }) ∧
    ((checking [(3, 7)] 0).coreAt 0).mop? 1 0 (fun q => q.stage == .checking) = some (checkRun [(3, 7)]) ∧
    (∀ q ∈ ((checking [(3, 7)] 0).coreAt 0).mops, q.stage ≠ .waiting) ∧
    ((checking [(3, 7)] 1).coreAt 0).spareRows < 2 ∧ 2 ≤ ((checking [(3, 7)] 2).coreAt 0).spareRows ∧ (checking [(3, 7)] 2).sparesUsed (dieOf 0) < 2 := by
  unfold Hears MayTake MayEnter CanEnter Live; decide +kernel

theorem test_witness_named_rows :
    NamesRow (checkRun [(3, 7), (3, 2)]) none 7 ∧ NamesRow (checkRun [(3, 127)]) (some true) 4 ∧ NamesRow (checkRun [(3, 127)]) (some false) 127 ∧
    ¬ ∃ r, NamesRow (checkRun [(3, 7), (4, 2)]) (some true) r := by
  refine ⟨.inl ⟨3, by decide, by decide⟩, .inr ⟨3, 127, by decide⟩, .inr ⟨3, 127, by decide⟩, ?_⟩
  rintro ⟨r, ⟨n, h, k⟩ | ⟨n, q, h, -⟩⟩
  · simp only [checkRun, List.mem_cons, List.not_mem_nil, or_false, Prod.mk.injEq] at h k
    omega
  · simp [checkRun] at h

/-- CopySteps: a copy of one word from LM to memory, from memory to LM, and to a page that is not mapped, in flight with its tag BUSY. -/
def flying (c : Cmd) : State :=
  let s := withData base
  { s with cmds := [c], nextCmd := 2, crew := { s.crew with tags := [(0, .busy)] } }
def cmd1 (kind : CmdKind) (xcw src dst : Word) (done : Nat) : Cmd :=
  { cmdOf (copying xcw src dst) kind 1#7 2#7 3#7 with id := 1, done := done }
def lmToMem : Cmd := cmd1 .copy 0x10000000004#64 0#64 0x20000#64 0
def memToLm : Cmd := cmd1 .copy 0x4#64 0x20000#64 0#64 0
def toNowhere : Cmd := cmd1 .copy 0x10000000004#64 0#64 0x50000#64 0
def packNow : Cmd := cmd1 .pack 0x0004230000200001#64 0#64 0x1000#64 0

/-- The first as a streaming copy. -/
def streaming : Cmd := cmd1 .copy 0x18000000004#64 0#64 0x20000#64 0

/-- The place of the destination word. -/
def destX (c : Cmd) : Xl := xlOf (flying c) 0x20000#64 .store
def srcX : Xl := xlOf (flying memToLm) 0x20000#64 .load

theorem test_witness_copy_out :
    ∀ c ∈ [lmToMem, streaming], LastWord (flying c) c ∧ isOk ((flying c).cmdSides c 0) (some (.lm 0, .mem 0x20000)) = true ∧
      (flying c).cmdAlloc c 0 4 = true ∧ (flying c).lmExpired (lmLineOf 0 0) = false ∧ (flying c).lmPoisonAt 0 0 = false ∧
      (flying c).lmPick c.since 0 0 4 = bytesLE 4 0 ∧ isOk ((flying c).translate 0 0 0x20000 .store false) (destX c) = true ∧
      (flying c).snapWaits (destX c) = false ∧ (flying c).homeOpen (some c.owner) (destX c) = true ∧
      (flying c).placeDue c.id ((flying c).cmdPts c) (.mem (destX c).fpa) 4 = true ∧ EntryElsewhere (destX c) ∧ (destX c).fpa = 0x200000 ∧
      ((xcwOf c.xcw).st = true ↔ c = streaming) := by
  simp only [List.forall_mem_cons, List.not_mem_nil, false_implies, implies_true, and_true]
  unfold LastWord EntryElsewhere
  refine ⟨?_, ?_⟩ <;> decide +kernel

theorem test_witness_copy_in :
    LastWord (flying memToLm) memToLm ∧ (flying memToLm).cmdSides memToLm 0 = .ok (some (.mem 0x20000, .lm 0)) ∧
    (flying memToLm).cmdAlloc memToLm 0 4 = true ∧ (flying memToLm).translate 0 0 0x20000 .load false = .ok srcX ∧
    (flying memToLm).homeOpen (some memToLm.owner) srcX = true ∧ (flying memToLm).isPoisoned srcX.fpa = false ∧ EntryElsewhere srcX := by
  unfold LastWord EntryElsewhere
  refine ⟨?_, isOk_eq _ _ ?_, ?_, isOk_eq _ _ ?_, ?_⟩ <;> decide +kernel

theorem test_witness_copy_faults :
    (flying toNowhere).cmd? 1 = some toNowhere ∧ toNowhere.done < toNowhere.total ∧
    (flying toNowhere).cmdFault toNowhere 0 = some .xlateSt ∧ toNowhere.crew = (flying toNowhere).crew.handle ∧ toNowhere.crew ≠ 0 ∧
    ((flying toNowhere).spoil toNowhere).isSome = true ∧ (flying lmToMem).cmdFault lmToMem 0 = none := by decide +kernel

/-- A streaming copy that has landed its line, with and without its tag completed; a copy with every word written; a packing. -/
def landed (tagged : Bool) : Cmd := { streaming with done := 1, pend := [(.mem 0x200000, bytesLE 4 7, [])], tagged := tagged }

theorem test_witness_copy_ends :
    (∀ b, (flying (landed b)).cmd? 1 = some (landed b) ∧ (landed b).total ≤ (landed b).done ∧ (flying (landed b)).regions = [] ∧
      (landed b).pend = (.mem 0x200000, bytesLE 4 7, []) :: [] ∧ (flying (landed b)).placeFree (landed b) (.mem 0x200000) 4 = true) ∧
    (∀ c ∈ [{ lmToMem with done := 1 }, landed false], Live (flying c) ∧ (flying c).cmd? 1 = some c ∧ c.total ≤ c.done ∧ c.tagged = false ∧
      (xcwOf c.xcw).fe = false ∧ c.crew = (flying c).crew.handle ∧ c.crew ≠ 0) ∧
    ((flying (landed true)).cmd? 1 = some (landed true) ∧ (landed true).tagged = true) ∧
    (flying packNow).cmd? 1 = some packNow ∧ packNow.done < packNow.total ∧
    (flying packNow).runPacked packNow = .ok (valOf ((flying packNow), 0) ((flying packNow).runPacked packNow)) := by
  unfold Live
  refine ⟨?_, ?_, ?_, ?_, ?_, okB_eq _ _ ?_⟩ <;> decide +kernel

/-- RegionSteps: a report of a read and of a write; a rival that has read, written, or neither; a waiting `rgbind`; a commit; a region that is
open for a millisecond, and for more. -/
def mark0 : WMark := ⟨false, false, 0, 2, []⟩
def reporting (wr : Bool) : Region := { region0 with id := 1, marks := [(5, mark0)], reports := [(5, wr)] }
def rival (m : WMark) : Region := { region0 with marks := [(5, m)] }

theorem test_witness_region_reports :
    (reporting true).state = 1 ∧ (reporting true).reports = (5, true) :: [] ∧ (reporting true).mark? 5 = some mark0 ∧ mark0.dirty = false ∧
    mark0.read = false ∧ (rival ⟨true, false, 0, 0, []⟩).mark? 5 = some ⟨true, false, 0, 0, []⟩ ∧
    (rival ⟨false, true, 3, 0, []⟩).mark? 5 = some ⟨false, true, 3, 0, []⟩ ∧ mark0.boundAt < 3 ∧ (rival mark0).mark? 5 = some mark0 ∧
    (rival mark0).id < (reporting true).id ∧ (rival mark0).preds = [] ∧ (rival mark0).reports = [] := by decide +kernel

/-- `withRegion` whose wave waits at a `rgbind` of S[1] to S[3], or in `rgend`. -/
def bindWord : Lane := 0b0_11010001_0000001_0000010_0000011_00#32
def waitingAt (r : Region) (b : Block) : State :=
  let s := (withRegion r).writeBytes 0x130000 (bytesOfWord bindWord)
  { s with wave := { s.wave with block := some b } }

noncomputable def bindDone : State := nextOf (exec (.rgbind false 1#7 2#7 3#7) (waitingAt region0 (.rgbind 1)))

theorem test_witness_region_bind :
    Live (waitingAt region0 (.rgbind 1)) ∧ decode (waitingAt region0 (.rgbind 1)).wordAtPc = .ok (.rgbind false 1#7 2#7 3#7) ∧
    exec (.rgbind false 1#7 2#7 3#7) (waitingAt region0 (.rgbind 1)) = .next bindDone ∧
    bindDone.crew.handle = (waitingAt region0 (.rgbind 1)).crew.handle ∧ bindDone.wave.idx = 0 ∧ bindDone.wave.status ≠ .absent := by
  unfold Live; refine ⟨?_, ?_, nextB_eq _ ?_, ?_⟩ <;> decide +kernel

theorem test_witness_region_ends :
    (Live (waitingAt dirtyRegion .rgend) ∧ (waitingAt dirtyRegion .rgend).region? dirtyRegion.id = some dirtyRegion ∧
      dirtyRegion.crew = (waitingAt dirtyRegion .rgend).crew.handle ∧ (waitingAt dirtyRegion .rgend).crew.handle ≠ 0 ∧
      dirtyRegion.wave = (waitingAt dirtyRegion .rgend).wave.idx ∧ CommitsNow (waitingAt dirtyRegion .rgend) dirtyRegion) ∧
    1000000 < ({ withRegion region0 with ps := 1000001000 } : State).nanos - region0.since ∧
    ({ withRegion region0 with ps := 1000000999 } : State).nanos - region0.since ≤ 1000000 := by
  unfold Live CommitsNow; decide +kernel

/-- HomeAndClockSteps: the last core and line; a held line; a line with and without an owner; a walk that is kept, one that meets an unreadable
entry, one that finds nothing. -/
def aperture : State :=
  (((withData base).setReg 0x10808 0x10000#64).setReg 0x10800 0x100000#64).setReg 0x10810 0x200000#64 |>.setReg 0x10818 7#64
def held (o : Owner) : State := aperture.setLine 0x4000 ⟨0, 0, some o, none⟩
def owned : State := held (.engine 1)
/-- A write of an engine that waits for its grant. -/
def unitPut : UnitWrite := ⟨0x200020, true, .put 0 0 [7#8]⟩
def putting (lease : Nat) : State := { aperture.setLine 0x4000 ⟨0, lease, none, none⟩ with units := [unitPut] }
def snapped : State := { aperture with views := [⟨1, 0x200000, 0x10000⟩] }

theorem test_witness_floor_tick :
    (NothingHeld base ∧ base.units = []) ∧ (NothingHeld (putting 0) ∧ (ticked (putting 0)).unitDue unitPut = true) ∧
    (NothingHeld (putting 50) ∧ (ticked (putting 50)).unitDue unitPut = false) := by
  unfold NothingHeld; decide +kernel

theorem test_witness_home_steps :
    segments.heldLine (0 * 32768 + 1) = true ∧ segments.heldLine (255 * 32768 + 32767) = false ∧
    ({ segments with lmretn := 8 } : State).lmExpired 0 = true ∧ segments.lmExpired 0 = false ∧ (owned.line 0x4000).owner = some (.engine 1) ∧
    (aperture.line 0x4000).owner = none ∧ ((held (.peer 3)).line 0x4000).owner = some (.peer 3) ∧
    (((held .host).line 0x4000).owner = some .host ∧ (held .host).memb.held = []) ∧
    (base.ctxEnabled 0 = true ∧ base.tlb = [] ∧ (∃ l, base.walk 0 0x10000 = .leaf l) ∧ (base.setPoison 0 true).walk 0 0x10000 = .table ∧
      base.walk 0 0x50000 = .fail ∧ base.ctxEnabled 1 = false) := by
  refine ⟨by decide +kernel, by decide +kernel, by decide +kernel, by decide +kernel, by decide +kernel, by decide +kernel, by decide +kernel,
    by decide +kernel, by decide +kernel, by decide +kernel, ⟨⟨BitVec.ofNat 64 (placedEntry 0x130000 0xF), 0x120008, 16⟩, by decide +kernel⟩,
    by decide +kernel, by decide +kernel, by decide +kernel⟩

/-- HomeAndClockSteps: the host gives a line up to an access that still waits, and to one that is gone; a walk for a load, which the code page
allows, and for a store, which it does not. -/
def backing : State :=
  let s := accessing (.ld 5#7 8 false) 0x20000#64 .queued
  s.setLine 0x4000 ⟨0, 0, some (.hostBack s.crew.handle 0 1), none⟩

theorem test_witness_line_given_up :
    ((backing.line 0x4000).owner = some (.hostBack 1 0 1) ∧ backing.accessAt 1 0 1 = true) ∧
    (((held (.hostBack 1 0 9)).line 0x4000).owner = some (.hostBack 1 0 9) ∧ (held (.hostBack 1 0 9)).accessAt 1 0 9 = false ∧
      (held (.hostBack 1 0 9)).memb.held = []) ∧
    (base.walkAccess 0 0 0x10000 false).isSome = true ∧ base.walkAccess 0 0 0x50000 true = none := by decide +kernel

theorem test_witness_host_access :
    aperture.hostTarget 0xF0000 4 false = none ∧ aperture.hostTarget 0x100000 0x10000 false = some (0, 0x200000) ∧
    aperture.hostTarget 0x100000 0x10001 true = none ∧ aperture.openTo .host (aperture.hbm 0x200000) 4 = true ∧
    owned.hostTarget 0x100000 4 false = some (0, 0x200000) ∧ owned.openTo .host (owned.hbm 0x200000) 4 = false ∧
    (aperture.hostTarget 0x100000 4 true = some (0, 0x200000) ∧ aperture.hostDue (aperture.hbm 0x200000) 4 = true ∧
      aperture.standsBehind (.host (aperture.hbm 0x200000) [1#8, 2#8, 3#8, 4#8] false) aperture.memb.held = false) ∧
    ({ aperture with linkPts := 11 } : State).hostDue (aperture.hbm 0x200000) 4 = false ∧
    (snapped.hostDue (snapped.hbm 0x200000) 4 = false ∧ snapped.hostTarget 0x100000 4 true = some (0, 0x200000)) ∧
    (aperture.hostTarget 0xFFF8 8 false = some (2, 0xFFF8) ∧ regAligned 0xFFF8 8 = true) ∧ aperture.memb.held = [] := by decide +kernel

/-- HomeAndClockSteps: the host takes a line of this device, and reads, writes and takes its own memory; a view is released with and without a
write that waits for it. -/
def heldWrite : State :=
  { snapped with memb := { snapped.memb with held := [.host (snapped.hbm 0x200000) [1#8, 2#8, 3#8, 4#8] false] } }

theorem test_witness_host_takes :
    (aperture.hostTarget (0x100000 / 128 * 128) 128 true = some (0, 0x200000) ∧ aperture.hostDue (aperture.hbm (0x200000 / 128 * 128)) 128 = true) ∧
    aperture.openTo .host (aperture.hostAddr 0x4000) 64 = true ∧ aperture.hostDue (aperture.hostAddr 0x4000) 4 = true ∧
    aperture.standsBehind (.hostMem (.ownWrite 0x4000 [1#8])) aperture.memb.held = false ∧
    aperture.hostDue (aperture.hostAddr (0x4000 / 128 * 128)) 128 = true ∧
    aperture.standsBehind (.hostMem (.ownTake 0x4000)) aperture.memb.held = false ∧ snapped.memb.held = [] ∧
    (heldWrite.memb.held = [.host (snapped.hbm 0x200000) [1#8, 2#8, 3#8, 4#8] false] ∧
      { heldWrite with views := heldWrite.views.filter (fun v => v.spare != 1) }.hostDue (snapped.hbm 0x200000) 4 = true) := by decide +kernel

/-- HostSetUpSteps: contexts 63 and 64, enabled and not; an open region with a page in the range of an invalidation; an invalidation under way and none; communicators 63, free and configured; a register
write that is not aligned. -/
theorem test_witness_host_set_up :
    (base.ready = true ∧ State.reset.ready = false) ∧ (base.ctxEnabled 63 = false ∧ base.ctxEnabled 0 = true) ∧ (1#64 : Word).getLsbD 0 = true ∧
    (Live base ∧ base.crew.ctx = 0 ∧ base.crew.handle ≠ 0 ∧ base.crew.state ≠ .ended ∧ base.crews = []) ∧
    ((base.ctxReg 63 0x10).getLsbD 63 = true ∧ base.regions = []) ∧
    ((withRegion dirtyRegion).regions = [dirtyRegion] ∧ ((withRegion dirtyRegion).ctxReg 0 0x10).getLsbD 63 = true ∧ dirtyRegion.state = 1 ∧ dirtyRegion.ctx = 0 ∧
      (⟨0x30000, 0x210000, 0, 4⟩ : RPiece) ∈ dirtyRegion.pieces) ∧ ((base.setReg (ctxOff 63 0x10) 0#64).ctxReg 63 0x10).getLsbD 63 = false ∧
    base.translatedLeft 0 = false ∧ (accessing (.st 0 0#32 8) 0x20000#64 (.asked 1)).translatedLeft 0 = true ∧
    (base.commCfg 63).getLsbD 63 = false ∧ ((withComm base).commCfg 0).getLsbD 63 = true ∧ regAligned 0x10004 8 = false ∧ regAligned 0 2 = false := by
  unfold Live; decide +kernel

theorem test_witness_region_bind_ended :
    Live (waitingAt { region0 with state := 2 } (.rgbind 1)) ∧
    decode (waitingAt { region0 with state := 2 } (.rgbind 1)).wordAtPc = .ok (.rgbind false 1#7 2#7 3#7) ∧
    (waitingAt { region0 with state := 2 } (.rgbind 1)).openRegion = some { region0 with state := 2 } ∧ ({ region0 with state := 2 } : Region).state ≠ 1 := by
  unfold Live; decide +kernel

/-- A stage of one wave that forms one crew, or takes the records of the queue at an address. -/
def stageOf (kind : Nat) (arg : Word) : Stage where
  prog := 0x10000#64
  waves := 1
  vregs := 64
  accs := 0
  prio := 0
  lmb := 256
  arg := arg
  floor := 0
  ceil := 1
  weight := 1
  kind := kind
  qnum := 3
  target := 1
  formed := 0
  broken := false
  cores := []
  draining := []
  ended := false
  rose := false

def flowing (s : State) (st : Stage) : State := { s with flows := [⟨0, 0, [st]⟩] }
def bidOf (st : Stage) : Bid := ⟨0, 0, 0, st, some (0, 65536), none⟩

/-- PlacementSteps: a sample that is due and one that is not; a stage that wins its die; one whose queue is broken. -/
theorem test_witness_placement :
    (let s := { flowing base (stageOf 2 1#64) with ps := 10 ^ 10 }
     s.samples < s.nanos / 10000 ∧ (stageOf 2 1#64).ended = false ∧ (stageOf 2 1#64).floor ≤ (stageOf 2 1#64).ceil ∧
       (stageOf 2 1#64).floor ≤ s.availableCores ∧ s.stageDone ⟨0, 0, [stageOf 2 1#64]⟩ 0 (stageOf 2 1#64) = false) ∧
    base.nanos / 10000 ≤ base.samples ∧
    ((flowing base (stageOf 2 1#64)).brokenStage = none ∧
      (flowing base (stageOf 2 1#64)).reserveCores.winner 0 = some (bidOf (stageOf 2 1#64)) ∧
      1 ≤ ((flowing base (stageOf 2 1#64)).slotsFree 0).length) ∧
    (flowing base (stageOf 1 0x50000#64)).brokenStage = some (0, 0, stageOf 1 0x50000#64) := by decide +kernel

/-- PlacementSteps: a stage that pops a record. -/
def popping : State := flowing (withQueue 1 2 1 4) (stageOf 1 0x20000#64)

theorem test_witness_pop :
    popping.brokenStage = none ∧ popping.reserveCores.winner 0 = some (bidOf (stageOf 1 0x20000#64)) ∧ 1 ≤ (popping.slotsFree 0).length ∧
    popping.translate 0 0 0x20000 .atomic false = .ok (hdrX (withQueue 1 2 1 4)) ∧
    popping.stageHdr 0 (stageOf 1 0x20000#64) = some (0x200000, (withQueue 1 2 1 4).hdr 0x200000) ∧ (hdrX (withQueue 1 2 1 4)).fpa = 0x200000 ∧
    ((withQueue 1 2 1 4).hdr 0x200000).rsz ≤ 256 ∧ ((withQueue 1 2 1 4).hdr 0x200000).head = 1 ∧
    popping.translate 0 0 (((withQueue 1 2 1 4).hdr 0x200000).slotVa 1) .load false = .ok (slotX (withQueue 1 2 1 4) 0x21040#64 .load) ∧
    fpaDev (slotX (withQueue 1 2 1 4) 0x21040#64 .load).fpa = fpaDev (hdrX (withQueue 1 2 1 4)).fpa := by
  refine ⟨?_, ?_, ?_, isOk_eq _ _ ?_, ?_, ?_, ?_, ?_, isOk_eq _ _ ?_, ?_⟩ <;> decide +kernel

/-- PlacementSteps: a stage below its floor whose crew, of 17 accumulators, fits on no core. -/
def wide : Stage := { stageOf 2 1#64 with accs := 17, floor := 1 }

theorem test_witness_reservation :
    (flowing base wide).brokenStage = none ∧ (flowing base wide).needsCore ⟨0, 0, [wide]⟩ 0 wide = true ∧
    (flowing base wide).reserveCores.winner 0 = none ∧ Reservable (flowing base wide) wide 255 := by
  unfold Reservable; decide +kernel

/-- A launch queue of context 0 at 0x20000 with one record, at 0x21100, of zeros. -/
def launchQueue : State := ((withQueue 1 2 3 0).writeMem 0x200014 4 256).setReg (ctxOff 0 0x18) 0x20000#64
def launchX : Xl := xlOf launchQueue 0x20000#64 .atomic

theorem test_witness_launch_queue :
    LaunchWaits launchQueue 0 launchX ∧ (launchX.fpa + 128 ≤ launchX.addr ∨ launchX.addr + 8 ≤ launchX.fpa) ∧
    launchQueue.translate 0 0 ((launchQueue.hdr launchX.fpa).slotVa (launchQueue.hdr launchX.fpa).head) .load false =
      .ok (xlOf launchQueue 0x21100#64 .load) ∧ launchQueue.readOpen (xlOf launchQueue 0x21100#64 .load) 256 = true ∧
    launchQueue.anyPoison (xlOf launchQueue 0x21100#64 .load).fpa 256 = false ∧
    badEntry ((List.range 8).map (entryOf (launchQueue.readBytes (xlOf launchQueue 0x21100#64 .load).fpa 256))) = some 0 ∧
    LaunchWaits (launchQueue.setPoison 0x201100 true) 0 launchX ∧ (launchQueue.setPoison 0x201100 true).anyPoison 0x201100 256 = true ∧
    (launchQueue.setPoison 0x201100 true).readOpen (xlOf launchQueue 0x21100#64 .load) 256 = true ∧
    base.ctxReg 0 0x18 = 0#64 ∧ base.ctxEnabled 63 = false := by unfold LaunchWaits; decide +kernel

/-- The same with a sound record: its flow is launched. -/
def soundQueue : State := launchQueue.writeBytes 0x201100 (flowRecord 1)

theorem test_witness_launch_accepted :
    LaunchWaits soundQueue 0 launchX ∧
    soundQueue.translate 0 0 ((soundQueue.hdr launchX.fpa).slotVa (soundQueue.hdr launchX.fpa).head) .load false =
      .ok (xlOf soundQueue 0x21100#64 .load) ∧ soundQueue.readOpen (xlOf soundQueue 0x21100#64 .load) 256 = true ∧
    soundQueue.anyPoison (xlOf soundQueue 0x21100#64 .load).fpa 256 = false ∧
    ((launchBase soundQueue launchX (xlOf soundQueue 0x21100#64 .load)).launchFlow 0 0
      (soundQueue.readBytes (xlOf soundQueue 0x21100#64 .load).fpa 256)).2.toNat % 2 ^ 16 = 0 := by
  unfold LaunchWaits
  refine ⟨?_, isOk_eq _ _ ?_, ?_, ?_, ?_⟩ <;> decide +kernel

/-- PreemptionSteps: a crew without and with a request, a halted one, a request that has been entered for; times at both sides of PEDL and of the
report; a window that is over and one that is open; a remote load. -/
def pre (p : Preempt) (st : CrewState) (ps : Nat) : State := { base with ps := ps, crew := { base.crew with preempt := some p, state := st } }

theorem test_witness_requests :
    (Here base ∧ NoBarOver base ∧ base.crew.preempt = none ∧ base.crew.state = .running) ∧ (Here inHandler ∧ NoBarOver inHandler ∧ inHandler.crew.preempt = none ∧ inHandler.crew.state = .halted) ∧
    (Asked (pre ⟨0, false, false, 0, none, false⟩ .taking 0) ⟨0, false, false, 0, none, false⟩ ∧ (pre ⟨0, false, false, 0, none, false⟩ .taking 0).crew.state = .taking) ∧
    (Here (pre ⟨0, true, true, 0, none, false⟩ .taking 0) ∧ (pre ⟨0, true, true, 0, none, false⟩ .taking 0).crew.preempt = some ⟨0, true, true, 0, none, false⟩) ∧
    base.pedl 0 = 100 ∧
    (Asked (pre ⟨0, false, false, 0, none, false⟩ .taking 100001000) ⟨0, false, false, 0, none, false⟩ ∧
      0 + 1000 * 100 < (pre ⟨0, false, false, 0, none, false⟩ .taking 100001000).nanos) ∧
    (pre ⟨0, false, false, 0, none, false⟩ .taking 100000000).nanos ≤ 0 + 1000 * 100 ∧
    0 + 1000 * 100 + 10000000 ≤ (pre ⟨0, false, false, 0, none, false⟩ .taking 10100000000).nanos := by
  unfold Asked Here Present NoBarOver; decide +kernel

/-- PreemptionSteps: a crew that is SAVED, and one whose wave has waited out its `bar`. -/
def pastBar : State := { phase5 with wave := { phase5.wave with block := some (.bar 7 4#16) } }

theorem test_witness_late_requests :
    (let s := { base with crew := { base.crew with state := .saved } }; NoBarOver s ∧ s.crew.preempt = none ∧ s.crew.state = .saved) ∧
    Here pastBar ∧ pastBar.wave.barOver pastBar.crew = true := by
  unfold Here Present NoBarOver; decide +kernel

/-- A load from another member of the pod, outstanding. -/
def remoteLoading : State :=
  let s := accessing (.ld 5#7 8 false) 0x20000#64 .queued
  (({ s with ps := 10 ^ 7, members := [0, 1], pod := some [0] } : State).writeMem 0x120010 8 (2 ^ 42 + 0x200000 + 7))

theorem test_witness_windows_and_remote :
    Present base ∧ base.wave.npreEnd ≤ base.nanos ∧ (baseW (fun w => { w with npreEnd := 1 })).nanos < (baseW (fun w => { w with npreEnd := 1 })).wave.npreEnd ∧
    base.remoteLoad = false ∧ (Live remoteLoading ∧ remoteLoading.wave.block = none ∧ remoteLoading.remoteLoad = true) := by
  unfold Present Live; decide +kernel

/-- Save slot 0 of context 0 at 0x40000, on two pages of plain memory, and a crew that stands before its taking. -/
def withSlot (s : State) : State :=
  (((((s.writeMem 0x120020 8 (placedEntry 0x300000 7)).writeMem 0x120028 8 (placedEntry 0x310000 7)).setReg (ctxOff 0 0x30) 0x40000#64).setReg
    (ctxOff 0 0x38) 0x20000#64).setReg (ctxOff 0 0x40) 1#64)
def standing (stopped : Bool) : State :=
  let s := withSlot handled
  { s with wave := { s.wave with stopped := stopped }, crew := { s.crew with state := .taking, lmSize := 256, preempt := some ⟨0, false, false, 0, none, false⟩ } }
def standingCrew (stopped : Bool) : Crew := (standing stopped).focusCrew
def slotPs : List (Xl × Nat × Nat) :=
  ((standing true).slotPieces 0 0 .store (slotParts 0x40000 256)).getD []

theorem test_witness_taking :
    MayBeTaken (standing true) 1 (standingCrew true) ⟨0, false, false, 0, none, false⟩ 0 slotPs ∧
    slotPs.Pairwise (fun q z => q.1.fpa + q.2.2 ≤ z.1.fpa ∨ z.1.fpa + z.2.2 ≤ q.1.fpa) ∧
    (∀ q ∈ slotPs, ∀ z ∈ slotPs, q.1.fpa + q.2.2 ≤ z.1.addr ∨ z.1.addr + 8 ≤ q.1.fpa) ∧ slotPs.length = 2 ∧
    ((standing false).crewAt 1 = some (standingCrew false) ∧ ∃ w ∈ (standingCrew false).others, w.status = .live ∧ (standing false).stands (standingCrew false) w = false) := by
  unfold MayBeTaken; decide +kernel

/-- A SAVED crew of the count stage, and in slot 0 the control block of one wave (R363): its shape, MEMBER of each barrier, and the wave's entry. -/
def savedCrew : Crew := { standingCrew true with state := .saved, preempt := none, slot := some 0, naccs := 0 }
def returned : State :=
  let s := withSlot { base with wave := Wave.fresh, crew := Crew.fresh, crews := [savedCrew], flows := [⟨0, 0, [{ stageOf 2 1#64 with formed := 1 }]⟩] }
  let u := (List.range 8).foldl (fun s b => s.writeMem (0x300100 + 32 * b) 1 1) (s.writeMem 0x300010 8 0x10000000201)
  ((u.writeMem 0x301000 1 1).writeMem 0x301008 8 0x10000).writeMem 0x301038 8 0x10000
/-- The control block of `returned`, run by run: 8,192 bytes. -/
def savedBytes : List Byte :=
  List.replicate 16 0#8 ++ ([1#8, 2#8, 0#8, 0#8, 0#8, 1#8] ++ (List.replicate 234 0#8 ++ ((1#8 :: List.replicate 31 0#8) ++ ((1#8 ::
    List.replicate 31 0#8) ++ ((1#8 :: List.replicate 31 0#8) ++ ((1#8 :: List.replicate 31 0#8) ++ ((1#8 :: List.replicate 31 0#8) ++ ((1#8 ::
    List.replicate 31 0#8) ++ ((1#8 :: List.replicate 31 0#8) ++ ((1#8 :: List.replicate 3615 0#8) ++ ((1#8 :: List.replicate 9 0#8) ++ ((1#8 ::
    List.replicate 47 0#8) ++ (1#8 :: List.replicate 4037 0#8)))))))))))))

theorem readBytes_add (s : State) (a m n : Nat) : s.readBytes a (m + n) = s.readBytes a m ++ s.readBytes (a + m) n := by
  simp [State.readBytes, List.range_add, Nat.add_assoc]

theorem find_zero (m : Map Byte) (a n k : Nat) (h : m.all (fun e => decide (e.1 < a) || decide (a + n ≤ e.1)) = true) (hk : k < n) :
    Map.find memDefault m (a + k) = 0#8 := by
  induction m with
  | nil => rfl
  | cons e r ih =>
    obtain ⟨x, v⟩ := e
    simp only [List.all_cons, Bool.and_eq_true, Bool.or_eq_true, decide_eq_true_eq] at h
    rw [Map.find, if_neg (by omega), ih h.2]

theorem readBytes_zero (s : State) (a n : Nat) (h : s.mem.all (fun e => decide (e.1 < a) || decide (a + n ≤ e.1)) = true) :
    s.readBytes a n = List.replicate n 0#8 := by
  apply List.ext_getElem
  · simp [State.readBytes]
  · intro i h1 h2
    simp only [State.readBytes, List.getElem_map, List.getElem_range, List.getElem_replicate, State.byteAt]
    exact find_zero s.mem a n i h (by simpa using h2)

theorem run_zero (a n : Nat) (h : returned.mem.all (fun e => decide (e.1 < a) || decide (a + n ≤ e.1)) = true) :
    returned.readBytes a n = List.replicate n 0#8 := readBytes_zero returned a n h

theorem run_head (a n : Nat) (h : returned.mem.all (fun e => decide (e.1 < a + 1) || decide (a + 1 + n ≤ e.1)) = true)
    (h1 : returned.byteAt a = 1#8) : returned.readBytes a (1 + n) = 1#8 :: List.replicate n 0#8 := by
  rw [readBytes_add, run_zero _ _ h]; simp [State.readBytes, h1]

theorem saved_block_bytes : returned.readBytes 0x300000 8192 = savedBytes := by
  rw [show 8192 = 16 + (6 + (234 + ((1 + 31) + ((1 + 31) + ((1 + 31) + ((1 + 31) + ((1 + 31) + ((1 + 31) + ((1 + 31) + ((1 + 3615) +
    ((1 + 9) + ((1 + 47) + (1 + 4037))))))))))))) from rfl]
  rw [readBytes_add _ _ 16, readBytes_add _ _ 6, readBytes_add _ _ 234]
  iterate 7 rw [readBytes_add _ _ (1 + 31)]
  rw [readBytes_add _ _ (1 + 3615), readBytes_add _ _ (1 + 9), readBytes_add _ _ (1 + 47)]
  rw [run_zero _ 16 (by decide +kernel), run_zero _ 234 (by decide +kernel), run_head _ 31 (by decide +kernel) (by decide +kernel),
    run_head _ 31 (by decide +kernel) (by decide +kernel), run_head _ 31 (by decide +kernel) (by decide +kernel),
    run_head _ 31 (by decide +kernel) (by decide +kernel), run_head _ 31 (by decide +kernel) (by decide +kernel),
    run_head _ 31 (by decide +kernel) (by decide +kernel), run_head _ 31 (by decide +kernel) (by decide +kernel),
    run_head _ 3615 (by decide +kernel) (by decide +kernel), run_head _ 9 (by decide +kernel) (by decide +kernel),
    run_head _ 47 (by decide +kernel) (by decide +kernel), run_head _ 4037 (by decide +kernel) (by decide +kernel),
    show returned.readBytes (0x300000 + 16) 6 = [1#8, 2#8, 0#8, 0#8, 0#8, 1#8] by decide +kernel]
  rw [savedBytes]

theorem readSlot_of (s : State) (die ctx va off n a : Nat) (x : Xl) (bs : List Byte)
    (h : s.slotPieces die ctx .load (pageParts 3 (va + off) off n) = some [(x, off, n)]) (ha : x.fpa = a) (hp : s.anyPoison a n = false)
    (hb : s.readBytes a n = bs) : s.readSlot die ctx va off n = some bs := by
  subst ha; simp [State.readSlot, h, hp, hb]

theorem saved_block : returned.readSlot 0 0 0x40000 0 8192 = some savedBytes :=
  readSlot_of returned 0 0 0x40000 0 8192 0x300000 (xlOf returned 0x40000#64 .load) savedBytes (by decide +kernel) (by decide +kernel) (by decide +kernel)
    saved_block_bytes

theorem saved_map : returned.readSlot 0 0 0x40000 8192 2 = some (List.replicate 2 0#8) :=
  readSlot_of returned 0 0 0x40000 8192 2 0x302000 (xlOf returned 0x42000#64 .load) _ (by decide +kernel) (by decide +kernel) (by decide +kernel)
    (run_zero _ _ (by decide +kernel))

theorem saved_records : returned.readSlot 0 0 0x40000 0x12000 8192 = some (List.replicate 8192 0#8) :=
  readSlot_of returned 0 0 0x40000 0x12000 8192 0x312000 (xlOf returned 0x52000#64 .load) _ (by decide +kernel) (by decide +kernel) (by decide +kernel)
    (run_zero _ _ (by decide +kernel))

theorem saved_ok : blockOk savedBytes = true := by decide +kernel

theorem saved_entries : ∀ i, i < fieldAt savedBytes 0x10 1 → fieldAt savedBytes (0x1000 + 256 * i) 1 = 1 →
    fieldAt savedBytes (0x1038 + 256 * i) 8 ≠ 0 := by decide +kernel

theorem saved_first : (List.range 8).find? (fun d => match returned.winner d with
    | some b => b.flow = savedCrew.flow && b.idx = savedCrew.stage && b.back.isSome | none => false) = some 0 ∧
    returned.coreFor 0 { stageOf 2 1#64 with formed := 1 } (blockShape savedBytes) = some (0, 0) := by decide +kernel

theorem saved_facts : dieOf savedCrew.core = 0 ∧ savedCrew.ctx = 0 ∧ returned.slotVa 0 0 = 0x40000 ∧ savedCrew.slot = some 0 ∧
    fieldAt savedBytes 0x14 4 / 128 = 2 := by decide +kernel

theorem saved_open : returned.slotOpen (dieOf savedCrew.core) savedCrew.ctx (returned.slotVa savedCrew.ctx (savedCrew.slot.getD 0)) 0
      (0x2000 + savedCrew.lmSize / 128) = true ∧
    returned.slotOpen (dieOf savedCrew.core) savedCrew.ctx (returned.slotVa savedCrew.ctx (savedCrew.slot.getD 0)) 0x12000 0x2000 = true := by
  decide +kernel

theorem saved_whole : returned.savedBlock savedCrew = some savedBytes := by
  have f := saved_facts
  simp only [State.savedBlock, f.2.2.2.1, f.1, f.2.1, f.2.2.1, saved_block, saved_ok, if_true]

/-- PreemptionSteps: a SAVED crew that comes first on die 0 and can be read back. -/
theorem test_witness_return :
    MayReturn returned 1 savedCrew { stageOf 2 1#64 with formed := 1 } savedBytes (List.replicate 2 0#8) (List.replicate 8192 0#8) 0 0 := by
  have f := saved_facts
  refine ⟨by decide, by decide +kernel, by decide +kernel, by decide +kernel, saved_whole, ⟨0, saved_first⟩, saved_open.1, saved_open.2, ?_, ?_,
    saved_entries⟩
  · rw [f.2.1, f.2.2.2.1, f.2.2.2.2]; exact f.2.2.1 ▸ saved_map
  · rw [f.2.1, f.2.2.2.1]; exact f.2.2.1 ▸ saved_records

/-- PreemptionSteps: a crew whose handlers of a restore are done. -/
def restored : State := { handled with crew := { handled.crew with restoring := true, state := .halted, saved := [(5#16, true)] } }

theorem test_witness_restore_finish :
    Live restored ∧ restored.crew.handle ≠ 0 ∧ restored.crew.others = [] ∧ restored.crew.restoring = true ∧ restored.crew.state = .halted ∧
    restored.crew.preempt = none ∧ restored.wave.inh = false ∧ restored.wave.stop = none ∧ restored.wave.halting = none ∧
    restored.wave.heldCauses = [] ∧ restored.cmds = [] ∧ (restored.coreAt restored.crew.core).mops = [] ∧ (Here base ∧ base.crew.restoring = false) ∧
    (base.crewAt 1).all (fun c => decide (c.state ≠ .saved)) = true := by unfold Live Here Present; decide +kernel

/-- A barrier of the crew with its timer running for 10^9 seconds; and the same with a ring of records at 0x20000. -/
def late : State := { handled with ps := 10 ^ 21, crew := handled.crew.setBar 1#3 { handled.crew.bar 1#3 with timer := some 0, phase := 7#16 } }
def lateRing : State := (withData late).setReg (ctxOff 0 0x20) 0x20000#64

theorem test_witness_barrier_timeout :
    (MayTake late ∧ BarrierDue late 1#3 ∧ late.ctxReg late.crew.ctx 0x20 = 0#64) ∧
    (MayTake lateRing ∧ BarrierDue lateRing 1#3 ∧ lateRing.ctxReg lateRing.crew.ctx 0x20 ≠ 0#64 ∧ lateRing.diagSlot lateRing.crew.ctx = some 0 ∧
      lateRing.translate (dieOf lateRing.crew.core) lateRing.crew.ctx ((lateRing.ctxReg lateRing.crew.ctx 0x20).toNat + 256 * 0) .store false =
        .ok (xlOf lateRing 0x20000#64 .store) ∧ lateRing.diagWaits (dieOf lateRing.crew.core) lateRing.crew.ctx = false) ∧
    (late.crew.handle ≠ 0 ∧ (late.crew.bar 7#3).timer = none) ∧
    ((late.crew.bar 1#3).timer = some 0 ∧ ({ late with ps := 0 } : State).nanos < 0 + 1000 * late.barto late.crew.ctx) := by
  unfold MayTake MayEnter CanEnter Live BarrierDue
  refine ⟨⟨by decide +kernel, ⟨by decide +kernel, by decide +kernel, by decide +kernel, by decide +kernel, 0, by decide +kernel⟩, by decide +kernel⟩,
    ⟨by decide +kernel, ⟨by decide +kernel, by decide +kernel, by decide +kernel, by decide +kernel, 0, by decide +kernel⟩, by decide +kernel⟩, ?_⟩
  decide +kernel

def waitingOn (b : Block) : State := { handled with ps := 10 ^ 21, wave := { handled.wave with block := some b } }

theorem test_witness_watchdog :
    (MayTake (waitingOn (.arrive 1 false)) ∧ Alone (waitingOn (.arrive 1 false)) 0 ∧ (waitingOn (.arrive 1 false)).wave.waitsOn (waitingOn (.arrive 1 false)).crew = some false ∧
      1000 * (waitingOn (.arrive 1 false)).wdtime 0 ≤ (waitingOn (.arrive 1 false)).wdAge 0) ∧
    handled.wdAge 0 < 1000 * handled.wdtime 0 ∧
    (Present (waitingOn .cwait) ∧ Alone (waitingOn .cwait) 0 ∧ (waitingOn .cwait).wave.waitsOn (waitingOn .cwait).crew = some true ∧
      Map.find (fun _ => false) (waitingOn .cwait).wdStall 0 = false ∧ 10000 * (waitingOn .cwait).wdtime 0 ≤ (waitingOn .cwait).wdAge 0) ∧
    (Present handled ∧ Alone handled 0 ∧ handled.wave.waitsOn handled.crew ≠ some false ∧ handled.wave.waitsOn handled.crew ≠ some true) := by
  unfold MayTake MayEnter CanEnter Live Alone Present; decide +kernel

def heldQuad (test : Bool) : State :=
  let s := base.setTesting 0 true
  { s with ps := 10 ^ 10, crew := { s.crew with preempt := some ⟨0, false, false, 0, none, test⟩, state := .taking } }

theorem test_witness_infield_tests :
    (NoBarOver base ∧ base.quadTesting 0 = false ∧ ({ base with testDue := [0] } : State).testDue.contains 0 = true) ∧
    ({ base with ps := 28800000000000000 } : State).testAt 63 + 28800000000000 ≤ ({ base with ps := 28800000000000000 } : State).nanos ∧
    (Here base ∧ base.crew.core ∈ base.quadCores 0 ∧ base.crew.preempt = none ∧ base.crew.state = .running) ∧
    (base.testDue.contains 0 = false ∧ base.nanos < base.testAt 0 + 28800000000000) ∧
    (∀ b ∈ [false, true], (heldQuad b).quadTesting 0 = true ∧ (heldQuad b).testAt 0 + 10000000 ≤ (heldQuad b).nanos ∧
      Asked (heldQuad b) ⟨0, false, false, 0, none, b⟩ ∧ (heldQuad b).crew.state = .taking ∧ (heldQuad b).crew.core ∈ (heldQuad b).quadCores 0) ∧
    ({ heldQuad true with ps := 9999999000 } : State).nanos < (heldQuad true).testAt 0 + 10000000 ∧ (heldQuad true).quadCrews 0 ≠ [] ∧
    ((State.reset.setTesting 63 true).quadTesting 63 = true ∧ (State.reset.setTesting 63 true).quadCrews 63 = [] ∧ 255 / 4 = 63) := by
  unfold Asked Here Present NoBarOver; decide +kernel

/-- A sum of 4 elements over two ranks whose contributions have arrived; and one whose SRC has not been read. -/
def sumColl : Coll := ⟨1, base.crew.handle, 0, 0, 0, 0, 0, 0, 2, 0, 4, 0, 0x200000, 0x20000#64, 0x20200, [], 0, false, 0x20100, 0, true⟩
def newColl : Coll := { sumColl with sent := false }
def part (rank op : Nat) : CollPacket := ⟨0, 0#16, 0, rank, op, 4, 0, List.replicate 16 1#8, []⟩
def collecting (c : Coll) (ps : List CollPacket) : State :=
  let s := withColl 0 4 0
  { s with fab := { s.fab with colls := [c], collIn := ps } }
def collected (op : Nat) : State := collecting sumColl [part 0 0, part 1 op]
def collOuts : List (Xl × Nat × Nat) := valOf [] ((collected 0).enginePieces 0 0 0x20200 16 .store)
def collIns : List (Xl × Nat × Nat) := valOf [] ((collected 0).enginePieces 0 0 0x20100 16 .load)

theorem test_witness_collective_steps :
    (Takes (collecting sumColl []) (part 1 0).gen ∧
      (∃ c ∈ (collecting sumColl []).fab.colls, c.comm = (part 1 0).comm ∧ c.nth = (part 1 0).nth) ∧ (collecting sumColl []).fab.collIn = []) ∧
    (∃ q ∈ (collected 0).fab.collIn, q.comm = 0 ∧ q.nth = 0 ∧ q.rank = 1) ∧
    ((collecting newColl []).fab.colls.find? (fun k => k.id = newColl.id) = some newColl ∧ newColl.sent = false ∧
      (collecting newColl []).enginePieces newColl.core newColl.ctx newColl.src
        (if newColl.op = 6 ∧ newColl.rank ≠ newColl.root then 0 else collIn newColl.op newColl.count) .load = .ok collIns ∧
      (collecting newColl []).piecesFree (some newColl.id) collIns = true ∧ (collecting newColl []).pieceBad collIns = [] ∧
      1 ∈ (collecting newColl []).ranks 0 ∧ (collecting newColl []).route .coll 1 ≠ none) ∧
    InputsIn (collected 0) sumColl [part 0 0, part 1 0] ∧
    (collected 0).enginePieces sumColl.core sumColl.ctx sumColl.dst (collOut sumColl.op sumColl.count sumColl.n) .store = .ok collOuts ∧
    (collected 0).piecesDue sumColl.id sumColl.pts collOuts = true ∧ PiecesApart collOuts sumColl.desc ∧ collOuts ≠ [] ∧ (collected 0).units = [] ∧
    (sumColl.needs = [0, 1] ∧ ∀ p ∈ (collecting sumColl [part 0 0]).fab.collIn, ¬ (p.comm = 0 ∧ p.nth = 0 ∧ p.rank = 1)) ∧
    (collected 1).fab.colls.find? (fun k => k.id = sumColl.id) = some sumColl ∧
    (∃ p ∈ (collected 1).fab.collIn, p.comm = sumColl.comm ∧ p.nth = sumColl.nth ∧ (p.op ≠ sumColl.op ∨ p.count ≠ sumColl.count ∨ p.root ≠ sumColl.root)) := by
  unfold InputsIn PiecesApart Takes
  refine ⟨by decide +kernel, by decide +kernel, ⟨by decide +kernel, by decide +kernel, isOk_eq _ _ (by decide +kernel), by decide +kernel⟩,
    by decide +kernel, isOk_eq _ _ (by decide +kernel), ?_⟩
  decide +kernel

/-- A device of rank 0 with a round in progress, its queue for rank 1 at 0x20100 of 64 bytes. -/
def inRound (sends : List SendQ) (recvs : List RecvQ) : Round :=
  { round0 true true false with started := true, sendq := 0x20200, recv := 0x20300, sends := sends, recvs := recvs, entries := [0, 64] }
def rounding (r : Round) (x : Xchg → Xchg) : State :=
  let s := withComm (withData base)
  { s with xch := x { s.xch with rounds := [r] } }
def sending : Round := inRound [⟨0x20200, 0, 0, true⟩, ⟨0x20100, 64, 0, false⟩] [⟨0, 0, 0, 0, true⟩, ⟨0x20300, 64, 0x200400, 0, false⟩]
def sent : Round := inRound [⟨0x20200, 0, 0, true⟩, ⟨0x20100, 64, 64, true⟩] [⟨0, 0, 0x200480, 0, true⟩, ⟨0x20300, 64, 0x200400, 64, false⟩]
def grant1 : GrantMsg := ⟨0, 0, 0#16, 0#16, 1, [some (1, 2)], false, true⟩
def granted : State := rounding sending (fun x => { x with grants := [grant1] })
def sendPs : List (Xl × Nat × Nat) := valOf [] (granted.enginePieces 0 0 0x20100 64 .load)
def landX : Xl := xlOf granted 0x20300#64 .store

/-- The slot of `grant1` with its guard over; and its end, where the round still runs and where it has ended. -/
def slotDue : State := { rounding sending (fun x => { x with grants := [grant1], slot := 1, slotAt := 0 }) with ps := 2000000 }
def slotOver (x : Xchg → Xchg) : State := { rounding sending (fun y => x { y with grants := [grant1], slot := 1, ran := 1, slotAt := 0 }) with ps := 10000000 }

theorem test_witness_grants :
    (Takes granted grant1.gen ∧ grant1.arbGen = granted.xch.arbGen ∧ granted.round? 0 0 = some sending) ∧
    ({ grant1 with arbGen := 1#16 }.arbGen ≠ granted.xch.arbGen ∧ granted.round? 0 1 = none) ∧
    ({ base with xch := { base.xch with acting := true } } : State).round? 0 0 = none ∧
    (SlotRuns slotDue ∧ RoundRuns slotDue sending ∧ slotDue.xch.grants = [grant1] ∧ grant1.comm = sending.comm ∧ grant1.round = sending.round ∧
      grant1.start ≤ slotDue.xch.slot ∧ slotDue.xch.slot < grant1.start + grant1.slots.length ∧
      grant1.slots.getD (slotDue.xch.slot - grant1.start) none = some (1, 2) ∧ sending.sends[1]? = some ⟨0x20100, 64, 0, false⟩ ∧
      slotBytesOf slotDue 2 ⟨0x20100, 64, 0, false⟩ = 64 ∧ (slotDue.ranks sending.comm).getD 1 0 ≠ slotDue.devid.toNat ∧
      slotDue.route .data ((slotDue.ranks sending.comm).getD 1 0) ≠ none) ∧
    slotDue.enginePieces sending.core sending.ctx (0x20100 + 0) 64 .load = .ok sendPs ∧ slotDue.piecesFree (some sending.id) sendPs = true ∧
    (SlotBegins (slotOver id) ∧ ((slotOver id).account 0 0).isSome = true ∧ grant1.start + grant1.slots.length ≤ (slotOver id).xch.slot + 1 ∧
      (slotOver id).xch.acting = false) ∧
    (let s := slotOver (fun x => { x with rounds := [], gone := [⟨0, 0, 0, 5, [], [0, 3]⟩] })
     SlotBegins s ∧ s.account 0 0 = some ⟨0, 0, 0, 5, [], [0, 3]⟩) ∧
    (SlotBegins { base with ps := 10000000 } ∧ base.xch.grants = [] ∧ ¬ SlotRuns base ∧ ¬ SlotBegins base) ∧
    SlotRuns { base with ps := 2000000, xch := { base.xch with slot := 1 } } ∧ base.xch.rounds = [] := by
  unfold RoundRuns SlotRuns SlotBegins Takes
  refine ⟨by decide +kernel, by decide +kernel, by decide +kernel, by decide +kernel, isOk_eq _ _ (by decide +kernel), ?_⟩
  decide +kernel

def data1 : XData := ⟨0, 0, 0#16, 1, 0, List.replicate 64 9#8, []⟩

theorem test_witness_exchange_data :
    (Takes granted data1.gen ∧ Takes base data1.gen ∧ (withRound (round0 true true false)).ready = true ∧ base.round? data1.comm data1.round = none) ∧
    (RoundRuns granted sending ∧ sending.comm = data1.comm ∧ sending.round = data1.round ∧
      sending.recvs[data1.src]? = some ⟨0x20300, 64, 0x200400, 0, false⟩ ∧ data1.off + data1.data.length ≤ 64) ∧
    granted.enginePieces sending.core sending.ctx (0x20300 + data1.off) data1.data.length .store = .ok [(landX, 0, data1.data.length)] ∧
    granted.piecesDue sending.id sending.pts [(landX, 0, data1.data.length)] = true ∧ landX.addr + 8 ≤ landX.fpa ∧
    (⟨0, 0, 0#16, 1, 64, false⟩ : XEnd).fault = false ∧ (⟨0, 0, 0#16, 1, 64, true⟩ : XEnd).fault = true ∧
    ((rounding sent id).xch.rounds = [sent] ∧ sent.ended = false ∧ sent.started = true ∧ (rounding sent id).xch.data = [] ∧
      (rounding sent id).xch.ends = [] ∧ GotApart sent ∧ sent.stopped = false ∧ (∀ q ∈ sent.sends, q.marked = true) ∧
      (∀ q ∈ sent.recvs, q.got ≤ q.cap) ∧ (rounding sent id).unacked sent = false ∧ (rounding sent id).units = []) ∧
    (∀ j q, sent.recvs[j]? = some q → q.ended = true ∨ j = 1) ∧ granted.round? 1 0 = none ∧
    (let r := round0 true true false
     GotApart r ∧ r.started = false ∧ r.recvs = [] ∧ r.owned = [] ∧ EndDue (withRound r) r.desc r.pts 3 ∧ (withRound r).xch.rounds = [r]) := by
  unfold RoundRuns GotApart Takes
  refine ⟨by decide +kernel, by decide +kernel, isOk_eq _ _ (by decide +kernel), by decide +kernel, by decide +kernel, by decide +kernel,
    by decide +kernel, by decide +kernel, ?_, by decide +kernel, by decide +kernel, by decide +kernel, by decide +kernel, by decide +kernel, ?_,
    by decide +kernel⟩
  · intro j q h
    match j with
    | 0 => left; simp [sent, inRound] at h; simp [← h]
    | 1 => right; rfl
    | n + 2 => simp [sent, inRound] at h
  · unfold EndDue; decide +kernel

/-- An acting arbiter with the inputs of a calendar, of a round and of its residue, with reports of ranks, and with a cancelled round. -/
def arbiter (reports : List XReport) : State := rounding sending (fun x => { x with acting := true, reports := reports })

/-- A round that has been posted to a primary, and its device is the leader, the standby, or neither. -/
def pending : State := (rounding (round0 true false true) id).setReg 0x130008 0x10001#64

theorem test_witness_anvil :
    (let s := rounding sending (fun x => { x with acting := true, inputs := [⟨0, 0, [[0, 5], [3, 0]], false, 0⟩, ⟨0, 1, [[0, 0], [1, 0]], true, 7⟩] })
     s.xch.acting = true ∧ ∃ x rest, s.xch.inputs = x :: rest) ∧
    (base.xch.acting = false ∧ (∀ x, (arbiter []).xch.inputs.head? = some x → ¬ (x.comm = 0 ∧ x.round = 0))) ∧
    (let s := arbiter []
     s.xch.acting = true ∧ (0, 0) ∉ s.xch.stops ∧ 1 < (s.ranks 0).length ∧ ∀ q ∈ s.xch.reports, ¬ (q.comm = 0 ∧ q.round = 0 ∧ q.rank = 0)) ∧
    (let s := arbiter [⟨0, 0, 0#16, 0, [0, 0]⟩]
     (∀ r, r < (s.ranks 0).length → r ≠ 1 → ∃ q ∈ s.xch.reports, q.comm = 0 ∧ q.round = 0 ∧ q.rank = r) ∧
       (∀ r, r < (s.ranks 0).length → ∀ k ∈ leftOf s ⟨0, 0, 0#16, 1, [0, 0]⟩ r, k = 0) ∧
       ∃ r, r < (s.ranks 0).length ∧ ∃ k ∈ leftOf s ⟨0, 0, 0#16, 1, [2, 0]⟩ r, k ≠ 0) ∧
    (0, 0) ∈ (rounding sending (fun x => { x with acting := true, stops := [(0, 0)] })).xch.stops ∧
    (base.standby = base.devid.toNat ∧ base.xch.acting = false ∧ base.xch.rounds = [] ∧
      (base.setReg 0x130008 0x10001#64).standby ≠ base.devid.toNat ∧ (base.setReg 0x130008 0x10001#64).leader ≠ base.devid.toNat) ∧
    (pending.leader ≠ pending.devid.toNat ∧ pending.xch.rounds = [round0 true false true] ∧ (round0 true false true).posting = true ∧
      (round0 true false true).ackStandby = false) ∧
    (let s := rounding (round0 false false true) id
     s.xch.rounds = round0 false false true :: [] ∧ (round0 false false true).comm = 0 ∧ (round0 false false true).round = 0 ∧
       (round0 false false true).posting = true) := by
  refine ⟨⟨by decide +kernel, _, _, rfl⟩, ⟨by decide +kernel, ?_⟩, by decide +kernel, ⟨by decide +kernel, by decide +kernel, 1, by decide +kernel, 2, by decide +kernel, by decide⟩, ?_⟩
  · intro x h; rw [show (arbiter []).xch.inputs.head? = none by decide +kernel] at h; cases h
  · decide +kernel

/-- Device 1 is a member, and window 0 exports 64 KB of HBM from 0x200000 for reads and writes. -/
def exporting : State :=
  ({ base with members := [1] } : State).setReg 0x10400 0x200000#64 |>.setReg 0x10408 0x8300000000010000#64
def packet (seq : Nat) (p : Payload) : E2EPacket := ⟨1, 0#16, seq, false, false, p⟩
def storeP : Payload := .store 0x200000 [1#8, 2#8] 7
def accessOf (p : Payload) : PeerAccess := match peerAccess p with | some x => x | none => ⟨0, 0, 0, false, false⟩
def viewing : State := { exporting with views := [⟨1, 0x200000, 0x10000⟩] }
def ahead : State := exporting.setRx 1 ⟨0, [packet 2 storeP], [65535]⟩
def holding (o : Owner) : State := exporting.setLine (lineOf (exporting.hbm 0x200000)) { exporting.line (lineOf (exporting.hbm 0x200000)) with owner := some o }

/-- TransportAndLinkSteps: packets of every kind at this home, served at once, refused, made to wait, and ahead of a gap. -/
theorem test_witness_transport :
    (State.reset.ready = false ∧ exporting.ready = true ∧ exporting.xch.rounds = []) ∧
    Map.find (fun _ => 0) ({ exporting with fab := { exporting.fab with tagFails := [(65541, 3)] } } : State).fab.tagFails (1 * 65536 + 5) = 3 ∧
    (base.isMember 1 = false ∧ exporting.isMember 1 = true ∧ (65535 : Nat) ∈ (ahead.rxOf 1).seen) ∧
    (∀ p ∈ [storeP, .load 0x200000 8 0, .atomic 0x20FFF8 .minn 5#64 0, .atomic 0x20FFFC .fadd 5#64 0, .laneAtomic 0x200004 true 5#32 0,
        .own 0x200000 0],
      InSequence exporting (packet 0 p) ∧ HomeTakes exporting 1 p (accessOf p) ∧ exporting.anyPoison (exporting.hbm (accessOf p).off) 8 = false) := by
  unfold InSequence Acceptable HomeTakes; decide +kernel

theorem test_witness_transport_waits :
    (let s := exporting.setPoison (exporting.hbm 0x200000) true
     HomeTakes s 1 (.atomic 0x200000 .add 5#64 0) (accessOf (.atomic 0x200000 .add 5#64 0)) ∧ s.anyPoison (s.hbm 0x200000) 8 = true) ∧
    (∀ p ∈ [.store 0x20FFFF [1#8, 2#8] 0, .load 0x1FFFFF 2 0, .atomic 0x200004 .add 1#64 0],
      peerAccess p = some (accessOf p) ∧ exporting.admitsPeer 1 p (accessOf p) = false) ∧
    (peerAccess storeP = some (accessOf storeP) ∧ InSequence viewing (packet 0 storeP) ∧ viewing.admitsPeer 1 storeP (accessOf storeP) = true ∧
      viewing.viewed 0x200000 2 = true) ∧
    (InSequence (holding (.engine 4)) (packet 0 storeP) ∧ (holding (.engine 4)).admitsPeer 1 storeP (accessOf storeP) = true ∧
      (holding (.engine 4)).openTo (.peer 1) (exporting.hbm 0x200000) 2 = false) ∧
    (∀ o ∈ [.peer 1, .recalled 1], ((holding o).line (lineOf ((holding o).hbm (0x200000 / 128 * 128)))).owner ∈ [some (.peer 1), some (.recalled 1)] ∧
      (holding o).viewed (0x200000 / 128 * 128) 128 = false ∧ InSequence (holding o) (packet 0 (.back 0x200000 (List.replicate 128 3#8) 9)) ∧
      (holding o).standsBehind (.peer 1 (.back 0x200000 (List.replicate 128 3#8) 9)) (holding o).memb.held = false) ∧
    (Acceptable ahead (packet 1 storeP) ∧ 1 ≠ (ahead.rxOf 1).next ∧ ∀ q ∈ (ahead.rxOf 1).ahead, q.seq ≠ (ahead.rxOf 1).next) := by
  unfold InSequence Acceptable HomeTakes
  refine ⟨?_, ?_, ?_, ?_, ?_, ?_⟩ <;> decide +kernel

/-- The acting leader of a communicator of two ranks, with the post of rank 0; and the posts of an earlier round beside it. -/
def collecting' (posts : List XPost) : State :=
  let s := withComm exporting
  { s with xch := { s.xch with acting := true, posts := posts } }

theorem test_witness_posts :
    (∀ ps ∈ [[], [⟨0, 4, 0, [0, 5]⟩], [⟨0, 3, 0, [0, 1]⟩, ⟨0, 4, 0, [0, 5]⟩]],
      let s := collecting' ps
      InSequence s (packet 0 (.post ⟨0, 4, 1, [3, 0]⟩)) ∧ s.gen = 0#16 ∧ s.leader = s.devid.toNat ∧ s.xch.acting = true ∧ (0, 4) ∉ s.xch.stops ∧
        ∀ k ∈ s.xch.posts, ¬ (k.comm = 0 ∧ k.round = 4 ∧ k.rank = 1)) ∧
    (Stmt.posted (collecting' []) ⟨0, 4, 1, [3, 0]⟩).allPosted 0 4 = false ∧
    ((Stmt.posted (collecting' [⟨0, 4, 0, [0, 5]⟩]) ⟨0, 4, 1, [3, 0]⟩).allPosted 0 4 = true ∧
      (Stmt.posted (collecting' [⟨0, 4, 0, [0, 5]⟩]) ⟨0, 4, 1, [3, 0]⟩).earlierRound 0 4 = false) ∧
    (Stmt.posted (collecting' [⟨0, 3, 0, [0, 1]⟩, ⟨0, 4, 0, [0, 5]⟩]) ⟨0, 4, 1, [3, 0]⟩).earlierRound 0 4 = true := by
  unfold InSequence Acceptable; decide +kernel

def sentP (gen : BitVec 16) (conf : Bool) : Sent := ⟨1, 7, gen, storeP, 0, conf⟩
def unacked (gen : BitVec 16) (ps : Nat) (keys : List (Nat × BitVec 16)) : State :=
  { exporting with ps := ps, fab := { exporting.fab with sent := [sentP gen true], keys := keys } }

theorem test_witness_timeouts_and_links :
    (let s := unacked 0#16 (10 ^ 16) [(1, 0#16)]
     s.fab.sent.find? (fun p => p.dst = 1 ∧ p.seq = 7) = some (sentP 0#16 true) ∧ (sentP 0#16 true).gen = s.gen ∧
      (sentP 0#16 true).at' + 1000 * s.e2eto ≤ s.nanos ∧ (1, s.gen) ∈ s.fab.keys) ∧ (sentP 1#16 true).gen ≠ (unacked 1#16 (10 ^ 16) []).gen ∧
    (sentP 0#16 false).conf = false ∧ (let s := unacked 0#16 (10 ^ 16) []; ∀ p ∈ s.fab.sent, p.conf = true ∧ (1, s.gen) ∉ s.fab.keys) ∧
    (let s := unacked 0#16 0 [(1, 0#16)]; ∀ p ∈ s.fab.sent, s.nanos < p.at' + 1000 * s.e2eto) ∧
    ((0#16 : BitVec 16) = exporting.gen ∧ (1, 0#16) ∉ exporting.fab.keys ∧ (1, 0#16) ∈ (unacked 0#16 0 [(1, 0#16)]).fab.keys) ∧
    (portOk (.global 47) = true ∧ Port.global 47 ∉ base.links.down ∧ portOk (.global 48) = false ∧ portOk (.electrical 31) = false ∧
      (30 : Nat) < 31 ∧ (47 : Nat) < 48) := by decide +kernel

/-- Wavelength 7 of port 47 in state `st` with `a` attempts. -/
def wave7 (st a ps : Nat) : State := { (base.setReg (wlReg 47 7 + 0x10) (BitVec.ofNat 64 (a * 4096 + st))) with ps := ps }
def above9 (a : Nat) : State := (wave7 0 a 100000000).setReg (wlReg 47 7 + 8) (BitVec.ofNat 64 (9 * 2 ^ 32))
/-- Wavelength 0 of the port has stayed ACTIVE with ABOVE = 12. -/
def waiting7 (st : Nat) : State := (wave7 st 1 100000000).setReg (wlReg 47 0 + 8) (BitVec.ofNat 64 (12 * 2 ^ 32))

theorem test_witness_wavelengths :
    (IsWl 47 7 ∧ ¬ IsWl 48 7 ∧ (wave7 0 0 100000000).wlState 47 7 = 0 ∧ (wave7 0 0 100000000).aboveOf 47 7 ≠ 9 ∧
      (wave7 0 0 100000000).windowStart 47 7 + 100000 ≤ (wave7 0 0 100000000).nanos ∧
      (wave7 0 0 99999999).nanos < (wave7 0 0 99999999).windowStart 47 7 + 100000) ∧
    ((above9 0).wlState 47 7 = 0 ∧ (above9 0).aboveOf 47 7 = 9 ∧ 7 ≤ (above9 0).activeWls 47 ∧ (above9 0).attempt 47 7 = 0 ∧
      (above9 0).windowStart 47 7 + 100000 ≤ (above9 0).nanos) ∧
    ((above9 2).fails 47 7 < (above9 2).attempt 47 7 ∧ (above9 2).attempt 47 7 < 3 ∧ 3 ≤ (above9 3).attempt 47 7 ∧
      (above9 2).nanos < (above9 2).returnedAt 47 7 + 100000000) ∧
    ((waiting7 2).wlState 47 7 = 2 ∧ (waiting7 2).wlState 47 0 = 0 ∧ 10 ≤ (waiting7 2).aboveOf 47 0 ∧ 6 ≤ (waiting7 2).activeWls 47 ∧
      (waiting7 2).aboveOf 47 1 < 10) ∧
    ((wave7 1 0 0).wlState 47 7 = 1 ∧ (wave7 1 0 0).wlState 47 7 ≠ 0 ∧ (wave7 0 0 0).wlState 47 7 ≠ 1) ∧
    ((wave7 2 0 100000000).wlState 47 7 = 2 ∧ 100000 ≤ (wave7 2 0 100000000).nanos - (wave7 2 0 100000000).enteredAt 47 7) ∧
    (wave7 2 0 500000000).nanos - (wave7 2 0 500000000).enteredAt 47 7 ≤ 500000 ∧
    (wave7 2 2 500000000).enteredAt 47 7 + 500000 ≤ (wave7 2 2 500000000).nanos ∧ (wave7 2 2 500000000).attempt 47 7 < 3 ∧
    3 ≤ (wave7 2 3 500000000).attempt 47 7 ∧ (wave7 2 0 499999999).nanos < (wave7 2 0 499999999).enteredAt 47 7 + 500000 ∧
    ((wave7 0 1 100000000000).returnedAt 47 7 + 100000000 ≤ (wave7 0 1 100000000000).nanos ∧
      (wave7 0 1 99999999999).nanos < (wave7 0 1 99999999999).returnedAt 47 7 + 100000000) := by
  unfold IsWl; decide +kernel

/-- A wear action that waits since reset. -/
def wearing (w : Wear) (ps : Nat) : State := { base with ps := ps, links := { base.links with wear := [(w, 0)] } }
def replacing (ps : Nat) : State := { base.setReg svcOff 8#64 with ps := ps }

theorem test_witness_integrity :
    (2048 * (hbmBytes / 2048 - 1) < hbmBytes ∧ hbmBytes ≤ 2048 * (hbmBytes / 2048)) ∧
    ([0, 63].Nodup ∧ (∀ k ∈ [0, 63], k < 64) ∧ [0, 63].length ≤ 2 ∧ [0, 1, 63].Nodup ∧ 2 < [0, 1, 63].length ∧ ∀ k ∈ [64, 65], 64 ≤ k) ∧
    (Live base ∧ base.crew.handle ≠ 0 ∧ base.crew.state ≠ .ended ∧ base.crews = [] ∧ (255 : Nat) < 256) ∧
    (160 ≤ 320 ∧ 2 * base.lmretn ≤ 320 ∧ 159 < 160 ∧ 159 < 2 * base.lmretn ∧ 95 < 96) ∧
    ((wearing (.short (.delay 3)) 60000000000000).links.wear = [(.short (.delay 3), 0)] ∧ 0 + 60000000000 ≤ (wearing (.short (.delay 3)) 60000000000000).nanos ∧
      ((wearing (.short (.delay 3)) 60000000000000).reg 0x120020).toNat < 50 ∧ ((wearing (.row 3) 60000000000000).coreAt 3).spareRows < 2 ∧
      (wearing (.core 255) 60000000000000).sparesUsed (dieOf 255) < 2) ∧
    (∀ e ∈ (wearing (.row 3) 59999999999999).links.wear, (wearing (.row 3) 59999999999999).nanos < e.2 + 60000000000) ∧
    (((replacing 10000000000000).reg svcOff).getLsbD 3 = true ∧ (replacing 10000000000000).memb.replaceAt + 10000000000 ≤ (replacing 10000000000000).nanos) ∧
    ((base.reg svcOff).getLsbD 3 = false ∧ (replacing 9999999999999).nanos < (replacing 9999999999999).memb.replaceAt + 10000000000) := by
  unfold Live; decide +kernel

/-- A device with this DEVID, its membership unit up, device 1 and 2 of its group as members, and LEADERS. -/
def pod (devid : BitVec 16) (leader standby : Nat) : State :=
  let s := base.setReg 0x130008 (BitVec.ofNat 64 (standby * 65536 + leader))
  { s with devid := devid, members := [1, 2], pod := some [0], memb := { s.memb with up := true } }
def withMemb (s : State) (f : Memb → Memb) : State := { s with memb := f s.memb }
def notice (gen : BitVec 16) (members : List Nat) : Notice :=
  ⟨gen, members, [], [(0, [0#16, 0xFFFF#16, 2#16])], 0#16, 1#16, 7, 3#16, [], [], []⟩
def removedDev : State := (pod 0#16 0 1).setReg 0x130000 0x80#64

theorem test_witness_notices :
    (Newer (pod 0#16 0 1) 32767#16 ∧ ¬ Newer (pod 0#16 0 1) 32768#16 ∧ ¬ Newer (pod 0#16 0 1) 0#16) ∧
    (removedBit (pod 0#16 0 1) = false ∧ removedBit removedDev = true) ∧
    ((pod 0#16 0 1).devid.toNat ∉ (notice 1#16 [1, 2]).members ∧ (pod 0#16 0 1).devid.toNat ∈ (notice 1#16 [0, 2]).members) ∧
    ((notice 1#16 [0, 2]).slots = [(0, [0#16, 0xFFFF#16, 2#16])] ∧ (withComm (pod 0#16 0 1)).configured 0 = true) ∧
    ((pod 0#16 0 1).memb.up = true ∧ ({ pod 0#16 0 1 with ps := 10 ^ 12 } : State).hbPeers.length < 2 * ({ pod 0#16 0 1 with ps := 10 ^ 12 } : State).silentPeers) ∧
    2 * (pod 0#16 0 1).silentPeers ≤ (pod 0#16 0 1).hbPeers.length := by unfold Newer; decide +kernel

/-- Device 1 is silent with 4 misses, and suspected in a second state. -/
def silent (miss : Nat) (suspected : Bool) : State :=
  withMemb (pod 0#16 0 1) (fun m => { m with peers := [(1, ⟨0, miss, suspected, false, 0#16, false, 0⟩)] })

theorem test_witness_heartbeats :
    (State.reset.ready = false ∧ base.ready = true ∧ removedBit base = false ∧ base.memb.up = false) ∧
    ((pod 0#16 0 1).ready = true ∧ (pod 0#16 0 1).hbPeers = [1, 2] ∧ (pod 0#16 0 1).hbPeers.Nodup) ∧
    (let s := (pod 0#16 0 1)
     s.nanos / 20000 ≤ s.memb.hbPeriod ∧ s.nanos / 1000000 ≤ s.memb.beaconPeriod) ∧
    (let s := { silent 4 false with ps := 10 ^ 9 }
     s.memb.up = true ∧ s.memb.hbPeriod < s.nanos / 20000 ∧ s.memb.beaconPeriod < s.nanos / 1000000) ∧
    (((silent 4 false).peer 1).heard = false ∧ ((silent 4 false).peer 1).miss = 4 ∧ ((silent 5 true).peer 1).suspected = true) ∧
    (withMemb (pod 0#16 0 1) (fun m => { m with partners := [64] })).hbPeers = [1, 2, 64] ∧
    ((1 : Nat) ≠ (pod 0#16 0 1).devid.toNat ∧ 40 / 32 ≠ (pod 0#16 0 1).devid.toNat / 32) ∧
    ((pod 0#16 0 1).isLeader = true ∧ (pod 1#16 0 1).isStandby = true ∧ (pod 2#16 0 1).isLeader = false ∧ (pod 2#16 0 1).isStandby = false) ∧
    ((pod 0#16 0 1).isMember 5 = false ∧ 5 / 32 ∈ (pod 0#16 0 1).podGroups ∧ ((pod 0#16 0 1).peer 5).expelled = false ∧
      ∀ j ∈ (pod 0#16 0 1).memb.joining, j.1 ≠ 5) := by decide +kernel

/-- The leader with reports, probes and answers. -/
def suspecting : State := withMemb (pod 0#16 0 1) (fun m => { m with reports := [(40, 1), (41, 1)] })
def probing (ps : Nat) (answers : List (Nat × Nat)) : State :=
  { withMemb (pod 0#16 0 1) (fun m => { m with probes := [(1, 0)], answers := answers }) with ps := ps }

theorem test_witness_suspicion :
    (suspecting.isLeader = true ∧ suspecting.memb.reports = [(40, 1), (41, 1)] ∧ [40, 41, 42].Nodup ∧ 40 / 32 ≠ 1 / 32 ∧ suspecting.isMember 1 = true ∧
      (∀ p ∈ suspecting.memb.probes, p.1 ≠ 1) ∧ 1 ∉ suspecting.memb.leaving) ∧
    (2 / 32 = 1 / 32 ∧ ∀ r ∈ (pod 0#16 0 1).memb.reports, r.2 = 1 → r.1 / 32 = 1 / 32) ∧
    ((1, 0) ∈ (probing 20000000 []).memb.probes ∧ 0 + 20000 ≤ (probing 20000000 []).nanos) ∧
    (∀ p ∈ (probing 19999000 []).memb.probes, p.1 = 1 → (probing 19999000 []).nanos < p.2 + 20000) ∧
    ((∃ p ∈ (probing 0 []).memb.probes, p.1 = 1) ∧
      2 ≤ (probing 0 [(1, 0), (1, 0)]).memb.answers.countP (fun a => a.1 = 1 ∧ (probing 0 [(1, 0), (1, 0)]).nanos < a.2 + 10000000) ∧
      (probing 0 [(1, 0)]).memb.answers.countP (fun a => a.1 = 1 ∧ (probing 0 [(1, 0)]).nanos < a.2 + 10000000) < 2) ∧
    ((pod 0#16 0 1).retirable 2 = true ∧ (pod 0#16 0 1).retirable 0 = true ∧ (pod 0#16 0 1).retirable 9 = false) := by decide +kernel

/-- The leader with fresh beacons of its members and a device that leaves; the standby of a leader that leaves. -/
def issuing : State := withMemb (pod 0#16 0 1) (fun m => { m with leaving := [2], handoffs := [1], acks := [1, 2], beacons := [(1, 0), (2, 0)] })
def takingOver : State :=
  let s := withMemb (pod 1#16 0 1) (fun m => { m with leaving := [0], beacons := [(0, 0), (2, 0)] })
  { s with members := [0, 2] }

theorem test_witness_generations :
    (MayIssue issuing ∧ issuing.isLeader = true ∧ issuing.noticeDue = true ∧ issuing.maySpace = true ∧
      issuing.memb.joining = [] ∧ 0 ∉ issuing.memb.leaving ∧ 1 ∈ issuing.memb.handoffs ∧ 1 ∈ issuing.members) ∧
    ((pod 0#16 0 1).quorum = false ∧ (pod 0#16 0 1).noticeDue = false ∧ (1#16 : BitVec 16) ≠ (pod 0#16 0 1).gen) ∧
    (MayIssue takingOver ∧ takingOver.isStandby = true ∧ takingOver.leader ∈ takingOver.memb.leaving ∧
      takingOver.memb.joining = [] ∧ 1 ∉ takingOver.memb.leaving) := by
  unfold MayIssue; decide +kernel

/-- A spare that clones a device of one megabyte, twice the stripe tried at two replicas. -/
def clone1 : Clone := ⟨9, [(0x200000, 2 ^ 20, [1, 2])], [], [(0, 1)]⟩
def clone2 : Clone := { clone1 with extents := [(0x200000, 2 ^ 20, [7])] }
def cloning (c : Clone) (ps : Nat) : State := { withMemb (pod 0#16 0 1) (fun m => { m with clone := some c, viewSince := some 0 }) with ps := ps }

/-- A stripe lands where no line has a stamp yet and no view covers it, and not where one does. -/
theorem landDue_of (s : State) (off : Nat) (hl : s.lines = []) (hv : s.viewed off (2 ^ 20) = false) (hb : 1 ≤ s.floor + s.lease) :
    s.landDue off = true := by
  have stamp : ∀ (L : List Nat) (w : Nat), w ≤ s.floor + s.lease → L.foldl (fun w l => max w ((s.line l).rts + 1)) w ≤ s.floor + s.lease := by
    intro L
    induction L with
    | nil => exact fun _ h => h
    | cons l L ih =>
      intro w hw
      refine ih _ ?_
      simp only [State.line, hl, Map.find, lineDefault]; omega
  have := stamp (linesOf (s.hbm off) (2 ^ 20)) (max 0 s.floor) (by omega)
  simp only [State.landDue, hv, State.stampDue, State.storeStamp, Bool.not_false, Bool.and_true, Bool.and_eq_true, decide_eq_true_eq, this,
    and_true, List.all_eq_true]
  intro l _
  simp [State.line, hl, Map.find, lineDefault]

theorem landDue_viewed (s : State) (off : Nat) (hv : s.viewed off (2 ^ 20) = true) : s.landDue off = false := by
  simp only [State.landDue, hv, Bool.not_true, Bool.and_false, Bool.false_and]

theorem test_witness_clone :
    (pod 0#16 0 1).memb.clone = none ∧ Cloning (cloning clone1 0) clone1 0 0x200000 [1, 2] ∧ (∃ d ∈ [1, 2], (cloning clone1 0).isMember d = true) ∧
    Map.find (fun _ => 0) ({ clone1 with tries := [] } : Clone).tries 0 + 1 < ([1, 2].filter (cloning clone1 0).isMember).length ∧
    ([1, 2].filter (cloning clone1 0).isMember).length ≤ Map.find (fun _ => 0) clone1.tries 0 + 1 ∧
    (Cloning (cloning clone2 0) clone2 0 0x200000 [7] ∧ ∀ d ∈ [7], (cloning clone2 0).isMember d = false) ∧
    ((cloning clone1 (5 * 10 ^ 12)).memb.viewSince = some 0 ∧ 0 + 5000000000 ≤ (cloning clone1 (5 * 10 ^ 12)).nanos) ∧
    (cloning clone1 (5 * 10 ^ 12 - 1)).nanos < 0 + 5000000000 ∧ (List.replicate (2 ^ 20) (3 : Byte)).length = 2 ^ 20 ∧
    (cloning clone1 0).landDue 0x200000 = true ∧ (cloning clone2 0).landDue 0x200000 = true ∧
    (let s := { cloning clone1 0 with views := [⟨2, 0x200000, 0x10000⟩] }
     s.landDue 0x200000 = false ∧ Cloning s clone1 0 0x200000 [1, 2] ∧ s.isMember 1 = true) := by
  unfold Cloning
  refine ⟨by decide +kernel, by decide +kernel, by decide +kernel, by decide +kernel, by decide +kernel, by decide +kernel, by decide +kernel,
    by decide +kernel, List.length_replicate .., landDue_of _ _ (by decide +kernel) (by decide +kernel) (by decide +kernel),
    landDue_of _ _ (by decide +kernel) (by decide +kernel) (by decide +kernel), landDue_viewed _ _ (by decide +kernel), ?_⟩
  decide +kernel

def image (found wellFormed signatureOk : Bool) (version : BitVec 32) : BootImage := ⟨found, wellFormed, signatureOk, version⟩
def failed : State := State.reset.setReg 0 2#64
def fused : State := base.setReg 0x10 0x300000005#64
def attesting : State := { base with links := { base.links with nonce := List.replicate 32 1#8 } }

theorem test_witness_boot_causes :
    imageGood (image true true true 3#32) (fusedMin fused) ∧ imageCauses (image true true true 2#32) (fusedMin fused) 4 ∧
    imageCauses (image true true false 9#32) (fusedMin fused) 3 ∧ imageCauses (image true false true 9#32) (fusedMin fused) 2 ∧
    imageCauses (image false true true 9#32) (fusedMin fused) 1 := by
  unfold imageGood imageCauses
  refine ⟨?_, ?_, ?_, ?_, ?_⟩ <;> decide +kernel

theorem test_witness_boot :
    (failed.bootState = 2 ∧ fused.bootState ≠ 2) ∧
    (fused.bootState = 3 ∧ fusedMin fused < (5#32 : BitVec 32).toNat ∧ (5#32 : BitVec 32).toNat ≤ (fused.reg 0x10).toNat % 2 ^ 32 ∧
      (fused.reg 0x10).toNat % 2 ^ 32 < (6#32 : BitVec 32).toNat ∧ (3#32 : BitVec 32).toNat ≤ fusedMin fused) ∧
    (getField (base.reg 0x108) 0 2 ≠ 1 ∧ getField ((base.setReg 0x108 1#64).reg 0x108) 0 2 = 1) ∧
    attesting.links.nonce.length = 32 := by
  decide +kernel

/-! ## What instructions do: one step each, with values from the spec's examples and tables -/

/-- The state after one instruction from `base` with scalars set, and one scalar of it. -/
noncomputable def afterS (i : Instr) (rs : List (Reg × Word)) : State := nextOf (exec i (baseS rs))
noncomputable def scalarOf (i : Instr) (a b d : Word) : Word := (afterS i [(1#7, a), (2#7, b), (3#7, d)]).getS 3#7

/-- The state after one vector instruction on registers v1, v2 and v3 that hold one value in every lane; lane 95 of v3, and the flags. -/
def baseV (a b d : Lane) : State :=
  baseW (fun w => ((w.setVreg 1 (Vector.replicate 96 a)).setVreg 2 (Vector.replicate 96 b)).setVreg 3 (Vector.replicate 96 d))
noncomputable def lanesOf (i : Instr) (a b d : Lane) : Nat × Nat :=
  let t := nextOf (exec i (baseV a b d))
  (((t.wave.vreg 3).getD 95 0#32).toNat, t.wave.fflags.toNat)

/-- R98, R99: results wrap; the high halves, signed and not. -/
theorem test_add_wraps : scalarOf (.add false 3#7 1#7 2#7) 0xFFFFFFFFFFFFFFFF#64 2#64 0#64 = 1#64 := by decide +kernel
theorem test_sub_wraps : scalarOf (.sub false 3#7 1#7 2#7) 1#64 2#64 0#64 = 0xFFFFFFFFFFFFFFFF#64 := by decide +kernel
theorem test_mulh_signed : scalarOf (.mulh false 3#7 1#7 2#7) 0xFFFFFFFFFFFFFFFF#64 1#64 0#64 = 0xFFFFFFFFFFFFFFFF#64 := by decide +kernel
theorem test_mulhn_unsigned : scalarOf (.mulhn false 3#7 1#7 2#7) 0xFFFFFFFFFFFFFFFF#64 2#64 0#64 = 1#64 := by decide +kernel

/-- R100: −7 by 2 gives −3 and −1; 7 by 0 gives all ones and 7; the most negative number by −1. -/
theorem test_div_truncates : scalarOf (.div false 3#7 1#7 2#7) (-7#64) 2#64 0#64 = -3#64 := by decide +kernel
theorem test_rem_sign : scalarOf (.rem false 3#7 1#7 2#7) (-7#64) 2#64 0#64 = -1#64 := by decide +kernel
theorem test_div_overflow : scalarOf (.div false 3#7 1#7 2#7) 0x8000000000000000#64 (-1#64) 0#64 = 0x8000000000000000#64 := by decide +kernel
theorem test_rem_overflow : scalarOf (.rem false 3#7 1#7 2#7) 0x8000000000000000#64 (-1#64) 0#64 = 0#64 := by decide +kernel
theorem test_divn_zero : scalarOf (.divn false 3#7 1#7 2#7) 7#64 0#64 0#64 = 0xFFFFFFFFFFFFFFFF#64 := by decide +kernel
theorem test_remn_zero : scalarOf (.remn false 3#7 1#7 2#7) 7#64 0#64 0#64 = 7#64 := by decide +kernel

/-- R99, R103: a shift uses six bits; a sign-filling shift; the immediate compares read a sign-extended pattern. -/
theorem test_shl_amount : scalarOf (.shl false 3#7 1#7 2#7) 3#64 65#64 0#64 = 6#64 := by decide +kernel
theorem test_sha_fills : scalarOf (.sha false 3#7 1#7 2#7) 0x8000000000000000#64 63#64 0#64 = 0xFFFFFFFFFFFFFFFF#64 := by decide +kernel
theorem test_sltni_pattern : scalarOf (.sltni false 3#7 1#7 511#9) 0xFFFFFFFFFFFFFFFE#64 0#64 0#64 = 1#64 := by decide +kernel
theorem test_slt_signed : scalarOf (.slt false 3#7 1#7 2#7) (-1#64) 1#64 0#64 = 1#64 := by decide +kernel
theorem test_minn_unsigned : scalarOf (.minn false 3#7 1#7 2#7) (-1#64) 1#64 0#64 = 1#64 := by decide +kernel

/-- R101, R29: `sel` reads D; register 0 reads as zero and takes no write. -/
theorem test_sel_reads_d : scalarOf (.sel false 3#7 1#7 2#7) 7#64 9#64 0#64 = 9#64 := by decide +kernel
theorem test_zero_register : (afterS (.addi false 0#7 0#7 5#9) []).getS 0#7 = 0#64 := by decide +kernel

/-- R104, R105. -/
theorem test_ctz_zero : scalarOf (.ctz false 3#7 1#7) 0#64 0#64 0#64 = 64#64 := by decide +kernel
theorem test_bswap : scalarOf (.bswap false 3#7 1#7) 0x0102030405060708#64 0#64 0#64 = 0x0807060504030201#64 := by decide +kernel
theorem test_abs_most_negative : scalarOf (.abs false 3#7 1#7) 0x8000000000000000#64 0#64 0#64 = 0x8000000000000000#64 := by decide +kernel
theorem test_set0_extends : scalarOf (.set0 false 3#7 0x8000#16) 0#64 0#64 0#64 = 0xFFFFFFFFFFFF8000#64 := by decide +kernel
theorem test_set32_keeps : scalarOf (.set32 false 3#7 0xABCD#16) 0#64 0#64 0x1111222233334444#64 = 0x1111ABCD33334444#64 := by decide +kernel
theorem test_adpc : scalarOf (.adpc false 3#7 0xFFFF#16) 0#64 0#64 0#64 = 0xFFFC#64 := by decide +kernel

/-- R122 to R126: 1 + 2^−53 rounds to even with NX; a division by zero; the class of a quiet NaN; −0 below +0; conversions at their ends. -/
theorem test_fadd_even : (let t := afterS (.fadd false 3#7 1#7 2#7) [(1#7, 0x3FF0000000000000#64), (2#7, 0x3CA0000000000000#64)]
    (t.getS 3#7, t.wave.fflags)) = (0x3FF0000000000000#64, 0x10#6) := by decide +kernel
theorem test_fdiv_by_zero : (let t := afterS (.fdiv false 3#7 1#7 2#7) [(1#7, 0xBFF0000000000000#64)]
    (t.getS 3#7, t.wave.fflags)) = (0xFFF0000000000000#64, 0x02#6) := by decide +kernel
theorem test_fmin_zeros : scalarOf (.fmin false 3#7 1#7 2#7) 0#64 0x8000000000000000#64 0#64 = 0x8000000000000000#64 := by decide +kernel
theorem test_fclass_quiet : scalarOf (.fclass false 3#7 1#7) 0x7FF8000000000000#64 0#64 0#64 = 0x200#64 := by decide +kernel
theorem test_cvt_i64_range : (let t := afterS (.cvtF64I64 false 3#7 1#7) [(1#7, 3#64)]; t.getS 3#7) = 0x4008000000000000#64 := by decide +kernel
theorem test_cvt_i64_f64 : scalarOf (.cvtI64F64 false 3#7 1#7) 0x43E0000000000000#64 0#64 0#64 = 0x7FFFFFFFFFFFFFFF#64 := by decide +kernel
theorem test_fsqrt_negative : (let t := afterS (.fsqrt false 3#7 1#7) [(1#7, 0xBFF0000000000000#64)]
    (t.getS 3#7, t.wave.fflags)) = (0x7FF8000000000000#64, 0x01#6) := by decide +kernel

/-- R107, R117: the examples of packed halves and bytes; an accumulating multiply. -/
theorem test_vmad : lanesOf (.vmad false 3#7 1#7 2#7 false false) 5#32 7#32 100#32 = (135, 0) := by decide +kernel
theorem test_vmulh_signed : lanesOf (.vmulh false 3#7 1#7 2#7 false false) 0xFFFFFFFF#32 2#32 0#32 = (0xFFFFFFFF, 0) := by decide +kernel
theorem test_vhadd_example : lanesOf (.vhadd false 3#7 1#7 2#7 false false) 0xFFFF0001#32 0x00017FFF#32 0#32 = (0x00008000, 0) := by decide +kernel
theorem test_vbmin_example : lanesOf (.vbmin false 3#7 1#7 2#7 false false) 0x7F800102#32 0x0001FF03#32 0#32 = (0x0080FF02, 0) := by decide +kernel

/-- R37, R98: inactive lanes keep their value; lane 5 is switched off. -/
theorem test_inactive_lane : (let s := (baseV 1#32 2#32 77#32).setS 125#7 0xFFFFFFDF#64
    let t := nextOf (exec (.vadd false 3#7 1#7 2#7 false false) s)
    ((t.wave.vreg 3).getD 5 0#32, (t.wave.vreg 3).getD 4 0#32)) = (77#32, 3#32) := by decide +kernel

/-- R110: a compare fills three registers, their upper halves clear. -/
theorem test_compare_triple : (let t := nextOf (exec (.vslt false 10#7 1#7 2#7 false false) (baseV 0xFFFFFFFF#32 1#32 0#32))
    (t.getS 10#7, t.getS 11#7, t.getS 12#7)) = (0xFFFFFFFF#64, 0xFFFFFFFF#64, 0xFFFFFFFF#64) := by decide +kernel

/-- R111, R112: `vrotd v1, v2, #5` gives lane 95 lane 4; a permutation past lane 95 gives 0. -/
theorem test_vrotd_example : (let s := baseW (fun w => w.setVreg 1 (Vector.ofFn (fun i => BitVec.ofNat 32 i.val)))
    let t := nextOf (exec (.vrotd false 3#7 1#7 5#7) s)
    ((t.wave.vreg 3).getD 95 0#32, (t.wave.vreg 3).getD 0 0#32)) = (4#32, 5#32) := by decide +kernel
theorem test_vperm_out_of_range : lanesOf (.vperm false 3#7 1#7 2#7 false false) 9#32 96#32 1#32 = (0, 0) := by decide +kernel

/-- R113, R116, R127, R129, R130, R135: the reductions, the conversions and the examples of the chapter. -/
theorem test_vred_add : (let t := nextOf (exec (.vredAdd false 9#7 1#7 false) (baseV 0xFFFFFFFF#32 0#32 0#32)); t.getS 9#7) = -96#64 := by decide +kernel
theorem test_vcvt_i32 : lanesOf (.vcvtI32F32 false 3#7 1#7 false) 0xC0600000#32 0#32 0#32 = (0xFFFFFFFC, 0x10) := by decide +kernel
theorem test_vcvt_i32_range : lanesOf (.vcvtI32F32 false 3#7 1#7 false) 0x4F32D05E#32 0#32 0#32 = (0x7FFFFFFF, 0x01) := by decide +kernel
theorem test_vfadd_h2_example : lanesOf (.vfaddH2 false 3#7 1#7 2#7 false false) 0x7BFF3C00#32 0x3C003C00#32 0#32 = (0x7BFF4000, 0x10) := by decide +kernel
theorem test_vffloor_example : lanesOf (.vffloor false 3#7 1#7 false) 0xBE99999A#32 0#32 0#32 = (0xBF800000, 0) := by decide +kernel
theorem test_vfceil_example : lanesOf (.vfceil false 3#7 1#7 false) 0xBE99999A#32 0#32 0#32 = (0x80000000, 0) := by decide +kernel
theorem test_vfrint_example : lanesOf (.vfrint false 3#7 1#7 false) 0x40200000#32 0#32 0#32 = (0x40000000, 0x10) := by decide +kernel
theorem test_vfma_one_rounding : lanesOf (.vfma false 3#7 1#7 2#7 false false) 0x3F800001#32 0x3F800001#32 0xBF800002#32 = (0x28800000, 0) := by decide +kernel

/-- R139: the worked dot product in the 8-bit format. -/
theorem test_vndot_example : (let s := { baseV 0x00383838#32 0x00303030#32 0x4B800000#32 with
      wave := { (baseV 0x00383838#32 0x00303030#32 0x4B800000#32).wave with nf := (Vector.replicate 4 0#32).set 1 0x00810734#32 } }
    let t := nextOf (exec (.vndotNf1 false 3#7 1#7 2#7 false false) s)
    ((t.wave.vreg 3).getD 95 0#32, t.wave.fflags)) = (0x4B800001#32, 0x10#6) := by decide +kernel

/-- R33: a last-use bit frees its source. -/
theorem test_last_use_frees : (let t := nextOf (exec (.vadd false 3#7 1#7 2#7 true false) (baseV 1#32 2#32 0#32))
    (t.wave.isFreed 1, t.wave.isFreed 2)) = (true, false) := by decide +kernel

/-- R291: a taken branch backwards, `loop`, `call`, `bany` on the mask, an unaligned `jr`. -/
theorem test_br_taken : (afterS (.br false 1#7 0xFFFE#16) [(1#7, 1#64)]).wave.pc = 0xFFF8#64 := by decide +kernel
theorem test_br_not_taken : (afterS (.br false 1#7 0xFFFE#16) []).wave.pc = 0x10004#64 := by decide +kernel
theorem test_loop : (let t := afterS (.loop false 1#7 3#16) [(1#7, 1#64)]; (t.getS 1#7, t.wave.pc)) = (0#64, 0x10004#64) := by decide +kernel
theorem test_loop_zero_register : (afterS (.loop false 0#7 3#16) []).wave.pc = 0x1000C#64 := by decide +kernel
theorem test_call : (let t := afterS (.call false 4#23) []; (t.getS 1#7, t.wave.pc)) = (0x10004#64, 0x10010#64) := by decide +kernel
theorem test_bany_mask : (afterS (.bany false 125#7 2#16) []).wave.pc = 0x10008#64 := by decide +kernel
theorem test_jr_unaligned : (let t := nextOf (exec (.jr false 1#7) (handled.setS 1#7 0x20002#64))
    (t.wave.inh, t.wave.tcause, t.wave.taddr, t.wave.tpc)) = (true, 3#64, 0x20002#64, 0x10000#64) := by decide +kernel

/-- R119, R120: WCTL takes RM 4 and refuses 5; `vwin` past the allocation. -/
theorem test_csrw_wctl : (afterS (.csrw false 1#7 0x012#9) [(1#7, 0xC#64)]).wave.wctl = 12#4 := by decide +kernel
theorem test_csrw_rm5 : (let t := nextOf (exec (.csrw false 1#7 0x012#9) (handled.setS 1#7 5#64)); (t.wave.wctl, t.wave.tcause)) =
    (base.wave.wctl, 2#64) := by decide +kernel
theorem test_vwin_past : (let t := nextOf (exec (.vwin false 64#9) handled); (t.wave.vwb, t.wave.tcause)) = (0, 2#64) := by decide +kernel

/-- R295: a one-wave crew completes the phase with its own arrival. -/
theorem test_bar_completes : (let t := afterS (.barv false 3#7 2#3) []; (t.getS 3#7, (t.crew.bar 2#3).phase)) = (0#64, 1#16) := by decide +kernel

/-- R347: an `exit` of the crew's only wave ends it. -/
theorem test_exit : (afterS (.exit false) []).wave.status ≠ .live := by decide +kernel

/-- R5, R177, R181, R203: a store of 4 bytes goes to the bytes in little-endian order, at a time after the last tick's clock; a load takes the
bytes of its place, and lands zero-extended where its word says so. -/
theorem test_store_bytes : (let t := nextOf (exec (.storePerform 1 0 1) (accessing (.st 0 0#32 4) 0x20000#64 (.asked 1)))
    (t.readBytes 0x200000 5, t.wave.accs.length)) = ([7#8, 0#8, 0#8, 0#8, 0#8], 0) := by decide +kernel
theorem test_home_load : (let s := (accessing (.ld 5#7 8 false) 0x20000#64 .queued).writeMem 0x200000 8 0x1122334455667788
    let t := nextOf (exec (.homeLoad 1 0 1) s)
    (t.wave.accs.map (fun a => a.phase))) = [.done [(0, 0x1122334455667788#64)]] := by decide +kernel
theorem test_load_lands : (let t := nextOf (exec (.loadReturn 1 0 1) (accessing (.ld 5#7 4 true) 0x20000#64 (.done [(0, 0xFFFFFFFF#64)])))
    (t.getS 5#7, t.wave.accs.length)) = (0xFFFFFFFFFFFFFFFF#64, 0) := by decide +kernel

/-- R295: the first of two waves arrives and waits; the phase stands. -/
def barPair : State := { pair with crew := pair.crew.setBar 0#3 { pair.crew.bar 0#3 with member := 3#16 } }
theorem test_bar_waits : (let t := nextOf (exec (.bar false 0#3) barPair)
    (t.wave.block.isSome, (t.crew.bar 0#3).arrived, (t.crew.bar 0#3).phase)) = (true, 1#16, 0#16) := by decide +kernel

/-- R348, R356: a `trap` raises SWTRAP: s112 holds the code, TPC is the word after it. -/
theorem test_trap : (let t := nextOf (exec (.trap false 511#9) handled)
    (t.wave.inh, t.wave.pc, t.wave.tcause, t.wave.tpc, t.getS 112#7)) = (true, 0x10000#64, 0x0F#64, 0x10004#64, -1#64) := by decide +kernel

/-- R367: the catalogued check value of this CRC (polynomial 0x8BB7, initial value 0) over the nine bytes "123456789". -/
theorem test_sector_check : [0x31#8, 0x32#8, 0x33#8, 0x34#8, 0x35#8, 0x36#8, 0x37#8, 0x38#8, 0x39#8].foldl crcByte 0#16 = 0xD0DB#16 := by decide +kernel

end Sys2Proof.Tests
end

section
/-! SUPPORT. Values as bytes in little-endian order (R5), and the statement about memory. -/

namespace Sys2Proof.Proofs

open Sys2Proof.Machine Sys2Proof.Laws

@[simp] theorem length_bytesLE (n v : Nat) : (bytesLE n v).length = n := by simp [bytesLE]

theorem getElem_bytesLE (n v k : Nat) (h : k < (bytesLE n v).length) :
    (bytesLE n v)[k] = BitVec.ofNat 8 (v / 2 ^ (8 * k)) := by
  simp [bytesLE, Nat.shiftRight_eq_div_pow]

/-- The lowest byte comes first, then the bytes of the rest. -/
theorem bytesLE_succ (n v : Nat) : bytesLE (n + 1) v = BitVec.ofNat 8 v :: bytesLE n (v / 2 ^ 8) := by
  have hk (k : Nat) : v / 2 ^ (8 * (k + 1)) = v / 2 ^ 8 / 2 ^ (8 * k) := by
    rw [Nat.div_div_eq_div_mul, ← pow_add, Nat.mul_succ, Nat.add_comm]
  simp only [bytesLE, List.range_succ_eq_map, List.map_cons, List.map_map, Function.comp_def, Nat.shiftRight_eq_div_pow, hk,
    Nat.succ_eq_add_one, Nat.mul_zero, pow_zero, Nat.div_one]

/-- The bytes of a value give it back, but for what lies above them. -/
theorem ofBytesLE_bytesLE (n v : Nat) : ofBytesLE (bytesLE n v) = v % 2 ^ (8 * n) := by
  induction n generalizing v with
  | zero => simp [bytesLE, ofBytesLE, Nat.mod_one]
  | succ n ih =>
    calc ofBytesLE (bytesLE (n + 1) v)
      _ = v % 2 ^ 8 + 2 ^ 8 * ofBytesLE (bytesLE n (v / 2 ^ 8)) := by simp [bytesLE_succ, ofBytesLE]
      _ = v % 2 ^ (8 * (n + 1)) := by rw [ih, ← Nat.mod_mul, ← pow_add, Nat.mul_succ, Nat.add_comm]

/-- A value that was written reads back (R5). -/
theorem State.readMem_writeMem (s : State) (a n v : Nat) : (s.writeMem a n v).readMem a n = v % 2 ^ (8 * n) := by
  have hread := State.readBytes_writeBytes s a (bytesLE n v)
  rw [length_bytesLE] at hread
  rw [State.readMem, State.writeMem, hread, ofBytesLE_bytesLE]

/-- Byte `k` of the span holds bits 8k and up of the value (R5). -/
theorem State.byteAt_writeMem_inside (s : State) (a n v : Nat) {k : Nat} (h : k < n) :
    (s.writeMem a n v).byteAt (a + k) = BitVec.ofNat 8 (v / 2 ^ (8 * k)) := by
  rw [State.writeMem, State.byteAt_writeBytes_inside s a _ k (by simpa using h), getElem_bytesLE]

theorem State.byteAt_writeMem_outside (s : State) (a n v : Nat) {x : Nat} (h : x < a ∨ a + n ≤ x) :
    (s.writeMem a n v).byteAt x = s.byteAt x :=
  State.byteAt_writeBytes_outside s a _ x (by simpa using h)

/-- Settles O43: what a write of bytes leaves to be read, and the bytes of a value. -/
theorem memoryIsLittleEndian : Obligations.MemoryIsLittleEndian :=
  fun s a n v => ⟨State.readMem_writeMem s a n v, fun _ => State.byteAt_writeMem_inside s a n v,
    fun _ => State.byteAt_writeMem_outside s a n v⟩

end Sys2Proof.Proofs
end

section
/-! SUPPORT. What the end of a word leaves, in the terms that the statements about words use: for every word that changes the wave and goes
on. -/

namespace Sys2Proof.Proofs

open Sys2Proof.Machine Sys2Proof.Laws Sys2Proof.Stmt

variable {s : State} {w : Wave} {y : Bool} {target : Word}

/-- A word that changes the wave alone and goes on leaves everything else as it stood. -/
theorem restKept_advanceTo : RestKept s ((s.setWave w).advanceTo y target) := ⟨rfl, fun _ => rfl⟩

/-- A word goes on where it says, counted after those that the wave had issued. -/
theorem goesOn_advanceTo (h : w.issued = s.wave.issued) : GoesOn s ((s.setWave w).advanceTo y target) y target := by
  simp [GoesOn, h]

/-- The next word, where a word changes the wave but not its pc. -/
theorem advance_setWave (h : w.pc = s.wave.pc) : (s.setWave w).advance y = (s.setWave w).advanceTo y (s.wave.pc + 4#64) := by
  rw [State.advance, State.setWave_wave, h]

/-- A register that was written reads as the statements say that it holds its value (R29, R31). -/
theorem Wave.getS_setS (w : Wave) (d : Reg) (v : Word) : (w.setS d v).getS d = held d v := Wave.getS_setS_same w d v

/-- A write of a scalar changes the scalars alone. -/
theorem Wave.setS_eq (w : Wave) (d : Reg) (v : Word) : w.setS d v = { w with regs := (w.setS d v).regs } := by
  unfold Wave.setS
  split <;> rfl

/-- A word that writes one scalar besides fields that no scalar reads. -/
theorem writesScalar_advanceTo (d : Reg) (v : Word) (h : w.regs = s.wave.regs) :
    WritesScalar s ((s.setWave (w.setS d v)).advanceTo y target) d v := by
  have hget (r : Reg) : w.getS r = s.wave.getS r := by simp only [Wave.getS, h]
  exact ⟨Wave.getS_setS w d v, fun r hr => (Wave.getS_setS_other w v hr).trans (hget r)⟩

/-- A word that leaves the scalar registers. -/
theorem scalarsKept_advanceTo (h : w.regs = s.wave.regs) : ScalarsKept s ((s.setWave w).advanceTo y target) := by
  intro r
  simp only [State.getS, Wave.getS, State.advanceTo_wave, State.setWave_wave, h]

end Sys2Proof.Proofs
end

section
/-! SUPPORT. The control registers and the vector window (R39 to R41, R118 to R120). -/

namespace Sys2Proof.Proofs

open Sys2Proof.Machine Sys2Proof.Laws Sys2Proof.Stmt

/-- The control registers are those that R39 lists. -/
theorem State.csr_isSome_iff (s : State) (id : Nat) : (s.csr id).isSome = true ↔ id ∈ controlIds := by
  unfold State.csr
  split
  case h_41 => simp_all [controlIds]
  all_goals simp [controlIds]

theorem State.csr_eq_none (s : State) {id : Nat} (h : id ∉ controlIds) : s.csr id = none :=
  Option.not_isSome_iff_eq_none.1 ((State.csr_isSome_iff s id).not.2 h)

/-- A read clears PFDROP or STALECNT where it reads one of them (R8). -/
theorem Wave.afterRead_eq (w : Wave) (i : BitVec 9) : w.afterRead i.toNat =
    { w with pfdrop := if i = 0x050#9 then 0#64 else w.pfdrop, stalecnt := if i = 0x052#9 then 0#64 else w.stalecnt } := by
  by_cases h50 : i = 0x050#9
  · subst h50; rfl
  by_cases h52 : i = 0x052#9
  · subst h52; rfl
  have n50 : i.toNat ≠ 0x050 := fun e => h50 (BitVec.eq_of_toNat_eq e)
  have n52 : i.toNat ≠ 0x052 := fun e => h52 (BitVec.eq_of_toNat_eq e)
  simp [Wave.afterRead, h50, h52, n50, n52]

/-- Software writes WCTL, FFLAGS, MRWIN and TVEC, and of each its defined bits alone (R119). -/
theorem Wave.csrWrite_eq (w : Wave) (i : BitVec 9) (v : Word) : w.csrWrite i.toNat v =
    { w with
      wctl := if i = 0x012#9 then v.setWidth 4 else w.wctl
      fflags := if i = 0x013#9 then v.setWidth 6 else w.fflags
      mrwin := if i = 0x028#9 then v &&& ~~~0xFF#64 else w.mrwin
      tvec := if i = 0x034#9 then v &&& ~~~3#64 else w.tvec } := by
  by_cases h12 : i = 0x012#9
  · subst h12; rfl
  by_cases h13 : i = 0x013#9
  · subst h13; rfl
  by_cases h28 : i = 0x028#9
  · subst h28; rfl
  by_cases h34 : i = 0x034#9
  · subst h34; rfl
  have other {k : BitVec 9} (h : i ≠ k) : i.toNat ≠ k.toNat := fun e => h (BitVec.eq_of_toNat_eq e)
  unfold Wave.csrWrite
  split
  case h_1 e => exact absurd e (other h12)
  case h_2 e => exact absurd e (other h13)
  case h_3 e => exact absurd e (other h28)
  case h_4 e => exact absurd e (other h34)
  case h_5 => simp [h12, h13, h28, h34]

/-! ## What each of the words does -/

section
variable {s : State} (hs : Live s) (y : Bool)
include hs

/-- `csrr` of a listed register, unless results that FFLAGS waits for are pending (R41, R118). -/
theorem exec_csrr_listed (d : Reg) {i : BitVec 9} {v : Word} (hv : s.csr i.toNat = some v) (hp : i = 0x013#9 → s.sfuPending = false) :
    exec (.csrr y d i) s = .next ((s.setWave ((s.wave.afterRead i.toNat).setS d v)).advanceTo y (s.wave.pc + 4#64)) := by
  have hw : ¬ (i = 0x013#9 ∧ s.sfuPending = true) := fun ⟨hi, e⟩ => by simp [hp hi] at e
  rw [exec_csrr, execCsrr, State.onWave_live s _ hs]
  simp only [hv, if_neg hw]
  have hpc : ((s.wave.afterRead i.toNat).setS d v).pc = s.wave.pc := by simp [Wave.afterRead_eq]
  exact congrArg Host.Outcome.next (advance_setWave hpc)

/-- `csrw` of a listed register, but for a reserved rounding mode and pending results (R40, R41, R119). -/
theorem exec_csrw_listed (a : Reg) {i : BitVec 9} (hi : i.toNat ∈ controlIds) (hrm : i = 0x012#9 → ((s.getS a).setWidth 3).toNat ≤ 4)
    (hp : i = 0x013#9 → s.sfuPending = false) :
    exec (.csrw y a i) s = .next ((s.setWave (s.wave.csrWrite i.toNat (s.getS a))).advanceTo y (s.wave.pc + 4#64)) := by
  obtain ⟨v, hv⟩ := Option.isSome_iff_exists.1 ((State.csr_isSome_iff s i.toNat).2 hi)
  have hr : ¬ (i = 0x012#9 ∧ 4 < ((s.getS a).setWidth 3).toNat) := fun ⟨e, h⟩ => absurd (hrm e) (Nat.not_le.2 h)
  have hw : ¬ (i = 0x013#9 ∧ s.sfuPending = true) := fun ⟨hi, e⟩ => by simp [hp hi] at e
  rw [exec_csrw, execCsrw, State.onWave_live s _ hs]
  simp only [hv, if_neg hr, if_neg hw]
  have hpc : (s.wave.csrWrite i.toNat (s.getS a)).pc = s.wave.pc := by rw [Wave.csrWrite_eq]
  exact congrArg Host.Outcome.next (advance_setWave hpc)

/-- `vwin` of a window inside the allocation (R120). -/
theorem exec_vwin_inside {i : BitVec 9} (h32 : i.toNat % 32 = 0) (hin : i.toNat + 32 ≤ s.crew.valloc) :
    exec (.vwin y i) s = .next ((s.setWave { s.wave with vwb := i.toNat }).advanceTo y (s.wave.pc + 4#64)) := by
  have hok : ¬ (i.toNat % 32 ≠ 0 ∨ s.crew.valloc < i.toNat + 32) := by omega
  rw [exec_vwin, execVwin, State.onWave_live s _ hs]
  simp only [if_neg hok]
  rfl

theorem exec_csrr_unlisted (d : Reg) {i : BitVec 9} (hi : i.toNat ∉ controlIds) :
    exec (.csrr y d i) s = .next (s.trap .illegal 0#64) := by
  rw [exec_csrr, execCsrr, State.onWave_live s _ hs]
  simp only [State.csr_eq_none s hi]

theorem exec_csrw_unlisted (a : Reg) {i : BitVec 9} (hi : i.toNat ∉ controlIds) :
    exec (.csrw y a i) s = .next (s.trap .illegal 0#64) := by
  rw [exec_csrw, execCsrw, State.onWave_live s _ hs]
  simp only [State.csr_eq_none s hi]

/-- A reserved rounding mode in a write of WCTL raises OPERAND (R40). -/
theorem exec_csrw_reserved_mode (a : Reg) (h : 4 < ((s.getS a).setWidth 3 : BitVec 3).toNat) :
    exec (.csrw y a 0x012#9) s = .next (s.trap .operand 0#64) := by
  have hv : s.csr (0x012#9).toNat = some (s.wave.wctl.setWidth 64) := rfl
  rw [exec_csrw, execCsrw, State.onWave_live s _ hs]
  simp only [hv, h, and_self, if_true]

/-- A window that does not lie in the allocation raises OPERAND (R120). -/
theorem exec_vwin_outside {i : BitVec 9} (h : i.toNat % 32 ≠ 0 ∨ s.crew.valloc < i.toNat + 32) :
    exec (.vwin y i) s = .next (s.trap .operand 0#64) := by
  rw [exec_vwin, execVwin, State.onWave_live s _ hs]
  simp only [if_pos h]

end

/-- Settles O14: each clause is what its word does to the wave, read by the end of a word. -/
theorem controlRegisterWords : Obligations.ControlRegisterWords := by
  refine ⟨State.csr_isSome_iff, ?csrr, ?csrw, ?vwin, ?unlisted, ?mode, ?outside⟩
  case csrr =>
    intro y d i s v hs hv hp
    have hw := Wave.afterRead_eq s.wave i
    refine ⟨_, exec_csrr_listed hs y d hv hp, writesScalar_advanceTo d v ?regs, ?vectors, ?flags, ?pfdrop, ?stalecnt,
      goesOn_advanceTo ?issued, ?wave, restKept_advanceTo⟩
    case wave => rw [WaveKept, State.advanceTo_wave, State.setWave_wave, Wave.setS_eq, hw]
    all_goals simp [VectorsKept, hw]
  case csrw =>
    intro y a i s hs hi hrm hp
    refine ⟨_, exec_csrw_listed hs y a hi hrm hp, ?_⟩
    rw [Wave.csrWrite_eq]
    exact ⟨scalarsKept_advanceTo rfl, ⟨rfl, rfl⟩, rfl, rfl, rfl, rfl, goesOn_advanceTo rfl, rfl,
      restKept_advanceTo⟩
  case vwin =>
    intro y i s hs h32 hin
    exact ⟨_, exec_vwin_inside hs y h32 hin, rfl, scalarsKept_advanceTo rfl, ⟨rfl, rfl⟩, rfl, goesOn_advanceTo rfl, rfl,
      restKept_advanceTo⟩
  case unlisted => exact fun y d i s hs hi => ⟨exec_csrr_unlisted hs y d hi, exec_csrw_unlisted hs y d hi⟩
  case mode => exact fun y a s hs h => exec_csrw_reserved_mode hs y a h
  case outside => exact fun y i s hs h => exec_vwin_outside hs y h

end Sys2Proof.Proofs
end

section
/-! SUPPORT. The device right after reset (R28, R39, R329, R412 to R416). -/

namespace Sys2Proof.Proofs

open Sys2Proof.Machine Sys2Proof.Laws

/-- No register but the one at offset 0 has bit 0 set at reset: a context's ROOT.ENABLE is clear (R416). -/
theorem regReset_bit0 {off : Nat} (h : off ≠ 0) : (regReset off).getLsbD 0 = false := by
  unfold regReset
  rw [if_neg h]
  repeat' split
  all_goals rfl

theorem State.reset_ctxEnabled (c : Nat) : State.reset.ctxEnabled c = false :=
  regReset_bit0 (by unfold ctxOff; omega)

/-- What the registers of a context's block hold at reset, for each of the 64 contexts (R285, R416). -/
theorem regReset_context {c off : Nat} (hc : c < 64) (ho : off < 0x100) :
    regReset (ctxOff c off) =
      if off = 0x10 then 0x8000000000000000#64 else if off = 0x48 then 2000#64 else if off = 0x50 then 50000#64
      else if off = 0x58 then 100#64 else 0#64 := by
  have hmod : (0x20000 + 0x100 * c + off) % 0x100 = off := by omega
  unfold regReset ctxOff
  rw [if_neg (by omega), if_neg (by omega), if_neg (by omega), if_pos (by omega), hmod]
  repeat' split
  all_goals simp_all

/-- Settles O42: the values are those of the reset state, which lists no byte and no register. -/
theorem resetLeavesTheStatedValues : Obligations.ResetLeavesTheStatedValues := by
  have hcore (n : Nat) : State.reset.coreAt n = Core.reset := rfl
  refine ⟨State.reset_memory_wf, fun _ => rfl, State.reset_ctxEnabled, rfl, rfl, rfl, rfl, rfl, rfl, rfl, rfl, rfl, ?cores, rfl, rfl, rfl, rfl,
    ?contexts⟩
  case cores => exact fun n => by rw [hcore]; exact ⟨rfl, rfl, rfl, rfl⟩
  case contexts =>
    intro c hc
    have hreg (off : Nat) : State.reset.ctxReg c off = regReset (ctxOff c off) := rfl
    simp [State.barto, State.wdtime, State.pedl, hreg, regReset_context hc]

end Sys2Proof.Proofs
end

section
/-! SUPPORT. The guard of the vector words (R32, R34, R37, R45): what each of them does before its own effect. -/

namespace Sys2Proof.Proofs

open Sys2Proof.Machine Sys2Proof.Laws Sys2Proof.Stmt

/-- A word that only goes on leaves every register, flag and byte. -/
theorem completes_advance (s : State) (y : Bool) : Completes s (s.advance y) y :=
  ⟨goesOn_advanceTo rfl, rfl, restKept_advanceTo (w := s.wave)⟩

/-! ## The forms of the vector words -/

/-- A word with all of its effect behind the guard of the vector class. -/
def VectorForm (i : Instr) (y : Bool) (srcs : List (Reg × Bool)) (d : Option Reg) : Prop :=
  ∃ k, ∀ s, exec i s = s.onWave (fun s => s.vectorWord y srcs d k)

theorem lane3Table_form : ∀ e ∈ lane3Table, ∀ y d a b la lb, VectorForm (e.1 y d a b la lb) y [(a, la), (b, lb)] (some d) := by
  intro e he y d a b la lb
  fin_cases he
  all_goals exact ⟨_, fun s => rfl⟩

theorem vfloat3Table_form : ∀ e ∈ vfloat3Table, ∀ y d a b la lb, VectorForm (e.1 y d a b la lb) y [(a, la), (b, lb)] (some d) := by
  intro e he y d a b la lb
  fin_cases he
  all_goals exact ⟨_, fun s => rfl⟩

theorem lane2Table_form : ∀ e ∈ lane2Table, ∀ y d a la, VectorForm (e.1 y d a la) y [(a, la)] (some d) := by
  intro e he y d a la
  fin_cases he
  all_goals exact ⟨_, fun s => rfl⟩

/-! ## An empty mask (R37) -/

section
variable {i : Instr} {y : Bool} {s : State} (hs : Live s) (hm : s.wave.maskEmpty = true)
include hs hm

theorem State.onVector_empty (y : Bool) (srcs : List (Reg × Bool)) (d : Option Reg) (k : State → State) :
    s.onWave (fun s => s.vectorWord y srcs d k) = .next (s.advance y) := by
  rw [State.onWave_live s _ hs, State.vectorWord_empty s y srcs d k hm]

theorem VectorForm.exec_empty {srcs : List (Reg × Bool)} {d : Option Reg} (h : VectorForm i y srcs d) :
    exec i s = .next (s.advance y) := by
  obtain ⟨k, hk⟩ := h
  rw [hk, State.onVector_empty hs hm]

theorem State.compare_empty (y : Bool) (d a b : Reg) (la lb : Bool) (f : Lane → Lane → Bool) (g : Lane → Lane → BitVec 6) :
    s.compare y d a b la lb f g = .next (s.advance y) := by
  rw [State.compare, State.onWave_live s _ hs, hm, State.vectorWord_empty s y _ _ _ hm]
  rfl

theorem State.lmStrided_empty (y : Bool) (d a : Reg) (e : BitVec 2) (j : BitVec 7) (load : Bool) :
    s.lmStrided y d a e j load = .next (s.advance y) := by
  rw [State.lmStrided]
  split
  · rw [State.onWave_live s _ hs, if_pos hm]
  · exact State.onVector_empty hs hm ..

/-- Every word of the vector class meets the empty mask before anything else, whatever its form; the opcodes of the other words are not in
the class (R45). -/
theorem exec_of_maskEmpty {w : Lane} (he : encode i = some w) (hv : vectorClass w = true) : exec i s = .next (s.advance (wordY w)) := by
  cases i <;> cases he
  case vseq | vsne | vslt | vsle | vsltn | vslen | vfeq | vflt | vfle =>
    simp only [exec_vseq, exec_vsne, exec_vslt, exec_vsle, exec_vsltn, exec_vslen, exec_vfeq, exec_vflt, exec_vfle, encF3_Y]
    exact State.compare_empty hs hm ..
  case vlldc | vlstc =>
    simp only [exec_vlldc, exec_vlstc, encFI_Y]
    exact State.lmStrided_empty hs hm ..
  case vaddi | vxshf | vrotu | vrotd | vblane | vcbx | vncvtNf0 | vncvtNf1 | vncvtNf2 | vncvtNf3 | vldc | vstc =>
    rw [encFI_Y]
    exact VectorForm.exec_empty hs hm ⟨_, fun s => rfl⟩
  case vadd | vsub | vmul | vmulh | vmulhn | vmad | vand | vor | vxor | vshl | vshr | vsha | vmin | vmax | vminn | vmaxn
      | vabs | vneg | vnot | vclz | vpopc | vbrev | vmov | vsext16 | vbcast | vlaneid | vperm
      | vredAdd | vredMin | vredMax | vredMinn | vredMaxn | vredAnd | vredOr | vredXor | vredFadd | vredFmin | vredFmax | vext | vins
      | vcvtF32I32 | vcvtF32N32 | vcvtI32F32 | vcvtN32F32 | vcvtHF32Lo | vcvtHF32Hi | vcvtF32HLo | vcvtF32HHi | vcvtBfF32Lo | vcvtBfF32Hi
      | vcvtF32BfLo | vcvtF32BfHi | vcvtI16I32Lo | vcvtI16I32Hi | vcvtI32I16Lo | vcvtI32I16Hi
      | vfadd | vfsub | vfmul | vfma | vfmin | vfmax | vfaddH2 | vfmulH2 | vfmaH2 | vfaddBf2 | vfmulBf2 | vfmaBf2
      | vfabs | vfneg | vfclass | vfrint | vffloor | vfceil | vftrunc
      | vrcp | vrsq | vsqrt | vexp2 | vlog2 | vexp | vlog | vsin | vcos | vtanh | vsigm | verf | vfdiv | vfdotH2 | vfdotBf2
      | vhadd | vhsub | vhmul | vhmin | vhmax | vhminn | vhmaxn | vbadd | vbsub | vbmin | vbmax
      | vnaddNf0 | vnaddNf1 | vnaddNf2 | vnaddNf3 | vnmulNf0 | vnmulNf1 | vnmulNf2 | vnmulNf3 | vndotNf0 | vndotNf1 | vndotNf2 | vndotNf3
      | vld | vst | vlld | vlst | vaadd | vafadd =>
    simp only [encFS, encF3_Y]
    exact VectorForm.exec_empty hs hm ⟨_, fun s => rfl⟩
  all_goals simp [vectorClass, vectorOpcode, encFS] at hv

end

/-! ## A register that a word may not name (R32, R34) -/

section
variable {i : Instr} {y : Bool} {s : State} (hs : Live s) (hm : s.wave.maskEmpty = false)
include hs hm

theorem VectorForm.exec_outside {srcs : List (Reg × Bool)} {d : Option Reg} (h : VectorForm i y srcs d) (r : Reg)
    (hr : r ∈ srcs.map (fun e => e.1) ++ d.toList) (ha : s.crew.valloc ≤ s.wave.phys r) : exec i s = .next (s.trap .operand 0#64) := by
  obtain ⟨k, hk⟩ := h
  rw [hk, State.onWave_live s _ hs, State.vectorWord_outside s y srcs d k hm r hr ha]

theorem VectorForm.exec_strict {srcs : List (Reg × Bool)} {d : Option Reg} (h : VectorForm i y srcs d) (hst : s.wave.strict = true)
    (e : Reg × Bool) (he : e ∈ srcs) (hf : s.wave.isFreed (s.wave.phys e.1) = true) : exec i s = .next (s.trap .operand 0#64) := by
  obtain ⟨k, hk⟩ := h
  rw [hk, State.onWave_live s _ hs, State.vectorWord_strict s y srcs d k hm hst e he hf]

theorem VectorForm.exec_operand3 {d a b : Reg} {la lb : Bool} (h : VectorForm i y [(a, la), (b, lb)] (some d))
    (hbad : s.crew.valloc ≤ s.wave.phys d ∨ s.crew.valloc ≤ s.wave.phys a ∨ s.crew.valloc ≤ s.wave.phys b ∨
      (s.wave.strict = true ∧ (s.wave.isFreed (s.wave.phys a) = true ∨ s.wave.isFreed (s.wave.phys b) = true))) :
    exec i s = .next (s.trap .operand 0#64) := by
  rcases hbad with hd | ha | hb | ⟨hst, ha | hb⟩
  · exact h.exec_outside hs hm d (by simp) hd
  · exact h.exec_outside hs hm a (by simp) ha
  · exact h.exec_outside hs hm b (by simp) hb
  · exact h.exec_strict hs hm hst (a, la) (by simp) ha
  · exact h.exec_strict hs hm hst (b, lb) (by simp) hb

theorem VectorForm.exec_operand2 {d a : Reg} {la : Bool} (h : VectorForm i y [(a, la)] (some d))
    (hbad : s.crew.valloc ≤ s.wave.phys d ∨ s.crew.valloc ≤ s.wave.phys a ∨
      (s.wave.strict = true ∧ s.wave.isFreed (s.wave.phys a) = true)) :
    exec i s = .next (s.trap .operand 0#64) := by
  rcases hbad with hd | ha | ⟨hst, ha⟩
  · exact h.exec_outside hs hm d (by simp) hd
  · exact h.exec_outside hs hm a (by simp) ha
  · exact h.exec_strict hs hm hst (a, la) (by simp) ha

end

/-- Settles O9: the mask is looked at first, then the registers that the word names. -/
theorem vectorWordsAreGuarded : Obligations.VectorWordsAreGuarded := by
  refine ⟨?empty, ?lane3, ?float3, ?lane2⟩
  case empty =>
    intro i w s he hv hs hm
    exact ⟨_, exec_of_maskEmpty hs hm he hv, fun _ => rfl, ⟨rfl, rfl⟩, rfl, completes_advance s _⟩
  case lane3 => exact fun e he y d a b la lb _ hs hm h => (lane3Table_form e he y d a b la lb).exec_operand3 hs hm h
  case float3 => exact fun e he y d a b la lb _ hs hm h => (vfloat3Table_form e he y d a b la lb).exec_operand3 hs hm h
  case lane2 => exact fun e he y d a la _ hs hm h => (lane2Table_form e he y d a la).exec_operand2 hs hm h

end Sys2Proof.Proofs
end

section
/-! SUPPORT. The words that look at an accumulator, the self-check words and `nfset` (R35, R166 to R169). -/

namespace Sys2Proof.Proofs

open Sys2Proof.Machine Sys2Proof.Laws Sys2Proof.Stmt

/-- A word whose accumulator word passes the checks of R158. -/
theorem State.withMiw_ok {s : State} {w0 : Word} {mma : Bool} (h : MiwOk s w0 mma) (k : Miw → State) : s.withMiw w0 mma k = k (miwOf w0) := by
  obtain ⟨hacc, hres, hplain⟩ := h
  have hkq : (!mma && !(miwOf w0).plain) = false := by
    cases mma with
    | false => simp [hplain rfl]
    | true => rfl
  simp only [State.withMiw, if_neg (Nat.not_le.2 hacc), hres, hkq, Bool.or_self, Bool.false_eq_true, if_false]

section
variable {s : State} (hs : Live s) (y : Bool)
include hs

/-- `mver` of an accumulator of the crew: the wave is ordered after the operations that completed on it (R149, R166). -/
theorem exec_mver_present (d : Reg) {a : Reg} (ha : a.toNat < s.crew.naccs) :
    exec (.mver y d a) s = .next ((s.setWave (({ s.wave with pts := max s.wave.pts (s.crew.acc a.toNat).clock } : Wave).setS d
      (s.crew.acc a.toNat).word)).advanceTo y (s.wave.pc + 4#64)) := by
  rw [exec_mver, execMver, State.onWave_live s _ hs]
  simp only [if_neg (Nat.not_le.2 ha)]
  rw [← advance_setWave (by simp)]
  rfl

/-- `mwait` on a version in the window of R167 that the accumulator has reached. -/
theorem exec_mwait_reached {d : Reg} (hm : MiwOk s (s.getS d) false)
    (hv : ((s.crew.acc (miwOf (s.getS d)).acc).ver - (miwOf (s.getS d)).ver).toNat < 32768) :
    exec (.mwait y d) s = .next ((s.setWave { s.wave with
      pts := max s.wave.pts (s.crew.acc (miwOf (s.getS d)).acc).clock }).advanceTo y (s.wave.pc + 4#64)) := by
  rw [exec_mwait, execMwait, State.onWave_live s _ hs, State.withMiw_ok hm, if_pos hv]
  rfl

/-- `mwait` on a version that is still to come. -/
theorem exec_mwait_early {d : Reg} (hm : MiwOk s (s.getS d) false)
    (hv : 32768 ≤ ((s.crew.acc (miwOf (s.getS d)).acc).ver - (miwOf (s.getS d)).ver).toNat) :
    exec (.mwait y d) s = .next (s.wait .mwait) := by
  rw [exec_mwait, execMwait, State.onWave_live s _ hs, State.withMiw_ok hm, if_neg (Nat.not_lt.2 hv)]

theorem exec_mchkForce_live :
    exec (.mchkForce y) s = .next ((s.setWave { s.wave with chkForce := true }).advanceTo y (s.wave.pc + 4#64)) := by
  rw [exec_mchkForce, execMchkForce, State.onWave_live s _ hs]
  rfl

/-- What `mchk.status` gives of the wave's core (R168). -/
def checkWord (s : State) : Word :=
  BitVec.ofNat 64 ((s.coreAt s.crew.core).checks % 2 ^ 32 * 2 ^ 32 + min (s.coreAt s.crew.core).mismatches 65535 * 2 ^ 16 +
    (if s.wave.chkForce then 2 ^ 10 else 0) + (s.coreAt s.crew.core).spareRows * 2 ^ 8)

theorem exec_mchkStatus_live (d : Reg) :
    exec (.mchkStatus y d) s = .next ((s.setWave (s.wave.setS d (checkWord s))).advanceTo y (s.wave.pc + 4#64)) := by
  rw [exec_mchkStatus, execMchkStatus, State.onWave_live s _ hs, ← advance_setWave (by simp)]
  rfl

/-- `mchk.period` with a period of R168. -/
theorem exec_mchkPeriod_inside {a : Reg} (h1 : 1 ≤ (s.getS a).toNat) (h2 : (s.getS a).toNat ≤ 4096) :
    exec (.mchkPeriod y a) s = .next ((s.setCore s.crew.core { s.coreAt s.crew.core with mchkn := s.getS a }).advance y) := by
  rw [exec_mchkPeriod, execMchkPeriod, State.onWave_live s _ hs]
  simp only [if_neg (show ¬((s.getS a).toNat < 1 ∨ 4096 < (s.getS a).toNat) by omega)]
  rfl

theorem exec_mchkPeriod_outside {a : Reg} (h : (s.getS a).toNat < 1 ∨ 4096 < (s.getS a).toNat) :
    exec (.mchkPeriod y a) s = .next (s.trap .operand 0#64) := by
  rw [exec_mchkPeriod, execMchkPeriod, State.onWave_live s _ hs]
  simp only [if_pos h]

/-- `nfset` of one of the four format registers (R169). -/
theorem exec_nfset_listed {d : Reg} (a : Reg) (hd : d ≤ 3#7) :
    exec (.nfset y d a) s = .next ((s.setWave { s.wave with
      nf := s.wave.nf.setIfInBounds d.toNat ((s.getS a).setWidth 32) }).advanceTo y (s.wave.pc + 4#64)) := by
  rw [exec_nfset, execNfset, State.onWave_live s _ hs]
  simp only [if_neg (Nat.not_lt.2 (BitVec.le_def.1 hd) : ¬ 3 < d.toNat)]
  rfl

theorem exec_nfset_unlisted {d : Reg} (a : Reg) (hd : 3#7 < d) : exec (.nfset y d a) s = .next (s.trap .operand 0#64) := by
  have h3 : 3 < d.toNat := BitVec.lt_def.1 hd
  rw [exec_nfset, execNfset, State.onWave_live s _ hs]
  simp only [h3, if_true]

end

/-- A word that changes its core alone and goes on. -/
theorem restKept_setCore (s : State) (y : Bool) (n : Nat) (c : Core) : RestKept s { (s.setCore n c).advance y with cores := s.cores } :=
  ⟨by simp, fun a => State.byteAt_of_mem (by simp) a⟩

@[simp] theorem State.coreAt_advance (s : State) (y : Bool) (n : Nat) : (s.advance y).coreAt n = s.coreAt n := rfl

theorem State.coreAt_setCore (s : State) (m n : Nat) (c : Core) : (s.setCore m c).coreAt n = if n = m then c else s.coreAt n :=
  Map.find_put _ s.cores n m c

/-- The registers of a vector after one of them has been set. -/
theorem getD_setIfInBounds {α : Type} {n : Nat} (v : Vector α n) (i k : Nat) (x d : α) (hi : i < n) :
    (v.setIfInBounds i x).getD k d = if k = i then x else v.getD k d := by
  by_cases hk : k = i
  · subst hk; simp [Vector.getD, hi]
  · simp [Vector.getD, hk, Ne.symm hk]

/-- Settles O20: each clause is what its word does to the wave or its core, read by the end of a word. -/
theorem accumulatorStatusAndCheckWords : Obligations.AccumulatorStatusAndCheckWords := by
  refine ⟨?mver, ?mwait, ?force, ?status, ?period, ?periodOutside, ?nfset, ?nfsetOutside⟩
  case mver =>
    intro y d a s hs ha
    refine ⟨_, exec_mver_present hs y d ha, writesScalar_advanceTo d _ rfl, by simp, ⟨by simp, by simp⟩, by simp, goesOn_advanceTo (by simp), ?_,
      restKept_advanceTo⟩
    rw [WaveKept, State.advanceTo_wave, State.setWave_wave, Wave.setS_eq]
  case mwait =>
    intro y d s hs hm
    refine ⟨fun hv => ?_, fun hv => ?_⟩
    · exact ⟨_, exec_mwait_reached hs y hm hv, rfl, scalarsKept_advanceTo rfl, ⟨rfl, rfl⟩, rfl, goesOn_advanceTo rfl, rfl,
        restKept_advanceTo⟩
    · exact ⟨_, exec_mwait_early hs y hm hv, rfl, rfl, rfl⟩
  case force =>
    intro y s hs
    exact ⟨_, exec_mchkForce_live hs y, rfl, scalarsKept_advanceTo rfl, ⟨rfl, rfl⟩, rfl, goesOn_advanceTo rfl, rfl, restKept_advanceTo⟩
  case status =>
    intro y d s hs
    refine ⟨_, exec_mchkStatus_live hs y d, writesScalar_advanceTo d _ rfl, ⟨by simp, by simp⟩, by simp, goesOn_advanceTo (by simp), ?_,
      restKept_advanceTo⟩
    rw [WaveKept, State.advanceTo_wave, State.setWave_wave, Wave.setS_eq]
  case period =>
    intro y a s hs h1 h2
    refine ⟨_, exec_mchkPeriod_inside hs y h1 h2, ?_, ?_, fun _ => rfl, ⟨rfl, rfl⟩, rfl, goesOn_advanceTo (w := s.wave) rfl,
      rfl, restKept_setCore s y _ _⟩
    · simp [State.coreAt_setCore]
    · intro n hn
      simp [State.coreAt_setCore, hn]
  case periodOutside => exact fun y a s hs h => exec_mchkPeriod_outside hs y h
  case nfset =>
    intro y d a s hs hd
    have hd4 : d.toNat < 4 := Nat.lt_succ_of_le (BitVec.le_def.1 hd)
    refine ⟨_, exec_nfset_listed hs y a hd, ?_, ?_, scalarsKept_advanceTo rfl, ⟨rfl, rfl⟩, rfl, goesOn_advanceTo rfl, rfl,
      restKept_advanceTo⟩
    · simp [getD_setIfInBounds, hd4]
    · intro k _ hk
      simp [getD_setIfInBounds, hd4, hk]
  case nfsetOutside => exact fun y d a s hs hd => exec_nfset_unlisted hs y a hd

end Sys2Proof.Proofs
end

section
/-! SUPPORT. What the writes of the device's units leave alone. A state without the fields that a kind of write may change: the write keeps
it, so that it keeps every other field. -/

namespace Sys2Proof.Proofs

open Sys2Proof.Machine Sys2Proof.Laws

/-- All but the regions. -/
def noRegions (s : State) : State := { s with regions := [], rgnSeq := 0 }

/-- All but the regions, and the bytes, stamps and poison of LM with the old values that are kept of them. -/
def noLm (s : State) : State :=
  { noRegions s with past := [], wseq := 0, lm := [], lmStamp := [], lmMark := [], lmPoison := [] }

/-- All but what a write to memory or LM changes. -/
def unwritten (s : State) : State := { noLm s with lmFull := [], mem := [], poison := [], lines := [], units := [] }

theorem State.noLm_of_noRegions {s t : State} (h : noRegions t = noRegions s) : noLm t = noLm s :=
  congrArg (fun u : State => ({ u with past := [], wseq := 0, lm := [], lmStamp := [], lmMark := [], lmPoison := [] } : State)) h

theorem State.unwritten_of_noLm {s t : State} (h : noLm t = noLm s) : unwritten t = unwritten s :=
  congrArg (fun u : State => ({ u with lmFull := [], mem := [], poison := [], lines := [], units := [] } : State)) h

theorem State.unwritten_of_noRegions {s t : State} (h : noRegions t = noRegions s) : unwritten t = unwritten s :=
  State.unwritten_of_noLm (State.noLm_of_noRegions h)

/-! ## Regions (R233, R234, R236, R238) -/

theorem State.abortFuel_noRegions (s : State) (fuel id st : Nat) : noRegions (s.abortFuel fuel id st) = noRegions s := by
  induction fuel generalizing s id st with
  | zero => rfl
  | succ fuel ih =>
    simp only [State.abortFuel]
    split
    · rfl
    · split
      · rfl
      · exact (foldl_keeps noRegions _ (fun s x => ih s x 2) _ _).trans rfl

theorem State.abortRegion_noRegions (s : State) (id st : Nat) : noRegions (s.abortRegion id st) = noRegions s :=
  State.abortFuel_noRegions s _ id st

theorem State.breakCycles_noRegions (s : State) (fuel x y : Nat) : noRegions (s.breakCycles fuel x y) = noRegions s := by
  induction fuel generalizing s with
  | zero => rfl
  | succ fuel ih =>
    simp only [State.breakCycles]
    split
    · split
      · rfl
      · split
        · exact State.abortRegion_noRegions s _ 1
        · rw [ih, State.abortRegion_noRegions]
    · rfl

theorem State.addEdge_noRegions (s : State) (x y : Nat) (fwd : Bool) : noRegions (s.addEdge x y fwd) = noRegions s := by
  unfold State.addEdge
  repeat' split
  · rfl
  · rfl
  · rfl
  · rw [State.breakCycles_noRegions]; rfl

theorem State.takeReport_noRegions (s : State) (id w : Nat) (write : Bool) : noRegions (s.takeReport id w write) = noRegions s := by
  unfold State.takeReport
  split
  · rfl
  split
  · extract_lets first m src s1 rivals
    split
    · rfl
    split
    · refine (foldl_keeps noRegions _ (fun s q => ?_) rivals s1).trans rfl
      split
      · rfl
      · split <;> split <;> simp only [State.addEdge_noRegions]
    · refine (foldl_keeps noRegions _ (fun s q => ?_) rivals s1).trans rfl
      split
      · rfl
      · split <;> simp only [State.addEdge_noRegions]
  · rfl

theorem State.takeReports_noRegions (s : State) (id : Nat) : noRegions (s.takeReports id) = noRegions s := by
  unfold State.takeReports
  split
  · rfl
  · exact (foldl_keeps noRegions _ (fun s e => State.takeReport_noRegions s id _ _) _ _).trans rfl

theorem State.markWord_noRegions (s : State) (id w : Nat) (write : Bool) : noRegions (s.markWord id w write) = noRegions s := by
  unfold State.markWord
  split
  · rfl
  split
  · cases write
    · simp only [Bool.false_eq_true, if_false]
      split
      · rfl
      · exact (State.takeReports_noRegions _ id).trans rfl
    · simp only [if_true]
      split <;> rfl
  · rfl

theorem State.lmEvent_noRegions (s : State) (core off : Nat) (write : Bool) : noRegions (s.lmEvent core off write) = noRegions s := by
  refine foldl_keeps noRegions _ (fun s r => ?_) _ s
  exact foldl_keeps noRegions _ (fun s w => State.markWord_noRegions s _ w write) _ s

theorem State.lmTouch_noRegions (s : State) (core off n : Nat) (write : Bool) : noRegions (s.lmTouch core off n write) = noRegions s := by
  unfold State.lmTouch
  split
  · rfl
  · exact foldl_keeps noRegions _ (fun s w => State.lmEvent_noRegions s core (4 * w) write) _ s

theorem State.interfere_noRegions (s : State) (a n : Nat) : noRegions (s.interfere a n) = noRegions s := by
  unfold State.interfere
  split
  · rfl
  · exact foldl_keeps noRegions _ (fun s w => foldl_keeps noRegions _ (fun s r => State.abortRegion_noRegions s _ 4) _ s) _ s

/-! ## LM (R210, R211) -/

theorem State.logByte_noLm (s : State) (k : Nat) (o n : Byte) : noLm (s.logByte k o n) = noLm s := by
  unfold State.logByte
  split <;> rfl

theorem State.lmLog_noLm (s : State) (c o : Nat) (bs : List Byte) : noLm (s.lmLog c o bs) = noLm s := by
  unfold State.lmLog
  split
  · rfl
  · refine foldl_keeps noLm _ (fun s e => ?_) _ s
    split
    · rfl
    · exact State.logByte_noLm ..

theorem State.lmPut_noLm (s : State) (c o : Nat) (bs : List Byte) : noLm (s.lmPut c o bs) = noLm s := by
  induction bs generalizing s o with
  | nil => rfl
  | cons b rest ih => exact (ih _ _).trans rfl

theorem State.lmWriteLine_noLm (s : State) (c o : Nat) (bs : List Byte) : noLm (s.lmWriteLine c o bs) = noLm s := by
  have hstamp (t : State) (l : Nat) : noLm (t.lmStampLine l) = noLm t := rfl
  simp only [State.lmWriteLine, hstamp, State.lmPut_noLm]
  split
  · exact State.lmPut_noLm ..
  · exact State.lmLog_noLm ..

theorem State.lmWriteFuel_noLm (s : State) (fuel c o : Nat) (bs : List Byte) : noLm (s.lmWriteFuel fuel c o bs) = noLm s := by
  induction fuel generalizing s o bs with
  | zero => rfl
  | succ fuel ih =>
    simp only [State.lmWriteFuel]
    split
    · rfl
    · rw [ih, State.lmWriteLine_noLm]

theorem State.lmWrite_noLm (s : State) (c o : Nat) (bs : List Byte) : noLm (s.lmWrite c o bs) = noLm s := by
  unfold State.lmWrite
  refine (foldl_keeps noLm _ (fun s x => ?_) _ _).trans (State.lmWriteFuel_noLm s _ c o bs)
  split <;> rfl

/-! ## Memory (R181, R198, R238, R332) -/

theorem State.lmSetFull_unwritten (s : State) (c o : Nat) (b : Bool) : unwritten (s.lmSetFull c o b) = unwritten s := rfl
theorem State.setLine_unwritten (s : State) (l : Nat) (v : Line) : unwritten (s.setLine l v) = unwritten s := rfl

theorem State.writeBytes_unwritten (s : State) (a : Nat) (bs : List Byte) : unwritten (s.writeBytes a bs) = unwritten s := by
  rw [State.writeBytes_eq]; rfl

theorem State.memLog_unwritten (s : State) (a : Nat) (bs : List Byte) : unwritten (s.memLog a bs) = unwritten s := by
  unfold State.memLog
  split
  · split <;> rfl
  · refine foldl_keeps unwritten _ (fun s e => ?_) _ s
    split
    · rfl
    · exact State.unwritten_of_noLm (State.logByte_noLm ..)

theorem State.clearWhole_unwritten (s : State) (a n : Nat) : unwritten (s.clearWhole a n) = unwritten s := by
  refine foldl_keeps unwritten _ (fun s x => ?_) _ s
  split <;> rfl

theorem State.stampWrite_unwritten (s : State) (w a n : Nat) : unwritten (s.stampWrite w a n) = unwritten s :=
  foldl_keeps unwritten _ (fun s _ => State.setLine_unwritten s _ _) _ s

theorem State.refresh_unwritten (s : State) (a n : Nat) : unwritten (s.refresh a n) = unwritten s := by
  unfold State.refresh
  split
  · rfl
  · refine foldl_keeps unwritten _ (fun s w => foldl_keeps unwritten _ (fun s r => ?_) _ s) _ s
    split
    · split
      · rfl
      · exact State.unwritten_of_noLm (State.lmWrite_noLm ..)
    · rfl

theorem State.plainWrite_unwritten (s : State) (w a : Nat) (bs : List Byte) : unwritten (s.plainWrite w a bs) = unwritten s := by
  simp only [State.plainWrite, State.refresh_unwritten, State.stampWrite_unwritten, State.clearWhole_unwritten,
    State.writeBytes_unwritten, State.memLog_unwritten]
  exact State.unwritten_of_noRegions (State.interfere_noRegions ..)

theorem State.touch_unwritten (s : State) (x : Xl) (write : Bool) : unwritten (s.touch x write) = unwritten s := by
  unfold State.touch
  extract_lets p q
  split
  · rfl
  · exact State.plainWrite_unwritten ..

theorem State.hdrWrite_unwritten (s : State) (a o n v : Nat) : unwritten (s.hdrWrite a o n v) = unwritten s :=
  State.plainWrite_unwritten ..

/-- What a read of the device's own units leaves: it sets A, and leases lines (R180, R332). -/
theorem State.unitRead_unwritten (s : State) (x : Xl) (n : Nat) : unwritten (s.unitRead x n) = unwritten s := by
  refine (foldl_keeps unwritten _ (fun s l => ?_) _ _).trans (State.touch_unwritten s x false)
  unfold State.leaseLine State.recallLine
  rw [State.setLine_unwritten]
  split <;> rfl

theorem State.unitRun_unwritten (s : State) (u : UnitWrite) : unwritten (s.unitRun u) = unwritten s := by
  unfold State.unitRun
  split <;> simp only [State.hdrWrite_unwritten, State.plainWrite_unwritten]

theorem State.unitsFrom_unwritten (s : State) (us left : List UnitWrite) : unwritten (s.unitsFrom us left) = unwritten s := by
  induction us generalizing s left with
  | nil => rfl
  | cons u rest ih =>
    simp only [State.unitsFrom]
    split
    · rw [ih, State.unitRun_unwritten]
    · exact ih s _

theorem State.hdrAct_unwritten (s : State) (x : Xl) (act : HdrAct) : unwritten (s.hdrAct x act) = unwritten s := by
  have hunits (t : State) (us : List UnitWrite) : unwritten { t with units := us } = unwritten t := rfl
  simp only [State.hdrAct, State.drainUnits, State.unitsFrom_unwritten, hunits, State.touch_unwritten]

end Sys2Proof.Proofs
end

section
/-! SUPPORT. What a write to LM leaves to be read (R189, R210, R211), and the granules that it makes full or empty. -/

namespace Sys2Proof.Proofs

open Sys2Proof.Machine Sys2Proof.Laws Sys2Proof.Stmt

theorem lmKey_add (core off k : Nat) : lmKey core (off + k) = lmKey core off + k := (Nat.add_assoc ..).symm

/-- A core's LM begins at a line. -/
theorem lmKey_mod (core off : Nat) : lmKey core off % 256 = off % 256 := by
  unfold lmKey lmBytes
  omega

theorem lmKey_line (core off : Nat) : lmKey core off = lmKey core (off / 256 * 256) + off % 256 := by
  rw [← lmKey_add]
  congr 1
  omega

/-- A span of LM bytes from a core's offset up has no byte in the line of `k`. -/
def OtherLines (core off n k : Nat) : Prop := ∀ i, i < n → (lmKey core off + i) / 256 ≠ k / 256

/-! ## Bytes -/

theorem lmAt_lmSetByte (s : State) (core off : Nat) (b : Byte) (k : Nat) :
    lmAt (s.lmSetByte core off b) k = if k = lmKey core off then b else lmAt s k :=
  Map.find_put ..

theorem lmAt_lmPut_outside (s : State) (core off : Nat) (bs : List Byte) {k : Nat}
    (h : k < lmKey core off ∨ lmKey core off + bs.length ≤ k) : lmAt (s.lmPut core off bs) k = lmAt s k := by
  induction bs generalizing s off with
  | nil => rfl
  | cons b rest ih =>
    rw [List.length_cons] at h
    rw [State.lmPut, ih _ _ (by rw [lmKey_add]; omega), lmAt_lmSetByte, if_neg (by omega)]

theorem lmAt_lmPut_inside (s : State) (core off : Nat) (bs : List Byte) {k : Nat} (h : k < bs.length) :
    lmAt (s.lmPut core off bs) (lmKey core off + k) = bs[k] := by
  induction bs generalizing s off k with
  | nil => simp at h
  | cons b rest ih =>
    rw [State.lmPut]
    cases k with
    | zero => rw [lmAt_lmPut_outside _ _ _ _ (.inl (by rw [lmKey_add]; omega)), lmAt_lmSetByte]; simp
    | succ k =>
      have hrest := ih (s.lmSetByte core off b) (off + 1) (Nat.lt_of_succ_lt_succ h)
      rw [lmKey_add] at hrest
      rw [show lmKey core off + (k + 1) = lmKey core off + 1 + k by omega, hrest]
      rfl

theorem State.lmLog_lm (s : State) (c o : Nat) (bs : List Byte) : (s.lmLog c o bs).lm = s.lm := by
  unfold State.lmLog
  split
  · rfl
  · refine foldl_keeps State.lm _ (fun s e => ?_) _ s
    split
    · rfl
    · unfold State.logByte
      split <;> rfl

theorem lmAt_lmWriteLine_inside (s : State) (core off : Nat) (bs : List Byte) {k : Nat} (h : k < bs.length) :
    lmAt (s.lmWriteLine core off bs) (lmKey core off + k) = bs[k] :=
  lmAt_lmPut_inside _ core off bs h

/-- A write within one line changes no byte of another line. -/
theorem lmAt_lmWriteLine_outside (s : State) (core off : Nat) (bs : List Byte) {k : Nat} (hline : off % 256 + bs.length ≤ 256)
    (h : lmKey core off / 256 ≠ k / 256) : lmAt (s.lmWriteLine core off bs) k = lmAt s k := by
  have hoff := lmKey_line core off
  have hmod := lmKey_mod core off
  have hstamp (t : State) (l : Nat) : lmAt (t.lmStampLine l) k = lmAt t k := rfl
  simp only [State.lmWriteLine, hstamp]
  rw [lmAt_lmPut_outside _ _ _ _ (by omega)]
  split
  · exact lmAt_lmPut_outside _ _ _ _ (by rw [List.length_replicate]; omega)
  · unfold lmAt; rw [State.lmLog_lm]

/-- A write changes no byte of a line that it does not touch. -/
theorem lmAt_lmWriteFuel_outside (s : State) (fuel core off : Nat) (bs : List Byte) {k : Nat} (h : OtherLines core off bs.length k) :
    lmAt (s.lmWriteFuel fuel core off bs) k = lmAt s k := by
  induction fuel generalizing s off bs with
  | zero => rfl
  | succ fuel ih =>
    rw [State.lmWriteFuel]
    split
    · rfl
    · next hne =>
      have hlen : 0 < bs.length := List.length_pos_iff.2 (by simpa using hne)
      have hrest : OtherLines core (off + (256 - off % 256)) (bs.drop (256 - off % 256)).length k := by
        intro i hi
        rw [List.length_drop] at hi
        rw [lmKey_add, Nat.add_assoc]
        exact h _ (by omega)
      have hline : off % 256 + (bs.take (256 - off % 256)).length ≤ 256 := by rw [List.length_take]; omega
      rw [ih _ _ _ hrest, lmAt_lmWriteLine_outside s core off _ hline (by simpa using h 0 hlen)]

theorem lmAt_lmWriteFuel_inside (s : State) (fuel core off : Nat) (bs : List Byte) {k : Nat} (h : k < bs.length)
    (hfuel : off % 256 + bs.length ≤ 256 * fuel) : lmAt (s.lmWriteFuel fuel core off bs) (lmKey core off + k) = bs[k] := by
  induction fuel generalizing s off bs k with
  | zero => omega
  | succ fuel ih =>
    have hne : ¬ (bs.isEmpty = true) := by rw [List.isEmpty_iff]; rintro rfl; simp at h
    rw [State.lmWriteFuel, if_neg hne]
    by_cases hk : k < 256 - off % 256
    · have hin : k < (bs.take (256 - off % 256)).length := by rw [List.length_take]; omega
      have hmod := lmKey_mod core off
      have hother : OtherLines core (off + (256 - off % 256)) (bs.drop (256 - off % 256)).length (lmKey core off + k) := by
        intro i _
        rw [lmKey_add]
        omega
      rw [lmAt_lmWriteFuel_outside _ _ _ _ _ hother, lmAt_lmWriteLine_inside s core off _ hin, List.getElem_take]
    · have hin : k - (256 - off % 256) < (bs.drop (256 - off % 256)).length := by rw [List.length_drop]; omega
      have hrest := ih (s.lmWriteLine core off (bs.take (256 - off % 256))) (off + (256 - off % 256)) _ hin
        (by rw [List.length_drop]; omega)
      rw [lmKey_add, List.getElem_drop] at hrest
      rw [show lmKey core off + k = lmKey core off + (256 - off % 256) + (k - (256 - off % 256)) by omega, hrest]
      congr 1
      omega

/-- Clearing the poison of the sectors that a write covers leaves every byte. -/
theorem lmAt_clearPoison (s : State) (core off n k : Nat) (l : List Nat) :
    lmAt (l.foldl (fun s x => if off ≤ x ∧ x + 32 ≤ off + n then s.lmSetPoison core x false else s) s) k = lmAt s k := by
  refine foldl_keeps (fun s => lmAt s k) _ (fun s x => ?_) l s
  split <;> rfl

theorem lmAt_lmWrite_outside (s : State) (core off : Nat) (bs : List Byte) {k : Nat} (h : OtherLines core off bs.length k) :
    lmAt (s.lmWrite core off bs) k = lmAt s k :=
  (lmAt_clearPoison ..).trans (lmAt_lmWriteFuel_outside s _ core off bs h)

theorem lmAt_lmWrite_inside (s : State) (core off : Nat) (bs : List Byte) {k : Nat} (h : k < bs.length) :
    lmAt (s.lmWrite core off bs) (lmKey core off + k) = bs[k] :=
  (lmAt_clearPoison ..).trans (lmAt_lmWriteFuel_inside s _ core off bs h (by omega))

/-! ## Granules -/

/-- Making `m` granules full or empty leaves every byte of LM. -/
theorem lmAt_setGranules (s : State) (core off m : Nat) (b : Bool) (k : Nat) :
    lmAt ((List.range m).foldl (fun s k => s.lmSetFull core (off + 16 * k) b) s) k = lmAt s k :=
  foldl_keeps (fun s => lmAt s k) (fun s k => s.lmSetFull core (off + 16 * k) b) (fun _ _ => rfl) _ s

/-- `m` granules from an aligned offset up are full or empty as they were made; the others stand. -/
theorem lmFullOf_setGranules (s : State) (core off m : Nat) (b : Bool) (g : Nat) :
    lmFullOf ((List.range m).foldl (fun s k => s.lmSetFull core (off + 16 * k) b) s) g =
      if lmKey core off / 16 ≤ g ∧ g < lmKey core off / 16 + m then b else lmFullOf s g := by
  induction m with
  | zero => rw [if_neg (by omega)]; rfl
  | succ m ih =>
    have hset (t : State) (o : Nat) : lmFullOf (t.lmSetFull core o b) g = if g = lmKey core o / 16 then b else lmFullOf t g :=
      Map.find_put ..
    have hkey : lmKey core (off + 16 * m) / 16 = lmKey core off / 16 + m := by rw [lmKey_add]; omega
    rw [List.range_succ, List.foldl_append, List.foldl_cons, List.foldl_nil, hset, ih, hkey]
    generalize lmKey core off / 16 = a
    grind

theorem State.setGranules_mem (s : State) (core off m : Nat) (b : Bool) :
    ((List.range m).foldl (fun s k => s.lmSetFull core (off + 16 * k) b) s).mem = s.mem :=
  foldl_keeps State.mem (fun s k => s.lmSetFull core (off + 16 * k) b) (fun _ _ => rfl) _ s

theorem State.lmWrite_lmFull (s : State) (core off : Nat) (bs : List Byte) : (s.lmWrite core off bs).lmFull = s.lmFull :=
  (congrArg State.lmFull (State.lmWrite_noLm s core off bs) :)

theorem State.lmTouch_lm (s : State) (core off n : Nat) (w : Bool) : (s.lmTouch core off n w).lm = s.lm :=
  (congrArg State.lm (State.lmTouch_noRegions s core off n w) :)

theorem State.lmTouch_lmFull (s : State) (core off n : Nat) (w : Bool) : (s.lmTouch core off n w).lmFull = s.lmFull :=
  (congrArg State.lmFull (State.lmTouch_noRegions s core off n w) :)

theorem State.lmTouch_mem (s : State) (core off n : Nat) (w : Bool) : (s.lmTouch core off n w).mem = s.mem :=
  (congrArg State.mem (State.lmTouch_noRegions s core off n w) :)

theorem lmFullOf_lmWrite (s : State) (core off : Nat) (bs : List Byte) (g : Nat) : lmFullOf (s.lmWrite core off bs) g = lmFullOf s g :=
  congrArg (fun m => Map.find noPoison m g) (State.lmWrite_lmFull s core off bs)

/-! ## A zeroed allocation, and a record in LM (R213, R304, R336) -/

theorem lmAt_lmZero (s : State) (core off n : Nat) {k : Nat} (h : k < n) : lmAt (s.lmZero core off n) (lmKey core off + k) = 0#8 := by
  have hk : k < (List.replicate n 0#8).length := by rwa [List.length_replicate]
  rw [State.lmZero, lmAt_setGranules, lmAt_lmWrite_inside _ _ _ _ hk, List.getElem_replicate]

theorem lmFullOf_lmZero (s : State) (core off n : Nat) {g : Nat} (hlo : lmKey core off / 16 ≤ g)
    (hhi : g < lmKey core off / 16 + n / 16) : lmFullOf (s.lmZero core off n) g = false := by
  rw [State.lmZero, lmFullOf_setGranules _ _ _ _ _ _, if_pos ⟨hlo, hhi⟩]

theorem lmAt_recordToLm_inside (s : State) (core off : Nat) (bs : List Byte) {k : Nat} (h : k < bs.length) :
    lmAt (s.recordToLm core off bs) (lmKey core off + k) = bs[k] := by
  rw [State.recordToLm, lmAt_setGranules, lmAt_lmWrite_inside _ _ _ _ h]

theorem lmAt_recordToLm_outside (s : State) (core off : Nat) (bs : List Byte) {k : Nat} (h : OtherLines core off bs.length k) :
    lmAt (s.recordToLm core off bs) k = lmAt s k := by
  rw [State.recordToLm, lmAt_setGranules, lmAt_lmWrite_outside _ _ _ _ h]
  exact congrArg (fun m => Map.find lmZero m k) (State.lmTouch_lm s core off bs.length true)

theorem lmFullOf_recordToLm (s : State) (core off : Nat) (bs : List Byte) {g : Nat} :
    lmFullOf (s.recordToLm core off bs) g =
      if lmKey core off / 16 ≤ g ∧ g < lmKey core off / 16 + bs.length / 16 then true else lmFullOf s g := by
  rw [State.recordToLm, lmFullOf_setGranules _ _ _ _ _ _, lmFullOf_lmWrite]
  congr 1
  exact congrArg (fun m => Map.find noPoison m g) (State.lmTouch_lmFull s core off bs.length true)

/-! ## What they leave alone -/

theorem State.lmZero_unwritten (s : State) (core off n : Nat) : unwritten (s.lmZero core off n) = unwritten s :=
  (foldl_keeps unwritten _ (fun s _ => State.lmSetFull_unwritten s core _ false) _ _).trans (State.unwritten_of_noLm (State.lmWrite_noLm ..))

theorem State.recordToLm_unwritten (s : State) (core off : Nat) (bs : List Byte) : unwritten (s.recordToLm core off bs) = unwritten s :=
  (foldl_keeps unwritten _ (fun s _ => State.lmSetFull_unwritten s core _ true) _ _).trans
    ((State.unwritten_of_noLm (State.lmWrite_noLm ..)).trans (State.unwritten_of_noRegions (State.lmTouch_noRegions ..)))

theorem State.lmZero_mem (s : State) (core off n : Nat) : (s.lmZero core off n).mem = s.mem :=
  (State.setGranules_mem ..).trans (State.lmWrite_mem ..)

theorem State.recordToLm_mem (s : State) (core off : Nat) (bs : List Byte) : (s.recordToLm core off bs).mem = s.mem :=
  (State.setGranules_mem ..).trans ((State.lmWrite_mem ..).trans (State.lmTouch_mem s core off bs.length true))

end Sys2Proof.Proofs
end

section
/-! SUPPORT. The launch queue of a context (R273): what a pop of it leaves, and how a launch is decided. -/

namespace Sys2Proof.Proofs

open Sys2Proof.Machine Sys2Proof.Laws Sys2Proof.Stmt

/-! ## Reads after the writes of a unit -/

theorem State.readMem_of_mem {s t : State} (h : t.mem = s.mem) (a n : Nat) : t.readMem a n = s.readMem a n := by
  unfold State.readMem State.readBytes
  simp only [State.byteAt_of_mem h]

theorem State.readMem_congr {s t : State} {a n : Nat} (h : ∀ k, k < n → t.byteAt (a + k) = s.byteAt (a + k)) :
    t.readMem a n = s.readMem a n := by
  unfold State.readMem State.readBytes
  congr 1
  exact List.map_congr_left (fun k hk => h k (List.mem_range.1 hk))

/-- A value that a unit stored reads back (R5, R198). -/
theorem State.readMem_plainWrite (s : State) (w a n v : Nat) : (s.plainWrite w a (bytesLE n v)).readMem a n = v % 2 ^ (8 * n) := by
  rw [State.readMem_of_mem (State.plainWrite_mem s w a (bytesLE n v))]
  exact State.readMem_writeMem _ a n v

theorem State.byteAt_plainWrite_outside (s : State) (w a n v : Nat) {x : Nat} (h : x < a ∨ a + n ≤ x) :
    (s.plainWrite w a (bytesLE n v)).byteAt x = s.byteAt x :=
  State.plainWrite_outside s w a _ x (by rwa [length_bytesLE])

/-- Setting A and D changes the entry alone (R332). -/
theorem State.byteAt_touch_outside (s : State) (x : Xl) (write : Bool) {b : Nat} (h : b < x.addr ∨ x.addr + 8 ≤ b) :
    (s.touch x write).byteAt b = s.byteAt b := by
  unfold State.touch
  extract_lets p q
  split
  · rfl
  · exact State.byteAt_plainWrite_outside s _ _ 8 q h

/-- A read of a unit sets A of its page, and writes nothing else (R180, R332). -/
theorem State.unitRead_mem (s : State) (x : Xl) (n : Nat) : (s.unitRead x n).mem = (s.touch x false).mem := by
  refine foldl_keeps State.mem _ (fun s l => ?_) _ _
  unfold State.leaseLine State.recallLine
  split <;> rfl

theorem State.byteAt_unitRead_outside (s : State) (x : Xl) (n : Nat) {b : Nat} (h : b < x.addr ∨ x.addr + 8 ≤ b) :
    (s.unitRead x n).byteAt b = s.byteAt b :=
  (State.byteAt_of_mem (State.unitRead_mem s x n) b).trans (State.byteAt_touch_outside s x false h)

/-! ## A record is popped and released -/

theorem State.popLaunch_unwritten (s : State) (a : Nat) (h : Hdr) : unwritten (s.popLaunch a h) = unwritten s := by
  simp only [State.popLaunch, State.hdrWrite_unwritten]

theorem State.popLaunch_head (s : State) (a : Nat) (h : Hdr) : (s.popLaunch a h).readMem a 8 = (h.head + 1) % 2 ^ 64 := by
  have hfree : (s.popLaunch a h).readMem a 8 = (s.hdrWrite a 0 8 (h.head + 1)).readMem a 8 :=
    State.readMem_congr (fun k hk => State.byteAt_plainWrite_outside _ _ _ 4 _ (.inl (by omega)))
  rw [hfree]
  exact State.readMem_plainWrite s _ a 8 _

theorem State.popLaunch_free (s : State) (a : Nat) (h : Hdr) : (s.popLaunch a h).readMem (a + 0x18) 4 = (h.free + 1) % 2 ^ 32 :=
  State.readMem_plainWrite _ _ (a + 0x18) 4 _

theorem State.byteAt_popLaunch_outside (s : State) (a : Nat) (h : Hdr) {b : Nat} (h8 : b < a ∨ a + 8 ≤ b)
    (h4 : b < a + 0x18 ∨ a + 0x18 + 4 ≤ b) : (s.popLaunch a h).byteAt b = s.byteAt b :=
  (State.byteAt_plainWrite_outside _ _ _ 4 _ h4).trans (State.byteAt_plainWrite_outside _ _ _ 8 _ h8)

/-! ## The status word of a launch (R308) -/

theorem launchWord_refused (k code : Nat) : launchWord 0 k code = BitVec.ofNat 64 (k * 2 ^ 16 + code) := by
  rw [launchWord, Nat.zero_mul, Nat.zero_add]

theorem launchWord_code (flow entry code : Nat) : (launchWord flow entry code).toNat % 2 ^ 16 = code % 2 ^ 16 := by
  rw [launchWord, BitVec.toNat_ofNat]
  omega

/-! ## Deciding a launch (R271, R273) -/

/-- Binding the queues of a new flow writes bytes alone: the flow stays, and nothing is posted. -/
theorem State.launched_of_unwritten {s t : State} {f : Flow} {n : Nat} (h : unwritten t = unwritten { s.putFlow f with samples := n }) :
    f ∈ t.flows ∧ t.events = s.events := by
  have hflows : t.flows = (s.putFlow f).flows := (congrArg State.flows h :)
  have hevents : t.events = s.events := (congrArg State.events h :)
  rw [hflows]
  exact ⟨by simp [State.putFlow], hevents⟩

/-- A launch is refused, with nothing changed and a code of R308, or its flow takes the lowest free number; what follows is a sample. -/
theorem State.launchFlow_cases (s : State) (die ctx : Nat) (rec : List Byte) :
    (∃ k code, 1 ≤ code ∧ code ≤ 5 ∧ s.launchFlow die ctx rec = (s, launchWord 0 k code)) ∨
    ∃ num stages, ∃ t : State, num < 256 ∧ (s.flow? num).isNone = true ∧ (∀ k, k < num → (s.flow? k).isSome = true) ∧
      (⟨num, ctx, stages⟩ ∈ t.flows ∧ t.events = s.events) ∧ s.launchFlow die ctx rec = (t.sample, launchWord num 0 0) := by
  unfold State.launchFlow
  extract_lets all es qs stages
  split
  · next k _ => exact .inl ⟨k, 1, by omega, by omega, rfl⟩
  split
  · next e _ => exact .inl ⟨e.2, 2, by omega, by omega, rfl⟩
  split
  · next k _ => exact .inl ⟨k, 3, by omega, by omega, rfl⟩
  split
  · exact .inl ⟨0, 4, by omega, by omega, rfl⟩
  · next num hnum =>
    split
    · exact .inl ⟨0, 4, by omega, by omega, rfl⟩
    split
    · exact .inl ⟨0, 5, by omega, by omega, rfl⟩
    obtain ⟨hnone, hlt, hlow⟩ := List.find?_range_eq_some.1 hnum
    refine .inr ⟨num, stages, _, List.mem_range.1 hlt, hnone, fun k hk => ?_, State.launched_of_unwritten (foldl_keeps unwritten _ (fun s e => ?_) _ _), rfl⟩
    · simpa using hlow k hk
    · split
      · exact State.hdrAct_unwritten ..
      · rfl

/-- A record with an entry that breaks R271 is refused at that entry. -/
theorem State.launchFlow_badEntry (s : State) (die ctx : Nat) {rec : List Byte} {k : Nat}
    (h : badEntry ((List.range 8).map (entryOf rec)) = some k) : s.launchFlow die ctx rec = (s, launchWord 0 k 1) := by
  simp only [State.launchFlow, h]

/-! ## The step -/

theorem exec_flowLaunch_idle (s : State) (ctx : Nat) (h : s.ctxEnabled ctx = false ∨ s.ctxReg ctx 0x18 = 0#64) :
    exec (.flowLaunch ctx) s = .next s := by
  have hoff : (!s.ctxEnabled ctx || (s.ctxReg ctx 0x18).toNat == 0) = true := by
    rcases h with h | h <;> simp [h]
  rw [exec_flowLaunch, execFlowLaunch]
  simp only [hoff, if_true]

section
variable {s : State} {ctx : Nat} {x : Xl} (hw : LaunchWaits s ctx x)
include hw

/-- The queue's header holds, so that the record at HEAD is popped and then decided. -/
theorem exec_flowLaunch_unreadable
    (hr : ∀ r, s.translate 0 ctx ((s.hdr x.fpa).slotVa (s.hdr x.fpa).head) .load false = .ok r →
      s.readOpen r 256 = true ∧ s.anyPoison r.fpa 256 = true) :
    exec (.flowLaunch ctx) s =
      .next (((s.touch x true).popLaunch x.fpa (s.hdr x.fpa)).post (.launchStatus ctx (launchWord 0 0 6))) := by
  obtain ⟨hen, hva, hx, hpoison, hok, hrsz, hocc, hpop⟩ := hw
  have hva' : (s.ctxReg ctx 0x18).toNat ≠ 0 := fun h => hva (BitVec.eq_of_toNat_eq h)
  rw [exec_flowLaunch, execFlowLaunch]
  cases hrec : s.translate 0 ctx ((s.hdr x.fpa).slotVa (s.hdr x.fpa).head) .load false with
  | error c => simp [hen, hva', hx, hpoison, hok, hrsz, hocc, hpop, hrec]
  | ok r =>
    obtain ⟨hopen, hbad⟩ := hr r hrec
    simp [hen, hva', hx, hpoison, hok, hrsz, hocc, hpop, hrec, hopen, hbad]

theorem exec_flowLaunch_read {r : Xl} (hr : s.translate 0 ctx ((s.hdr x.fpa).slotVa (s.hdr x.fpa).head) .load false = .ok r)
    (hopen : s.readOpen r 256 = true) (hclean : s.anyPoison r.fpa 256 = false) {t : State} {v : Word}
    (ho : (launchBase s x r).launchFlow 0 ctx (s.readBytes r.fpa 256) = (t, v)) :
    exec (.flowLaunch ctx) s = .next (if v.toNat % 256 = 0 then t else t.post (.launchStatus ctx v)) := by
  obtain ⟨hen, hva, hx, hpoison, hok, hrsz, hocc, hpop⟩ := hw
  have hva' : (s.ctxReg ctx 0x18).toNat ≠ 0 := fun h => hva (BitVec.eq_of_toNat_eq h)
  unfold launchBase at ho
  rw [exec_flowLaunch, execFlowLaunch]
  simp [hen, hva', hx, hpoison, hok, hrsz, hocc, hpop, hr, hopen, hclean, ho]

end

theorem launchBase_unwritten (s : State) (x r : Xl) : unwritten (launchBase s x r) = unwritten s := by
  rw [launchBase, State.unitRead_unwritten, State.popLaunch_unwritten, State.touch_unwritten]

/-- A launch that is refused posts its status alone, and the record is popped. -/
theorem exec_flowLaunch_refused {s : State} {ctx : Nat} {x r : Xl} {k : Nat} (hw : LaunchWaits s ctx x)
    (hr : s.translate 0 ctx ((s.hdr x.fpa).slotVa (s.hdr x.fpa).head) .load false = .ok r) (hopen : s.readOpen r 256 = true)
    (hclean : s.anyPoison r.fpa 256 = false) (hbad : badEntry ((List.range 8).map (entryOf (s.readBytes r.fpa 256))) = some k) (_ : k < 8) :
    exec (.flowLaunch ctx) s =
      .next ((launchBase s x r).post (.launchStatus ctx (BitVec.ofNat 64 (k * 2 ^ 16 + 1)))) := by
  rw [exec_flowLaunch_read hw hr hopen hclean (State.launchFlow_badEntry _ 0 ctx hbad), launchWord_refused, if_neg]
  rw [BitVec.toNat_ofNat]
  omega

theorem launchBase_head (s : State) (x r : Xl) (h : r.addr + 8 ≤ x.fpa ∨ x.fpa + 8 ≤ r.addr) :
    (launchBase s x r).readMem x.fpa 8 = ((s.hdr x.fpa).head + 1) % 2 ^ 64 := by
  rw [← State.popLaunch_head (s.touch x true)]
  exact State.readMem_congr (fun k hk => State.byteAt_unitRead_outside _ r 256 (by omega))

/-- A record that cannot be read is popped, and its launch refused (R273). -/
theorem exec_flowLaunch_lost {s : State} {ctx : Nat} {x : Xl} (hw : LaunchWaits s ctx x)
    (hr : ∀ r, s.translate 0 ctx ((s.hdr x.fpa).slotVa (s.hdr x.fpa).head) .load false = .ok r →
      s.readOpen r 256 = true ∧ s.anyPoison r.fpa 256 = true) :
    ∃ t, exec (.flowLaunch ctx) s = .next t ∧ t.events = s.events ++ [.launchStatus ctx 6#64] ∧
      t.readMem x.fpa 8 = ((s.hdr x.fpa).head + 1) % 2 ^ 64 ∧ t.readMem (x.fpa + 0x18) 4 = ((s.hdr x.fpa).free + 1) % 2 ^ 32 ∧
      StandsOutside s t [(x.addr, 8), (x.fpa, 8), (x.fpa + 0x18, 4)] ∧ t.flows = s.flows := by
  have hstep := exec_flowLaunch_unreadable hw hr
  have hold : unwritten ((s.touch x true).popLaunch x.fpa (s.hdr x.fpa)) = unwritten s :=
    (State.popLaunch_unwritten ..).trans (State.touch_unwritten ..)
  have hhead := State.popLaunch_head (s.touch x true) x.fpa (s.hdr x.fpa)
  have hfree := State.popLaunch_free (s.touch x true) x.fpa (s.hdr x.fpa)
  have hout : StandsOutside s ((s.touch x true).popLaunch x.fpa (s.hdr x.fpa)) [(x.addr, 8), (x.fpa, 8), (x.fpa + 0x18, 4)] := by
    intro b hb
    simp only [List.forall_mem_cons] at hb
    obtain ⟨hx, h8, h4, -⟩ := hb
    exact (State.byteAt_popLaunch_outside _ _ _ h8 h4).trans (State.byteAt_touch_outside s x true hx)
  generalize (s.touch x true).popLaunch x.fpa (s.hdr x.fpa) = t at *
  have hevents : t.events = s.events := (congrArg State.events hold :)
  exact ⟨_, hstep, congrArg (· ++ _) hevents, hhead, hfree, hout, (congrArg State.flows hold :)⟩

/-- A record that breaks R271 is popped, and its launch refused at the bad entry (R273, R308). -/
theorem exec_flowLaunch_bad {s : State} {ctx : Nat} {x r : Xl} {k : Nat} (hw : LaunchWaits s ctx x)
    (hr : s.translate 0 ctx ((s.hdr x.fpa).slotVa (s.hdr x.fpa).head) .load false = .ok r) (hopen : s.readOpen r 256 = true)
    (hclean : s.anyPoison r.fpa 256 = false) (hbad : badEntry ((List.range 8).map (entryOf (s.readBytes r.fpa 256))) = some k) (hk : k < 8) :
    ∃ t, exec (.flowLaunch ctx) s = .next t ∧ t.events = s.events ++ [.launchStatus ctx (BitVec.ofNat 64 (k * 2 ^ 16 + 1))] ∧ t.flows = s.flows ∧
      (r.addr + 8 ≤ x.fpa ∨ x.fpa + 8 ≤ r.addr → t.readMem x.fpa 8 = ((s.hdr x.fpa).head + 1) % 2 ^ 64) := by
  have hstep := exec_flowLaunch_refused hw hr hopen hclean hbad hk
  have hold := launchBase_unwritten s x r
  have hhead := launchBase_head s x r
  generalize launchBase s x r = t at *
  have hevents : t.events = s.events := (congrArg State.events hold :)
  exact ⟨_, hstep, congrArg (· ++ _) hevents, (congrArg State.flows hold :), hhead⟩

theorem State.sample_flows (s : State) : ∀ f ∈ s.flows, ∃ g ∈ s.sample.flows, g.num = f.num ∧ g.ctx = f.ctx :=
  fun _ hf => ⟨_, List.mem_map_of_mem hf, rfl, rfl⟩

/-- A launch that is not refused starts a flow with the lowest free number, and posts nothing. -/
theorem exec_flowLaunch_started {s : State} {ctx : Nat} {x r : Xl} (hw : LaunchWaits s ctx x)
    (hr : s.translate 0 ctx ((s.hdr x.fpa).slotVa (s.hdr x.fpa).head) .load false = .ok r) (hopen : s.readOpen r 256 = true)
    (hclean : s.anyPoison r.fpa 256 = false)
    (hcode : ((launchBase s x r).launchFlow 0 ctx (s.readBytes r.fpa 256)).2.toNat % 2 ^ 16 = 0) :
    ∃ t f, exec (.flowLaunch ctx) s = .next t ∧ f ∈ t.flows ∧ f.ctx = ctx ∧ f.num < 256 ∧ (s.flow? f.num).isNone = true ∧
      (∀ k, k < f.num → (s.flow? k).isSome = true) ∧ t.events = s.events := by
  have hbase : unwritten (launchBase s x r) = unwritten s := launchBase_unwritten s x r
  have hflow : ∀ n, (launchBase s x r).flow? n = s.flow? n := fun n =>
    congrArg (List.find? fun f : Flow => f.num = n) (congrArg State.flows hbase :)
  rcases State.launchFlow_cases (launchBase s x r) 0 ctx (s.readBytes r.fpa 256) with
    ⟨k, code, h1, h5, ho⟩ | ⟨num, stages, t, hnum, hnone, hlow, ⟨hmem, hev⟩, ho⟩
  · rw [ho, launchWord_code] at hcode
    omega
  · obtain ⟨f, hf, hfnum, hfctx⟩ := State.sample_flows t _ hmem
    have hpost : (launchWord num 0 0).toNat % 256 = 0 := by
      have hword := launchWord_code num 0 0
      omega
    refine ⟨t.sample, f, ?_, hf, hfctx, hfnum ▸ hnum, ?_, fun k hk => ?_, ?_⟩
    · rw [exec_flowLaunch_read hw hr hopen hclean ho, if_pos hpost]
    · rw [hfnum, ← hflow]
      exact hnone
    · rw [← hflow]
      exact hlow k (lt_of_lt_of_eq hk hfnum)
    · exact hev.trans (congrArg State.events hbase :)

end Sys2Proof.Proofs
end

section
/-! SUPPORT. What the flow manager and the dispatcher decide (R277 to R281): stages, reservations and the time of the last sample change, and
nothing that a translation, a header or a crew is read from. -/

namespace Sys2Proof.Proofs

open Sys2Proof.Machine Sys2Proof.Laws Sys2Proof.Stmt

/-- The state with other flows, reservations and time of the last sample. -/
def placed (s : State) (fs : List Flow) (rs : List (Nat × Nat)) (n : Nat) : State := { s with flows := fs, reserved := rs, samples := n }

section
variable (s : State) (fs : List Flow) (rs : List (Nat × Nat)) (n : Nat)

@[simp] theorem placed_placed (gs : List Flow) (qs : List (Nat × Nat)) (m : Nat) : placed (placed s fs rs n) gs qs m = placed s gs qs m := rfl
@[simp] theorem placed_flows : (placed s fs rs n).flows = fs := rfl
@[simp] theorem placed_reserved : (placed s fs rs n).reserved = rs := rfl
@[simp] theorem stageCrews_placed (f i : Nat) : (placed s fs rs n).stageCrews f i = s.stageCrews f i := rfl
@[simp] theorem crewsOn_placed (f i c : Nat) : (placed s fs rs n).crewsOn f i c = s.crewsOn f i c := rfl
@[simp] theorem availableCores_placed : (placed s fs rs n).availableCores = s.availableCores := rfl
@[simp] theorem dropHolds_placed (f i : Nat) (st : Stage) : (placed s fs rs n).dropHolds f i st = s.dropHolds f i st := rfl

theorem walkFrom_placed (va fuel level t : Nat) : (placed s fs rs n).walkFrom va fuel level t = s.walkFrom va fuel level t := by
  induction fuel generalizing level t with
  | zero => rfl
  | succ fuel ih =>
    unfold State.walkFrom
    simp only [ih]
    rfl

theorem lookup_placed (die ctx va : Nat) : (placed s fs rs n).lookup die ctx va = s.lookup die ctx va := by
  unfold State.lookup State.walk
  simp only [walkFrom_placed]
  rfl

@[simp] theorem translate_placed (die ctx va : Nat) (k : Want) (reg : Bool) :
    (placed s fs rs n).translate die ctx va k reg = s.translate die ctx va k reg := by
  unfold State.translate
  rw [lookup_placed]
  rfl

@[simp] theorem stageHdr_placed (ctx : Nat) (st : Stage) : (placed s fs rs n).stageHdr ctx st = s.stageHdr ctx st := by
  unfold State.stageHdr
  rw [translate_placed]
  rfl

@[simp] theorem occupancy_placed (ctx : Nat) (st : Stage) : (placed s fs rs n).occupancy ctx st = s.occupancy ctx st := by
  unfold State.occupancy
  rw [stageHdr_placed]

@[simp] theorem stageDone_placed (f : Flow) (i : Nat) (st : Stage) : (placed s fs rs n).stageDone f i st = s.stageDone f i st := by
  unfold State.stageDone
  rw [stageHdr_placed, stageCrews_placed]

end

/-! ## The steps that only decide -/

theorem State.mapStages_placed (s : State) (g : Flow → Nat → Stage → Stage) :
    s.mapStages g = placed s (s.flows.map (fun f => { f with stages := f.stages.mapIdx (fun i st => g f i st) })) s.reserved s.samples := rfl

/-! ## One sample (R277, R279) -/

/-- With one stage to give to, spare cores go to it up to its ceiling. -/
theorem giveSpare_one (spare : Nat) (x : Sample) (h : x.target ≤ x.ceil) :
    giveSpare spare [x] = [{ x with target := if x.demand = 0 then x.target else min x.ceil (x.target + spare) }] := by
  obtain ⟨ctx, flow, idx, floor, ceil, demand, target⟩ := x
  change target ≤ ceil at h
  induction spare generalizing target with
  | zero => simp [giveSpare, Nat.min_eq_right h]
  | succ spare ih =>
    by_cases hd : demand = 0
    · simp [giveSpare, hd]
    by_cases hc : target < ceil
    · simp [giveSpare, Nat.pos_of_ne_zero hd, hc, hd, ih _ hc, Nat.add_comm, Nat.add_left_comm]
    · have hfull : target = ceil := by omega
      simp [giveSpare, hd, hfull]

theorem State.drainCores_keeps (s : State) (fuel flow idx : Nat) (st : Stage) :
    (s.drainCores fuel flow idx st).target = st.target ∧ (s.drainCores fuel flow idx st).cores = st.cores := by
  induction fuel generalizing st with
  | zero => exact ⟨rfl, rfl⟩
  | succ fuel ih =>
    unfold State.drainCores
    extract_lets free
    split
    · split
      · exact ⟨rfl, rfl⟩
      · exact ih _
    · exact ⟨rfl, rfl⟩

theorem State.undrainCores_keeps (s : State) (rise flow idx : Nat) (st : Stage) :
    (s.undrainCores rise flow idx st).target = st.target ∧ (s.undrainCores rise flow idx st).cores = st.cores := by
  induction rise generalizing st with
  | zero => exact ⟨rfl, rfl⟩
  | succ rise ih =>
    unfold State.undrainCores
    split
    · exact ⟨rfl, rfl⟩
    · exact ih _

/-- The only stage of the only flow after a sample that gives it the target `n`. -/
def sampled (s : State) (f : Nat) (st : Stage) (n : Nat) : Stage :=
  let up := s.undrainCores (n - st.target) f 0 (s.dropHolds f 0 { st with target := n })
  s.drainCores 256 f 0 { up with rose := !up.draining.isEmpty && (up.rose || decide (st.target < n)) }

theorem State.drainCores_placed (s : State) (fs : List Flow) (rs : List (Nat × Nat)) (n fuel flow idx : Nat) (st : Stage) :
    (placed s fs rs n).drainCores fuel flow idx st = s.drainCores fuel flow idx st := by
  induction fuel generalizing st with
  | zero => rfl
  | succ fuel ih =>
    unfold State.drainCores
    simp only [crewsOn_placed, ih]
    rfl

theorem State.undrainCores_placed (s : State) (fs : List Flow) (rs : List (Nat × Nat)) (n rise flow idx : Nat) (st : Stage) :
    (placed s fs rs n).undrainCores rise flow idx st = s.undrainCores rise flow idx st := by
  induction rise generalizing st with
  | zero => rfl
  | succ rise ih =>
    unfold State.undrainCores
    simp only [crewsOn_placed, ih]
    rfl

theorem sampled_placed (s : State) (fs : List Flow) (rs : List (Nat × Nat)) (n f : Nat) (st : Stage) (m : Nat) :
    sampled (placed s fs rs n) f st m = sampled s f st m := by
  unfold sampled
  rw [dropHolds_placed, State.undrainCores_placed, State.drainCores_placed]

theorem sampled_target (s : State) (f : Nat) (st : Stage) (n : Nat) : (sampled s f st n).target = n :=
  (State.drainCores_keeps ..).1.trans (State.undrainCores_keeps ..).1

theorem sampled_cores (s : State) (f : Nat) (st : Stage) (n : Nat) :
    (sampled s f st n).cores = st.cores.filter (fun c => 0 < s.crewsOn f 0 c) :=
  (State.drainCores_keeps ..).2.trans (State.undrainCores_keeps ..).2

/-- Flows settle: what comes before the flows that are done end. -/
def settled (s : State) : State :=
  (s.dropAllHolds.mapStages (fun f i st => if s.dropAllHolds.stageDone f i st then { st with ended := true } else st)).dropReserved

theorem State.settleFlows_of_live {s : State} (h : (settled s).flows.filter (fun f => f.stages.all (fun st => st.ended)) = []) :
    s.settleFlows = settled s := by
  unfold State.settleFlows
  exact if_pos (List.isEmpty_iff.2 h)

section
variable {s : State} {f ctx : Nat} {st : Stage} (hflows : s.flows = [⟨f, ctx, [st]⟩])
include hflows

/-- A stage that is not done stays when flows settle; its holds are dropped. -/
theorem settled_one (hmore : s.stageDone ⟨f, ctx, [st]⟩ 0 st = false) :
    ∃ rs, settled s = placed s [⟨f, ctx, [s.dropHolds f 0 st]⟩] rs s.samples := by
  have hdrop : s.dropAllHolds = placed s [⟨f, ctx, [s.dropHolds f 0 st]⟩] s.reserved s.samples := by
    unfold State.dropAllHolds
    rw [State.mapStages_placed, hflows]
    rfl
  have hkept : s.stageDone ⟨f, ctx, [s.dropHolds f 0 st]⟩ 0 (s.dropHolds f 0 st) = false := hmore
  unfold settled
  rw [hdrop, State.mapStages_placed]
  simp only [placed_flows, stageDone_placed, List.map_cons, List.map_nil, List.mapIdx_cons, List.mapIdx_nil, hkept]
  exact ⟨_, rfl⟩

section
variable (hlive : st.ended = false)
include hlive

/-- A sample over one stage. -/
theorem State.sample_one (hceil : st.floor ≤ st.ceil) :
    s.sample = placed s [⟨f, ctx, [sampled s f st
      (if s.occupancy ctx st * st.weight = 0 then st.floor else min st.ceil (st.floor + (s.availableCores - st.floor)))]⟩] s.reserved s.samples := by
  unfold State.sample
  rw [State.mapStages_placed, hflows]
  simp [hlive, giveSpare_one, hceil, sampled]

theorem State.settleFlows_one (hmore : s.stageDone ⟨f, ctx, [st]⟩ 0 st = false) :
    ∃ rs, s.settleFlows = placed s [⟨f, ctx, [s.dropHolds f 0 st]⟩] rs s.samples := by
  obtain ⟨rs, h⟩ := settled_one hflows hmore
  have hended : (s.dropHolds f 0 st).ended = false := hlive
  refine ⟨rs, (State.settleFlows_of_live ?_).trans h⟩
  simp [h, hended]

/-- A sample in its 10 μs over one stage that is not done (R277). -/
theorem exec_demandSample_one (hdue : s.samples < s.nanos / 10000) (hceil : st.floor ≤ st.ceil)
    (hmore : s.stageDone ⟨f, ctx, [st]⟩ 0 st = false) :
    ∃ rs, exec .demandSample s = .next (placed s [⟨f, ctx, [sampled s f (s.dropHolds f 0 st)
      (if s.occupancy ctx st * st.weight = 0 then st.floor else min st.ceil (st.floor + (s.availableCores - st.floor)))]⟩] rs (s.nanos / 10000)) := by
  obtain ⟨rs, hsettle⟩ := State.settleFlows_one (s := placed s s.flows s.reserved (s.nanos / 10000)) hflows hlive
    ((stageDone_placed ..).trans hmore)
  refine ⟨rs, ?_⟩
  rw [exec_demandSample, execDemandSample, if_neg (by omega)]
  change Host.Outcome.next ((placed s s.flows s.reserved (s.nanos / 10000)).settleFlows.sample) = _
  rw [hsettle, State.sample_one (st := s.dropHolds f 0 st) rfl hlive hceil]
  simp only [placed_placed, occupancy_placed, availableCores_placed, sampled_placed]
  rfl

end

end

/-- A sample with one stage sets its target, and drops the holds of cores without a crew (R277, R279). -/
theorem exec_demandSample_target {s : State} {ctx f : Nat} {st : Stage} (hdue : s.samples < s.nanos / 10000)
    (hflows : s.flows = [⟨f, ctx, [st]⟩]) (hlive : st.ended = false) (hceil : st.floor ≤ st.ceil) (hfloor : st.floor ≤ s.availableCores)
    (hmore : s.stageDone ⟨f, ctx, [st]⟩ 0 st = false) :
    ∃ t g st', exec .demandSample s = .next t ∧ t.samples = s.nanos / 10000 ∧ t.flows = [g] ∧ g.num = f ∧ g.stages = [st'] ∧
      st'.target = (if s.occupancy ctx st * st.weight = 0 then st.floor else min st.ceil s.availableCores) ∧
      (∀ c ∈ st'.cores, c ∈ st.cores ∧ 0 < s.crewsOn f 0 c) ∧ { t with flows := s.flows, reserved := s.reserved, samples := s.samples } = s := by
  obtain ⟨rs, hstep⟩ := exec_demandSample_one hflows hlive hdue hceil hmore
  refine ⟨_, _, _, hstep, rfl, rfl, rfl, rfl, ?_, fun c hc => ?_, rfl⟩
  · rw [sampled_target, Nat.add_sub_cancel' hfloor]
  · rw [sampled_cores, List.mem_filter] at hc
    obtain ⟨hkept, -⟩ := hc
    simpa [State.dropHolds] using hkept

end Sys2Proof.Proofs
end

section
/-! SUPPORT. A core is reserved for a crew that fits nowhere (R281). -/

namespace Sys2Proof.Proofs

open Sys2Proof.Machine Sys2Proof.Laws Sys2Proof.Stmt

theorem pickCore_cons_cons (less : Nat → Nat → Bool) (d c : Nat) (cs : List Nat) :
    pickCore (d :: c :: cs) less = pickCore ((if less c d then c else d) :: cs) less := by
  cases h : less c d <;> simp [pickCore, h]

/-- The core with the largest key comes first when the larger key does. -/
theorem pickCore_largest (key : Nat → Nat) (d : Nat) (cs : List Nat) :
    ∃ c ∈ d :: cs, pickCore (d :: cs) (fun a b => key b < key a) = some c ∧ ∀ e ∈ d :: cs, key e ≤ key c := by
  induction cs generalizing d with
  | nil => exact ⟨d, List.mem_cons_self, rfl, by simp⟩
  | cons c cs ih =>
    obtain ⟨m, hm, hpick, hmax⟩ := ih (if key d < key c then c else d)
    refine ⟨m, ?_, by simpa [pickCore_cons_cons] using hpick, ?_⟩
    · split at hm <;> simp at hm ⊢ <;> tauto
    · have hfirst := hmax _ List.mem_cons_self
      have hrest := fun e he => hmax e (List.mem_cons_of_mem _ he)
      simp only [List.forall_mem_cons]
      split at hfirst <;> exact ⟨by omega, by omega, hrest⟩

/-- The cores that a stage may reserve. -/
def reservable (s : State) (st : Stage) : List Nat :=
  (List.range 256).filter (fun c => s.available c && !st.draining.contains c && s.reserved.all (fun r => r.1 != c))

theorem mem_reservable {s : State} {st : Stage} {c : Nat} : c ∈ reservable s st ↔ Reservable s st c := by
  simp [reservable, Reservable, and_assoc]

/-- The only stage that needs a core reserves the one with the most free wave slots (R281). -/
theorem State.reserveCores_one {s : State} {f ctx : Nat} {st : Stage} (hflows : s.flows = [⟨f, ctx, [st]⟩])
    (hneeds : s.needsCore ⟨f, ctx, [st]⟩ 0 st = true) (hsome : ∃ c, Reservable s st c) :
    ∃ c, s.reserveCores = placed s s.flows (s.reserved ++ [(c, st.qnum)]) s.samples ∧ Reservable s st c ∧
      ∀ d, Reservable s st d → (s.slotsFree d).length ≤ (s.slotsFree c).length := by
  obtain ⟨d, hd⟩ := hsome
  obtain ⟨e, es, hes⟩ := List.exists_cons_of_ne_nil (List.ne_nil_of_mem (mem_reservable.2 hd))
  obtain ⟨c, hc, hpick, hmax⟩ := pickCore_largest (fun c => (s.slotsFree c).length) e es
  rw [← hes] at hc hpick hmax
  refine ⟨c, ?_, mem_reservable.1 hc, fun d hd => hmax d (mem_reservable.2 hd)⟩
  have hwaits : s.flows.flatMap (fun f => (f.stages.mapIdx (fun i st => (i, st))).filterMap
      (fun e => if s.needsCore f e.1 e.2 then some e.2 else none)) = [st] := by
    simp [hflows, hneeds]
  unfold State.reserveCores
  rw [hwaits]
  unfold reservable at hpick
  simp only [List.foldl_cons, List.foldl_nil, hpick]
  rfl

/-! ## The step of the dispatcher -/

section
variable {s : State} {die : Nat} (hdie : die < 8)
include hdie

theorem exec_crewPlace_broken {f i : Nat} {st : Stage} (h : s.brokenStage = some (f, i, st)) :
    exec (.crewPlace die) s = .next (s.breakQueue f i st) := by
  rw [exec_crewPlace, execCrewPlace, if_neg (by omega)]
  simp only [h]

theorem exec_crewPlace_none (hwhole : s.brokenStage = none) (h : s.reserveCores.winner die = none) :
    exec (.crewPlace die) s = .next s.reserveCores := by
  rw [exec_crewPlace, execCrewPlace, if_neg (by omega)]
  simp only [hwhole, h]

theorem exec_crewPlace_forms {b : Bid} {core base : Nat} (hwhole : s.brokenStage = none) (h : s.reserveCores.winner die = some b)
    (hfresh : b.fresh = some (core, base)) :
    exec (.crewPlace die) s = .next ((s.reserveCores.formCrew b core base).moveRr die b.st.qnum) := by
  rw [exec_crewPlace, execCrewPlace, if_neg (by omega)]
  simp only [hwhole, h, hfresh]

end

/-- Reservations alone change. -/
theorem State.reserveCores_placed (s : State) : ∃ rs, s.reserveCores = placed s s.flows rs s.samples := by
  unfold State.reserveCores
  refine foldl_invariant (fun t => ∃ rs, t = placed s s.flows rs s.samples) _ (fun t st h => ?_) _ s ⟨s.reserved, rfl⟩
  obtain ⟨rs, rfl⟩ := h
  dsimp only
  split
  · exact ⟨rs, rfl⟩
  · exact ⟨_, rfl⟩

end Sys2Proof.Proofs
end

section
/-! SUPPORT. A broken queue is given up (R275): what the flow manager posts stays, and no crew changes. -/

namespace Sys2Proof.Proofs

open Sys2Proof.Machine Sys2Proof.Laws Sys2Proof.Stmt

theorem State.unbind_unwritten (s : State) (f : Flow) : unwritten (s.unbind f) = unwritten s := by
  refine foldl_keeps unwritten _ (fun s st => ?_) _ s
  split
  · split
    · exact State.hdrAct_unwritten ..
    · rfl
  · rfl

/-- Crews and the wave in focus stay as in `s`, and `e` is posted. -/
def Told (s : State) (e : HostEvent) (t : State) : Prop := e ∈ t.events ∧ t.crews = s.crews ∧ t.wave = s.wave

theorem Told.of_unwritten {s t u : State} {e : HostEvent} (ht : Told s e t) (h : unwritten u = unwritten t) : Told s e u := by
  obtain ⟨hev, hcrews, hwave⟩ := ht
  have hev' : u.events = t.events := (congrArg State.events h :)
  have hcrews' : u.crews = t.crews := (congrArg State.crews h :)
  have hwave' : u.wave = t.wave := (congrArg State.wave h :)
  exact ⟨hev' ▸ hev, hcrews'.trans hcrews, hwave'.trans hwave⟩

theorem Told.post {s t : State} {e : HostEvent} (ht : Told s e t) (d : HostEvent) : Told s e (t.post d) :=
  ⟨List.mem_append_left _ ht.1, ht.2⟩

theorem Told.settleFlows {s t : State} {e : HostEvent} (ht : Told s e t) : Told s e t.settleFlows := by
  have hsettled : Told s e (settled t) := ht
  unfold State.settleFlows
  extract_lets s1 s2 dead s3 s4
  split
  · exact hsettled
  · refine foldl_invariant (Told s e) _ (fun u f hu => ?_) dead s2 hsettled
    exact (hu.of_unwritten (State.unbind_unwritten u f)).post _

/-- The host hears of a broken queue (R275). -/
theorem State.breakQueue_told (s : State) (f i : Nat) (st : Stage) : Told s (.queueEvent f i st.arg) (s.breakQueue f i st) :=
  Told.settleFlows ⟨List.mem_append_right _ List.mem_cons_self, rfl, rfl⟩

end Sys2Proof.Proofs
end

section
/-! SUPPORT. A crew is formed (R29, R189, R213, R275, R294, R336): its waves and their registers, its LM, and what else the dispatcher writes. -/

namespace Sys2Proof.Proofs

open Sys2Proof.Machine Sys2Proof.Laws Sys2Proof.Stmt

/-! ## A wave as at dispatch (R29) -/

theorem Wave.getS_setS_if (w : Wave) (q r : Reg) (v : Word) : (w.setS r v).getS q = if q = r then held r v else w.getS q := by
  split
  · next h => exact h ▸ Wave.getS_setS w r v
  · next h => exact Wave.getS_setS_other w v h

theorem Wave.getS_fresh (w : Wave) (r : Reg) (h : w.regs = Vector.replicate 128 0#64) : w.getS r = 0#64 := by
  simp [Wave.getS, h]

theorem newWave_dispatched (c d : Crew) (pc : Word) (arg slot idx pts : Nat) (hbase : d.lmBase = c.lmBase) (hsize : d.size = c.size) :
    Dispatched (newWave c pc arg slot idx pts) d pc arg idx := by
  have hzero (q : Reg) : ({ Wave.fresh with idx := idx, slot := slot, status := .live, pc := pc, pts := pts } : Wave).getS q = 0#64 :=
    Wave.getS_fresh _ q rfl
  refine ⟨?_, ?_, ?_, ?_, ?_, ?_, ?_, ?_, ?_, ?_, fun r hr => ?scalars, fun p => ?vectors, ?_, ?_, ?_, ?_, ?_, ?_, ?_, ?_, ?_, ?_⟩
  case scalars =>
    simp only [List.mem_cons, List.not_mem_nil, or_false, not_or] at hr
    simp only [newWave, Wave.getS_setS_if, hr, hzero, if_false]
  case vectors => simp [newWave, Wave.vreg, Wave.fresh, Map.find]
  all_goals simp [newWave, Wave.getS_setS_if, held, hbase, hsize, Wave.fresh]

/-! ## A crew as at dispatch (R29, R35, R294) -/

/-- The crew with its waves in the lowest free slots of its core. -/
def withWaves (s : State) (c : Crew) (arg pts : Nat) (pc : Word) : Crew :=
  { c with others := ((s.slotsFree c.core).take c.size).mapIdx (fun i n => newWave c pc arg n i pts) }

theorem withWaves_others (s : State) (c : Crew) (arg pts : Nat) (pc : Word) (h : c.size ≤ (s.slotsFree c.core).length) :
    (withWaves s c arg pts pc).others.length = c.size ∧
      ∀ i (h : i < (withWaves s c arg pts pc).others.length),
        Dispatched (withWaves s c arg pts pc).others[i] (withWaves s c arg pts pc) pc arg i := by
  refine ⟨by simp [withWaves, h], fun i hi => ?_⟩
  simp only [withWaves, List.getElem_mapIdx]
  exact newWave_dispatched c _ pc arg _ i pts rfl rfl

/-- A new crew is as R29 asks, whatever segments and records it starts with. -/
theorem newCrew_formed (s : State) (b : Bid) (core base arg pts : Nat) (segs : List Seg) (recs : List HeldRec)
    (h : b.st.waves ≤ (s.slotsFree core).length) :
    Formed s (withWaves s { s.newCrew b core base with segs := segs, held := recs } arg pts b.st.prog) b core base arg := by
  obtain ⟨hlen, hwaves⟩ := withWaves_others s { s.newCrew b core base with segs := segs, held := recs } arg pts b.st.prog h
  refine ⟨rfl, rfl, rfl, rfl, rfl, rfl, rfl, rfl, rfl, rfl, rfl, rfl, rfl, rfl, fun n => rfl, fun n => rfl, rfl, rfl, fun i => ?_, hlen, hwaves⟩
  simp [withWaves, State.newCrew, memberSet]

/-! ## The state with a new crew (R189, R288, R336) -/

theorem State.fillFirst_unwritten (s : State) (core base n : Nat) : unwritten (s.fillFirst core base n) = unwritten s :=
  foldl_keeps unwritten _ (fun s _ => State.lmSetFull_unwritten s core _ true) _ s

theorem State.addCrew_unwritten (s : State) (c : Crew) (arg pts : Nat) (pc : Word) :
    unwritten (s.addCrew c arg pts pc) = unwritten { s with
      crews := s.crews ++ [withWaves s c arg pts pc]
      nextHandle := s.nextHandle + 1
      crewIds := Map.put (fun _ => 0) s.crewIds c.ctx (c.id + 1)
      wd := Map.put (fun _ => 0) s.wd c.ctx s.nanos
      wdStall := Map.put (fun _ => false) s.wdStall c.ctx false } := by
  have h : unwritten ((s.lmZero c.core c.lmBase c.lmSize).fillFirst c.core c.lmBase c.lmSize) = unwritten s :=
    (State.fillFirst_unwritten ..).trans (State.lmZero_unwritten ..)
  exact congrArg (fun u : State => ({ u with
    crews := u.crews ++ [withWaves s c arg pts pc]
    nextHandle := u.nextHandle + 1
    crewIds := Map.put (fun _ => 0) u.crewIds c.ctx (c.id + 1)
    wd := Map.put (fun _ => 0) u.wd c.ctx u.nanos
    wdStall := Map.put (fun _ => false) u.wdStall c.ctx false } : State)) h

theorem State.addCrew_mem (s : State) (c : Crew) (arg pts : Nat) (pc : Word) : (s.addCrew c arg pts pc).mem = s.mem :=
  (State.setGranules_mem ..).trans (State.lmZero_mem ..)

/-- The new crew's LM reads as zero. -/
theorem lmAt_addCrew (s : State) (c : Crew) (arg pts : Nat) (pc : Word) {k : Nat} (h : k < c.lmSize) :
    lmAt (s.addCrew c arg pts pc) (lmKey c.core c.lmBase + k) = 0#8 :=
  (lmAt_setGranules ..).trans (lmAt_lmZero s c.core c.lmBase c.lmSize h)

/-- The granules of the first 256 bytes are full, the others of the allocation empty. -/
theorem lmFullOf_addCrew (s : State) (c : Crew) (arg pts : Nat) (pc : Word) {k : Nat} (h : k < c.lmSize) (hbase : c.lmBase % 256 = 0)
    (hsize : c.lmSize % 256 = 0) : lmFullOf (s.addCrew c arg pts pc) (lmKey c.core (c.lmBase + k) / 16) = decide (k < 256) := by
  have hmod := lmKey_mod c.core c.lmBase
  have hfill := lmFullOf_setGranules (s.lmZero c.core c.lmBase c.lmSize) c.core c.lmBase (min 256 c.lmSize / 16) true
    (lmKey c.core (c.lmBase + k) / 16)
  have hkey := lmKey_add c.core c.lmBase k
  have hzero := lmFullOf_lmZero s c.core c.lmBase c.lmSize (g := lmKey c.core (c.lmBase + k) / 16) (by omega) (by omega)
  refine hfill.trans ?_
  rw [hzero]
  by_cases hk : k < 256
  · rw [if_pos (by omega), decide_eq_true hk]
  · rw [if_neg (by omega), decide_eq_false hk]

/-! ## A record in LM (R189, R275, R366) -/

/-- The record with zeros up to its 256 bytes. -/
def padded (bs : List Byte) : List Byte := bs ++ List.replicate (256 - bs.length) 0#8

theorem length_padded {bs : List Byte} (h : bs.length ≤ 256) : (padded bs).length = 256 := by
  simp [padded, h]

/-- Poisoning sectors of LM changes their poison alone. -/
theorem State.putRecord_keeps {γ : Type} (g : State → γ) (hg : ∀ t core off b, g (State.lmSetPoison t core off b) = g t) (s : State)
    (core base : Nat) (bs : List Byte) (bad : List Nat) : g (s.putRecord core base bs bad) = g (s.recordToLm core base (padded bs)) :=
  foldl_keeps g (fun s k => s.lmSetPoison core (base + 32 * k) true) (fun t _ => hg t ..) bad _

theorem State.putRecord_unwritten (s : State) (core base : Nat) (bs : List Byte) (bad : List Nat) :
    unwritten (s.putRecord core base bs bad) = unwritten s :=
  (State.putRecord_keeps unwritten (fun _ _ _ _ => rfl) s ..).trans (State.recordToLm_unwritten ..)

theorem State.putRecord_mem (s : State) (core base : Nat) (bs : List Byte) (bad : List Nat) : (s.putRecord core base bs bad).mem = s.mem :=
  (State.putRecord_keeps State.mem (fun _ _ _ _ => rfl) s ..).trans (State.recordToLm_mem ..)

theorem lmAt_putRecord (s : State) (core base : Nat) (bs : List Byte) (bad : List Nat) (k : Nat) :
    lmAt (s.putRecord core base bs bad) k = lmAt (s.recordToLm core base (padded bs)) k :=
  State.putRecord_keeps (fun s => lmAt s k) (fun _ _ _ _ => rfl) s ..

theorem lmFullOf_putRecord (s : State) (core base : Nat) (bs : List Byte) (bad : List Nat) (g : Nat) :
    lmFullOf (s.putRecord core base bs bad) g = lmFullOf (s.recordToLm core base (padded bs)) g :=
  State.putRecord_keeps (fun s => lmFullOf s g) (fun _ _ _ _ => rfl) s ..

section
variable (s : State) (core base : Nat) {bs : List Byte} (bad : List Nat)

theorem lmAt_putRecord_inside {k : Nat} (h : k < bs.length) : lmAt (s.putRecord core base bs bad) (lmKey core base + k) = bs[k] := by
  have hk : k < (padded bs).length := by simp [padded]; omega
  rw [lmAt_putRecord, lmAt_recordToLm_inside _ _ _ _ hk]
  exact List.getElem_append_left h

theorem lmAt_putRecord_padding (hlen : bs.length ≤ 256) {k : Nat} (h : bs.length ≤ k) (hk : k < 256) :
    lmAt (s.putRecord core base bs bad) (lmKey core base + k) = 0#8 := by
  have hk' : k < (padded bs).length := by rwa [length_padded hlen]
  rw [lmAt_putRecord, lmAt_recordToLm_inside _ _ _ _ hk']
  simp [padded, List.getElem_append_right h]

theorem lmAt_putRecord_beyond (hlen : bs.length ≤ 256) (hbase : base % 256 = 0) {k : Nat} (h : 256 ≤ k) :
    lmAt (s.putRecord core base bs bad) (lmKey core base + k) = lmAt s (lmKey core base + k) := by
  have hmod := lmKey_mod core base
  refine (lmAt_putRecord ..).trans (lmAt_recordToLm_outside s core base _ fun i hi => ?_)
  rw [length_padded hlen] at hi
  omega

theorem lmFullOf_putRecord_first (hlen : bs.length ≤ 256) (hbase : base % 256 = 0) {k : Nat} (h : k < 256) :
    lmFullOf (s.putRecord core base bs bad) (lmKey core (base + k) / 16) = true := by
  have hmod := lmKey_mod core base
  have hkey := lmKey_add core base k
  rw [lmFullOf_putRecord, lmFullOf_recordToLm, length_padded hlen, if_pos (by omega)]

end

/-! ## The crew is placed -/

theorem State.updStage_placed (s : State) (f i : Nat) (g : Stage → Stage) : ∃ fs, s.updStage f i g = placed s fs s.reserved s.samples := ⟨_, rfl⟩

theorem State.takeHold_placed (s : State) (flow idx qnum core : Nat) :
    ∃ fs rs, s.takeHold flow idx qnum core = placed s fs rs s.samples := ⟨_, _, rfl⟩

theorem State.formCrew_counted (s : State) (b : Bid) (core base : Nat) (hkind : b.st.kind = 2) :
    ∃ fs rs n, s.formCrew b core base = placed (s.addCrew (s.newCrew b core base) b.st.formed s.floor b.st.prog) fs rs n := by
  unfold State.formCrew
  extract_lets c
  rw [if_pos hkind]
  generalize s.addCrew c b.st.formed s.floor b.st.prog = t
  obtain ⟨fs, hstage⟩ := State.updStage_placed t b.flow b.idx (fun st => { st with formed := st.formed + 1 })
  obtain ⟨gs, rs, hhold⟩ := State.takeHold_placed (placed t fs t.reserved t.samples) b.flow b.idx b.st.qnum core
  exact ⟨gs, rs, _, (congrArg (fun u => State.takeHold u b.flow b.idx b.st.qnum core) hstage).trans hhold⟩

/-- What the dispatcher writes to memory when it pops the record at `r` of the queue at `x` (R180, R275, R332). -/
def popped (s : State) (x r : Xl) (h : Hdr) (w : Nat) : State :=
  ((s.touch x true).unitRead r h.rsz).plainWrite w x.fpa (bytesLE 8 (h.head + 1))

theorem State.formCrew_queue {s : State} {b : Bid} {core base : Nat} {x r : Xl} {h : Hdr} (hkind : b.st.kind = 1)
    (hx : s.translate 0 b.ctx b.st.arg.toNat .atomic false = .ok x) (hhdr : s.stageHdr b.ctx b.st = some (x.fpa, h))
    (hr : s.translate 0 b.ctx (h.slotVa h.head) .load false = .ok r) (hdev : fpaDev r.fpa = fpaDev x.fpa) :
    ∃ w bad fs rs n, s.formCrew b core base = placed (((popped s x r h w).addCrew
      { s.newCrew b core base with segs := [⟨base, 256, false⟩], held := [⟨b.st.arg, 1, b.st.qnum, true⟩] } base w b.st.prog).putRecord
        core base (s.readBytes r.fpa h.rsz) bad) fs rs n := by
  have hslot : s.headSlot b.ctx x.fpa h = some r.fpa := by simp [State.headSlot, hr, hdev]
  have htouch : s.touchRecord b.ctx b.st h = (s.touch x true).unitRead r h.rsz := by simp only [State.touchRecord, hx, hr]
  unfold State.formCrew
  extract_lets c
  rw [if_neg (by omega)]
  simp only [hhdr, hslot, htouch]
  exact ⟨_, _, (State.takeHold_placed ..).imp fun _ => Exists.imp fun _ h => ⟨_, h⟩⟩

theorem popped_unwritten (s : State) (x r : Xl) (h : Hdr) (w : Nat) : unwritten (popped s x r h w) = unwritten s := by
  rw [popped, State.plainWrite_unwritten, State.unitRead_unwritten, State.touch_unwritten]

theorem popped_head (s : State) (x r : Xl) (h : Hdr) (w : Nat) : (popped s x r h w).readMem x.fpa 8 = (h.head + 1) % 2 ^ 64 :=
  State.readMem_plainWrite _ w x.fpa 8 _

theorem popped_outside (s : State) (x r : Xl) (h : Hdr) (w : Nat) : StandsOutside s (popped s x r h w) [(x.addr, 8), (r.addr, 8), (x.fpa, 8)] := by
  intro b hb
  simp only [List.forall_mem_cons] at hb
  obtain ⟨hx, hr, hhead, -⟩ := hb
  rw [popped, State.byteAt_plainWrite_outside _ _ _ 8 _ hhead, State.byteAt_unitRead_outside _ _ _ hr, State.byteAt_touch_outside _ _ _ hx]

theorem State.dieAt_moveRr (s : State) (die q : Nat) : ((s.moveRr die q).dieAt die).rr = (q + 1) % 512 :=
  congrArg Die.rr (Map.find_put_same ..)

/-! ## What is written keeps the crews and the free wave slots -/

theorem slotsFree_of_unwritten {s t : State} (h : unwritten t = unwritten s) (core : Nat) : t.slotsFree core = s.slotsFree core :=
  (congrArg (fun u : State => u.slotsFree core) h :)

theorem withWaves_of_unwritten {s t : State} (h : unwritten t = unwritten s) (c : Crew) (arg pts : Nat) (pc : Word) :
    withWaves t c arg pts pc = withWaves s c arg pts pc := by
  rw [withWaves, slotsFree_of_unwritten h, withWaves]

theorem State.addCrew_sets (s : State) (c : Crew) (arg pts : Nat) (pc : Word) :
    (s.addCrew c arg pts pc).crews = s.crews ++ [withWaves s c arg pts pc] ∧ (s.addCrew c arg pts pc).nextHandle = s.nextHandle + 1 ∧
      (s.addCrew c arg pts pc).crewIdOf c.ctx = c.id + 1 ∧ (s.addCrew c arg pts pc).wdAge c.ctx = 0 ∧
      (s.addCrew c arg pts pc).wave = s.wave ∧ (s.addCrew c arg pts pc).crew = s.crew := by
  have h := State.addCrew_unwritten s c arg pts pc
  generalize s.addCrew c arg pts pc = t at *
  have hids : t.crewIds = Map.put (fun _ => 0) s.crewIds c.ctx (c.id + 1) := (congrArg State.crewIds h :)
  have hwd : t.wd = Map.put (fun _ => 0) s.wd c.ctx s.nanos := (congrArg State.wd h :)
  have hnanos : t.nanos = s.nanos := (congrArg State.nanos h :)
  refine ⟨(congrArg State.crews h :), (congrArg State.nextHandle h :), ?_, ?_, (congrArg State.wave h :), (congrArg State.crew h :)⟩
  · rw [State.crewIdOf, hids, Map.find_put_same]
  · rw [State.wdAge, hwd, Map.find_put_same, hnanos, Nat.sub_self]

theorem State.length_readBytes (s : State) (a n : Nat) : (s.readBytes a n).length = n := by
  simp [State.readBytes]

theorem lmAt_putRecord_readBytes (s : State) {u : State} (core base : Nat) {a n : Nat} (bad : List Nat) {k : Nat} (h : k < n) :
    lmAt (s.putRecord core base (u.readBytes a n) bad) (lmKey core base + k) = u.byteAt (a + k) := by
  rw [lmAt_putRecord_inside s core base bad (by rwa [State.length_readBytes])]
  simp [State.readBytes]

/-! ## A crew with the record of its queue (R275) -/

/-- The crew of a queue stage: its record is the first segment of its LM, and it holds one record of its queue. -/
def queueCrew (s : State) (b : Bid) (core base : Nat) : Crew :=
  { s.newCrew b core base with segs := [⟨base, 256, false⟩], held := [⟨b.st.arg, 1, b.st.qnum, true⟩] }

/-- The state with that crew, once the record at `r` of the queue at `x` has been popped and put into its LM. -/
def queueFormed (s : State) (b : Bid) (core base : Nat) (x r : Xl) (h : Hdr) (w : Nat) (bad : List Nat) : State :=
  ((popped s x r h w).addCrew (queueCrew s b core base) base w b.st.prog).putRecord core base (s.readBytes r.fpa h.rsz) bad

section
variable (s : State) (b : Bid) (core base : Nat) (x r : Xl) (h : Hdr) (w : Nat) (bad : List Nat)

theorem queueFormed_crews :
    (queueFormed s b core base x r h w bad).crews = s.crews ++ [withWaves s (queueCrew s b core base) base w b.st.prog] := by
  have hpop := popped_unwritten s x r h w
  have hput := State.putRecord_unwritten ((popped s x r h w).addCrew (queueCrew s b core base) base w b.st.prog) core base
    (s.readBytes r.fpa h.rsz) bad
  obtain ⟨hcrews, -⟩ := State.addCrew_sets (popped s x r h w) (queueCrew s b core base) base w b.st.prog
  rw [withWaves_of_unwritten hpop] at hcrews
  rw [queueFormed]
  generalize popped s x r h w = p at *
  generalize p.addCrew (queueCrew s b core base) base w b.st.prog = u at *
  generalize u.putRecord core base (s.readBytes r.fpa h.rsz) bad = t at *
  have hold : p.crews = s.crews := (congrArg State.crews hpop :)
  have hkept : t.crews = u.crews := (congrArg State.crews hput :)
  rw [hkept, hcrews, hold]

theorem queueFormed_mem : (queueFormed s b core base x r h w bad).mem = (popped s x r h w).mem :=
  (State.putRecord_mem ..).trans (State.addCrew_mem ..)

theorem queueFormed_head : (queueFormed s b core base x r h w bad).readMem x.fpa 8 = (h.head + 1) % 2 ^ 64 :=
  (State.readMem_of_mem (queueFormed_mem ..) ..).trans (popped_head ..)

theorem queueFormed_outside : StandsOutside s (queueFormed s b core base x r h w bad) [(x.addr, 8), (r.addr, 8), (x.fpa, 8)] :=
  fun a ha => (State.byteAt_of_mem (queueFormed_mem ..) a).trans (popped_outside s x r h w a ha)

theorem lmAt_queueFormed_record {k : Nat} (hk : k < h.rsz) :
    lmAt (queueFormed s b core base x r h w bad) (lmKey core base + k) = s.byteAt (r.fpa + k) :=
  lmAt_putRecord_readBytes _ core base bad hk

section
variable (hrsz : h.rsz ≤ 256) (hbase : base % 256 = 0)
include hrsz hbase

/-- Past the record the allocation reads as zero. -/
theorem lmAt_queueFormed_rest {k : Nat} (hlo : h.rsz ≤ k) (hhi : k < b.st.lmb) :
    lmAt (queueFormed s b core base x r h w bad) (lmKey core base + k) = 0#8 := by
  have hlen := State.length_readBytes s r.fpa h.rsz
  by_cases hk : k < 256
  · exact lmAt_putRecord_padding _ core base bad (hlen.trans_le hrsz) (hlen.trans_le hlo) hk
  · exact (lmAt_putRecord_beyond _ core base bad (hlen.trans_le hrsz) hbase (by omega)).trans
      (lmAt_addCrew (popped s x r h w) (queueCrew s b core base) base w b.st.prog hhi)

theorem lmFullOf_queueFormed {k : Nat} (hk : k < 256) :
    lmFullOf (queueFormed s b core base x r h w bad) (lmKey core (base + k) / 16) = true :=
  lmFullOf_putRecord_first _ core base bad ((State.length_readBytes ..).trans_le hrsz) hbase hk

end

end

/-! ## The dispatcher forms the crew that comes first -/

section
variable {s : State} {die : Nat} {b : Bid} {core base : Nat} (hdie : die < 8) (hwhole : s.brokenStage = none)
  (hwin : s.reserveCores.winner die = some b) (hfresh : b.fresh = some (core, base))
include hdie hwhole hwin hfresh

theorem exec_crewPlace_addCrew (hkind : b.st.kind = 2) :
    ∃ rs fs qs n, exec (.crewPlace die) s = .next ((placed ((placed s s.flows rs s.samples).addCrew (s.newCrew b core base)
      b.st.formed s.floor b.st.prog) fs qs n).moveRr die b.st.qnum) := by
  obtain ⟨rs, hres⟩ := State.reserveCores_placed s
  obtain ⟨fs, qs, n, hform⟩ := State.formCrew_counted (placed s s.flows rs s.samples) b core base hkind
  refine ⟨rs, fs, qs, n, ?_⟩
  rw [exec_crewPlace_forms hdie hwhole hwin hfresh, hres, hform]
  rfl

theorem exec_crewPlace_putRecord {x r : Xl} {h : Hdr} (hkind : b.st.kind = 1) (hx : s.translate 0 b.ctx b.st.arg.toNat .atomic false = .ok x)
    (hhdr : s.stageHdr b.ctx b.st = some (x.fpa, h)) (hr : s.translate 0 b.ctx (h.slotVa h.head) .load false = .ok r)
    (hdev : fpaDev r.fpa = fpaDev x.fpa) :
    ∃ rs w bad fs qs n, exec (.crewPlace die) s =
      .next ((placed (queueFormed (placed s s.flows rs s.samples) b core base x r h w bad) fs qs n).moveRr die b.st.qnum) := by
  obtain ⟨rs, hres⟩ := State.reserveCores_placed s
  obtain ⟨w, bad, fs, qs, n, hform⟩ := State.formCrew_queue (s := placed s s.flows rs s.samples) (core := core) (base := base) hkind
    ((translate_placed ..).trans hx) ((stageHdr_placed ..).trans hhdr) ((translate_placed ..).trans hr) hdev
  refine ⟨rs, w, bad, fs, qs, n, ?_⟩
  rw [exec_crewPlace_forms hdie hwhole hwin hfresh, hres, hform]
  rfl

section
variable (hroom : b.st.waves ≤ (s.slotsFree core).length) (hbase : base % 256 = 0)
include hroom hbase

/-- A crew of a counted stage (R275). -/
theorem exec_crewPlace_counted (hkind : b.st.kind = 2) (hsize : b.st.lmb % 256 = 0) :
    ∃ t c, exec (.crewPlace die) s = .next t ∧ t.crews = s.crews ++ [c] ∧ Formed s c b core base b.st.formed ∧ c.segs = [] ∧ c.held = [] ∧
      t.nextHandle = s.nextHandle + 1 ∧ t.crewIdOf b.ctx = s.crewIdOf b.ctx + 1 ∧ t.wdAge b.ctx = 0 ∧
      (∀ k, k < b.st.lmb → lmAt t (lmKey core base + k) = 0#8) ∧ (∀ k, k < b.st.lmb → lmFullOf t (lmKey core (base + k) / 16) = decide (k < 256)) ∧
      (t.dieAt die).rr = (b.st.qnum + 1) % 512 ∧ t.wave = s.wave ∧ t.crew = s.crew ∧ ∀ x, t.byteAt x = s.byteAt x := by
  obtain ⟨rs, fs, qs, n, hstep⟩ := exec_crewPlace_addCrew hdie hwhole hwin hfresh hkind
  obtain ⟨hcrews, hnext, hid, hage, hwave, hcrew⟩ :=
    State.addCrew_sets (placed s s.flows rs s.samples) (s.newCrew b core base) b.st.formed s.floor b.st.prog
  have hmem := State.addCrew_mem (placed s s.flows rs s.samples) (s.newCrew b core base) b.st.formed s.floor b.st.prog
  have hlm {k : Nat} := lmAt_addCrew (placed s s.flows rs s.samples) (s.newCrew b core base) b.st.formed s.floor b.st.prog (k := k)
  have hfull {k : Nat} := lmFullOf_addCrew (placed s s.flows rs s.samples) (s.newCrew b core base) b.st.formed s.floor b.st.prog (k := k)
  generalize (placed s s.flows rs s.samples).addCrew (s.newCrew b core base) b.st.formed s.floor b.st.prog = v at *
  exact ⟨_, _, hstep, hcrews, newCrew_formed s b core base _ _ [] [] hroom, rfl, rfl, hnext, hid, hage, fun k => hlm,
    fun k hk => hfull hk hbase hsize, State.dieAt_moveRr .., hwave, hcrew, State.byteAt_of_mem hmem⟩

/-- A crew of a queue stage, which pops its record in the same step (R275). -/
theorem exec_crewPlace_queue {x r : Xl} {h : Hdr} (hkind : b.st.kind = 1) (hx : s.translate 0 b.ctx b.st.arg.toNat .atomic false = .ok x)
    (hhdr : s.stageHdr b.ctx b.st = some (x.fpa, h)) (hr : s.translate 0 b.ctx (h.slotVa h.head) .load false = .ok r)
    (hdev : fpaDev r.fpa = fpaDev x.fpa) (hrsz : h.rsz ≤ 256) :
    ∃ t c, exec (.crewPlace die) s = .next t ∧ t.crews = s.crews ++ [c] ∧ Formed s c b core base base ∧ c.segs = [⟨base, 256, false⟩] ∧
      c.held = [⟨b.st.arg, 1, b.st.qnum, true⟩] ∧ t.readMem x.fpa 8 = (h.head + 1) % 2 ^ 64 ∧
      StandsOutside s t [(x.addr, 8), (r.addr, 8), (x.fpa, 8)] ∧
      (∀ k, k < h.rsz → lmAt t (lmKey core base + k) = s.byteAt (r.fpa + k)) ∧ (∀ k, h.rsz ≤ k → k < b.st.lmb → lmAt t (lmKey core base + k) = 0#8) ∧
      (∀ k, k < 256 → lmFullOf t (lmKey core (base + k) / 16) = true) := by
  obtain ⟨rs, w, bad, fs, qs, n, hstep⟩ := exec_crewPlace_putRecord hdie hwhole hwin hfresh hkind hx hhdr hr hdev
  have hcrews := queueFormed_crews (placed s s.flows rs s.samples) b core base x r h w bad
  have hhead := queueFormed_head (placed s s.flows rs s.samples) b core base x r h w bad
  have hout := queueFormed_outside (placed s s.flows rs s.samples) b core base x r h w bad
  have hrecord {k : Nat} := lmAt_queueFormed_record (placed s s.flows rs s.samples) b core base x r h w bad (k := k)
  have hrest {k : Nat} := lmAt_queueFormed_rest (placed s s.flows rs s.samples) b core base x r h w bad hrsz hbase (k := k)
  have hfull {k : Nat} := lmFullOf_queueFormed (placed s s.flows rs s.samples) b core base x r h w bad hrsz hbase (k := k)
  generalize queueFormed (placed s s.flows rs s.samples) b core base x r h w bad = v at *
  exact ⟨_, _, hstep, hcrews, newCrew_formed s b core base base w _ _ hroom, rfl, rfl, hhead, hout, fun k => hrecord, fun k => hrest, fun k => hfull⟩

end

end

end Sys2Proof.Proofs
end

section
/-! PROOF. O53: the launches of the flow manager, demand samples, and the placing of crews (R273, R275, R277 to R281). -/

namespace Sys2Proof.Proofs

open Sys2Proof.Machine Sys2Proof.Laws Sys2Proof.Stmt

/-- Settles O53, clause by clause: each step decides stages and reservations (`placed`), or writes the queue's header and the new crew's LM. -/
theorem placementSteps : Obligations.PlacementSteps := by
  unfold Obligations.PlacementSteps
  refine ⟨exec_flowLaunch_idle, fun s ctx x hw _ hr => exec_flowLaunch_lost hw hr,
    fun s ctx x r k hw _ hr hopen hclean hbad hk => exec_flowLaunch_bad hw hr hopen hclean hbad hk,
    fun s ctx x r hw hr hopen hclean hcode => exec_flowLaunch_started hw hr hopen hclean hcode,
    fun s ctx f st hdue hflows hlive hceil hfloor hmore => exec_demandSample_target hdue hflows hlive hceil hfloor hmore,
    fun s h => ?early, fun s die f ctx st hdie hwhole hflows hneeds hnone hsome => ?reserves,
    fun s die b core base hdie hwhole hwin hfresh hkind hroom _ hbase hsize =>
      exec_crewPlace_counted hdie hwhole hwin hfresh hroom hbase hkind hsize,
    fun s die b core base x r h hdie hwhole hwin hfresh hkind hroom hx hhdr hr hdev _ _ hbase _ hrsz =>
      exec_crewPlace_queue hdie hwhole hwin hfresh hroom hbase hkind hx hhdr hr hdev hrsz,
    fun s die f i st hdie hbroken => ⟨_, exec_crewPlace_broken hdie hbroken, State.breakQueue_told s f i st⟩, fun s die hdie => ?noDie⟩
  case early => rw [exec_demandSample, execDemandSample, if_pos h]
  case reserves =>
    obtain ⟨c, hres, hc, hmost⟩ := State.reserveCores_one hflows hneeds hsome
    refine ⟨_, c, exec_crewPlace_none hdie hwhole hnone, ?_, hc, hmost, ?_⟩
    · rw [hres, placed_reserved]
    · rw [hres]
      rfl
  case noDie => rw [exec_crewPlace, execCrewPlace, if_pos hdie]

end Sys2Proof.Proofs
end

section
/-! SUPPORT. The end of a word that writes registers and flags: it changes nothing else in its wave, and nothing outside it. -/

namespace Sys2Proof.Proofs

open Sys2Proof.Machine Sys2Proof.Laws Sys2Proof.Stmt

/-- A word that changes no more of its wave than the statements say apart, and goes on. -/
theorem completes_setWave {s : State} {w : Wave} {y : Bool} (hw : WaveKept s.wave w) (hpc : w.pc = s.wave.pc)
    (hissued : w.issued = s.wave.issued) : Completes s ((s.setWave w).advance y) y := by
  rw [advance_setWave hpc]
  exact ⟨goesOn_advanceTo hissued, hw, restKept_advanceTo⟩

/-- From `s` to `u` nothing has changed but scalars, vector registers and the list of freed registers of the issuing wave. -/
def RegistersAlone (s u : State) : Prop := ∃ r v l, u = s.setWave { s.wave with regs := r, vregs := v, freed := l }

section
variable {s u : State}

theorem registersAlone_setS (d : Reg) (v : Word) : RegistersAlone s (s.setS d v) :=
  ⟨(s.wave.setS d v).regs, s.wave.vregs, s.wave.freed, congrArg s.setWave (Wave.setS_eq s.wave d v)⟩

theorem registersAlone_writeV (p : Nat) (f : Nat → Lane) : RegistersAlone s (s.writeV p f) := ⟨_, _, _, rfl⟩

theorem RegistersAlone.freeUsed (h : RegistersAlone s u) (srcs : List (Reg × Bool)) (d : Option Reg) :
    RegistersAlone s (u.freeUsed srcs d) := by
  obtain ⟨r, v, _, rfl⟩ := h
  obtain ⟨l, hl⟩ := State.freeUsed_eq (s.setWave _) srcs d
  exact ⟨r, v, l, hl⟩

theorem RegistersAlone.fflags (h : RegistersAlone s u) (fl : BitVec 6) (y : Bool) :
    ((u.orFlags fl).advance y).wave.fflags = s.wave.fflags ||| fl := by
  obtain ⟨r, v, l, rfl⟩ := h
  rfl

theorem RegistersAlone.completes (h : RegistersAlone s u) (fl : BitVec 6) (y : Bool) : Completes s ((u.orFlags fl).advance y) y := by
  obtain ⟨r, v, l, rfl⟩ := h
  exact completes_setWave rfl rfl rfl

end

/-- A word without flags leaves FFLAGS. -/
theorem State.orFlags_zero (s : State) : s.orFlags 0#6 = s := by
  rw [State.orFlags, BitVec.or_zero]

/-! ## What the writes of registers leave to be read -/

@[simp] theorem State.vreg_advance (s : State) (y : Bool) (p : Nat) : (s.advance y).wave.vreg p = s.wave.vreg p := rfl
@[simp] theorem State.vreg_orFlags (s : State) (fl : BitVec 6) (p : Nat) : (s.orFlags fl).wave.vreg p = s.wave.vreg p := rfl

section
variable (s : State) (p : Nat) (f : Nat → Lane)

@[simp] theorem State.getS_writeV (r : Reg) : (s.writeV p f).getS r = s.getS r := by
  simp [State.writeV, State.getS, Wave.getS]

@[simp] theorem State.phys_writeV (r : Reg) : (s.writeV p f).wave.phys r = s.wave.phys r := by
  simp [State.writeV, Wave.phys]

/-- A register that is written is live (R33). -/
theorem State.isFreed_writeV (q : Nat) : (s.writeV p f).wave.isFreed q = (q != p && s.wave.isFreed q) := by
  rw [← Wave.isFreed_revive]
  simp [State.writeV, Wave.isFreed]

end

/-! ## What the sources free (R33) -/

section
variable (s : State) (srcs : List (Reg × Bool)) (d : Option Reg)

@[simp] theorem State.freeUsed_vregs : (s.freeUsed srcs d).wave.vregs = s.wave.vregs := by
  obtain ⟨l, hl⟩ := State.freeUsed_eq s srcs d
  rw [hl]

@[simp] theorem State.getS_freeUsed (r : Reg) : (s.freeUsed srcs d).getS r = s.getS r := by
  obtain ⟨l, hl⟩ := State.freeUsed_eq s srcs d
  rw [hl]
  rfl

theorem State.freeUsed_cons (e : Reg × Bool) : s.freeUsed (e :: srcs) d =
    (if e.2 && decide (d ≠ some e.1) then { s with wave := s.wave.free (s.wave.phys e.1) } else s).freeUsed srcs d := rfl

theorem State.isFreed_freeUsed (p : Nat) : (s.freeUsed srcs d).wave.isFreed p =
    (s.wave.isFreed p || srcs.any (fun e => e.2 && decide (d ≠ some e.1) && s.wave.phys e.1 == p)) := by
  induction srcs generalizing s with
  | nil => simp [State.freeUsed]
  | cons e rest ih =>
    rw [State.freeUsed_cons, ih, List.any_cons]
    by_cases h : (e.2 && decide (d ≠ some e.1)) = true
    · rw [if_pos h, h, Wave.isFreed_free, Bool.true_and, Bool.beq_comm, Bool.or_assoc, Bool.or_left_comm]
      rfl
    · rw [if_neg h, Bool.eq_false_iff.2 h, Bool.false_and, Bool.false_or]

end

/-- A word that writes a vector register revives it, whatever its sources free. -/
theorem freesSources_writeV {s t : State} {srcs : List (Reg × Bool)} {d : Reg} {f : Nat → Lane}
    (h : t.wave.freed = ((s.writeV (s.wave.phys d) f).freeUsed srcs (some d)).wave.freed) : FreesSources s t srcs (some d) := by
  intro p
  rw [Wave.isFreed, h]
  refine (State.isFreed_freeUsed _ srcs (some d) p).trans ?_
  rw [State.isFreed_writeV]
  by_cases hp : p = s.wave.phys d
  · have hinj (e : Reg × Bool) : s.wave.phys e.1 = s.wave.phys d → d = e.1 := fun he =>
      BitVec.eq_of_toNat_eq (Nat.add_left_cancel he).symm
    simp only [State.phys_writeV, hp, Option.all_some, bne_self_eq_false, Bool.false_and, Bool.false_or, List.any_eq_false]
    intro e _
    simpa using fun _ hne he => hne (hinj e he)
  · have hne (e : Reg × Bool) : (decide (some d ≠ some e.1) && s.wave.phys e.1 == p) = (s.wave.phys e.1 == p) := by
      by_cases he : d = e.1
      · subst he
        simp [Ne.symm hp]
      · simp [he]
    simp only [State.phys_writeV, Bool.and_assoc, hne, Option.all_some, bne_iff_ne.2 hp, Bool.true_and]

/-- A word that writes no vector register frees what its sources ask for. -/
theorem freesSources_none {s u t : State} {srcs : List (Reg × Bool)} (hfreed : u.wave.freed = s.wave.freed)
    (hvwb : u.wave.vwb = s.wave.vwb) (h : t.wave.freed = (u.freeUsed srcs none).wave.freed) : FreesSources s t srcs none := by
  intro p
  rw [Wave.isFreed, h]
  refine (State.isFreed_freeUsed u srcs none p).trans ?_
  simp [Wave.isFreed, Wave.phys, hfreed, hvwb]

/-! ## The words by what they write -/

section
variable {i : Instr} {s : State} {y : Bool} {d : Reg} {fl : BitVec 6}

/-- A word that writes one scalar and its flags. -/
theorem scalarResult_of_exec {v : Word} (h : exec i s = .next (((s.setS d v).orFlags fl).advance y)) : ScalarResult i s y d v fl :=
  have hregs := registersAlone_setS d v
  ⟨_, h, ⟨Wave.getS_setS s.wave d v, fun _ => State.getS_setS_other s v⟩, by simp [VectorsKept], hregs.fflags fl y, hregs.completes fl y⟩

/-- A word that writes one vector register in the active lanes, its last uses and its flags. -/
theorem vectorResult_of_exec {srcs : List (Reg × Bool)} {f : Nat → Lane}
    (h : exec i s = .next ((((s.writeV (s.wave.phys d) f).freeUsed srcs (some d)).orFlags fl).advance y)) :
    VectorResult i s y srcs d f fl := by
  have hregs := (registersAlone_writeV (s := s) (s.wave.phys d) f).freeUsed srcs (some d)
  refine ⟨_, h, ⟨fun k hk => ?_, fun p hp => ?_⟩, freesSources_writeV rfl, fun r => ?_, hregs.fflags fl y, hregs.completes fl y⟩
  · simp only [State.vreg_advance, State.vreg_orFlags, State.freeUsed_vreg, State.writeV_lane s _ f k hk]
  · rw [State.vreg_advance, State.vreg_orFlags, State.freeUsed_vreg, State.writeV_other s f hp]
  · rw [State.getS_advance, State.getS_orFlags, State.getS_freeUsed, State.getS_writeV]

/-- A word that reads vector registers and writes one scalar, its last uses and its flags. -/
theorem lanesToScalar_of_exec {srcs : List (Reg × Bool)} {v : Word}
    (h : exec i s = .next ((((s.setS d v).freeUsed srcs none).orFlags fl).advance y)) : LanesToScalar i s y srcs d v fl := by
  have hregs := (registersAlone_setS (s := s) d v).freeUsed srcs none
  refine ⟨_, h, ⟨?_, fun r hr => ?_⟩, by simp, freesSources_none (u := s.setS d v) (by simp) (by simp) rfl, hregs.fflags fl y,
    hregs.completes fl y⟩
  · rw [State.getS_advance, State.getS_orFlags, State.getS_freeUsed]
    exact Wave.getS_setS s.wave d v
  · rw [State.getS_advance, State.getS_orFlags, State.getS_freeUsed, State.getS_setS_other s v hr]

end

/-! ## The forms of the words -/

/-- A scalar word without flags runs on a live wave. -/
theorem scalarResult_of_onWave {i : Instr} {s : State} {y : Bool} {d : Reg} {v : State → Word} (hs : Live s)
    (h : exec i s = s.onWave (fun s => (s.setS d (v s)).advance y)) : ScalarResult i s y d (v s) 0#6 :=
  scalarResult_of_exec (by rw [h, State.onWave_live s _ hs, State.orFlags_zero])

section
variable {i : Instr} {s : State} {y : Bool} {srcs : List (Reg × Bool)} {k : State → State}

/-- A vector word that is ready has its own effect. -/
theorem exec_of_vecReady {dst : Option Reg} (h : VecReady s srcs dst) (hi : exec i s = s.onWave (fun s => s.vectorWord y srcs dst k)) :
    exec i s = .next (k s) := by
  obtain ⟨hlive, hmask, hsrcs, hdst, hstrict⟩ := h
  have hnamed : ∀ r ∈ srcs.map (fun e => e.1) ++ dst.toList, s.wave.phys r < s.crew.valloc := by
    intro r hr
    rcases List.mem_append.1 hr with hr | hr
    · obtain ⟨e, he, rfl⟩ := List.mem_map.1 hr
      exact hsrcs e he
    · exact hdst r (Option.mem_toList.1 hr)
  rw [hi, State.onWave_live s _ hlive, State.vectorWord_ready s y srcs dst k hmask hnamed hstrict]

variable {used : List (Reg × Bool)} {d : Reg}

theorem vectorResult_of_vectorWord {f : Nat → Lane} (h : VecReady s srcs (some d))
    (hi : exec i s = s.onWave (fun s => s.vectorWord y srcs (some d) k))
    (hk : k s = ((s.writeV (s.wave.phys d) f).freeUsed used (some d)).advance y) : VectorResult i s y used d f 0#6 :=
  vectorResult_of_exec (by rw [exec_of_vecReady h hi, hk, State.orFlags_zero])

theorem vectorResult_of_flagWord {f : Nat → Lane} {fl : BitVec 6} (h : VecReady s srcs (some d))
    (hi : exec i s = s.onWave (fun s => s.vectorWord y srcs (some d) k))
    (hk : k s = (((s.writeV (s.wave.phys d) f).freeUsed used (some d)).orFlags fl).advance y) : VectorResult i s y used d f fl :=
  vectorResult_of_exec (by rw [exec_of_vecReady h hi, hk])

theorem lanesToScalar_of_vectorWord {v : Word} (h : VecReady s srcs none)
    (hi : exec i s = s.onWave (fun s => s.vectorWord y srcs none k)) (hk : k s = ((s.setS d v).freeUsed used none).advance y) :
    LanesToScalar i s y used d v 0#6 :=
  lanesToScalar_of_exec (by rw [exec_of_vecReady h hi, hk, State.orFlags_zero])

theorem lanesToScalar_of_flagWord {v : Word} {fl : BitVec 6} (h : VecReady s srcs none)
    (hi : exec i s = s.onWave (fun s => s.vectorWord y srcs none k))
    (hk : k s = (((s.setS d v).freeUsed used none).orFlags fl).advance y) : LanesToScalar i s y used d v fl :=
  lanesToScalar_of_exec (by rw [exec_of_vecReady h hi, hk])

end

end Sys2Proof.Proofs
end

section
/-! PROOF. O1, O2: the scalar integer words (R99 to R106). -/

namespace Sys2Proof.Proofs

open Sys2Proof.Machine Sys2Proof.Laws Sys2Proof.Stmt

theorem ofBool64_decide (p : Prop) [Decidable p] : ofBool64 (decide p) = if p then 1#64 else 0#64 := by
  by_cases h : p <;> simp [ofBool64, h]

/-- Zero-extending the low bits masks them out. -/
theorem and_mask_eq_zext64 (a : Word) {n : Nat} (h : n ≤ 64) : a &&& BitVec.ofNat 64 (2 ^ n - 1) = zext64 (a.setWidth n) := by
  apply BitVec.eq_of_toNat_eq
  have hmask : 2 ^ n - 1 < 2 ^ 64 := (Nat.sub_lt (Nat.two_pow_pos n) Nat.one_pos).trans_le (Nat.pow_le_pow_right (by omega) h)
  have hfit : a.toNat % 2 ^ n < 2 ^ 64 := (Nat.mod_le _ _).trans_lt a.isLt
  rw [BitVec.toNat_and, BitVec.toNat_ofNat, Nat.mod_eq_of_lt hmask, Nat.and_two_pow_sub_one_eq_mod, zext64, BitVec.toNat_setWidth,
    BitVec.toNat_setWidth, Nat.mod_eq_of_lt hfit]

/-- What replacing 16 bits of a word leaves at bit `n` (R105). -/
theorem getLsbD_setHalf (x : Word) (i : BitVec 16) {k n : Nat} (hn : n < 64) :
    (setHalf x k i).getLsbD n = if k ≤ n ∧ n < k + 16 then i.getLsbD (n - k) else x.getLsbD n := by
  have hones : (0xFFFF#64) = (BitVec.allOnes 16).setWidth 64 := rfl
  simp only [setHalf, hones, BitVec.getLsbD_or, BitVec.getLsbD_and, BitVec.getLsbD_not, BitVec.getLsbD_shiftLeft, BitVec.getLsbD_setWidth,
    BitVec.getLsbD_allOnes]
  by_cases hlo : n < k
  · simp [hlo, hn, show ¬(k ≤ n) by omega]
  by_cases hhi : n < k + 16
  · simp [hlo, hn, hhi, show k ≤ n by omega, show n - k < 16 by omega, show n - k < 64 by omega]
  · simp [hlo, hn, hhi, show ¬(n - k < 16) by omega, BitVec.getLsbD_of_ge i (n - k) (by omega)]

/-- The word with 16 of its bits replaced, in the pieces that stand and the one that is new (R105). -/
theorem setHalf_eq_append (x : Word) (i : BitVec 16) {h k : Nat} (hw : h + 16 + k = 64) :
    setHalf x k i = (x.extractLsb' (16 + k) h ++ i ++ x.extractLsb' 0 k).cast hw := by
  apply BitVec.eq_of_getLsbD_eq
  intro n hn
  rw [getLsbD_setHalf x i hn, BitVec.getLsbD_cast]
  simp only [BitVec.getLsbD_append, BitVec.getLsbD_extractLsb']
  by_cases hlo : n < k
  · simp [hlo]
  by_cases hhi : n < k + 16
  · simp [hlo, hhi, show n - k < 16 by omega, show k ≤ n by omega]
  · simp [hlo, hhi, show ¬(n - k < 16) by omega, show n - k - 16 < h by omega, show 16 + k + (n - k - 16) = n by omega]

theorem setHalf_16 (x : Word) (i : BitVec 16) : setHalf x 16 i = x.extractLsb' 32 32 ++ i ++ x.extractLsb' 0 16 :=
  setHalf_eq_append x i (h := 32) rfl

theorem setHalf_32 (x : Word) (i : BitVec 16) : setHalf x 32 i = x.extractLsb' 48 16 ++ i ++ x.extractLsb' 0 32 :=
  setHalf_eq_append x i (h := 16) rfl

theorem setHalf_48 (x : Word) (i : BitVec 16) : setHalf x 48 i = i ++ x.extractLsb' 0 48 := by
  rw [setHalf_eq_append x i (h := 0) rfl, BitVec.zero_width_append]
  rfl

theorem shiftLeft_two (x : Word) : x <<< 2 = 4#64 * x := by
  rw [BitVec.shiftLeft_eq_mul_twoPow, BitVec.mul_comm]
  rfl

/-! ## The rows of the tables -/

theorem binaryTable_exec : ∀ e ∈ binaryTable, ∀ y d a b s, exec (e.1 y d a b) s = s.scalar3 y d a b e.2 := by
  intro e he y d a b s
  simp only [binaryTable, ← ofBool64_decide] at he
  fin_cases he
  all_goals rfl

theorem immediateTable_exec :
    ∀ e ∈ immediateTable, ∀ y d a i s, exec (e.1 y d a i) s = s.scalar2 y d a (fun x => e.2 x (i.signExtend 64)) := by
  intro e he y d a i s
  simp only [immediateTable, ← ofBool64_decide] at he
  fin_cases he
  all_goals rfl

theorem shiftTable_exec : ∀ e ∈ shiftTable, ∀ y d a i s, exec (e.1 y d a i) s = s.scalar2 y d a (fun x => e.2 x i.toNat) := by
  intro e he y d a i s
  fin_cases he
  all_goals rfl

theorem unaryTable_exec : ∀ e ∈ unaryTable, ∀ y d a s, exec (e.1 y d a) s = s.scalar2 y d a e.2 := by
  intro e he y d a s
  have h8 (x : Word) : x &&& 0xFF#64 = zext64 (x.setWidth 8) := and_mask_eq_zext64 x (n := 8) (by omega)
  have h16 (x : Word) : x &&& 0xFFFF#64 = zext64 (x.setWidth 16) := and_mask_eq_zext64 x (n := 16) (by omega)
  have h32 (x : Word) : x &&& 0xFFFFFFFF#64 = zext64 (x.setWidth 32) := and_mask_eq_zext64 x (n := 32) (by omega)
  simp only [unaryTable, h8, h16, h32] at he
  fin_cases he
  all_goals rfl

/-- Settles O1: each row's word is a scalar word of two sources; `sel` has the destination as a third. -/
theorem scalarBinaryWords : Obligations.ScalarBinaryWords := by
  refine ⟨fun e he y d a b s hs => ?binary, fun y d a b s hs => ?sel⟩
  case binary => exact scalarResult_of_onWave (v := fun s => e.2 (s.getS a) (s.getS b)) hs (binaryTable_exec e he y d a b s)
  case sel =>
    rw [← ite_not]
    exact scalarResult_of_onWave (v := fun s => if s.getS d ≠ 0#64 then s.getS a else s.getS b) hs (exec_sel y d a b s)

/-- Settles O2: each row's word is a scalar word of one source, or of the destination and the pc. -/
theorem scalarImmediateUnaryConstantWords : Obligations.ScalarImmediateUnaryConstantWords := by
  refine ⟨fun e he y d a i s hs => ?immediate, fun e he y d a i s hs => ?shift, fun e he y d a s hs => ?unary,
    fun y d i s hs => ⟨?set0, ?set16, ?set32, ?set48, ?adpc⟩, fun y s hs => ?nop⟩
  case immediate =>
    exact scalarResult_of_onWave (v := fun s => e.2 (s.getS a) (i.signExtend 64)) hs (immediateTable_exec e he y d a i s)
  case shift => exact scalarResult_of_onWave (v := fun s => e.2 (s.getS a) i.toNat) hs (shiftTable_exec e he y d a i s)
  case unary => exact scalarResult_of_onWave (v := fun s => e.2 (s.getS a)) hs (unaryTable_exec e he y d a s)
  case set0 => exact scalarResult_of_onWave (v := fun _ => sext64 i) hs (exec_set0 y d i s)
  case set16 =>
    rw [← setHalf_16]
    exact scalarResult_of_onWave (v := fun s => setHalf (s.getS d) 16 i) hs (exec_set16 y d i s)
  case set32 =>
    rw [← setHalf_32]
    exact scalarResult_of_onWave (v := fun s => setHalf (s.getS d) 32 i) hs (exec_set32 y d i s)
  case set48 =>
    rw [← setHalf_48]
    exact scalarResult_of_onWave (v := fun s => setHalf (s.getS d) 48 i) hs (exec_set48 y d i s)
  case adpc =>
    rw [← shiftLeft_two]
    exact scalarResult_of_onWave (v := fun s => s.wave.pc + (sext64 i <<< 2)) hs (exec_adpc y d i s)
  case nop =>
    exact ⟨s.advance y, (exec_nop y s).trans (State.onWave_live s _ hs), fun _ => rfl, ⟨rfl, rfl⟩, rfl, completes_advance s y⟩

end Sys2Proof.Proofs
end

section
/-! PROOF. O3: what the bit counts and the byte swap give, bit by bit (R104, R108). -/

namespace Sys2Proof.Proofs

open Sys2Proof.Machine Sys2Proof.Laws

section
variable {w : Nat} (a : BitVec w)

theorem clz_zero : clz 0#w = w := if_pos rfl

theorem toNat_ne_zero {a : BitVec w} (h : a ≠ 0#w) : a.toNat ≠ 0 :=
  fun e => h (BitVec.eq_of_toNat_eq (e.trans BitVec.toNat_zero.symm))

/-- The highest set bit of a nonzero value, and how far `clz` puts it below the top. -/
theorem clz_of_ne_zero (h : a ≠ 0#w) : Nat.log2 a.toNat < w ∧ clz a = w - 1 - Nat.log2 a.toNat :=
  ⟨(Nat.log2_lt (toNat_ne_zero h)).2 a.isLt, if_neg h⟩

theorem clz_le : clz a ≤ w := by
  unfold clz
  split <;> omega

/-- The bits that `clz` counts are clear. -/
theorem getLsbD_of_clz_le {k : Nat} (hk : w - clz a ≤ k) : a.getLsbD k = false := by
  by_cases h : a = 0#w
  · rw [h, BitVec.getLsbD_zero]
  · obtain ⟨hlog, hclz⟩ := clz_of_ne_zero a h
    exact Nat.testBit_lt_two_pow (Nat.lt_log2_self.trans_le (Nat.pow_le_pow_right (by omega) (by omega)))

/-- The bit below those that `clz` counts is set. -/
theorem getLsbD_clz (h : clz a < w) : a.getLsbD (w - 1 - clz a) = true := by
  have hne : a ≠ 0#w := fun e => by rw [e, clz_zero] at h; omega
  obtain ⟨hlog, hclz⟩ := clz_of_ne_zero a hne
  rw [show w - 1 - clz a = Nat.log2 a.toNat by omega]
  exact Nat.testBit_log2 (toNat_ne_zero hne)

theorem ctz_le : ctz a ≤ w := clz_le _

/-- A bit of a value is the mirrored bit of its reverse. -/
theorem getLsbD_eq_brev {k : Nat} (hk : k < w) : a.getLsbD k = (brev a).getLsbD (w - 1 - k) := by
  rw [brev, BitVec.getLsbD_reverse, BitVec.getMsbD, decide_eq_true (by omega), Bool.true_and]
  congr 1
  omega

/-- The bits that `ctz` counts are clear. -/
theorem getLsbD_of_lt_ctz {k : Nat} (hk : k < ctz a) : a.getLsbD k = false := by
  have hw := ctz_le a
  rw [getLsbD_eq_brev a (by omega)]
  exact getLsbD_of_clz_le _ (by change w - ctz a ≤ _; omega)

/-- The bit above those that `ctz` counts is set. -/
theorem getLsbD_ctz (h : ctz a < w) : a.getLsbD (ctz a) = true := by
  rw [getLsbD_eq_brev a h]
  exact getLsbD_clz _ h

end

/-- Bit `k` of byte `j` of a value made of bytes (R5). -/
theorem testBit_ofBytesLE {bs : List Byte} {j k : Nat} (hj : j < bs.length) (hk : k < 8) :
    (ofBytesLE bs).testBit (8 * j + k) = bs[j].getLsbD k := by
  induction bs generalizing j with
  | nil => simp at hj
  | cons b rest ih =>
    have hcons : ofBytesLE (b :: rest) = 2 ^ 8 * ofBytesLE rest + b.toNat := Nat.add_comm ..
    rw [hcons, Nat.testBit_two_pow_mul_add _ b.isLt]
    cases j with
    | zero => rw [if_pos (by omega), Nat.mul_zero, Nat.zero_add]; rfl
    | succ j =>
      rw [if_neg (by omega), show 8 * (j + 1) + k - 8 = 8 * j + k by omega]
      exact ih (Nat.lt_of_succ_lt_succ hj)

/-- Bit `k` of byte `j` of a swapped word (R104). -/
theorem getLsbD_bswap (a : Word) {j k : Nat} (hj : j < 8) (hk : k < 8) :
    (bswap a).getLsbD (8 * j + k) = a.getLsbD (8 * (7 - j) + k) := by
  have hlen : j < (bytesLE 8 a.toNat).reverse.length := by simpa using hj
  rw [bswap, BitVec.getLsbD_ofNat, decide_eq_true (by omega), Bool.true_and, testBit_ofBytesLE hlen hk, List.getElem_reverse,
    getElem_bytesLE, length_bytesLE, BitVec.getLsbD_ofNat, decide_eq_true hk, Bool.true_and, Nat.testBit_div_two_pow,
    Nat.add_comm]
  rfl

/-- Settles O3: what each count says of the bits, and the bytes of a swapped word. -/
theorem bitCountsAreWhatTheyCount : Obligations.BitCountsAreWhatTheyCount :=
  ⟨fun a => ⟨clz_le a, fun _ => getLsbD_of_clz_le a, getLsbD_clz a⟩,
    fun a => ⟨ctz_le a, fun _ => getLsbD_of_lt_ctz a, getLsbD_ctz a⟩,
    fun a => ⟨clz_le a, fun _ => getLsbD_of_clz_le a, getLsbD_clz a⟩,
    fun _ _ => List.countP_eq_length_filter,
    fun a _ _ => getLsbD_bswap a⟩

end Sys2Proof.Proofs
end

section
/-! PROOF. O4: the lane-wise and packed integer words (R107 to R109, R117). -/

namespace Sys2Proof.Proofs

open Sys2Proof.Machine Sys2Proof.Laws Sys2Proof.Stmt

theorem lane3Table_exec : ∀ e ∈ lane3Table, ∀ y d a b la lb s, exec (e.1 y d a b la lb) s = s.lane3 y d a b la lb e.2 := by
  intro e he y d a b la lb s
  fin_cases he
  all_goals rfl

theorem halfTable_exec : ∀ e ∈ halfTable, ∀ y d a b la lb s, exec (e.1 y d a b la lb) s = s.lane3 y d a b la lb (halves e.2) := by
  intro e he y d a b la lb s
  fin_cases he
  all_goals rfl

theorem byteTable_exec : ∀ e ∈ byteTable, ∀ y d a b la lb s, exec (e.1 y d a b la lb) s = s.lane3 y d a b la lb (quarters e.2) := by
  intro e he y d a b la lb s
  fin_cases he
  all_goals rfl

theorem lane2Table_exec : ∀ e ∈ lane2Table, ∀ y d a la s, exec (e.1 y d a la) s = s.lane2 y d a la e.2 := by
  intro e he y d a la s
  fin_cases he
  all_goals rfl

/-- Settles O4: each row's word writes its function of the lanes that it reads. -/
theorem vectorIntegerWords : Obligations.VectorIntegerWords := by
  refine ⟨fun e he y d a b la lb s h => ?lane3, fun e he y d a b la lb s h => ?half, fun e he y d a b la lb s h => ?byte,
    fun e he y d a la s h => ?lane2, fun y d a b la lb s h => ?vmad, fun y d a i s h => ?vaddi, fun y d a s h => ?vbcast,
    fun y d s h => ?vlaneid⟩
  case lane3 => exact vectorResult_of_vectorWord h (lane3Table_exec e he y d a b la lb s) rfl
  case half => exact vectorResult_of_vectorWord h (halfTable_exec e he y d a b la lb s) rfl
  case byte => exact vectorResult_of_vectorWord h (byteTable_exec e he y d a b la lb s) rfl
  case lane2 => exact vectorResult_of_vectorWord h (lane2Table_exec e he y d a la s) rfl
  case vmad => exact vectorResult_of_vectorWord h (exec_vmad y d a b la lb s) rfl
  case vaddi => exact vectorResult_of_vectorWord h (exec_vaddi y d a i s) rfl
  case vbcast => exact vectorResult_of_vectorWord h (exec_vbcast y d a s) rfl
  case vlaneid => exact vectorResult_of_vectorWord h (exec_vlaneid y d s) rfl

end Sys2Proof.Proofs
end

section
/-! PROOF. O6: the lane moves (R111, R112, R115). -/

namespace Sys2Proof.Proofs

open Sys2Proof.Machine Sys2Proof.Laws Sys2Proof.Stmt

/-- Lane `n` of a source where a lane move has one, and zero where it has none (R111, R112). -/
theorem vectorResult_of_permute {i : Instr} {s : State} {y : Bool} {d a : Reg} {srcs used : List (Reg × Bool)} {j : State → Nat → Option Nat}
    (h : VecReady s srcs (some d)) (hi : exec i s = s.permute y d a srcs j)
    (hused : ∀ u : State, u.freeUsed srcs (some d) = u.freeUsed used (some d)) :
    VectorResult i s y used d (fun k => (j s k).elim 0#32 (lane s 0 a)) 0#6 := by
  refine vectorResult_of_vectorWord h hi ?_
  rw [← hused]
  refine congrArg (fun f => ((s.writeV (s.wave.phys d) f).freeUsed srcs (some d)).advance y) (funext fun k => ?_)
  cases j s k <;> rfl

/-- A lane number of 95 or less names a lane, a greater one none. -/
theorem elim_lane (c : Prop) [Decidable c] (n : Nat) (f : Nat → Lane) :
    (if c then some n else none).elim 0#32 f = if c then f n else 0#32 := by
  split <;> rfl

/-- What `vins` leaves in a register: one lane is written, and the others keep what stood in them (R115). -/
def insertedLanes (s : State) (p j : Nat) (x : Lane) : Lanes :=
  Vector.ofFn (fun i => if i.val = j && s.wave.active j then x else (s.oldV p).getD i.val 0#32)

theorem insertedLanes_eq_writeV (s : State) (p j : Nat) (x : Lane) :
    { s with wave := (s.wave.revive p).setVreg p (insertedLanes s p j x) } =
      s.writeV p (fun k => if k = j then x else (s.oldV p).getD k 0#32) := by
  have hlanes : insertedLanes s p j x = Vector.ofFn (fun i =>
      if s.wave.active i.val then (if i.val = j then x else (s.oldV p).getD i.val 0#32) else (s.oldV p)[i.val]'i.isLt) := by
    refine congrArg Vector.ofFn (funext fun i => ?_)
    have hold : (s.oldV p).getD i.val 0#32 = (s.oldV p)[i.val]'i.isLt := by simp [Vector.getD]
    by_cases hj : i.val = j
    · simp [← hj, hold]
    · simp [hj, hold]
  rw [hlanes]
  rfl

/-- A vector word whose own effect is to raise OPERAND raises it whatever registers it names. -/
theorem exec_operand_of_effect {i : Instr} {s : State} {y : Bool} {srcs : List (Reg × Bool)} {dst : Option Reg} {k : State → State}
    (hs : Live s) (hm : s.wave.maskEmpty = false) (hi : exec i s = s.onWave (fun s => s.vectorWord y srcs dst k))
    (hk : k s = s.trap .operand 0#64) : exec i s = .next (s.trap .operand 0#64) := by
  rw [hi, State.onWave_live s _ hs]
  simp [State.vectorWord, hm, hk]

/-- Settles O6: a lane move permutes lanes, or reads or writes the one lane that S[B] names, which must exist. -/
theorem laneMoveWords : Obligations.LaneMoveWords := by
  refine ⟨fun y d a b la lb s h => ?vperm, fun y d a i s h => ⟨?vxshf, ?vrotu, ?vrotd, ?vblane⟩, fun y d a b la s h hb => ?vext,
    fun y d a b s h hb => ?vins, fun y d a b la s hs hm hb => ⟨?vextOutside, ?vinsOutside⟩⟩
  case vperm =>
    simp only [← elim_lane]
    exact vectorResult_of_permute h (exec_vperm y d a b la lb s) (fun _ => rfl)
  case vxshf =>
    simp only [← elim_lane]
    exact vectorResult_of_permute h (exec_vxshf y d a i s) (fun _ => rfl)
  case vrotu => exact vectorResult_of_permute h (exec_vrotu y d a i s) (fun _ => rfl)
  case vrotd => exact vectorResult_of_permute h (exec_vrotd y d a i s) (fun _ => rfl)
  case vblane =>
    simp only [← elim_lane]
    exact vectorResult_of_permute h (exec_vblane y d a i s) (fun _ => rfl)
  case vext => exact lanesToScalar_of_vectorWord h (exec_vext y d a b la s) (if_neg (Nat.not_lt.2 hb))
  case vins =>
    refine vectorResult_of_vectorWord h (exec_vins y d a b s) ((if_neg (Nat.not_lt.2 hb)).trans ?_)
    exact congrArg (State.advance · y) (insertedLanes_eq_writeV s (s.wave.phys d) (s.getS b).toNat ((s.getS a).setWidth 32))
  case vextOutside => exact exec_operand_of_effect hs hm (exec_vext y d a b la s) (if_pos hb)
  case vinsOutside => exact exec_operand_of_effect hs hm (exec_vins y d a b s) (if_pos hb)

end Sys2Proof.Proofs
end

section
/-! PROOF. O7: the reductions (R113, R114). -/

namespace Sys2Proof.Proofs

open Sys2Proof.Machine Sys2Proof.Laws Sys2Proof.Stmt

/-- The exact sum of R113, added up from the lowest lane. -/
theorem sum_toInt_eq_foldl (xs : List Lane) : (xs.map BitVec.toInt).sum = xs.foldl (fun acc x => acc + x.toInt) 0 := by
  rw [List.sum_eq_foldl, List.foldl_map]

theorem reduceTable_exec : ∀ e ∈ reduceTable, ∀ y d a la s, exec (e.1 y d a la) s = s.reduce y d a la e.2 := by
  intro e he y d a la s
  simp only [reduceTable, sum_toInt_eq_foldl] at he
  fin_cases he
  all_goals rfl

/-- Settles O7: each row's word writes its function of the active lanes; the floating-point ones OR their flags. -/
theorem reductionWords : Obligations.ReductionWords := by
  refine ⟨fun e he y d a la s h => ?integer, fun y d a la s h => ⟨?fadd, ?fmin, ?fmax⟩⟩
  case integer => exact lanesToScalar_of_vectorWord h (reduceTable_exec e he y d a la s) rfl
  case fadd => exact lanesToScalar_of_flagWord h (exec_vredFadd y d a la s) rfl
  case fmin =>
    rw [activeLanes, List.map_map]
    exact lanesToScalar_of_flagWord h (exec_vredFmin y d a la s) rfl
  case fmax =>
    rw [activeLanes, List.map_map]
    exact lanesToScalar_of_flagWord h (exec_vredFmax y d a la s) rfl

end Sys2Proof.Proofs
end

section
/-! PROOF. O8: the vector conversions (R116). -/

namespace Sys2Proof.Proofs

open Sys2Proof.Machine Sys2Proof.Laws Sys2Proof.Stmt

theorem convertTable_exec : ∀ e ∈ convertTable, ∀ y d a la s, exec (e.1 y d a la) s = s.flane2 y d a la e.2 := by
  intro e he y d a la s
  fin_cases he
  all_goals rfl

/-- A conversion into one half of a lane, as a function of the lane and of the old lane (R116). -/
def intoHalf (hi : Bool) (f : RMode → Lane → BitVec 16 × Flags) (m : RMode) (a d : Lane) : Lane × Flags :=
  (withHalf hi d (f m a).1, (f m a).2)

/-- Saturation to 16 bits (R83, R116). -/
theorem satS_16 (x : Int) : satS 16 x = BitVec.ofInt 16 (max (-32768) (min 32767 x)) := by
  rw [satS, min_comm]
  rfl

theorem narrowTable_exec :
    ∀ e ∈ narrowTable, ∀ y d a la s, exec (e.1 y d a la) s = s.flaneAcc2 y d a la (intoHalf e.2.1 e.2.2) := by
  intro e he y d a la s
  simp only [narrowTable, ← satS_16] at he
  fin_cases he
  all_goals rfl

/-- Settles O8: each row's word writes its conversion lane by lane and ORs the flags of the active lanes. -/
theorem vectorConversionWords : Obligations.VectorConversionWords := by
  refine ⟨fun e he y d a la s h => ?whole, fun e he y d a la s h => ?half⟩
  case whole => exact vectorResult_of_flagWord h (convertTable_exec e he y d a la s) rfl
  case half => exact vectorResult_of_flagWord h (narrowTable_exec e he y d a la s) rfl

end Sys2Proof.Proofs
end

section
/-! PROOF. O10: the scalar binary64 words (R122 to R126). -/

namespace Sys2Proof.Proofs

open Sys2Proof.Machine Sys2Proof.Laws Sys2Proof.Stmt

/-- A scalar word with flags runs on a live wave. -/
theorem scalarResult_of_flagWord {i : Instr} {s : State} {y : Bool} {d : Reg} {r : State → Word × Flags} (hs : Live s)
    (h : exec i s = s.onWave (fun s => ((s.setS d (r s).1).orFlags (r s).2).advance y)) : ScalarResult i s y d (r s).1 (r s).2 :=
  scalarResult_of_exec (h.trans (State.onWave_live s _ hs))

theorem float3Table_exec : ∀ e ∈ float3Table, ∀ y d a b s, exec (e.1 y d a b) s = s.fscalar3 y d a b e.2 := by
  intro e he y d a b s
  fin_cases he
  all_goals rfl

theorem float2Table_exec : ∀ e ∈ float2Table, ∀ y d a s, exec (e.1 y d a) s = s.fscalar2 y d a e.2 := by
  intro e he y d a s
  fin_cases he
  all_goals rfl

/-- Settles O10: each row's word is a scalar word with flags of two sources or of one; `ffma` has the destination as a third. -/
theorem scalarFloatWords : Obligations.ScalarFloatWords := by
  refine ⟨fun e he y d a b s hs => ?two, fun e he y d a s hs => ?one, fun y d a b s hs => ?ffma⟩
  case two => exact scalarResult_of_flagWord (r := fun s => e.2 s.rm (s.getS a) (s.getS b)) hs (float3Table_exec e he y d a b s)
  case one => exact scalarResult_of_flagWord (r := fun s => e.2 s.rm (s.getS a)) hs (float2Table_exec e he y d a s)
  case ffma =>
    exact scalarResult_of_flagWord
      (r := fun s => as64 (binary64.ffma s.rm (s.getS a).toNat (s.getS b).toNat (s.getS d).toNat)) hs (exec_ffma y d a b s)

end Sys2Proof.Proofs
end

section
/-! PROOF. O11: the lane-wise floating-point words (R123, R126, R127, R129, R130, R135, R136). -/

namespace Sys2Proof.Proofs

open Sys2Proof.Machine Sys2Proof.Laws Sys2Proof.Stmt

theorem vfloat3Table_exec : ∀ e ∈ vfloat3Table, ∀ y d a b la lb s, exec (e.1 y d a b la lb) s = s.flane3 y d a b la lb e.2 := by
  intro e he y d a b la lb s
  fin_cases he
  all_goals rfl

theorem vfloatAccTable_exec :
    ∀ e ∈ vfloatAccTable, ∀ y d a b la lb s, exec (e.1 y d a b la lb) s = s.flaneAcc y d a b la lb e.2 := by
  intro e he y d a b la lb s
  fin_cases he
  all_goals rfl

theorem vfloat2Table_exec : ∀ e ∈ vfloat2Table, ∀ y d a la s, exec (e.1 y d a la) s = s.flane2 y d a la e.2 := by
  intro e he y d a la s
  fin_cases he
  all_goals rfl

/-- Settles O11: each row's word writes its function of the lanes that it reads and ORs the flags of the active lanes. -/
theorem vectorFloatWords : Obligations.VectorFloatWords := by
  refine ⟨fun e he y d a b la lb s h => ?two, fun e he y d a b la lb s h => ?three, fun e he y d a la s h => ?one,
    fun y d a j c s h => ?vcbx⟩
  case two => exact vectorResult_of_flagWord h (vfloat3Table_exec e he y d a b la lb s) rfl
  case three => exact vectorResult_of_flagWord h (vfloatAccTable_exec e he y d a b la lb s) rfl
  case one => exact vectorResult_of_flagWord h (vfloat2Table_exec e he y d a la s) rfl
  case vcbx => exact vectorResult_of_flagWord h (exec_vcbx y d a j c s) rfl

end Sys2Proof.Proofs
end

section
/-! PROOF. O12: the special-function words and the landing of their results (R131, R132, R134). -/

namespace Sys2Proof.Proofs

open Sys2Proof.Machine Sys2Proof.Laws Sys2Proof.Stmt

/-! ## A word goes into the unit -/

/-- A register whose lanes are written with what stood in them is only revived (R33). -/
theorem State.writeV_oldV (s : State) (p : Nat) :
    s.writeV p (fun k => (s.oldV p).getD k 0#32) = { s with wave := (s.wave.revive p).setVreg p (s.oldV p) } := by
  have hlanes : (Vector.ofFn fun i : Fin 96 => if s.wave.active i.val then (s.oldV p).getD i.val 0#32 else (s.oldV p)[i.val]'i.isLt) =
      s.oldV p := by
    ext k hk
    simp [Vector.getD]
  rw [State.writeV, hlanes]

/-- What its sources free does not touch the core's unit. -/
theorem State.freeUsed_setCore (s : State) (n : Nat) (c : Core) (srcs : List (Reg × Bool)) (d : Option Reg) :
    (s.setCore n c).freeUsed srcs d = (s.freeUsed srcs d).setCore n c := by
  induction srcs generalizing s with
  | nil => rfl
  | cons e rest ih =>
    rw [State.freeUsed_cons, State.freeUsed_cons]
    by_cases h : (e.2 && decide (d ≠ some e.1)) = true
    · rw [if_pos h, if_pos h]
      exact ih { s with wave := s.wave.free (s.wave.phys e.1) }
    · rw [if_neg h, if_neg h]
      exact ih s

section
variable (s : State) (d : Reg)

/-- What a special-function word does to the registers at issue: its destination is live with the lanes that stood there, and its sources
are freed (R33, R131). -/
def revived (srcs : List (Reg × Bool)) : State :=
  (s.writeV (s.wave.phys d) (fun k => (s.oldV (s.wave.phys d)).getD k 0#32)).freeUsed srcs (some d)

/-- What waits in the unit of a special-function word (R131). -/
def waitingOp (f : Nat → Lane × Flags) : SfuOp :=
  ⟨s.crew.handle, s.wave.idx, s.wave.phys d, s.wave.lanes.map (fun k => (k, (f k).1)), activeFlags s (fun k => (f k).2)⟩

/-- The wave's core with an operation behind those that wait in its unit. -/
def coreWith (o : SfuOp) : Core := { s.coreAt s.crew.core with sfu := (s.coreAt s.crew.core).sfu ++ [o] }

variable (srcs : List (Reg × Bool))

theorem registersAlone_revived : RegistersAlone s (revived s d srcs) := (registersAlone_writeV _ _).freeUsed srcs (some d)

theorem coreAt_revived (n : Nat) : (revived s d srcs).coreAt n = s.coreAt n := by
  obtain ⟨r, v, l, h⟩ := registersAlone_revived s d srcs
  rw [h]
  rfl

theorem getS_revived (r : Reg) : (revived s d srcs).getS r = s.getS r := by
  rw [revived, State.getS_freeUsed, State.getS_writeV]

theorem vreg_revived_same : (revived s d srcs).wave.vreg (s.wave.phys d) = s.oldV (s.wave.phys d) := by
  rw [revived, State.freeUsed_vreg, State.writeV_oldV, Wave.vreg_setVreg_same]

theorem vreg_revived_other {p : Nat} (hp : p ≠ s.wave.phys d) : (revived s d srcs).wave.vreg p = s.wave.vreg p := by
  rw [revived, State.freeUsed_vreg, State.writeV_other s _ hp]

end

/-- A special-function word that is ready waits in its core's unit and goes on. -/
theorem exec_of_sfuWord {i : Instr} {s : State} {y : Bool} {srcs : List (Reg × Bool)} {d : Reg} {f : State → Nat → Lane × Flags}
    (h : VecReady s srcs (some d)) (hi : exec i s = s.sfuWord y d srcs f) :
    exec i s = .next (((revived s d srcs).setCore s.crew.core (coreWith s (waitingOp s d (f s)))).advance y) := by
  rw [exec_of_vecReady h hi, revived, ← State.freeUsed_setCore, State.writeV_oldV]
  rfl

/-- A word that changes its wave and its core alone and goes on. -/
theorem restKept_setCore_setWave (s : State) (w : Wave) (c : Core) (n : Nat) (y : Bool) :
    RestKept s { ((s.setWave w).setCore n c).advance y with cores := s.cores } :=
  ⟨by simp, fun a => State.byteAt_of_mem (by simp) a⟩

/-- What the statement says of a special-function word, from the registers that it leaves and the core that it waits in. -/
theorem specialIssue_of_sfuWord {i : Instr} {s : State} {y : Bool} {srcs : List (Reg × Bool)} {d : Reg} {f : State → Nat → Lane × Flags}
    (h : VecReady s srcs (some d)) (hi : exec i s = s.sfuWord y d srcs f) : SpecialIssue i s y srcs d (f s) := by
  have hcore (n : Nat) (c : Core) : (((revived s d srcs).setCore s.crew.core c).advance y).coreAt n =
      if n = s.crew.core then c else s.coreAt n := by
    rw [State.coreAt_advance, State.coreAt_setCore, coreAt_revived]
  have hregs := registersAlone_revived s d srcs
  refine ⟨_, exec_of_sfuWord h hi, ?waiting, ?core, fun n hn => ?otherCore, fun k hk => ?lanes, fun p hp => ?others,
    freesSources_writeV rfl, fun r => getS_revived s d srcs r, ?flags, ?goes, ?wave, ?rest⟩
  case waiting => rw [hcore, if_pos rfl]; rfl
  case core => rw [hcore, if_pos rfl]; rfl
  case otherCore => rw [hcore, if_neg hn]
  case lanes => exact congrArg (·[k]) (vreg_revived_same s d srcs)
  case others => exact vreg_revived_other s d srcs hp
  all_goals
    obtain ⟨r, v, l, hu⟩ := hregs
    rw [hu]
  case flags => rfl
  case goes => exact goesOn_advanceTo (w := s.wave) rfl
  case wave => rfl
  case rest => exact restKept_setCore_setWave s _ _ _ _

theorem specialTable_exec : ∀ e ∈ specialTable, ∀ y d a la s,
    exec (e.1 y d a la) s = s.sfuWord y d [(a, la)] (fun s k => special e.2 s.rm (lane s 0 a k)) := by
  intro e he y d a la s
  fin_cases he
  all_goals rfl

/-! ## A result lands -/

/-- What is done at a wave in focus that stays there is done to the state as it stands. -/
theorem State.atWave_focus {s t : State} {f : State → State} (hs : Live s) (hf : f s = t) (hcrew : t.crew.handle = s.crew.handle)
    (hidx : t.wave.idx = s.wave.idx) (ht : Live t) : s.atWave s.crew.handle s.wave.idx f = t := by
  have hfocus {u : State} (hu : Live u) : u.focus u.crew.handle u.wave.idx = some u := if_pos ⟨rfl, rfl, by rw [hu]; decide⟩
  have hback : t.focus s.crew.handle s.wave.idx = some t := by rw [← hcrew, ← hidx]; exact hfocus ht
  simp only [State.atWave, hfocus hs, hf, hback]

/-- The wave with the lanes and the flags of an operation that its unit has done (R41, R131). -/
def landed (w : Wave) (o : SfuOp) : Wave := { w.landV o.phys o.vals with fflags := w.fflags ||| o.flags }

/-- The oldest operation of a unit lands in the wave in focus, which does not stop. -/
theorem exec_sfuResult_focus {s : State} {core : Nat} {o : SfuOp} {rest : List SfuOp} (hunit : (s.coreAt core).sfu = o :: rest)
    (hcrew : o.crew = s.crew.handle) (hwave : o.wave = s.wave.idx) (hs : Live s) (hstop : s.wave.stop = none)
    (hhalt : s.wave.halting = none) :
    exec (.sfuResult core) s =
      .next ((s.setCore core { s.coreAt core with sfu := rest }).setWave (landed s.wave o)) := by
  simp only [exec_sfuResult, execSfuResult, hunit, hcrew, hwave]
  refine congrArg Host.Outcome.next (State.atWave_focus (s := s.setCore core _) hs ?_ rfl rfl hs)
  have hgoes : ¬ (s.wave.stop.isSome || s.wave.halting.isSome) = true := by simp [hstop, hhalt]
  exact if_neg hgoes

/-- Settles O12: a word waits in its unit as `State.sfuWord` puts it there, and the oldest one lands in the wave that issued it. -/
theorem specialFunctionWords : Obligations.SpecialFunctionWords := by
  refine ⟨fun e he y d a la s h => ?one, fun y d a b la lb s h => ?vfdiv,
    fun core o rest s hunit hcrew hwave hs hstop hhalt => ?lands⟩
  case one => exact specialIssue_of_sfuWord h (specialTable_exec e he y d a la s)
  case vfdiv => exact specialIssue_of_sfuWord h (exec_vfdiv y d a b la lb s)
  case lands =>
    refine ⟨_, exec_sfuResult_focus hunit hcrew hwave hs hstop hhalt, ?unit, rfl, ?vreg, fun p hp => ?others, fun _ => rfl, rfl, rfl,
      fun _ => rfl⟩
    case unit => exact congrArg Core.sfu (Map.find_put_same _ s.cores core _)
    case vreg => exact Wave.vreg_setVreg_same ..
    case others => exact Wave.vreg_setVreg_other _ _ hp

end Sys2Proof.Proofs
end

section
/-! PROOF. O13: the narrow-format words (R137 to R140). -/

namespace Sys2Proof.Proofs

open Sys2Proof.Machine Sys2Proof.Laws Sys2Proof.Stmt

/-- An nf register that describes a format lets the word have its effect (R38, R137). -/
theorem State.withNf_format {s : State} {n width : Nat} {fmt : Fmt} (h : nfFmt (s.wave.nf.getD n 0#32) = some (fmt, width))
    (k : Fmt → Nat → State) : s.withNf n k = k fmt width := by
  rw [State.withNf, h]

/-- An nf register that describes none raises FORMAT (R38, R137). -/
theorem State.withNf_noFormat {s : State} {n : Nat} (h : nfFmt (s.wave.nf.getD n 0#32) = none) (k : Fmt → Nat → State) :
    s.withNf n k = s.trap .format 0#64 := by
  rw [State.withNf, h]

theorem narrow3Table_exec :
    ∀ e ∈ narrow3Table, ∀ y d a b la lb s, exec (e.1 y d a b la lb) s = s.nf3 y e.2.1 d a b la lb e.2.2 := by
  intro e he y d a b la lb s
  fin_cases he
  all_goals rfl

theorem narrowDotTable_exec :
    ∀ e ∈ narrowDotTable, ∀ y d a b la lb s, exec (e.1 y d a b la lb) s = s.nfAcc y e.2 d a b la lb nfDot := by
  intro e he y d a b la lb s
  fin_cases he
  all_goals rfl

theorem narrowConvertTable_exec :
    ∀ e ∈ narrowConvertTable, ∀ y d a n j s, exec (e.1 y d a n j) s = s.nfConvert y e.2 d a n j.toNat := by
  intro e he y d a n j s
  fin_cases he
  all_goals rfl

/-- Settles O13: behind the check of the nf register each row's word writes its function lane by lane and ORs the flags of the active
lanes; a conversion looks at its element number as well. -/
theorem narrowFormatWords : Obligations.NarrowFormatWords := by
  refine ⟨fun e he y d a b la lb s fmt width h hf => ?two, fun e he y d a b la lb s fmt width h hf => ?dot,
    fun e he y d a j s fmt width hf hj => ⟨fun h => ?widen, fun h => ?narrow⟩, fun e he y d a b la lb s h hf => ?noFormat⟩
  case two => exact vectorResult_of_flagWord h (narrow3Table_exec e he y d a b la lb s) (State.withNf_format hf _)
  case dot => exact vectorResult_of_flagWord h (narrowDotTable_exec e he y d a b la lb s) (State.withNf_format hf _)
  case widen =>
    exact vectorResult_of_flagWord h (narrowConvertTable_exec e he y d a false j s)
      ((State.withNf_format hf _).trans (if_neg (Nat.not_le.2 hj)))
  case narrow =>
    exact vectorResult_of_flagWord h (narrowConvertTable_exec e he y d a true j s)
      ((State.withNf_format hf _).trans (if_neg (Nat.not_le.2 hj)))
  case noFormat =>
    rw [exec_of_vecReady h (narrow3Table_exec e he y d a b la lb s)]
    exact congrArg Host.Outcome.next (State.withNf_noFormat hf _)

end Sys2Proof.Proofs
end

section
/-! PROOF. O48 fails. Of the twelve parts one is false: that the first mismatch of a check raises TINTEG at once (R155, R156). The poison that
it leaves at the places of an `mst` may lie in a page table; then a load of the wave that translates through it faults (R333), and the load's
fault comes before TINTEG (R347). -/

namespace Sys2Proof.Proofs

open Sys2Proof.Machine Sys2Proof.Laws Sys2Proof.Stmt

/-- A wave with a handler and one load that waits for its home. The tables of its context begin at HBM offset 0. -/
def loadingWave : State :=
  let s := State.reset.withFetchWord 32 0
  { s with wave := { s.wave with
      tvec := 0x10000#64
      accs := [⟨0, 0x10000#64, 0, .ld 1#7 8 false, [⟨0, 0x10000#64, 0#64, 0#32⟩], false, false, .queued, 0⟩] } }

/-- The second run of an `mma` of the wave, which has found no mismatch so far. -/
def secondRun : MOp := { loadingWave.capture .mma false 0#64 0#64 0#64 with checked := true, stage := .checking }

/-- An `mst` of the same accumulator in execution, which has stored a word over the root table. -/
def storeOverTable : MOp := { loadingWave.capture .mst false 0#64 0#64 0#64 with stage := .running, stored := [.mem 0] }

/-- The wave with both operations on its core. -/
def storedOverTable : State := loadingWave.setCore 0 { loadingWave.coreAt 0 with mops := [secondRun, storeOverTable] }

/-- The TCAUSE of the wave in focus after a step. -/
def causeAfter (o : Out) : Option Word := match o with | .next t => some t.wave.tcause | _ => none

theorem secondRun_checking : (storedOverTable.coreAt 0).mop? 1 0 (fun q => q.stage == .checking) = some secondRun := by decide +kernel

/-- Nothing stands in the way of a cause before the step. -/
theorem storedOverTable_hears : Hears storedOverTable 1 0 := by
  unfold Hears MayTake MayEnter CanEnter Live
  decide +kernel

/-- With the root table poisoned the load faults. -/
theorem faultFound_of_tablePoisoned : (storedOverTable.setPoison 0 true).faultFound = true := by decide +kernel

/-- The wave enters its handler with the load's fault. -/
theorem causeAfter_checkMismatch :
    causeAfter (exec (.checkMismatch 0 1 0) storedOverTable) = some (BitVec.ofNat 64 (causeCode .xlateLd)) := by decide +kernel

/-- Refutes O48: in `storedOverTable` the first mismatch poisons the root table, and the wave enters its handler with XLATE_LD, not
TINTEG. -/
theorem not_matrixQueueAndCheckSteps : ¬ Obligations.MatrixQueueAndCheckSteps := by
  rintro ⟨-, -, -, -, -, -, -, -, -, hmismatch, -⟩
  obtain ⟨t, col, row, hstep, -, -, -, -, -, hcause, -⟩ :=
    hmismatch storedOverTable 0 1 0 secondRun (by decide) secondRun_checking rfl storedOverTable_hears
  have hload := causeAfter_checkMismatch
  rw [hstep] at hload
  exact absurd (hcause.symm.trans (Option.some.inj hload)) (by decide)

end Sys2Proof.Proofs
end

section
/-! SUPPORT. How an accumulator operation enters the matrix queue (R148, R150, R190): the lines that an `mst` takes, the entry, and the tokens
of an `mma`. -/

namespace Sys2Proof.Proofs

open Sys2Proof.Machine Sys2Proof.Laws Sys2Proof.Stmt

/-! ## The lines of an `mst` (R190) -/

/-- The lines are taken, as far as nobody holds them, under the next number of the engine. -/
def claimLines (s : State) (pts : Nat) (ls : List Nat) : State := ls.foldl (fun s l => s.ownLine s.nextCmd pts l) s

theorem State.ownLine_eq (s : State) (id p l : Nat) : s.ownLine id p l = { s with lines := (s.ownLine id p l).lines } := by
  unfold State.ownLine State.giveLine
  split <;> rfl

theorem claimLines_eq (s : State) (pts : Nat) (ls : List Nat) : claimLines s pts ls = { s with lines := (claimLines s pts ls).lines } := by
  refine foldl_invariant (fun t => t = { s with lines := t.lines }) _ (fun t l ht => ?_) ls s rfl
  rw [State.ownLine_eq, ht]

theorem claimLines_cons (s : State) (pts l : Nat) (ls : List Nat) :
    claimLines s pts (l :: ls) = claimLines (s.ownLine s.nextCmd pts l) pts ls := rfl

theorem State.line_setLine (s : State) (l k : Nat) (v : Line) : (s.setLine l v).line k = if k = l then v else s.line k :=
  Map.find_put ..

/-- Another line, and one that somebody holds, stands. -/
theorem State.line_ownLine_kept (s : State) (id p : Nat) {l k : Nat} (h : k ≠ l ∨ (s.line k).owner ≠ none) :
    (s.ownLine id p l).line k = s.line k := by
  unfold State.ownLine State.giveLine
  split
  · next hfree =>
    have hne : k ≠ l := fun e => h.elim (· e) (fun hk => hk (by rw [e]; exact Option.isNone_iff_eq_none.1 hfree))
    rw [State.line_setLine, if_neg hne]
  · rfl

theorem State.owner_ownLine (s : State) (id p : Nat) {l : Nat} (h : (s.line l).owner = none) :
    ((s.ownLine id p l).line l).owner = some (.engine id) := by
  rw [State.ownLine, if_pos (by rw [h]; rfl), State.giveLine, State.line_setLine, if_pos rfl]

theorem line_claimLines_kept (s : State) (pts : Nat) (ls : List Nat) {k : Nat} (h : k ∉ ls ∨ (s.line k).owner ≠ none) :
    (claimLines s pts ls).line k = s.line k := by
  induction ls generalizing s with
  | nil => rfl
  | cons l rest ih =>
    have hkept : (s.ownLine s.nextCmd pts l).line k = s.line k :=
      State.line_ownLine_kept s _ _ (h.imp_left (fun hk => List.ne_of_not_mem_cons hk))
    rw [claimLines_cons, ih _ (by rw [hkept]; exact h.imp_left List.not_mem_of_not_mem_cons), hkept]

theorem owner_claimLines (s : State) (pts : Nat) (ls : List Nat) {k : Nat} (hk : k ∈ ls) (h : (s.line k).owner = none) :
    ((claimLines s pts ls).line k).owner = some (.engine s.nextCmd) := by
  induction ls generalizing s with
  | nil => simp at hk
  | cons l rest ih =>
    rw [claimLines_cons]
    by_cases he : k = l
    · subst he
      have howner := State.owner_ownLine s s.nextCmd pts h
      rw [line_claimLines_kept _ _ _ (.inr (by rw [howner]; simp)), howner]
    · have hnext : (s.ownLine s.nextCmd pts l).nextCmd = s.nextCmd := by rw [State.ownLine_eq]
      rw [ih _ ((List.mem_cons.1 hk).resolve_left he) (by rw [State.line_ownLine_kept s _ _ (.inl he), h]), hnext]

/-! ## The entry (R148) -/

/-- The operation stands last in the queue of the core. -/
def queued (s : State) (m : MOp) : State :=
  s.setCore s.crew.core { s.coreAt s.crew.core with mops := (s.coreAt s.crew.core).mops ++ [m] }

/-- The state and the operation once an `mst` has its number and its lines. -/
def claimed (s : State) (m : MOp) : State := { claimLines s m.pts (s.mstLines m) with nextCmd := s.nextCmd + 1 }
def owning (s : State) (m : MOp) : MOp := { m with id := s.nextCmd, owned := s.mstLines m }

theorem State.claimMst_none {s : State} {m : MOp} (h : s.mstLines m = []) : s.claimMst m = (s, m) := by
  simp only [State.claimMst, h, List.isEmpty_nil, if_true]

theorem State.claimMst_some {s : State} {m : MOp} (h : s.mstLines m ≠ []) : s.claimMst m = (claimed s m, owning s m) := by
  have hnext : (claimLines s m.pts (s.mstLines m)).nextCmd = s.nextCmd := by rw [claimLines_eq]
  simp only [State.claimMst, List.isEmpty_iff, h, if_false, claimed, owning, ← hnext]
  rfl

/-- An operation enters at once where its accumulator's version is not vacant. -/
theorem State.enterMop_eq {s u : State} {m n : MOp} (hclaim : s.claimMst m = (u, n)) (hvacant : (u.crew.acc n.acc).vacant = false) :
    s.enterMop m = queued u { n with stage := .queued } := by
  have hfills : u.mopFills n = false := by rw [State.mopFills, hvacant, Bool.false_and]
  simp only [State.enterMop, hclaim, hvacant, hfills, Bool.false_and, Bool.false_eq_true, if_false]
  rfl

/-- The wave with a request for its operation, whose tokens are granted or not. -/
def requesting (w : Wave) (m : MOp) (granted : Bool) : Wave := { w with mreq := some (m, granted) }

/-- The wave with its forced check, which an `mma` uses up (R168), and no request. -/
def requestDone (w : Wave) (m : MOp) : Wave := { w with mreq := none, chkForce := if m.kind = .mma then false else w.chkForce }

/-- A granted operation that is due, and finds room, enters its queue. -/
theorem State.seekEntry_enters {s : State} {m : MOp} (hreq : s.wave.mreq = some (m, true))
    (hwait : s.wave.block = some .version → s.heldAtWait = false) (hdue : s.mopDue m = true) (hroom : (s.coreAt s.crew.core).room = true) :
    s.seekEntry = ((s.setWave (requestDone s.wave m)).enterMop m).advance m.yield := by
  have hheld : ¬ (s.wave.block = some .version ∧ s.heldAtWait = true) := fun ⟨hb, hh⟩ => by simp [hwait hb] at hh
  simp only [State.seekEntry, hreq, hheld, hdue, hroom, Bool.not_true, Bool.false_eq_true, if_false]
  rfl

/-- A word other than `mma` that enters at once: its request has been made and met. -/
theorem State.issueMop_enters {s : State} {m : MOp} (h : EntersAtOnce s m) (hkind : m.kind ≠ .mma) :
    s.issueMop m = (s.enterMop m).advance m.yield := by
  obtain ⟨hreq, hwait, hdue, hroom, hvacant, hparked⟩ := h
  have hdone : requestDone (requesting s.wave m true) m = s.wave := by
    rw [requestDone, if_neg hkind, ← hreq]
    rfl
  have hissue : s.issueMop m = (s.setWave (requesting s.wave m true)).seekEntry := by
    simp only [State.issueMop, hreq]
    rfl
  rw [hissue, State.seekEntry_enters (s := s.setWave (requesting s.wave m true)) rfl hwait hdue hroom]
  exact congrArg (fun w => ((s.setWave w).enterMop m).advance m.yield) hdone

/-- What the statement says of a word whose operation has entered. -/
theorem entersQueue_of_exec {i : Instr} {s : State} {m : MOp} (hreq : s.wave.mreq = none)
    (hi : exec i s = .next ((queued s m).advance m.yield)) : EntersQueue i s m.yield m := by
  have hcore (n : Nat) : ((queued s m).advance m.yield).coreAt n =
      if n = s.crew.core then { s.coreAt s.crew.core with mops := (s.coreAt s.crew.core).mops ++ [m] } else s.coreAt n := by
    rw [State.coreAt_advance, queued, State.coreAt_setCore]
  refine ⟨_, hi, ?mops, ?core, fun n hn => ?others, ?crew, ?mreq, rfl, fun _ => rfl, ⟨rfl, rfl⟩, rfl, ?goes, rfl, ?rest⟩
  case mops => rw [hcore, if_pos rfl]
  case core => rw [hcore, if_pos rfl]
  case others => rw [hcore, if_neg hn]
  case crew => simp [queued]
  case mreq => simpa [queued] using hreq
  case goes => exact goesOn_advanceTo (w := s.wave) rfl
  case rest => exact restKept_setCore s m.yield _ _

/-- What the statement says of an `mst` that has entered with its lines. -/
theorem entersQueueOwning_of_exec {i : Instr} {s : State} {m : MOp} (hreq : s.wave.mreq = none)
    (hi : exec i s = .next ((queued (claimed s m) (owning s m)).advance m.yield)) : EntersQueueOwning i s m.yield m (s.mstLines m) := by
  have hclaim : claimed s m = { s with lines := (claimLines s m.pts (s.mstLines m)).lines, nextCmd := s.nextCmd + 1 } := by
    rw [claimed, claimLines_eq]
  have hcore (n : Nat) : ((queued (claimed s m) (owning s m)).advance m.yield).coreAt n =
      if n = s.crew.core then { s.coreAt s.crew.core with mops := (s.coreAt s.crew.core).mops ++ [owning s m] } else s.coreAt n := by
    rw [State.coreAt_advance, queued, State.coreAt_setCore, hclaim]
    rfl
  have hline (l : Nat) : ((queued (claimed s m) (owning s m)).advance m.yield).line l = (claimLines s m.pts (s.mstLines m)).line l := by
    rw [State.line, State.line]
    simp only [queued, claimed, State.advance_keeps, State.setCore_keeps]
  refine ⟨_, hi, ?mops, rfl, fun l hl hfree => ?taken, fun l hl hheld => ?held, fun l hl => ?otherLines,
    fun n hn => ?others, ?crew, ?mreq, ?force, ?scalars, ?vectors, ?flags, ?goes, ?wave, ?bytes⟩
  case mops => rw [hcore, if_pos rfl]; rfl
  case taken => rw [hline, owner_claimLines s m.pts _ hl hfree]
  case held => rw [hline, line_claimLines_kept s m.pts _ (.inr hheld)]
  case otherLines => rw [hline, line_claimLines_kept s m.pts _ (.inl hl)]
  case others => rw [hcore, if_neg hn]
  all_goals rw [hclaim]
  case crew => rfl
  case mreq => exact hreq
  case force => rfl
  case scalars => exact fun _ => rfl
  case vectors => exact ⟨rfl, rfl⟩
  case flags => rfl
  case goes => exact goesOn_advanceTo (w := s.wave) rfl
  case wave => rfl
  case bytes => exact fun _ => rfl

/-! ## The tokens of an `mma` (R150, R153) -/

theorem State.dieAt_setDie (s : State) (n k : Nat) (d : Die) : (s.setDie n d).dieAt k = if k = n then d else s.dieAt k :=
  Map.find_put ..

/-- What decides whether an operation is due and finds room: the operations of the core, and the crew. -/
theorem State.mopDue_congr {s t : State} (m : MOp) (hcrew : t.crew = s.crew)
    (hmops : (t.coreAt s.crew.core).mops = (s.coreAt s.crew.core).mops) : t.mopDue m = s.mopDue m := by
  simp only [State.mopDue, State.accHeld, Core.ahead, hcrew, hmops]

theorem Core.room_congr {j k : Core} (h : j.mops = k.mops) : j.room = k.room := by
  rw [Core.room, Core.room, Core.entries, Core.entries, h]

/-- The cost of an `mma` of the wave. -/
def costOf (s : State) (w0 w1 w2 : Word) : Nat := mmaCost (tdOf w1).prec (tdOf w2).prec (miwOf w0).K (mmaChecked s w0)

/-- The wave after it has asked for the tokens of its `mma`: the operation is counted, and its request stands alone at the die. -/
def asked (s : State) (m : MOp) (cost : Nat) : State :=
  ((s.setCore s.crew.core { s.coreAt s.crew.core with mmaCount := mmaCount s }).setDie (dieOf s.crew.core)
    { s.dieAt (dieOf s.crew.core) with requests := [(s.crew.handle, s.wave.idx, cost)] }).setWave
      { s.wave with mreq := some (m, false), block := some .other }

theorem State.coreAt_setDie (s : State) (n k : Nat) (d : Die) : (s.setDie n d).coreAt k = s.coreAt k := rfl
theorem State.coreAt_setWave (s : State) (w : Wave) (k : Nat) : (s.setWave w).coreAt k = s.coreAt k := rfl
theorem State.setWave_crew (s : State) (w : Wave) : (s.setWave w).crew = s.crew := rfl
theorem State.dieAt_setCore (s : State) (n k : Nat) (c : Core) : (s.setCore n c).dieAt k = s.dieAt k := rfl

theorem State.issueMma_asks {s : State} (y : Bool) (w0 w1 w2 : Word) (hreq : s.wave.mreq = none)
    (hnone : (s.dieAt (dieOf s.crew.core)).requests = []) :
    s.issueMma y w0 w1 w2 (miwOf w0) (tdOf w1) (tdOf w2) =
      (asked s (mmaOp s y w0 w1 w2) (costOf s w0 w1 w2)).grantOldest (dieOf s.crew.core) := by
  simp only [State.issueMma, hreq, State.dieAt_setCore, hnone, List.isEmpty_nil, if_true, List.nil_append]
  rfl

/-- An `mma` that passes its checks asks for its tokens, and gets them at once where the pool holds them. -/
theorem exec_mma_asks {s : State} (hs : Live s) (y : Bool) (d a b : Reg) {f : EFmt} (hm : MmaOk s (s.getS d) (s.getS a) (s.getS b) f)
    (hreq : s.wave.mreq = none) (hnone : (s.dieAt (dieOf s.crew.core)).requests = []) :
    exec (.mma y d a b) s = .next ((asked s (mmaOp s y (s.getS d) (s.getS a) (s.getS b))
      (costOf s (s.getS d) (s.getS a) (s.getS b))).grantOldest (dieOf s.crew.core)) := by
  obtain ⟨hmiw, hf, hA, hB, hblk, hK, halignA, halignB, hlm, hstores⟩ := hm
  have hwaits : ((!(tdOf (s.getS a)).rem || !(tdOf (s.getS b)).rem) && s.wave.lmStoresLeft) = false := by
    obtain ⟨hra, hrb⟩ | hleft := hstores
    · simp [hra, hrb]
    · simp [hleft]
  have hgoodA : (!(tdOf (s.getS a)).rem && (tdOf (s.getS a)).addr % 64 != 0) = false := by
    obtain hr | ha := halignA <;> simp [*]
  have hgoodB : (!(tdOf (s.getS b)).rem && (tdOf (s.getS b)).addr % 64 != 0) = false := by
    obtain hr | hb := halignB <;> simp [*]
  have hfmt : (!(tdOf (s.getS a)).okA || !((tdOf (s.getS b)).okB s.wave.nf.toList) || (tdOf (s.getS a)).blk != (tdOf (s.getS b)).blk ||
      (miwOf (s.getS d)).K % blkLen (tdOf (s.getS a)).blk != 0) = false := by
    simp only [hA, hB, hK, ← hblk, bne_self_eq_false, Bool.not_true, Bool.or_self]
  rw [exec_mma, execMma, State.onWave_live s _ hs]
  simp only [State.withMiw_ok hmiw, hf, hfmt, hgoodA, hgoodB, hlm, hwaits, Bool.false_eq_true, if_false]
  exact congrArg Host.Outcome.next (State.issueMma_asks y _ _ _ hreq hnone)

theorem dieAt_asked (s : State) (m : MOp) (cost : Nat) : (asked s m cost).dieAt (dieOf s.crew.core) =
    { s.dieAt (dieOf s.crew.core) with requests := [(s.crew.handle, s.wave.idx, cost)] } :=
  (State.dieAt_setDie ..).trans (if_pos rfl)

/-- Without the tokens the request waits. -/
theorem grantOldest_asked_short {s : State} {m : MOp} {cost : Nat} (h : (s.dieAt (dieOf s.crew.core)).ptok < cost) :
    (asked s m cost).grantOldest (dieOf s.crew.core) = asked s m cost := by
  simp only [State.grantOldest, dieAt_asked, if_neg (Nat.not_le.2 h)]

/-- The request of an `mma` is met: the tokens are taken from the die's pool. -/
def paid (s : State) (m : MOp) (cost : Nat) : State :=
  (asked s m cost).setDie (dieOf s.crew.core)
    { s.dieAt (dieOf s.crew.core) with requests := [], ptok := (s.dieAt (dieOf s.crew.core)).ptok - cost }

/-- The wave of that `mma` has no request any more, and its forced check is used up (R168). -/
def granted (s : State) (m : MOp) (cost : Nat) : State :=
  (paid s m cost).setWave { s.wave with mreq := none, chkForce := false, block := some .other }

theorem coreAt_paid (s : State) (m : MOp) (cost n : Nat) :
    (paid s m cost).coreAt n = if n = s.crew.core then { s.coreAt s.crew.core with mmaCount := mmaCount s } else s.coreAt n := by
  rw [paid, State.coreAt_setDie, asked, State.coreAt_setWave, State.coreAt_setDie, State.coreAt_setCore]

/-- What a grant does at the wave that has asked. -/
def takeGrant (t : State) : State :=
  match t.wave.mreq with
  | some (m, _) => (t.setWave (requesting t.wave m true)).seekEntry
  | none => t

theorem State.grantOldest_met {s : State} {die h i cost : Nat} {rest : List (Nat × Nat × Nat)} (hreq : (s.dieAt die).requests = (h, i, cost) :: rest)
    (hcost : cost ≤ (s.dieAt die).ptok) :
    s.grantOldest die = (s.setDie die { s.dieAt die with requests := rest, ptok := (s.dieAt die).ptok - cost }).atWave h i takeGrant := by
  simp only [State.grantOldest, hreq, if_pos hcost]
  rfl

theorem takeGrant_paid (s : State) (m : MOp) (cost : Nat) :
    takeGrant (paid s m cost) = ((paid s m cost).setWave (requesting (paid s m cost).wave m true)).seekEntry := rfl

theorem dieAt_paid (s : State) (m : MOp) (cost : Nat) : (paid s m cost).dieAt (dieOf s.crew.core) =
    { s.dieAt (dieOf s.crew.core) with requests := [], ptok := (s.dieAt (dieOf s.crew.core)).ptok - cost } :=
  (State.dieAt_setDie ..).trans (if_pos rfl)

theorem grantOldest_asked_met {s : State} (m : MOp) {cost : Nat} (hcost : cost ≤ (s.dieAt (dieOf s.crew.core)).ptok) :
    (asked s m cost).grantOldest (dieOf s.crew.core) = (paid s m cost).atWave s.crew.handle s.wave.idx takeGrant := by
  rw [State.grantOldest_met (by rw [dieAt_asked]) (by rw [dieAt_asked]; exact hcost), dieAt_asked]
  rfl

theorem paid_crew (s : State) (m : MOp) (cost : Nat) : (paid s m cost).crew = s.crew := by simp [paid, asked]

theorem paid_wave (s : State) (m : MOp) (cost : Nat) : (paid s m cost).wave = { s.wave with mreq := some (m, false), block := some .other } := by
  simp [paid, asked]

/-- An `mma` whose tokens are taken enters where it is due. -/
theorem takeGrant_enters {s : State} {m : MOp} (cost : Nat) (hkind : m.kind = .mma) (hstage : m.stage = .queued) (h : EntersAtOnce s m) :
    takeGrant (paid s m cost) = (queued (granted s m cost) m).advance m.yield := by
  obtain ⟨-, -, hdue, hroom, hvacant, -⟩ := h
  have hmops : ((paid s m cost).coreAt s.crew.core).mops = (s.coreAt s.crew.core).mops := by rw [coreAt_paid, if_pos rfl]
  have hlines : (granted s m cost).mstLines m = [] := by simp [State.mstLines, hkind]
  have hone : { m with stage := .queued } = m := by rw [← hstage]
  have hwave : requestDone (requesting (paid s m cost).wave m true) m =
      { s.wave with mreq := none, chkForce := false, block := some .other } := by
    rw [requestDone, if_pos hkind, paid_wave]
    rfl
  have henter := State.enterMop_eq (State.claimMst_none hlines) (by rw [granted, State.setWave_crew, paid_crew]; exact hvacant)
  rw [takeGrant_paid, State.seekEntry_enters (m := m)]
  case hreq => rfl
  case hwait => rw [State.setWave_wave, requesting, paid_wave]; exact fun hb => nomatch hb
  case hdue => exact (State.mopDue_congr m (by simp [paid_crew]) hmops).trans hdue
  case hroom => rw [State.setWave_crew, paid_crew]; exact (Core.room_congr hmops).trans hroom
  rw [State.setWave_wave, hwave]
  rw [hone] at henter
  exact congrArg (fun t => State.advance t m.yield) henter

/-- With the tokens the operation enters at once. -/
theorem grantOldest_asked_enters {s : State} {m : MOp} {cost : Nat} (hs : Live s) (hcost : cost ≤ (s.dieAt (dieOf s.crew.core)).ptok)
    (hkind : m.kind = .mma) (hstage : m.stage = .queued) (h : EntersAtOnce s m) :
    (asked s m cost).grantOldest (dieOf s.crew.core) = (queued (granted s m cost) m).advance m.yield := by
  have hwave := State.atWave_focus (s := paid s m cost) (by rw [Live, paid_wave]; exact hs) (takeGrant_enters cost hkind hstage h)
    (by simp [queued, granted]) (by simp [queued, granted, paid_wave]) (by simpa [Live, queued, granted] using hs)
  rw [paid_crew, paid_wave] at hwave
  exact (grantOldest_asked_met m hcost).trans hwave

end Sys2Proof.Proofs
end

section
/-! PROOF. O19: the accumulator words (R158 to R163). -/

namespace Sys2Proof.Proofs

open Sys2Proof.Machine Sys2Proof.Laws Sys2Proof.Stmt

/-! ## The core and the die of an `mma` that has entered -/

theorem coreAt_entered (s : State) (m : MOp) (cost : Nat) (y : Bool) : ((queued (granted s m cost) m).advance y).coreAt s.crew.core =
    { s.coreAt s.crew.core with mops := (s.coreAt s.crew.core).mops ++ [m], mmaCount := mmaCount s } := by
  rw [State.coreAt_advance, queued, State.coreAt_setCore, granted, State.setWave_crew, paid_crew, if_pos rfl, State.coreAt_setWave,
    coreAt_paid, if_pos rfl]

theorem dieAt_entered (s : State) (m : MOp) (cost : Nat) (y : Bool) : ((queued (granted s m cost) m).advance y).dieAt (dieOf s.crew.core) =
    { s.dieAt (dieOf s.crew.core) with requests := [], ptok := (s.dieAt (dieOf s.crew.core)).ptok - cost } := by
  have hdies : ((queued (granted s m cost) m).advance y).dies = (paid s m cost).dies := by simp [queued, granted]
  rw [State.dieAt, hdies]
  exact dieAt_paid s m cost

/-! ## The checks of the words -/

theorem State.withTileAddr_ok {s : State} {dest : Bool} {x : Word} {bytes : Nat} (h : TileOk s dest x bytes) (bad : Cause) (k : State) :
    s.withTileAddr dest x bytes bad k = k := by
  obtain ⟨hplace, halign⟩ := h
  cases dest with
  | true =>
    have hx : ¬ 2 ^ 56 ≤ x.toNat := Nat.not_le.2 hplace
    simp only [State.withTileAddr, if_true, if_neg hx, halign, ne_eq, not_true, if_false]
  | false =>
    obtain ⟨hlm, hbad⟩ := hplace
    have hx : ¬ 2 ^ 23 ≤ x.toNat := Nat.not_le.2 hlm
    simp only [State.withTileAddr, Bool.false_eq_true, if_false, if_neg hx, halign, ne_eq, not_true, hbad]

theorem State.withMiw_operand {s : State} {w0 : Word} (h : s.crew.naccs ≤ (miwOf w0).acc) (mma : Bool) (k : Miw → State) :
    s.withMiw w0 mma k = s.trap .operand 0#64 := if_pos h

/-- The request of a captured operation that enters at once: it stands in the queue as it was captured. -/
theorem State.issueMop_queued {s : State} {m : MOp} (h : EntersAtOnce s m) (hkind : m.kind ≠ .mma) (hstage : m.stage = .queued)
    (hlines : s.mstLines m = []) : s.issueMop m = (queued s m).advance m.yield := by
  have hone : { m with stage := .queued } = m := by rw [← hstage]
  obtain ⟨-, -, -, -, hvacant, -⟩ := id h
  rw [State.issueMop_enters h hkind, State.enterMop_eq (State.claimMst_none hlines) hvacant, hone]

/-- The same for an `mst` with lines to take. -/
theorem State.issueMop_owning {s : State} {m : MOp} (h : EntersAtOnce s m) (hkind : m.kind ≠ .mma) (hstage : m.stage = .queued)
    (hlines : s.mstLines m ≠ []) : s.issueMop m = (queued (claimed s m) (owning s m)).advance m.yield := by
  have hone : { owning s m with stage := .queued } = owning s m := by rw [← hstage]; rfl
  have hcrew : (claimed s m).crew = s.crew := by rw [claimed, claimLines_eq]
  obtain ⟨-, -, -, -, hvacant, -⟩ := id h
  rw [State.issueMop_enters h hkind,
    State.enterMop_eq (State.claimMst_some hlines) (by rw [hcrew]; exact hvacant), hone]

section
variable {s : State} (hs : Live s) (y : Bool) (d a b : Reg)
include hs

theorem exec_mzero_issues (hm : MiwOk s (s.getS d) false) :
    exec (.mzero y d) s = .next (s.issueMop (s.capture .mzero y (s.getS d) 0#64 0#64)) := by
  rw [exec_mzero, execMzero, State.onWave_live s _ hs, State.withMiw_ok hm]

theorem exec_mld_issues (hm : MiwOk s (s.getS d) false) (hepw : (epwOf (s.getS a)).okMld = true)
    (haddr : TileOk s (epwOf (s.getS a)).dest (s.getS b)
      (127 * (if (epwOf (s.getS a)).stride = 0 then 512 else (epwOf (s.getS a)).stride) + 512))
    (hstores : (epwOf (s.getS a)).dest = true ∨ s.wave.lmStoresLeft = false) :
    exec (.mld y d a b) s = .next (s.issueMop (s.capture .mld y (s.getS d) (s.getS a) (s.getS b))) := by
  have hwaits : (!(epwOf (s.getS a)).dest && s.wave.lmStoresLeft) = false := by obtain h | h := hstores <;> simp [h]
  rw [exec_mld, execMld, State.onWave_live s _ hs]
  simp only [State.withMiw_ok hm, hepw, State.withTileAddr_ok haddr, hwaits, Bool.not_true, Bool.false_eq_true, if_false]

theorem exec_mst_issues (hm : MiwOk s (s.getS d) false) (hepw : (epwOf (s.getS a)).okMst s.wave.nf.toList = true)
    (haddr : TileOk s (epwOf (s.getS a)).dest (s.getS b) (128 * (epwOf (s.getS a)).rowStride s.wave.nf.toList))
    (hvecs : s.crew.lmBad (epwOf (s.getS a)).voff (epwOf (s.getS a)).vecBytes = none)
    (hread : s.lmUnreadable s.crew.core (epwOf (s.getS a)).voff (epwOf (s.getS a)).vecBytes = none)
    (hstores : (epwOf (s.getS a)).vecBytes = 0 ∨ s.wave.lmStoresLeft = false) :
    exec (.mst y d a b) s = .next (s.issueMop (mstOp s y (s.getS d) (s.getS a) (s.getS b))) := by
  have hwaits : ((epwOf (s.getS a)).vecBytes != 0 && s.wave.lmStoresLeft) = false := by obtain h | h := hstores <;> simp [h]
  rw [exec_mst, execMst, State.onWave_live s _ hs]
  simp only [State.withMiw_ok hm, hepw, State.withTileAddr_ok haddr, hvecs, hread, hwaits, Bool.not_true, Bool.false_eq_true, if_false]
  rfl

/-- An accumulator that the crew does not have (R158). -/
theorem exec_operand_of_naccs (h : s.crew.naccs ≤ (miwOf (s.getS d)).acc) :
    exec (.mma y d a b) s = .next (s.trap .operand 0#64) ∧ exec (.mzero y d) s = .next (s.trap .operand 0#64) ∧
    exec (.mst y d a b) s = .next (s.trap .operand 0#64) ∧ exec (.mld y d a b) s = .next (s.trap .operand 0#64) ∧
    exec (.mwait y d) s = .next (s.trap .operand 0#64) := by
  have hword (mma : Bool) (k : State → Miw → State) :
      s.onWave (fun s => s.withMiw (s.getS d) mma (k s)) = .next (s.trap .operand 0#64) := by
    rw [State.onWave_live s _ hs, State.withMiw_operand h]
  rw [exec_mma, execMma, exec_mzero, execMzero, exec_mst, execMst, exec_mld, execMld, exec_mwait, execMwait]
  exact ⟨hword true _, hword false _, hword false _, hword false _, hword false _⟩

end

/-- Settles O19: each word's request is made as its checks pass; it is met where the operation is due and, of an `mma`, the pool holds its
tokens. -/
theorem accumulatorWordsEnterTheQueue : Obligations.AccumulatorWordsEnterTheQueue := by
  refine ⟨?mzero, ?mld, ?mst, ?mma, ?short, fun y d a b s hs h => exec_operand_of_naccs hs y d a b h⟩
  case mzero =>
    intro y d s hs hm henters
    exact entersQueue_of_exec henters.1 ((exec_mzero_issues hs y d hm).trans
      (congrArg _ (State.issueMop_queued henters (fun h => nomatch h) rfl rfl)))
  case mld =>
    intro y d a b s hs hm hepw haddr hstores henters
    exact entersQueue_of_exec henters.1 ((exec_mld_issues hs y d a b hm hepw haddr hstores).trans
      (congrArg _ (State.issueMop_queued henters (fun h => nomatch h) rfl rfl)))
  case mst =>
    intro y d a b s hs hm hepw haddr hvecs hread hstores henters
    have hissue := exec_mst_issues hs y d a b hm hepw haddr hvecs hread hstores
    refine ⟨fun hnone => ?_, fun hsome => ?_⟩
    · exact entersQueue_of_exec henters.1 (hissue.trans (congrArg _ (State.issueMop_queued henters (fun h => nomatch h) rfl hnone)))
    · exact entersQueueOwning_of_exec henters.1 (hissue.trans (congrArg _ (State.issueMop_owning henters (fun h => nomatch h) rfl hsome)))
  case mma =>
    intro y d a b s f hs hm henters hnone hcost
    have hexec := (exec_mma_asks hs y d a b hm henters.1 hnone).trans
      (congrArg _ (grantOldest_asked_enters hs hcost rfl rfl henters))
    refine ⟨_, hexec, ?mops, ?count, ?tokens, ?requests, ?crew, ?mreq, ?force, fun r => ?scalars, ⟨?vregs, ?freed⟩, ?goes, fun x => ?bytes⟩
    case mops => rw [coreAt_entered]
    case count => rw [coreAt_entered]
    case tokens => rw [dieAt_entered]; exact Nat.sub_add_cancel hcost
    case requests => rw [dieAt_entered]
    case crew => simp [queued, granted, paid_crew]
    case mreq => simp [queued, granted]
    case force => simp [queued, granted]
    case scalars => simp [State.getS, Wave.getS, queued, granted]
    case vregs => simp [queued, granted]
    case freed => simp [queued, granted]
    case goes => simp [GoesOn, State.advance, queued, granted, mmaOp, State.capture]
    case bytes => exact State.byteAt_of_mem (by simp [queued, granted, paid, asked]) x
  case short =>
    intro y d a b s f hs hm hreq hnone hcost
    refine ⟨_, (exec_mma_asks hs y d a b hm hreq hnone).trans (congrArg _ (grantOldest_asked_short hcost)), ?mreq, ?requests, ?ptok, ?pc, ?block,
      fun x => ?bytes⟩
    case mreq => rfl
    case requests => rw [dieAt_asked]; rfl
    case ptok => rw [dieAt_asked]
    case pc => rfl
    case block => rfl
    case bytes => exact State.byteAt_of_mem (by simp [asked]) x

end Sys2Proof.Proofs
end

section
/-! SUPPORT. The accumulators of a crew (R35), and the operations of a core where none waits for a queue entry (R148): what an update leaves
to be read. -/

namespace Sys2Proof.Proofs

open Sys2Proof.Machine Sys2Proof.Laws Sys2Proof.Stmt

/-! ## Crews -/

theorem State.focusCrew_handle (s : State) : s.focusCrew.handle = s.crew.handle := by
  unfold State.focusCrew
  split <;> rfl

theorem State.focusCrew_acc (s : State) (n : Nat) : s.focusCrew.acc n = s.crew.acc n := by
  unfold State.focusCrew
  split <;> rfl

theorem State.focusCrew_state (s : State) : s.focusCrew.state = s.crew.state := by
  unfold State.focusCrew
  split <;> rfl

/-- The crew in focus is found under its handle. -/
theorem State.crewAt_focus {s : State} (h : s.crew.handle ≠ 0) : s.crewAt s.crew.handle = some s.focusCrew := by
  have hlow : (s.crews.filter (fun c => c.handle < s.crew.handle)).find? (fun c => c.handle = s.crew.handle) = none := by
    rw [List.find?_eq_none]
    intro c hc
    have hlt := (List.mem_filter.1 hc).2
    simp only [decide_eq_true_eq] at hlt ⊢
    omega
  rw [State.crewAt, State.allCrews, if_neg h, List.append_assoc, List.find?_append, hlow, Option.none_or, List.find?_append]
  simp [State.focusCrew_handle]

/-- A search that passes a filter whatever it looks for. -/
theorem find?_filter_of_imp {α : Type} {p q : α → Bool} (h : ∀ x, q x = true → p x = true) (l : List α) : (l.filter p).find? q = l.find? q := by
  rw [List.find?_filter]
  congr 1
  funext x
  have hx := h x
  cases hq : q x <;> simp_all

/-- A search behind a filter that passes nothing it looks for. -/
theorem find?_filter_of_not {α : Type} {p q : α → Bool} (h : ∀ x, q x = true → ¬ p x = true) (l : List α) : (l.filter p).find? q = none := by
  rw [List.find?_eq_none]
  exact fun x hx hq => h x hq (List.mem_filter.1 hx).2

/-- Any other crew is found among the others. -/
theorem State.crewAt_other {s : State} {h : Nat} (hne : s.crew.handle ≠ h) : s.crewAt h = s.crews.find? (fun c => c.handle = h) := by
  rw [State.crewAt, State.allCrews]
  split
  · rfl
  · have hfocus : ([s.focusCrew] : List Crew).find? (fun c => c.handle = h) = none := by simp [State.focusCrew_handle, hne]
    rw [List.find?_append, List.find?_append, hfocus, Option.or_none]
    obtain hlt | hgt := Nat.lt_or_gt_of_ne hne
    · rw [find?_filter_of_not (fun c hc => by simp only [decide_eq_true_eq] at hc ⊢; omega),
        find?_filter_of_imp (fun c hc => by simp only [decide_eq_true_eq] at hc ⊢; omega), Option.none_or]
    · rw [find?_filter_of_imp (fun c hc => by simp only [decide_eq_true_eq] at hc ⊢; omega),
        find?_filter_of_not (fun c hc => by simp only [decide_eq_true_eq] at hc ⊢; omega), Option.or_none]

/-- The crew with a handle, without the wave in focus. -/
def crewOf (s : State) (h : Nat) : Option Crew := if s.crew.handle = h then some s.crew else s.crews.find? (fun c => c.handle = h)

theorem State.accOf_eq (s : State) {h : Nat} (h0 : h ≠ 0) (n : Nat) :
    s.accOf h n = match crewOf s h with | some c => c.acc n | none => Acc.fresh := by
  unfold State.accOf crewOf
  by_cases he : s.crew.handle = h
  · subst he
    rw [State.crewAt_focus h0, if_pos rfl]
    exact State.focusCrew_acc s n
  · rw [State.crewAt_other he, if_neg he] <;> rfl

theorem State.accOf_focus {s : State} {h : Nat} (h0 : h ≠ 0) (he : s.crew.handle = h) (n : Nat) : s.accOf h n = s.crew.acc n := by
  rw [State.accOf_eq s h0, crewOf, if_pos he]

theorem crewOf_ne_none {s : State} {h : Nat} (hc : s.crewAt h ≠ none) : crewOf s h ≠ none := by
  unfold crewOf
  by_cases he : s.crew.handle = h
  · simp [he]
  · rwa [if_neg he, ← State.crewAt_other he]

theorem crewOf_updCrew (s : State) (h : Nat) {f : Crew → Crew} (hf : ∀ c, (f c).handle = c.handle) :
    crewOf (s.updCrew h f) h = (crewOf s h).map f := by
  unfold crewOf State.updCrew
  by_cases he : s.crew.handle = h
  · simp [he, hf]
  · have hsame : (fun c : Crew => decide (c.handle = h)) ∘ (fun c => if c.handle = h then f c else c) = fun c => decide (c.handle = h) := by
      funext c
      by_cases hc : c.handle = h <;> simp [hc, hf]
    simp only [if_neg he, List.find?_map, hsame]
    refine Option.map_congr (fun c hc => ?_)
    have hc' := List.find?_some hc
    rw [if_pos (by simpa using hc')]

/-- The accumulators of a crew depend on the crews alone. -/
theorem State.accOf_congr {s t : State} {h : Nat} (h0 : h ≠ 0) (hcrew : t.crew = s.crew) (hcrews : t.crews = s.crews) (n : Nat) :
    t.accOf h n = s.accOf h n := by
  rw [State.accOf_eq t h0, State.accOf_eq s h0, crewOf, crewOf, hcrew, hcrews]

/-- A change of a crew that leaves its handle and its accumulators. -/
theorem State.accOf_updCrew {s : State} {h : Nat} (h0 : h ≠ 0) {f : Crew → Crew} (hf : ∀ c, (f c).handle = c.handle)
    (hacc : ∀ c n, (f c).acc n = c.acc n) (n : Nat) : (s.updCrew h f).accOf h n = s.accOf h n := by
  rw [State.accOf_eq _ h0, State.accOf_eq s h0, crewOf_updCrew s h hf]
  cases crewOf s h with
  | none => rfl
  | some c => exact hacc c n

theorem State.updAcc_focus {s : State} {h : Nat} (he : s.crew.handle = h) (n : Nat) (f : Acc → Acc) :
    s.updAcc h n f = { s with crew := s.crew.setAcc n (f (s.crew.acc n)) } := if_pos he

/-- An accumulator that was changed, and any other one of the crew. -/
theorem State.accOf_updAcc {s : State} {h : Nat} (h0 : h ≠ 0) (hpresent : crewOf s h ≠ none) (n k : Nat) (f : Acc → Acc) :
    (s.updAcc h n f).accOf h k = if k = n then f (s.accOf h n) else s.accOf h k := by
  rw [State.updAcc, State.accOf_eq _ h0, State.accOf_eq s h0, State.accOf_eq s h0,
    crewOf_updCrew s h (f := fun c => c.setAcc n (f (c.acc n))) (fun _ => rfl)]
  cases hcrew : crewOf s h with
  | none => exact absurd hcrew hpresent
  | some c => exact Map.find_put ..

/-- A crew stays when an accumulator of it changes. -/
theorem crewOf_updAcc_ne_none {s : State} {h : Nat} (hc : crewOf s h ≠ none) (n : Nat) (f : Acc → Acc) : crewOf (s.updAcc h n f) h ≠ none := by
  rw [State.updAcc, crewOf_updCrew s h (f := fun c => c.setAcc n (f (c.acc n))) (fun _ => rfl)]
  simpa using hc

theorem State.accOf_mapWave {s : State} {h : Nat} (h0 : h ≠ 0) (i : Nat) (f : Wave → Wave) (n : Nat) :
    (s.mapWave h i f).accOf h n = s.accOf h n := by
  unfold State.mapWave
  split
  · exact State.accOf_congr (s := s) (t := { s with wave := f s.wave }) h0 rfl rfl n
  · exact State.accOf_updCrew (s := s) h0 (f := fun c => { c with others := c.others.map (fun w => if w.idx = i then f w else w) }) (fun _ => rfl)
      (fun _ _ => rfl) n

/-- What a change of a crew leaves. -/
theorem State.updCrew_keeps (s : State) (h : Nat) (f : Crew → Crew) :
    (s.updCrew h f).cores = s.cores ∧ (s.updCrew h f).mem = s.mem ∧ (s.updCrew h f).lines = s.lines ∧ (s.updCrew h f).lm = s.lm ∧
    (s.updCrew h f).wave = s.wave := by
  unfold State.updCrew
  split <;> simp

theorem State.updAcc_keeps (s : State) (h n : Nat) (f : Acc → Acc) :
    (s.updAcc h n f).cores = s.cores ∧ (s.updAcc h n f).mem = s.mem ∧ (s.updAcc h n f).lines = s.lines ∧ (s.updAcc h n f).lm = s.lm ∧
    (s.updAcc h n f).wave = s.wave := State.updCrew_keeps ..

theorem State.raiseEngine_keeps (s : State) (h i w : Nat) :
    (s.raiseEngine h i w).cores = s.cores ∧ (s.raiseEngine h i w).mem = s.mem ∧ (s.raiseEngine h i w).lines = s.lines ∧
    (s.raiseEngine h i w).lm = s.lm := by
  unfold State.raiseEngine State.mapWave
  split
  · simp
  · simp [State.updCrew_keeps]

/-! ## Operations of a core -/

/-- No operation has been released and waits for a queue entry. -/
def NoneWaits (ms : List MOp) : Prop := ∀ m ∈ ms, m.stage ≠ .waiting

theorem enqueueFirst_of_noneWaits {ms : List MOp} (h : NoneWaits ms) : enqueueFirst ms = ms := by
  induction ms with
  | nil => rfl
  | cons m rest ih =>
    have hm : (m.stage == .waiting) = false := by simpa using h m (by simp)
    rw [enqueueFirst, hm, ih (fun q hq => h q (by simp [hq]))]
    rfl

theorem Core.refill_of_noneWaits {k : Core} (h : NoneWaits k.mops) (fuel : Nat) : k.refill fuel = k := by
  induction fuel with
  | zero => rfl
  | succ fuel ih =>
    rw [Core.refill, enqueueFirst_of_noneWaits h]
    split
    · rfl
    · exact ih

theorem State.coreAt_updCore (s : State) (n k : Nat) (f : Core → Core) :
    (s.updCore n f).coreAt k = if k = n then f (s.coreAt n) else s.coreAt k := State.coreAt_setCore ..

theorem State.coreAt_refill {s : State} {n : Nat} (h : NoneWaits (s.coreAt n).mops) (fuel : Nat) :
    (s.refill n fuel).coreAt n = s.coreAt n := by
  rw [State.refill, State.coreAt_updCore, if_pos rfl, Core.refill_of_noneWaits h]

theorem State.coreAt_congr {s t : State} (h : t.cores = s.cores) (n : Nat) : t.coreAt n = s.coreAt n := by
  rw [State.coreAt, State.coreAt, h]

/-- An operation that leaves its core, where none waits for its entry. -/
theorem State.coreAt_dropMop {s : State} {n : Nat} (h : NoneWaits (s.coreAt n).mops) (m : MOp) :
    (s.dropMop n m).coreAt n = { s.coreAt n with mops := (s.coreAt n).mops.filter (fun q => q != m) } := by
  have hcore : (s.updCore n (fun k => { k with mops := k.mops.filter (fun q => q != m) })).coreAt n =
      { s.coreAt n with mops := (s.coreAt n).mops.filter (fun q => q != m) } := by rw [State.coreAt_updCore, if_pos rfl]
  have hwaits : NoneWaits (s.coreAt n |>.mops.filter (fun q => q != m)) := fun q hq => h q (List.mem_of_mem_filter hq)
  rw [State.dropMop, State.coreAt_refill (by rw [hcore]; exact hwaits), hcore]

theorem State.dropMop_keeps (s : State) (n : Nat) (m : MOp) :
    (s.dropMop n m).crew = s.crew ∧ (s.dropMop n m).crews = s.crews ∧ (s.dropMop n m).mem = s.mem ∧ (s.dropMop n m).lines = s.lines ∧
    (s.dropMop n m).lm = s.lm := by
  simp [State.dropMop, State.refill, State.updCore]

theorem State.putMop_keeps (s : State) (n : Nat) (m q : MOp) :
    (s.putMop n m q).crew = s.crew ∧ (s.putMop n m q).crews = s.crews ∧ (s.putMop n m q).mem = s.mem ∧ (s.putMop n m q).lines = s.lines ∧
    (s.putMop n m q).lm = s.lm := by
  simp [State.putMop, State.updCore]

theorem State.coreAt_putMop (s : State) (n : Nat) (m q : MOp) :
    (s.putMop n m q).coreAt n = { s.coreAt n with mops := (s.coreAt n).mops.map (fun p => if p = m then q else p) } := by
  rw [State.putMop, State.coreAt_updCore, if_pos rfl]

/-- The operation that a step of the engine names. -/
theorem Core.mop?_some {k : Core} {h a : Nat} {p : MOp → Bool} {m : MOp} (hm : k.mop? h a p = some m) :
    m ∈ k.mops ∧ m.crew = h ∧ m.acc = a ∧ p m = true := by
  have hp := List.find?_some hm
  simp only [Bool.and_eq_true, beq_iff_eq] at hp
  exact ⟨List.mem_of_find?_eq_some hm, hp.1.1, hp.1.2, hp.2⟩

end Sys2Proof.Proofs
end

section
/-! SUPPORT. How an accumulator operation ends (R149): the version advances, the operation leaves its core, and its loads and LM events leave
the crews and the cores as they are. -/

namespace Sys2Proof.Proofs

open Sys2Proof.Machine Sys2Proof.Laws Sys2Proof.Stmt

/-! ## The operation that runs -/

/-- What the statement says of an operation in execution, with the crew found by its handle. -/
structure Running (s : State) (core h a : Nat) (kind : MKind) (m : MOp) : Prop where
  crew : h ≠ 0
  present : crewOf s h ≠ none
  found : (s.coreAt core).mop? h a (fun q => q.stage == .running && q.kind == kind) = some m
  noneWaits : NoneWaits (s.coreAt core).mops

theorem running_of_runs {s : State} {core h a : Nat} {kind : MKind} {m : MOp} (hr : Runs s core h a kind m) : Running s core h a kind m := by
  obtain ⟨h0, hcrew, hfound, hwaits⟩ := hr
  exact ⟨h0, crewOf_ne_none hcrew, hfound, hwaits⟩

section
variable {s : State} {core h a : Nat} {kind : MKind} {m : MOp} (hr : Running s core h a kind m)
include hr

theorem Running.crew_eq : m.crew = h := (Core.mop?_some hr.found).2.1

theorem Running.acc_eq : m.acc = a := (Core.mop?_some hr.found).2.2.1

theorem Running.stage_eq : m.stage = .running := by
  have hp := (Core.mop?_some hr.found).2.2.2
  simp only [Bool.and_eq_true, beq_iff_eq] at hp
  exact hp.1

end

/-! ## The version (R57, R149) -/

/-- An accumulator whose version has advanced, with the clock of the writes. -/
def advanced (v : Acc) (p : Nat) : Acc := { v with ver := v.ver + 1#16, clock := max v.clock p }

theorem crewOf_congr {s t : State} (hcrew : t.crew = s.crew) (hcrews : t.crews = s.crews) (h : Nat) : crewOf t h = crewOf s h := by
  rw [crewOf, crewOf, hcrew, hcrews]

theorem State.accOf_bump {s : State} {h : Nat} (h0 : h ≠ 0) (hc : crewOf s h ≠ none) (a p k : Nat) :
    (s.bump h a p).accOf h k = if k = a then advanced (s.accOf h a) p else s.accOf h k := State.accOf_updAcc h0 hc ..

theorem State.accOf_dropMop {s : State} {h : Nat} (h0 : h ≠ 0) (core : Nat) (m : MOp) (k : Nat) :
    (s.dropMop core m).accOf h k = s.accOf h k := by
  obtain ⟨hcrew, hcrews, -⟩ := State.dropMop_keeps s core m
  exact State.accOf_congr h0 hcrew hcrews k

theorem crewOf_dropMop (s : State) (core : Nat) (m : MOp) (h : Nat) : crewOf (s.dropMop core m) h = crewOf s h := by
  obtain ⟨hcrew, hcrews, -⟩ := State.dropMop_keeps s core m
  exact crewOf_congr hcrew hcrews h

/-! ## The ways an operation ends -/

/-- A change of the accumulator with which the version advances. -/
def replaced (s : State) (h a : Nat) (f : Acc → Acc) (p : Nat) : State := (s.updAcc h a f).bump h a p

/-- The same once the operation has left its core. -/
def completed (s : State) (core h a : Nat) (f : Acc → Acc) (m : MOp) : State := ((s.updAcc h a f).dropMop core m).bump h a m.pts

section
variable {s : State} {h : Nat} (h0 : h ≠ 0) (hc : crewOf s h ≠ none) (core a : Nat) (f : Acc → Acc)
include h0 hc

theorem accOf_replaced (p k : Nat) : (replaced s h a f p).accOf h k = if k = a then advanced (f (s.accOf h a)) p else s.accOf h k := by
  rw [replaced, State.accOf_bump h0 (crewOf_updAcc_ne_none hc a f), State.accOf_updAcc h0 hc, State.accOf_updAcc h0 hc, if_pos rfl]
  split <;> rfl

theorem accOf_completed (m : MOp) (k : Nat) :
    (completed s core h a f m).accOf h k = if k = a then advanced (f (s.accOf h a)) m.pts else s.accOf h k := by
  rw [completed, State.accOf_bump h0 (by rw [crewOf_dropMop]; exact crewOf_updAcc_ne_none hc a f), State.accOf_dropMop h0, State.accOf_dropMop h0,
    State.accOf_updAcc h0 hc, State.accOf_updAcc h0 hc, if_pos rfl]
  split <;> rfl

end

theorem State.bump_keeps (s : State) (h a p : Nat) :
    (s.bump h a p).cores = s.cores ∧ (s.bump h a p).mem = s.mem ∧ (s.bump h a p).lines = s.lines ∧ (s.bump h a p).lm = s.lm ∧
    (s.bump h a p).wave = s.wave := State.updAcc_keeps ..

theorem replaced_keeps (s : State) (h a : Nat) (f : Acc → Acc) (p : Nat) :
    (replaced s h a f p).cores = s.cores ∧ (replaced s h a f p).mem = s.mem := by
  simp [replaced, State.bump, State.updAcc_keeps]

theorem completed_mem (s : State) (core h a : Nat) (f : Acc → Acc) (m : MOp) : (completed s core h a f m).mem = s.mem := by
  rw [completed, (State.bump_keeps ..).2.1, (State.dropMop_keeps ..).2.2.1, (State.updAcc_keeps ..).2.1]

theorem mops_completed {s : State} {core : Nat} (hw : NoneWaits (s.coreAt core).mops) (h a : Nat) (f : Acc → Acc) (m : MOp) :
    ((completed s core h a f m).coreAt core).mops = (s.coreAt core).mops.filter (fun q => q != m) := by
  have hcore : (s.updAcc h a f).coreAt core = s.coreAt core := State.coreAt_congr (State.updAcc_keeps ..).1 core
  rw [completed, State.coreAt_congr (State.bump_keeps ..).1,
    State.coreAt_dropMop (by rw [hcore]; exact hw), hcore]

theorem memoryKept_of_mem {s t : State} (h : t.mem = s.mem) : MemoryKept s t := fun b => by rw [State.byteAt, State.byteAt, h]

/-! ## The reads of an engine (R180, R190) -/

theorem State.recallLine_unwritten (s : State) (core : Option Nat) (line : Nat) : unwritten (s.recallLine core line) = unwritten s := by
  unfold State.recallLine
  split
  · rfl
  · exact State.setLine_unwritten ..

theorem State.leaseLine_unwritten (s : State) (p line : Nat) : unwritten (s.leaseLine p line) = unwritten s := State.setLine_unwritten ..

theorem State.engineLoads_unwritten (s : State) (core ctx p va n : Nat) : unwritten (s.engineLoads core ctx p va n).1 = unwritten s := by
  unfold State.engineLoads
  refine foldl_keeps (fun r : State × Nat => unwritten r.1) _ (fun r k => ?_) _ (s, p)
  split
  · simp only [State.leaseLine_unwritten, State.recallLine_unwritten, State.touch_unwritten]
  · rfl

theorem State.lmTouch_unwritten (s : State) (core off n : Nat) (write : Bool) : unwritten (s.lmTouch core off n write) = unwritten s :=
  State.unwritten_of_noRegions (State.lmTouch_noRegions ..)

/-- The spans of A that an `mma` reads: its planes and its exponents (R93, R94). -/
def operandSpans (g : MmaArgs) : List (Nat × Nat) := [(0, (g.ta.prec + 1) * 16 * g.K), (256 * g.ta.scl, 256 * (g.K / g.L))]

/-- The engine's reads of spans of A. -/
def touchSpans (s : State) (core : Nat) (m : MOp) : State × Nat :=
  (operandSpans m.args).foldl (fun (r : State × Nat) e =>
    if m.args.ta.rem then r.1.engineLoads core (s.ctxOf m.crew) r.2 (m.args.ta.base m.mrwin + e.1) e.2
    else (r.1.lmTouch core (m.args.ta.addr + e.1) e.2 false, r.2)) (s, m.pts)

theorem State.touchOperands_eq (s : State) (core : Nat) (m : MOp) : s.touchOperands core m =
    if m.args.tb.rem then (touchSpans s core m).1.engineLoads core (s.ctxOf m.crew) (touchSpans s core m).2 (m.args.tb.base m.mrwin)
      (m.args.K * m.args.tb.rowStride m.args.f)
    else ((touchSpans s core m).1.lmTouch core m.args.tb.addr (m.args.K * m.args.tb.rowStride m.args.f) false, (touchSpans s core m).2) := rfl

theorem touchSpans_unwritten (s : State) (core : Nat) (m : MOp) : unwritten (touchSpans s core m).1 = unwritten s := by
  refine foldl_keeps (fun r : State × Nat => unwritten r.1) _ (fun r e => ?_) _ (s, m.pts)
  split
  · exact State.engineLoads_unwritten ..
  · exact State.lmTouch_unwritten ..

theorem State.touchOperands_unwritten (s : State) (core : Nat) (m : MOp) : unwritten (s.touchOperands core m).1 = unwritten s := by
  rw [State.touchOperands_eq]
  split
  · rw [State.engineLoads_unwritten, touchSpans_unwritten]
  · exact (State.lmTouch_unwritten ..).trans (touchSpans_unwritten ..)

/-- Operands in LM are read without a change of memory. -/
theorem State.touchOperands_mem (s : State) (core : Nat) {m : MOp} (ha : m.args.ta.rem = false) (hb : m.args.tb.rem = false) :
    (s.touchOperands core m).1.mem = s.mem := by
  have hspans : (touchSpans s core m).1.mem = s.mem := by
    refine foldl_keeps (fun r : State × Nat => r.1.mem) _ (fun r e => ?_) _ (s, m.pts)
    rw [ha]
    exact State.lmTouch_mem ..
  rw [State.touchOperands_eq, hb]
  exact (State.lmTouch_mem ..).trans hspans

/-- The engine's reads of an `mld` source (R162). -/
def touchSource (s : State) (core : Nat) (m : MOp) (crew : Nat) : State × Nat :=
  (List.range 128).foldl (fun (q : State × Nat) r =>
    if (epwOf m.w1).dest then q.1.engineLoads core (q.1.ctxOf crew) q.2 (mldAddr m r 0) 512
    else (q.1.lmTouch core (mldAddr m r 0) 512 false, q.2)) (s, m.pts)

theorem touchSource_unwritten (s : State) (core : Nat) (m : MOp) (crew : Nat) : unwritten (touchSource s core m crew).1 = unwritten s := by
  refine foldl_keeps (fun r : State × Nat => unwritten r.1) _ (fun r e => ?_) _ (s, m.pts)
  split
  · exact State.engineLoads_unwritten ..
  · exact State.lmTouch_unwritten ..

theorem touchSource_mem (s : State) (core : Nat) {m : MOp} (crew : Nat) (hlm : (epwOf m.w1).dest = false) :
    (touchSource s core m crew).1.mem = s.mem := by
  refine foldl_keeps (fun r : State × Nat => r.1.mem) _ (fun r e => ?_) _ (s, m.pts)
  rw [hlm]
  exact State.lmTouch_mem ..

/-- An operation still runs in a state that differs in what a write changes. -/
theorem Running.of_unwritten {s t : State} {core h a : Nat} {kind : MKind} {m : MOp} (hr : Running s core h a kind m)
    (hu : unwritten t = unwritten s) : Running t core h a kind m := by
  have hcore : t.coreAt core = s.coreAt core := State.coreAt_congr (congrArg State.cores hu) core
  have hcrew : crewOf t h = crewOf s h := crewOf_congr (congrArg State.crew hu) (congrArg State.crews hu) h
  exact ⟨hr.crew, by rw [hcrew]; exact hr.present, by rw [hcore]; exact hr.found, by rw [hcore]; exact hr.noneWaits⟩

theorem accOf_of_unwritten {s t : State} {h : Nat} (h0 : h ≠ 0) (hu : unwritten t = unwritten s) (k : Nat) : t.accOf h k = s.accOf h k :=
  State.accOf_congr h0 (congrArg State.crew hu) (congrArg State.crews hu) k

theorem coreAt_of_unwritten {s t : State} (hu : unwritten t = unwritten s) (core : Nat) : t.coreAt core = s.coreAt core :=
  State.coreAt_congr (congrArg State.cores hu) core

/-! ## Tiles (R35) -/

/-- The listed keys hold their values, whether or not the +0 ones are left out. -/
theorem find_tileEntries (g : Nat → Lane) (l : List Nat) (k : Nat) :
    Map.find tileZero ((l.map (fun k => (k, g k))).filter (fun e => e.2 != 0#32)) k = if k ∈ l then g k else 0#32 := by
  induction l with
  | nil => rfl
  | cons j l ih =>
    by_cases hzero : g j = 0#32
    · rw [List.map_cons, List.filter_cons_of_neg (by simp [hzero]), ih]
      by_cases hj : k = j
      · subst hj
        simp [hzero]
      · simp [hj]
    · rw [List.map_cons, List.filter_cons_of_pos (by simp [hzero]), Map.find]
      by_cases hj : j = k
      · subst hj
        simp
      · simp [hj, Ne.symm hj, ih]

theorem tileAt_mkTile (f : Nat → Nat → Lane) {r n : Nat} (hr : r < 128) (hn : n < 128) : tileAt (mkTile f) r n = f r n := by
  have hin : 128 * r + n ∈ List.range 16384 := List.mem_range.2 (by omega)
  rw [tileAt, mkTile, find_tileEntries (fun k => f (k / 128) (k % 128)), if_pos hin]
  congr 1 <;> omega

end Sys2Proof.Proofs
end

section
/-! SUPPORT. The end of `mzero`, of `mld` and of an `mst` whose rows are stored (R149, R161 to R163, R190). -/

namespace Sys2Proof.Proofs

open Sys2Proof.Machine Sys2Proof.Laws Sys2Proof.Stmt

/-! ## `mzero` (R161) -/

/-- An accumulator whose tile is replaced is no longer SUSPECT (R156). -/
def withTile (tile : Map Lane) (v : Acc) : Acc := { v with tile := tile, suspect := false }

theorem exec_mzeroComplete_running {s : State} {core h a : Nat} {m : MOp} (hr : Running s core h a .mzero m) :
    exec (.mzeroComplete core h a) s = .next (completed s core h a (withTile []) m) := by
  rw [exec_mzeroComplete, execMzeroComplete, hr.found]
  rfl

theorem mzeroComplete_ends {s : State} {core h a : Nat} {m : MOp} (hr : Running s core h a .mzero m) :
    ∃ t, exec (.mzeroComplete core h a) s = .next t ∧ Leaves s t core m ∧ MemoryKept s t ∧
      AccBecomes s t h a { s.accOf h a with tile := [], suspect := false, ver := (s.accOf h a).ver + 1#16, clock := max (s.accOf h a).clock m.pts } := by
  have hacc := accOf_completed hr.crew hr.present core a (withTile []) m
  exact ⟨_, exec_mzeroComplete_running hr, mops_completed hr.noneWaits .., memoryKept_of_mem (completed_mem ..),
    by rw [hacc, if_pos rfl]; rfl, fun k hk => by rw [hacc, if_neg hk]⟩

/-! ## `mld` (R162) -/

/-- The byte of an `mld` source that is read, or +0. -/
def sourceByte (s : State) (core : Nat) (m : MOp) (r c : Nat) : Byte := match s.mldByte core m r c with | .ok b => b | .error _ => 0#8

/-- The tile that an `mld` loads. -/
def loadedTile (s : State) (core : Nat) (m : MOp) : Map Lane :=
  mkTile (fun r n => BitVec.ofNat 32 (ofBytesLE ((List.range 4).map (fun k => sourceByte s core m r (4 * n + k)))))

/-- A source of which every byte can be read. -/
theorem State.mldFault_none {s : State} {core : Nat} {m : MOp} {b : Nat → Nat → Byte}
    (hb : ∀ r k, r < 128 → k < 512 → s.mldByte core m r k = .ok (b r k)) : s.mldFault core m = none := by
  unfold State.mldFault
  rw [List.findSome?_eq_none_iff]
  intro r hr
  rw [List.findSome?_eq_none_iff]
  intro c hc
  rw [hb r c (List.mem_range.1 hr) (List.mem_range.1 hc)]

/-- The state in which an `mld` has loaded its tile. -/
def mldDone (s : State) (core h a : Nat) (m : MOp) : State :=
  completed (touchSource s core m h).1 core h a (withTile (loadedTile s core m)) m

theorem exec_mldComplete_running {s : State} {core h a : Nat} {m : MOp} (hr : Running s core h a .mld m) (hf : s.mldFault core m = none) :
    exec (.mldComplete core h a) s = .next (mldDone s core h a m) := by
  rw [exec_mldComplete, execMldComplete, hr.found]
  simp only [hf, Option.isSome_none, Bool.false_eq_true, if_false]
  rfl

/-- Four bytes as one lane, lowest address first (R5). -/
theorem ofNat_ofBytesLE_four (b0 b1 b2 b3 : Byte) : BitVec.ofNat 32 (ofBytesLE [b0, b1, b2, b3]) = b3 ++ b2 ++ b1 ++ b0 := by
  apply BitVec.eq_of_toNat_eq
  have h0 := b0.isLt
  have h1 := b1.isLt
  have h2 := b2.isLt
  have h3 := b3.isLt
  simp only [ofBytesLE, List.foldr_cons, List.foldr_nil, BitVec.toNat_ofNat, BitVec.toNat_append, ← Nat.shiftLeft_add_eq_or_of_lt h0,
    ← Nat.shiftLeft_add_eq_or_of_lt h1, ← Nat.shiftLeft_add_eq_or_of_lt h2]
  omega

theorem tileAt_loadedTile {s : State} {core : Nat} {m : MOp} {b : Nat → Nat → Byte}
    (hb : ∀ r k, r < 128 → k < 512 → s.mldByte core m r k = .ok (b r k)) {r n : Nat} (hr : r < 128) (hn : n < 128) :
    tileAt (loadedTile s core m) r n = b r (4 * n + 3) ++ b r (4 * n + 2) ++ b r (4 * n + 1) ++ b r (4 * n) := by
  have hbyte (k : Nat) (hk : k < 4) : sourceByte s core m r (4 * n + k) = b r (4 * n + k) := by
    rw [sourceByte, hb r (4 * n + k) hr (by omega)]
  rw [loadedTile, tileAt_mkTile _ hr hn, ← ofNat_ofBytesLE_four, ← hbyte 1 (by omega), ← hbyte 2 (by omega), ← hbyte 3 (by omega)]
  have h0 := hbyte 0 (by omega)
  rw [Nat.add_zero] at h0
  rw [← h0]
  rfl

theorem mldComplete_ends {s : State} {core h a : Nat} {m : MOp} (hr : Running s core h a .mld m) {b : Nat → Nat → Byte}
    (hb : ∀ r k, r < 128 → k < 512 → s.mldByte core m r k = .ok (b r k)) :
    ∃ t, exec (.mldComplete core h a) s = .next t ∧ Leaves s t core m ∧ (t.accOf h a).ver = (s.accOf h a).ver + 1#16 ∧
      (t.accOf h a).suspect = false ∧ (∀ k, k ≠ a → t.accOf h k = s.accOf h k) ∧
      ((epwOf m.w1).dest = false → MemoryKept s t) ∧ ∀ r n, r < 128 → n < 128 →
        tileAt (t.accOf h a).tile r n = b r (4 * n + 3) ++ b r (4 * n + 2) ++ b r (4 * n + 1) ++ b r (4 * n) := by
  have hu := touchSource_unwritten s core m h
  have hr' := hr.of_unwritten hu
  have hacc (k : Nat) : (mldDone s core h a m).accOf h k =
      if k = a then advanced (withTile (loadedTile s core m) (s.accOf h a)) m.pts else s.accOf h k := by
    rw [mldDone, accOf_completed hr'.crew hr'.present, accOf_of_unwritten hr.crew hu k, accOf_of_unwritten hr.crew hu a]
  refine ⟨_, exec_mldComplete_running hr (State.mldFault_none hb), ?leaves, ?ver, ?suspect, fun k hk => ?others, fun hlm => ?mem,
    fun r n hrow hcol => ?tile⟩
  case leaves => exact (mops_completed hr'.noneWaits ..).trans (by rw [coreAt_of_unwritten hu])
  case ver => simp [hacc, advanced, withTile]
  case suspect => simp [hacc, advanced, withTile]
  case others => rw [hacc, if_neg hk]
  case mem => exact memoryKept_of_mem ((completed_mem ..).trans (touchSource_mem s core h hlm))
  case tile =>
    have htile : ((mldDone s core h a m).accOf h a).tile = loadedTile s core m := by simp [hacc, advanced, withTile]
    rw [htile, tileAt_loadedTile hb hrow hcol]

/-! ## The lines of an `mst` (R190) -/

theorem firstClaim_mem {cs : List Claim} {c : Claim} (h : firstClaim cs = some c) : c ∈ cs := by
  have hinv : ∀ (l : List Claim) (b : Option Claim), (∀ x, b = some x → x ∈ cs) → (∀ x ∈ l, x ∈ cs) →
      ∀ x, l.foldl (fun b c => match b with | none => some c | some k => if c.id < k.id then some c else b) b = some x → x ∈ cs := by
    intro l
    induction l with
    | nil => exact fun b hb _ => hb
    | cons d l ih =>
      intro b hb hl
      refine ih _ (fun x hx => ?_) (fun x hx => hl x (List.mem_cons_of_mem d hx))
      have hd : d ∈ cs := hl d List.mem_cons_self
      cases b with
      | none => exact Option.some.inj hx ▸ hd
      | some k =>
        dsimp only at hx
        split at hx
        · exact Option.some.inj hx ▸ hd
        · exact hb x hx
  exact hinv cs none (fun _ hx => nomatch hx) (fun _ hx => hx) c h

theorem State.dropLine_eq (s : State) (id l : Nat) : s.dropLine id l = { s with lines := (s.dropLine id l).lines } := by
  unfold State.dropLine State.giveLine
  split
  · dsimp only
    split <;> rfl
  · rfl

/-- A line that is given up is another agent's or nobody's. -/
theorem State.owner_dropLine_same (s : State) (id l : Nat) : ((s.dropLine id l).line l).owner ≠ some (.engine id) := by
  unfold State.dropLine
  split
  · dsimp only
    split
    · next c hc =>
      have hid := (List.mem_filter.1 (firstClaim_mem hc)).2
      simp only [Bool.and_eq_true, bne_iff_ne, ne_eq] at hid
      rw [State.giveLine, State.line_setLine, if_pos rfl]
      simpa using hid.1
    · rw [State.line_setLine, if_pos rfl]
      simp
  · assumption

theorem State.line_dropLine_other (s : State) (id : Nat) {l k : Nat} (h : k ≠ l) : (s.dropLine id l).line k = s.line k := by
  unfold State.dropLine
  split
  · dsimp only
    split
    · rw [State.giveLine, State.line_setLine, if_neg h, State.line_setLine, if_neg h]
    · rw [State.line_setLine, if_neg h]
  · rfl

/-- The lines are given up one after the other. -/
def dropLines (s : State) (id : Nat) (ls : List Nat) : State := ls.foldl (fun s l => s.dropLine id l) s

theorem dropLines_eq (s : State) (id : Nat) (ls : List Nat) : dropLines s id ls = { s with lines := (dropLines s id ls).lines } := by
  refine foldl_invariant (fun t => t = { s with lines := t.lines }) _ (fun t l ht => ?_) ls s rfl
  rw [State.dropLine_eq, ht]

/-- A line that the engine does not hold stays so. -/
theorem owner_dropLines_kept (s : State) (id : Nat) (ls : List Nat) {k : Nat} (h : (s.line k).owner ≠ some (.engine id)) :
    ((dropLines s id ls).line k).owner ≠ some (.engine id) := by
  refine foldl_invariant (fun t => (t.line k).owner ≠ some (.engine id)) _ (fun t l ht => ?_) ls s h
  by_cases hk : k = l
  · subst hk
    exact State.owner_dropLine_same t id k
  · rwa [State.line_dropLine_other t id hk]

theorem owner_dropLines (s : State) (id : Nat) (ls : List Nat) {k : Nat} (hk : k ∈ ls) :
    ((dropLines s id ls).line k).owner ≠ some (.engine id) := by
  induction ls generalizing s with
  | nil => simp at hk
  | cons l rest ih =>
    by_cases he : k = l
    · subst he
      exact owner_dropLines_kept _ id rest (State.owner_dropLine_same s id k)
    · exact ih _ ((List.mem_cons.1 hk).resolve_left he)

/-! ## An `mst` whose rows are stored (R149, R163) -/

/-- The state once every row of an `mst` is stored in `u`, by the operation `n` that it has become. -/
def storedRows (u : State) (core h a : Nat) (m n : MOp) (w : Nat) : State :=
  (u.putMop core m n).updAcc h a (fun v => { v with clock := max v.clock w })

def mstDone (u : State) (core h a : Nat) (m n : MOp) (w : Nat) : State :=
  (((dropLines (storedRows u core h a m n w) m.id m.owned).dropMop core n).bump h a m.pts).raiseEngine h m.wave
    ((dropLines (storedRows u core h a m n w) m.id m.owned).accOf h a).clock

theorem coreAt_storedRows (u : State) (core h a : Nat) (m n : MOp) (w : Nat) : (storedRows u core h a m n w).coreAt core =
    { u.coreAt core with mops := (u.coreAt core).mops.map (fun p => if p = m then n else p) } := by
  rw [storedRows, State.coreAt_congr (State.updAcc_keeps ..).1, State.coreAt_putMop]

/-- No check comes to be pending where a running operation has gone on. -/
theorem checkPending_storedRows {u : State} {core h a : Nat} {m n : MOp} (hn : n.stage = .running) (w : Nat)
    (hc : (u.coreAt core).checkPending h a = false) : ((storedRows u core h a m n w).coreAt core).checkPending h a = false := by
  rw [coreAt_storedRows]
  simp only [Core.checkPending, Core.mop?, Option.isSome_eq_false_iff, Option.isNone_iff_eq_none, List.find?_eq_none] at hc ⊢
  intro p hp
  obtain ⟨q, hq, rfl⟩ := List.mem_map.1 hp
  split
  · simp [hn]
  · exact hc q hq

theorem exec_mstComplete_stored {s u : State} {core h a w : Nat} {m n : MOp} (hr : Running s core h a .mst m)
    (hrows : s.mstRows core 128 m 0 = (u, n, w)) (hn : n.rows = 128)
    (hc : ((storedRows u core h a m n w).coreAt core).checkPending h a = false) :
    exec (.mstComplete core h a) s = .next (mstDone u core h a m n w) := by
  have hgo : ¬ ((decide (n.rows < 128) || ((storedRows u core h a m n w).coreAt core).checkPending h a) = true) := by simp [hn, hc]
  rw [exec_mstComplete, execMstComplete, hr.found]
  dsimp only
  rw [hrows]
  exact if_neg hgo

section
variable {u : State} {core h a : Nat} {m n : MOp} {w : Nat}

theorem storedRows_keeps : (storedRows u core h a m n w).mem = u.mem ∧ (storedRows u core h a m n w).lm = u.lm := by
  rw [storedRows, (State.updAcc_keeps ..).2.1, (State.updAcc_keeps ..).2.2.2.1, (State.putMop_keeps ..).2.2.1, (State.putMop_keeps ..).2.2.2.2]
  exact ⟨rfl, rfl⟩

theorem dropLines_keeps (s : State) (id : Nat) (ls : List Nat) :
    (dropLines s id ls).crew = s.crew ∧ (dropLines s id ls).crews = s.crews ∧ (dropLines s id ls).cores = s.cores ∧
    (dropLines s id ls).mem = s.mem ∧ (dropLines s id ls).lm = s.lm := by
  rw [dropLines_eq]
  exact ⟨rfl, rfl, rfl, rfl, rfl⟩

theorem mstDone_mem : (mstDone u core h a m n w).mem = u.mem := by
  rw [mstDone, (State.raiseEngine_keeps ..).2.1, (State.bump_keeps ..).2.1, (State.dropMop_keeps ..).2.2.1, (dropLines_keeps ..).2.2.2.1,
    storedRows_keeps.1]

theorem mstDone_lm : (mstDone u core h a m n w).lm = u.lm := by
  rw [mstDone, (State.raiseEngine_keeps ..).2.2.2, (State.bump_keeps ..).2.2.2.1, (State.dropMop_keeps ..).2.2.2.2, (dropLines_keeps ..).2.2.2.2,
    storedRows_keeps.2]

/-- The operation gives up every line that it holds. -/
theorem owner_mstDone {l : Nat} (hl : l ∈ m.owned) : ((mstDone u core h a m n w).line l).owner ≠ some (.engine m.id) := by
  have hlines : (mstDone u core h a m n w).lines = (dropLines (storedRows u core h a m n w) m.id m.owned).lines := by
    rw [mstDone, (State.raiseEngine_keeps ..).2.2.1, (State.bump_keeps ..).2.2.1, (State.dropMop_keeps ..).2.2.2.1]
  rw [State.line, hlines]
  exact owner_dropLines _ m.id m.owned hl

theorem mops_mstDone (hw : NoneWaits (u.coreAt core).mops) (hn : n.stage = .running) : ((mstDone u core h a m n w).coreAt core).mops =
    ((u.coreAt core).mops.map (fun p => if p = m then n else p)).filter (fun q => q != n) := by
  have hcore : (dropLines (storedRows u core h a m n w) m.id m.owned).coreAt core =
      { u.coreAt core with mops := (u.coreAt core).mops.map (fun p => if p = m then n else p) } := by
    rw [State.coreAt_congr (dropLines_keeps ..).2.2.1, coreAt_storedRows]
  have hw' : NoneWaits ((u.coreAt core).mops.map (fun p => if p = m then n else p)) := by
    intro q hq
    obtain ⟨p, hp, rfl⟩ := List.mem_map.1 hq
    split
    · simp [hn]
    · exact hw p hp
  rw [mstDone, State.coreAt_congr (State.raiseEngine_keeps ..).1, State.coreAt_congr (State.bump_keeps ..).1,
    State.coreAt_dropMop (by rw [hcore]; exact hw'), hcore]

theorem accOf_storedRows (h0 : h ≠ 0) (hc : crewOf u h ≠ none) (k : Nat) :
    (storedRows u core h a m n w).accOf h k = if k = a then { u.accOf h a with clock := max (u.accOf h a).clock w } else u.accOf h k := by
  obtain ⟨hcrew, hcrews, -⟩ := State.putMop_keeps u core m n
  have hput (k : Nat) : (u.putMop core m n).accOf h k = u.accOf h k := State.accOf_congr h0 hcrew hcrews k
  rw [storedRows, State.accOf_updAcc h0 (by rwa [crewOf_congr hcrew hcrews]), hput, hput]

theorem accOf_mstDone (h0 : h ≠ 0) (hc : crewOf u h ≠ none) (k : Nat) : (mstDone u core h a m n w).accOf h k =
    if k = a then advanced { u.accOf h a with clock := max (u.accOf h a).clock w } m.pts else u.accOf h k := by
  have hrows : crewOf (storedRows u core h a m n w) h ≠ none := by
    obtain ⟨hcrew, hcrews, -⟩ := State.putMop_keeps u core m n
    exact crewOf_updAcc_ne_none (by rwa [crewOf_congr hcrew hcrews]) a _
  have hdropped (k : Nat) : ((dropLines (storedRows u core h a m n w) m.id m.owned).dropMop core n).accOf h k =
      (storedRows u core h a m n w).accOf h k := by
    rw [State.accOf_dropMop h0, State.accOf_congr h0 (dropLines_keeps ..).1 (dropLines_keeps ..).2.1]
  rw [mstDone, State.raiseEngine, State.accOf_mapWave h0, State.accOf_bump h0
    (by rwa [crewOf_dropMop, crewOf_congr (dropLines_keeps ..).1 (dropLines_keeps ..).2.1]), hdropped, hdropped,
    accOf_storedRows h0 hc, accOf_storedRows h0 hc, if_pos rfl]
  split <;> rfl

end

theorem mstRows_stored {s : State} {core : Nat} {m : MOp} (hrows : m.rows = 128) (fuel clock : Nat) :
    s.mstRows core fuel m clock = (s, m, clock) := by
  cases fuel with
  | zero => rfl
  | succ fuel => rw [State.mstRows, if_pos (by omega)]

theorem mstComplete_ends {s : State} {core h a : Nat} {m : MOp} (hr : Running s core h a .mst m) (hrows : m.rows = 128)
    (hc : (s.coreAt core).checkPending h a = false) :
    ∃ t, exec (.mstComplete core h a) s = .next t ∧ Leaves s t core m ∧ MemoryKept s t ∧
      (∀ l, (t.line l).owner = some (.engine m.id) → l ∉ m.owned) ∧
      AccBecomes s t h a { s.accOf h a with ver := (s.accOf h a).ver + 1#16, clock := max (s.accOf h a).clock m.pts } := by
  have hacc := accOf_mstDone (core := core) (a := a) (m := m) (n := m) (w := 0) hr.crew hr.present
  refine ⟨_, exec_mstComplete_stored hr (mstRows_stored hrows 128 0) hrows (checkPending_storedRows hr.stage_eq 0 hc), ?leaves,
    memoryKept_of_mem mstDone_mem, fun l howner hl => owner_mstDone hl howner, by simp [hacc, advanced], fun k hk => by rw [hacc, if_neg hk]⟩
  case leaves =>
    have hid : (fun p => if p = m then m else p) = (id : MOp → MOp) := by
      funext p
      exact ite_eq_right_iff.2 Eq.symm
    rw [Leaves, mops_mstDone hr.noneWaits hr.stage_eq, hid, List.map_id]

end Sys2Proof.Proofs
end

section
/-! SUPPORT. A cause that an engine raises in the wave in focus (R151, R347, R351): what the operations and accumulators of the engine say nothing
about, and the handler entry. -/

namespace Sys2Proof.Proofs

open Sys2Proof.Machine Sys2Proof.Laws Sys2Proof.Stmt

/-! ## What an engine's own changes leave -/

/-- The state with other operations on its cores, other accumulators of the crew in focus, and another free value. -/
def engined (s : State) (cs : Map Core) (as : Map Acc) (n : Nat) : State :=
  { s with cores := cs, crew := { s.crew with accs := as }, fresh := n }

section
variable (s : State) (cs : Map Core) (as : Map Acc) (n : Nat)

theorem walkFrom_engined (va fuel level t : Nat) : (engined s cs as n).walkFrom va fuel level t = s.walkFrom va fuel level t := by
  induction fuel generalizing level t with
  | zero => rfl
  | succ fuel ih =>
    unfold State.walkFrom
    simp only [ih]
    rfl

theorem lookup_engined (die ctx va : Nat) : (engined s cs as n).lookup die ctx va = s.lookup die ctx va := by
  unfold State.lookup State.walk
  simp only [walkFrom_engined]
  rfl

theorem translate_engined (die ctx va : Nat) (k : Want) (reg : Bool) :
    (engined s cs as n).translate die ctx va k reg = s.translate die ctx va k reg := by
  unfold State.translate
  rw [lookup_engined]
  rfl

theorem xlateVa_engined (va : Word) (k : Want) (reg : Bool) : (engined s cs as n).xlateVa va k reg = s.xlateVa va k reg :=
  translate_engined ..

theorem slotAt_engined (a : Nat) (h : Hdr) (j : Nat) (k : Want) : (engined s cs as n).slotAt a h j k = s.slotAt a h j k := by
  unfold State.slotAt
  rw [xlateVa_engined]

theorem queueFault_engined (q : QReq) : (engined s cs as n).queueFault q = s.queueFault q := by
  unfold State.queueFault
  simp only [xlateVa_engined, slotAt_engined]
  rfl

theorem transFaulty_engined (a : Access) : (engined s cs as n).transFaulty a = s.transFaulty a := by
  unfold State.transFaulty State.transFault Access.xlate
  simp only [xlateVa_engined, queueFault_engined]

theorem faultFound_engined : (engined s cs as n).faultFound = s.faultFound := by
  unfold State.faultFound
  simp only [transFaulty_engined]
  rfl

end

/-! ## Handler entry (R354) -/

/-- Where no fault is found before it, no load-class fault of the wave is its own. -/
theorem State.ownFault_none {s : State} (h : s.faultFound = false) : s.ownFault = none := by
  have hfound : s.foundFault = none := by
    rw [State.foundFault, List.findSome?_eq_none_iff]
    intro a ha
    have hquiet := List.any_eq_false.1 h a ha
    rw [Option.map_eq_none_iff, State.reportable]
    cases hphase : a.phase with
    | data c lane => simp [hphase] at hquiet
    | queued =>
      simp only [State.transFaulty, hphase, Bool.or_false, Bool.and_eq_true, not_and, Bool.not_eq_true, Option.isSome_eq_false_iff,
        Option.isNone_iff_eq_none] at hquiet
      dsimp only
      split
      · next hclass => rw [hquiet hclass]; rfl
      · rfl
    | _ => rfl
  rw [State.ownFault, hfound]
  split <;> rfl

/-- The crew has been told of a cause with which its wave stops (R345). -/
def halting (s : State) (st : Stop) : State :=
  { s with
    wave := { s.wave with stop := some st }
    crew := { s.crew with state := .halted, others := s.crew.others.map (told s.wave.idx st.cause) } }

theorem broadcast_stopped (s : State) (st : Stop) :
    State.broadcast { s with wave := { s.wave with stop := some st } } st.cause = halting s st := by
  have htell : (fun w : Wave => if w.live && !w.inh && w.stop.isNone && w.halting.isNone && w.ret.isNone then
      { w with halting := some (s.wave.idx, st.cause, w.issued), stopped := false } else w) = told s.wave.idx st.cause := by
    funext w
    simp only [told, Wave.live, Bool.and_eq_true, decide_eq_true_eq, Bool.not_eq_true', Option.isNone_iff_eq_none, and_assoc]
  rw [State.broadcast, halting, ← htell]

/-- A cause that a wave may take at once enters its handler. -/
theorem State.raiseLater_enters {s : State} {st : Stop} (hs : MayTake s) (hc : st.cause ≠ .stale) :
    s.raiseLater st = (halting s st).enter st := by
  obtain ⟨⟨⟨hlive, hinh, hstop, -, hsfu⟩, hquiet⟩, hret⟩ := hs
  have hfirst : s.faultFirst st = s := by rw [State.faultFirst, State.ownFault_none hquiet]
  have hlive' : s.wave.live = true := decide_eq_true hlive
  have hsfu' : (halting s st).sfuPending = false := hsfu
  rw [State.raiseLater, hfirst]
  simp only [hlive', hinh, hret, Bool.not_true, Bool.false_eq_true, Option.isSome_none, or_self, if_false]
  rw [State.raise, State.countStale, if_neg hc, State.raiseStop, hinh, hstop]
  simp only [Bool.false_eq_true, if_false]
  rw [broadcast_stopped, State.tryEnter, hsfu']
  rfl

theorem State.dropRequest_eq (s : State) (h i : Nat) : s.dropRequest h i = { s with dies := (s.dropRequest h i).dies } := by
  obtain ⟨d, hd⟩ : ∃ d, s.dropRequest h i = { s with dies := d } := by
    unfold State.dropRequest
    refine foldl_invariant (fun t => ∃ d, t = { s with dies := d }) _ (fun t n ht => ?_) (List.range 8) s ⟨s.dies, rfl⟩
    obtain ⟨d, rfl⟩ := ht
    exact ⟨_, rfl⟩
  rw [hd]

theorem State.enter_eq {s : State} {st : Stop} (h : s.wave.tvec ≠ 0#64) :
    s.enter st = { s with dies := (s.dropRequest s.crew.handle s.wave.idx).dies, wave := (s.enter st).wave } := by
  have hdrop := State.dropRequest_eq s s.crew.handle s.wave.idx
  simp only [State.enter, h, if_false]
  rw [hdrop]

theorem State.enter_vectors {s : State} {st : Stop} (h : s.wave.tvec ≠ 0#64) :
    (s.enter st).wave.vregs = s.wave.vregs ∧ (s.enter st).wave.freed = s.wave.freed ∧ (s.enter st).wave.idx = s.wave.idx ∧
    (s.enter st).wave.status = s.wave.status := by
  simp [State.enter, h]

theorem State.enter_skid {s : State} {st : Stop} (h : s.wave.tvec ≠ 0#64) (hc : st.cause ≠ .halt) : (s.enter st).wave.tskid = 0#64 := by
  have hskid : s.wave.skid st = 0 := by
    unfold Wave.skid
    split
    · next hhalt _ => exact absurd hhalt hc
    · rfl
  simp [State.enter, h, hskid]

/-- The stop record of a cause of an engine (R351): TPC is the wave's next or blocking word. -/
def engineStop (s : State) (c : Cause) (addr r112 r113 : Word) : Stop := ⟨c, s.wave.pc, addr, r112, r113, 0#64, false⟩

/-- What the wave finds when it enters its handler with a cause of an engine. -/
theorem reaches_enter {s : State} {c : Cause} (addr r112 r113 : Word) (hs : MayTake s) (hc : c ≠ .halt) :
    Reaches s ((halting s (engineStop s c addr r112 r113)).enter (engineStop s c addr r112 r113)) c addr r112 r113 := by
  obtain ⟨⟨⟨-, -, -, htvec, -⟩, -⟩, -⟩ := hs
  have htvec' : (halting s (engineStop s c addr r112 r113)).wave.tvec ≠ 0#64 := htvec
  obtain ⟨hpc, hinh, htpc, htaddr, htcause, -, -, -⟩ := State.enter_wave _ (engineStop s c addr r112 r113) htvec'
  obtain ⟨h112, h113, h114, h115, -⟩ := State.enter_regs _ (engineStop s c addr r112 r113) htvec'
  obtain ⟨hvregs, hfreed, -⟩ := State.enter_vectors (st := engineStop s c addr r112 r113) htvec'
  have hskid := State.enter_skid (st := engineStop s c addr r112 r113) htvec' hc
  have hall := State.enter_eq (st := engineStop s c addr r112 r113) htvec'
  have hcrew := congrArg State.crew hall
  have hmem := congrArg State.mem hall
  exact ⟨htcause, htpc, htaddr, hskid, hinh, hpc, h112, h113, h114, h115, congrArg Crew.state hcrew, congrArg Crew.others hcrew,
    fun r hr => State.enter_others _ _ htvec' r hr, ⟨hvregs, hfreed⟩, memoryKept_of_mem hmem⟩

/-- A cause of an engine reaches the issuing wave when that is the wave in focus. -/
theorem State.causeWave_focus {s : State} (hs : Live s) (h0 : s.crew.handle ≠ 0) : s.causeWave s.crew.handle s.wave.idx = some s.wave.idx := by
  have hpresent : s.wave.status ≠ .absent := by rw [hs]; decide
  have hin : s.focusCrew.others.any (fun w => w.live && w.idx == s.wave.idx) = true := by
    rw [State.focusCrew, if_neg hpresent, List.any_eq_true]
    exact ⟨s.wave, by simp, by rw [Wave.live, decide_eq_true (show s.wave.status = .live from hs), beq_self_eq_true]; rfl⟩
  rw [State.causeWave, State.crewAt_focus h0]
  simp only [hin, if_true]

theorem State.raiseAsync_focus {s : State} {c : Cause} (addr r112 r113 : Word) (hs : MayTake s) (h0 : s.crew.handle ≠ 0) (hc : c ≠ .stale) :
    s.raiseAsync s.crew.handle s.wave.idx c addr r112 r113 =
      (halting s (engineStop s c addr r112 r113)).enter (engineStop s c addr r112 r113) := by
  have ⟨⟨⟨hlive, _, _, htvec, _⟩, _⟩, _⟩ := hs
  have htvec' : (halting s (engineStop s c addr r112 r113)).wave.tvec ≠ 0#64 := htvec
  obtain ⟨-, -, hidx, hstatus⟩ := State.enter_vectors (st := engineStop s c addr r112 r113) htvec'
  have hcrew := congrArg (fun t => t.crew.handle) (State.enter_eq (st := engineStop s c addr r112 r113) htvec')
  rw [State.raiseAsync, State.causeWave_focus hlive h0]
  exact State.atWave_focus hlive (State.raiseLater_enters hs hc) hcrew hidx (hstatus.trans hlive)

end Sys2Proof.Proofs
end

section
/-! SUPPORT. An `mld` and an `mma` that cannot read an operand (R148, R151, R162): the operations of the accumulator are parked, and the cause
reaches the issuing wave. -/

namespace Sys2Proof.Proofs

open Sys2Proof.Machine Sys2Proof.Laws Sys2Proof.Stmt

/-! ## The cause (R351) -/

/-- The state in which an engine has parked its operations and raised its cause in the wave in focus. -/
def causedIn (u : State) (c : Cause) (addr r112 r113 : Word) : State :=
  (halting u (engineStop u c addr r112 r113)).enter (engineStop u c addr r112 r113)

section
variable {u : State} {c : Cause} {addr r112 r113 : Word} (hs : MayTake u)
include hs

theorem causedIn_keeps : (causedIn u c addr r112 r113).cores = u.cores ∧ (causedIn u c addr r112 r113).crews = u.crews ∧
    (causedIn u c addr r112 r113).crew = (halting u (engineStop u c addr r112 r113)).crew := by
  have htvec : (halting u (engineStop u c addr r112 r113)).wave.tvec ≠ 0#64 := by
    obtain ⟨⟨⟨-, -, -, htvec, -⟩, -⟩, -⟩ := hs
    exact htvec
  have hall := State.enter_eq (st := engineStop u c addr r112 r113) htvec
  have hcores := congrArg State.cores hall
  have hcrews := congrArg State.crews hall
  have hcrew := congrArg State.crew hall
  exact ⟨hcores, hcrews, hcrew⟩

/-- The accumulators stand. -/
theorem accOf_causedIn {h : Nat} (h0 : h ≠ 0) (k : Nat) : (causedIn u c addr r112 r113).accOf h k = u.accOf h k := by
  obtain ⟨-, hcrews, hcrew⟩ := causedIn_keeps hs (c := c) (addr := addr) (r112 := r112) (r113 := r113)
  have hhandle : (causedIn u c addr r112 r113).crew.handle = u.crew.handle := by rw [hcrew]; rfl
  by_cases he : u.crew.handle = h
  · rw [State.accOf_focus h0 (hhandle.trans he), State.accOf_focus h0 he, hcrew]
    rfl
  · rw [State.accOf_eq _ h0, State.accOf_eq u h0, crewOf, crewOf, hhandle, if_neg he, if_neg he, hcrews]

end

section
variable {s : State} {cs : Map Core} {as : Map Acc} {n : Nat}

/-- The wave may take a cause whatever the engine has changed in its queues and accumulators. -/
theorem mayTake_engined (hs : MayTake s) (hsfu : ((engined s cs as n).coreAt s.crew.core).sfu = (s.coreAt s.crew.core).sfu) :
    MayTake (engined s cs as n) := by
  obtain ⟨⟨⟨hlive, hinh, hstop, htvec, hpending⟩, hquiet⟩, hret⟩ := hs
  have hpending' : (engined s cs as n).sfuPending = false := by
    rw [State.sfuPending] at hpending ⊢
    rw [← hpending, ← hsfu]
    rfl
  exact ⟨⟨⟨hlive, hinh, hstop, htvec, hpending'⟩, (faultFound_engined s cs as n).trans hquiet⟩, hret⟩

theorem reaches_engined {t : State} {c : Cause} {addr r112 r113 : Word} (h : Reaches (engined s cs as n) t c addr r112 r113) :
    Reaches s t c addr r112 r113 := h

end

/-! ## Parked operations (R148, R151) -/

theorem noneWaits_park {k : Core} (h a : Nat) (hw : NoneWaits k.mops) : NoneWaits (k.park h a).mops := by
  intro q hq
  obtain ⟨p, hp, rfl⟩ := List.mem_map.1 hq
  split
  · simp
  · exact hw p hp

/-- Where none waits for an entry, the operations in execution and in the queue are parked. -/
theorem mops_park {k : Core} (h a : Nat) (hw : NoneWaits k.mops) : (k.park h a).mops = k.mops.map (fun q =>
    if q.crew = h ∧ q.acc = a ∧ (q.stage = .running ∨ q.stage = .queued) then { q with stage := .parked } else q) := by
  refine List.map_congr_left (fun q hq => ?_)
  have hq' := hw q hq
  simp only [hq', or_false]

theorem Core.refill_sfu (k : Core) (fuel : Nat) : (k.refill fuel).sfu = k.sfu := by
  induction fuel generalizing k with
  | zero => rfl
  | succ fuel ih =>
    rw [Core.refill]
    split
    · rfl
    · exact ih _

/-- The engine has changed the queue of one core by `f`, and one accumulator of the crew in focus by `g`. -/
def stopped (s : State) (core a : Nat) (f : Core → Core) (g : Acc → Acc) (n : Nat) : State :=
  engined s ((s.updCore core f).refill core 8).cores (s.crew.setAcc a (g (s.crew.acc a))).accs n

theorem State.requeued_eq (s : State) (core : Nat) (f : Core → Core) :
    (s.updCore core f).refill core 8 = { s with cores := ((s.updCore core f).refill core 8).cores } := rfl

theorem updAcc_engined (s : State) (cs : Map Core) (a : Nat) (g : Acc → Acc) :
    ({ s with cores := cs } : State).updAcc s.crew.handle a g = engined s cs (s.crew.setAcc a (g (s.crew.acc a))).accs s.fresh :=
  State.updAcc_focus rfl a g

theorem updAcc_requeued (s : State) (core a : Nat) (f : Core → Core) (g : Acc → Acc) :
    ((s.updCore core f).refill core 8).updAcc s.crew.handle a g = stopped s core a f g s.fresh := by
  rw [State.requeued_eq, updAcc_engined]
  rfl

section
variable {s : State} {core a : Nat} {f : Core → Core} {g : Acc → Acc} {n : Nat}

theorem coreAt_stopped (k : Nat) :
    (stopped s core a f g n).coreAt k = if k = core then (f (s.coreAt core)).refill 8 else s.coreAt k := by
  have hcores : (stopped s core a f g n).coreAt k = ((s.updCore core f).refill core 8).coreAt k := rfl
  rw [hcores, State.refill, State.coreAt_updCore, State.coreAt_updCore, State.coreAt_updCore, if_pos rfl]
  split <;> rfl

theorem accOf_stopped (h0 : s.crew.handle ≠ 0) (k : Nat) :
    (stopped s core a f g n).accOf s.crew.handle k = if k = a then g (s.accOf s.crew.handle a) else s.accOf s.crew.handle k := by
  have hput : (stopped s core a f g n).accOf s.crew.handle k = (stopped s core a f g n).crew.acc k :=
    State.accOf_focus (s := stopped s core a f g n) h0 rfl k
  rw [hput, State.accOf_focus h0 rfl, State.accOf_focus h0 rfl]
  exact Map.find_put ..

theorem mayTake_stopped (hs : MayTake s) (hf : (f (s.coreAt core)).sfu = (s.coreAt core).sfu) : MayTake (stopped s core a f g n) := by
  refine mayTake_engined hs ((congrArg Core.sfu (coreAt_stopped (a := a) (g := g) (n := n) s.crew.core)).trans ?_)
  split
  · next he => rw [Core.refill_sfu, hf, he]
  · rfl

end

/-- The operations of an accumulator stop, and the issuing wave in focus has the cause. -/
theorem reaches_stopped {s : State} (hs : MayTake s) (h0 : s.crew.handle ≠ 0) (core a : Nat) {f : Core → Core} (g : Acc → Acc) (n : Nat)
    (hf : (f (s.coreAt core)).sfu = (s.coreAt core).sfu) (hw : NoneWaits (f (s.coreAt core)).mops) {c : Cause} (hhalt : c ≠ .halt)
    (hstale : c ≠ .stale) (addr r112 r113 : Word) :
    ∃ t, (stopped s core a f g n).raiseAsync s.crew.handle s.wave.idx c addr r112 r113 = t ∧
      AccBecomes s t s.crew.handle a (g (s.accOf s.crew.handle a)) ∧ (t.coreAt core).mops = (f (s.coreAt core)).mops ∧
      Reaches s t c addr r112 r113 := by
  have hu := mayTake_stopped (a := a) (g := g) (n := n) hs hf
  have hacc (k : Nat) := (accOf_causedIn hu (c := c) (addr := addr) (r112 := r112) (r113 := r113) h0 k).trans (accOf_stopped h0 k)
  refine ⟨_, State.raiseAsync_focus addr r112 r113 hu h0 hstale, ⟨?same, fun k hk => ?other⟩, ?mops, ?reaches⟩
  case same => exact (hacc a).trans (if_pos rfl)
  case other => exact (hacc k).trans (if_neg hk)
  case mops =>
    refine (congrArg Core.mops (State.coreAt_congr (causedIn_keeps hu).1 core)).trans ?_
    rw [coreAt_stopped, if_pos rfl, Core.refill_of_noneWaits hw]
  case reaches => exact reaches_engined (reaches_enter addr r112 r113 hu hhalt)

/-! ## `mld` (R162) -/

/-- The queue of a core that an operation has left, with those behind it parked. -/
def parkedWithout (m : MOp) (h a : Nat) (k : Core) : Core := Core.park { k with mops := k.mops.filter (fun n => n != m) } h a

theorem noneWaits_parkedWithout {k : Core} (hw : NoneWaits k.mops) (m : MOp) (h a : Nat) : NoneWaits (parkedWithout m h a k).mops :=
  noneWaits_park h a (fun q hq => hw q (List.mem_of_mem_filter hq))

/-- A running operation that was taken out is no longer there. -/
theorem notMem_parkedWithout {m : MOp} (hm : m.stage = .running) (h a : Nat) (k : Core) : m ∉ (parkedWithout m h a k).mops := by
  intro hin
  obtain ⟨p, hp, hpm⟩ := List.mem_map.1 hin
  have hne : p ≠ m := by simpa using (List.mem_filter.1 hp).2
  split at hpm
  · rw [← hpm] at hm
    simp at hm
  · exact hne hpm

theorem exec_mldDiscard_fault {s : State} {core a : Nat} {m : MOp} {c : Cause} {addr : Nat} (hr : Running s core s.crew.handle a .mld m)
    (hfault : s.mldFault core m = some (some c, addr)) :
    exec (.mldDiscard core s.crew.handle a) s =
      .next ((stopped s core a (parkedWithout m s.crew.handle a) (fun v => { v with vacant := true }) s.fresh).raiseAsync
        s.crew.handle m.wave c (BitVec.ofNat 64 addr) (BitVec.ofNat 64 a) m.pc) := by
  have hstopped : ((s.updCore core (parkedWithout m s.crew.handle a)).refill core 8).updAcc s.crew.handle a (fun v => { v with vacant := true }) =
      stopped s core a (parkedWithout m s.crew.handle a) (fun v => { v with vacant := true }) s.fresh := updAcc_requeued ..
  rw [exec_mldDiscard, execMldDiscard, hr.found]
  simp only [hfault]
  rw [← hstopped]
  rfl

theorem mldDiscard_ends {s : State} {core h a : Nat} {m : MOp} {c : Cause} {addr : Nat} (hr : Running s core h a .mld m)
    (hears : Hears s h m.wave) (hfault : s.mldFault core m = some (some c, addr)) (hhalt : c ≠ .halt) (hstale : c ≠ .stale) :
    ∃ t, exec (.mldDiscard core h a) s = .next t ∧ AccBecomes s t h a { s.accOf h a with vacant := true } ∧
      m ∉ (t.coreAt core).mops.filter (fun q => q.stage == .running) ∧ Reaches s t c (BitVec.ofNat 64 addr) (BitVec.ofNat 64 a) m.pc := by
  obtain ⟨hmay, rfl, hwave, h0⟩ := hears
  obtain ⟨t, ht, hacc, hmops, hreach⟩ := reaches_stopped hmay h0 core a (f := parkedWithout m s.crew.handle a)
    (fun v => { v with vacant := true }) s.fresh rfl (noneWaits_parkedWithout hr.noneWaits m _ a) hhalt hstale
    (BitVec.ofNat 64 addr) (BitVec.ofNat 64 a) m.pc
  rw [hwave] at ht
  exact ⟨t, by rw [exec_mldDiscard_fault hr hfault, ht], hacc,
    fun hin => notMem_parkedWithout hr.stage_eq _ a _ (hmops ▸ List.mem_of_mem_filter hin), hreach⟩

/-! ## `mma` (R151) -/

/-- The first block that remains of an `mma`. -/
theorem find?_blocks {n p : Nat} (hp : p < n) {q : Nat → Bool} (hq : q p = true) : ((List.range n).drop p).find? q = some p := by
  have hlen : p < (List.range n).length := by simpa using hp
  rw [List.drop_eq_getElem_cons hlen, List.getElem_range, List.find?_cons_of_pos hq]

theorem exec_mmaSuspend_fault {s : State} {core a : Nat} {m : MOp} {c : Cause} {role addr : Nat} (hr : Running s core s.crew.handle a .mma m)
    (hblocks : (s.accOf s.crew.handle a).prog < m.args.K / m.args.L) (hlive : s.crew.state ≠ .ended)
    (hfault : s.blockFault core m (s.accOf s.crew.handle a).prog = some (some c, role, addr)) :
    exec (.mmaSuspend core s.crew.handle a) s =
      .next ((stopped s core a (fun k => k.park s.crew.handle a)
        (fun v => { v with tile := (s.accOf s.crew.handle a).tile, prog := (s.accOf s.crew.handle a).prog }) (s.fresh + 1)).raiseAsync
        s.crew.handle m.wave c (BitVec.ofNat 64 addr) (BitVec.ofNat 64 (role * 32 + a)) m.pc) := by
  have hfirst := find?_blocks hblocks (q := fun b => (s.blockFault core m b).isSome) (by rw [hfault]; rfl)
  have hcrew : s.focusCrew.live = true := by simpa [Crew.live, State.focusCrew_state] using hlive
  rw [exec_mmaSuspend, execMmaSuspend, hr.found]
  simp only [hfirst, hfault, if_true, State.crewAt_focus hr.crew, hcrew]
  rw [State.updAcc_focus rfl]
  rfl

theorem mmaSuspend_ends {s : State} {core h a : Nat} {m : MOp} {c : Cause} {role addr : Nat} (hr : Running s core h a .mma m)
    (hears : Hears s h m.wave) (hblocks : (s.accOf h a).prog < m.args.K / m.args.L) (hlive : s.crew.state ≠ .ended)
    (hfault : s.blockFault core m (s.accOf h a).prog = some (some c, role, addr)) (hhalt : c ≠ .halt) (hstale : c ≠ .stale) :
    ∃ t, exec (.mmaSuspend core h a) s = .next t ∧ AccBecomes s t h a (s.accOf h a) ∧
      (t.coreAt core).mops = (s.coreAt core).mops.map (fun q =>
        if q.crew = h ∧ q.acc = a ∧ (q.stage = .running ∨ q.stage = .queued) then { q with stage := .parked } else q) ∧
      Reaches s t c (BitVec.ofNat 64 addr) (BitVec.ofNat 64 (role * 32 + a)) m.pc := by
  obtain ⟨hmay, rfl, hwave, h0⟩ := hears
  obtain ⟨t, ht, hacc, hmops, hreach⟩ := reaches_stopped hmay h0 core a (f := fun k => k.park s.crew.handle a)
    (fun v => { v with tile := (s.accOf s.crew.handle a).tile, prog := (s.accOf s.crew.handle a).prog }) (s.fresh + 1) rfl
    (noneWaits_park _ a hr.noneWaits) hhalt hstale (BitVec.ofNat 64 addr) (BitVec.ofNat 64 (role * 32 + a)) m.pc
  rw [hwave] at ht
  exact ⟨t, by rw [exec_mmaSuspend_fault hr hblocks hlive hfault, ht], hacc, hmops.trans (mops_park _ a hr.noneWaits), hreach⟩

end Sys2Proof.Proofs
end

section
/-! SUPPORT. The tile of an `mma` (R93, R94, R143 to R145): the bytes that a block uses, and its partials one by one. -/

namespace Sys2Proof.Proofs

open Sys2Proof.Machine Sys2Proof.Laws Sys2Proof.Stmt

/-! ## The bytes of a block -/

section
variable {g : MmaArgs} {b r : Nat} (hr : r < 128)
include hr

theorem plane_mem_offsA {j c : Nat} (hj : j ≤ g.ta.prec) (hc : c < g.L / 8) : j * 16 * g.K + r * (g.K / 8) + b * (g.L / 8) + c ∈ g.offsA b :=
  List.mem_append_left _ (List.mem_flatMap.2 ⟨j, List.mem_range.2 (by omega), List.mem_flatMap.2 ⟨r, List.mem_range.2 hr,
    List.mem_map.2 ⟨c, List.mem_range.2 hc, rfl⟩⟩⟩)

theorem exponent_mem_offsA {k : Nat} (hk : k = 2 * (r * (g.K / g.L) + b) ∨ k = 2 * (r * (g.K / g.L) + b) + 1) :
    256 * g.ta.scl + k ∈ g.offsA b := by
  refine List.mem_append_right _ (List.mem_flatMap.2 ⟨r, List.mem_range.2 hr, ?_⟩)
  simp only [List.mem_cons, List.not_mem_nil, or_false]
  omega

end

theorem mem_offsB {g : MmaArgs} {b i c : Nat} (hi : i < g.L) (hc : c < g.f.rowBytes 128) :
    (b * g.L + i) * g.tb.rowStride g.f + c ∈ g.offsB b :=
  List.mem_flatMap.2 ⟨i, List.mem_range.2 hi, List.mem_map.2 ⟨c, List.mem_range.2 hc, rfl⟩⟩

/-! ## What a block's values depend on -/

/-- An element of a block of planes (R93) is read from the bytes of the block. -/
theorem planesQ_congr {g : MmaArgs} {w : Nat} (hL : g.L = 8 * w) {x y : Nat → Byte} {b r i : Nat} (h : ∀ k ∈ g.offsA b, x k = y k) (hr : r < 128)
    (hi : i < g.L) : planesQ g.ta.prec g.K x r (b * g.L + i) = planesQ g.ta.prec g.K y r (b * g.L + i) := by
  have hw : g.L / 8 = w := by omega
  have hat : r * (g.K / 8) + (b * g.L + i) / 8 = r * (g.K / 8) + b * (g.L / 8) + i / 8 := by
    rw [hw, hL, Nat.mul_left_comm, Nat.mul_add_div (by decide), Nat.add_assoc]
  have hbyte {j : Nat} (hj : j ≤ g.ta.prec) : x (j * (16 * g.K) + (r * (g.K / 8) + (b * g.L + i) / 8)) =
      y (j * (16 * g.K) + (r * (g.K / 8) + (b * g.L + i) / 8)) := by
    rw [hat, ← Nat.mul_assoc, ← Nat.add_assoc, ← Nat.add_assoc]
    exact h _ (plane_mem_offsA hr hj (by omega))
  have hsign := hbyte (Nat.zero_le _)
  rw [Nat.zero_mul] at hsign
  simp only [planesQ, planeOff, hsign]
  congr 2
  exact List.map_congr_left (fun j _ => congrArg (fun v : Byte => if v.getLsbD ((b * g.L + i) % 8) then 2 ^ j else 0) (hbyte (Nat.sub_le g.ta.prec j)))

/-- A block of A is read from the bytes of the block (R93, R94). -/
theorem planesBlk_congr {g : MmaArgs} {w : Nat} (hL : g.L = 8 * w) {x y : Nat → Byte} {b r : Nat} (h : ∀ k ∈ g.offsA b, x k = y k) (hr : r < 128) :
    planesBlk g.ta.prec g.K g.L x (fun k => x (256 * g.ta.scl + k)) r b = planesBlk g.ta.prec g.K g.L y (fun k => y (256 * g.ta.scl + k)) r b := by
  have hexp : planesE g.K g.L (fun k => x (256 * g.ta.scl + k)) r b = planesE g.K g.L (fun k => y (256 * g.ta.scl + k)) r b := by
    simp only [planesE, h _ (exponent_mem_offsA hr (.inl rfl)), h _ (exponent_mem_offsA hr (.inr rfl))]
  have hq : (List.range g.L).map (fun i => planesQ g.ta.prec g.K x r (b * g.L + i)) =
      (List.range g.L).map (fun i => planesQ g.ta.prec g.K y r (b * g.L + i)) :=
    List.map_congr_left (fun i hi => planesQ_congr hL h hr (List.mem_range.1 hi))
  rw [planesBlk, planesBlk, hexp, hq]

theorem EFmt.per_pos (f : EFmt) : 0 < f.per := by
  unfold EFmt.per perLane
  split
  · decide
  · split
    · decide
    · split
      · decide
      · split <;> decide

/-- An element of a packed row of 128 is read from the bytes of the row (R89, R159). -/
theorem bitsAt_congr (f : EFmt) {x y : Nat → Byte} (h : ∀ k < f.rowBytes 128, x k = y k) {n : Nat} (hn : n < 128) : f.bitsAt x n = f.bitsAt y n := by
  have hrow : f.rowBytes 128 = 4 * (127 / f.per + 1) := by
    rw [EFmt.rowBytes, ← Nat.add_div_right 127 (EFmt.per_pos f), show 128 + f.per - 1 = 127 + f.per by omega]
  have hword : n / f.per ≤ 127 / f.per := Nat.div_le_div_right (by omega)
  have hbytes : (List.range 4).map (fun k => x (4 * (n / f.per) + k)) = (List.range 4).map (fun k => y (4 * (n / f.per) + k)) :=
    List.map_congr_left (fun k hk => h _ (by have := List.mem_range.1 hk; omega))
  rw [EFmt.bitsAt, EFmt.bitsAt, hbytes]

/-- The partials of an element are those of any bytes that agree on the operands. -/
theorem mmaElement_congr {m : MOp} {xA yA xB yB : Nat → Byte} {lo hi : Nat}
    (h : ∀ b, lo ≤ b → b < hi → (∀ k ∈ m.args.offsA b, xA k = yA k) ∧ ∀ k ∈ m.args.offsB b, xB k = yB k) {r n : Nat} (hr : r < 128) (hn : n < 128)
    (c : Lane) : mmaElement m xA xB lo hi r n c = mmaElement m yA yB lo hi r n c := by
  have hL : m.args.L = 8 * (2 * 2 ^ (tdOf m.w1).blk) := by
    rw [← Nat.mul_assoc]
    rfl
  refine List.foldl_ext _ _ c (fun c b hb => ?_)
  obtain ⟨k, hk, rfl⟩ := List.mem_map.1 hb
  have hk' := List.mem_range.1 hk
  obtain ⟨hA, hB⟩ := h (lo + k) (by omega) (by omega)
  have hcol : (List.range m.args.L).map (fun i => m.args.f.value m.cb
        (m.args.f.bitsAt (fun o => xB (((lo + k) * m.args.L + i) * m.args.tb.rowStride m.args.f + o)) n)) =
      (List.range m.args.L).map (fun i => m.args.f.value m.cb
        (m.args.f.bitsAt (fun o => yB (((lo + k) * m.args.L + i) * m.args.tb.rowStride m.args.f + o)) n)) :=
    List.map_congr_left (fun i hi => congrArg _ (bitsAt_congr _ (fun o ho => hB _ (mem_offsB (List.mem_range.1 hi) ho)) hn))
  rw [planesBlk_congr hL hA hr, hcol]

/-! ## The tile -/

/-- The operand bytes that the engine uses (R143). -/
def usedA (s : State) (core : Nat) (m : MOp) : Nat → Byte :=
  s.pickByte core (s.ctxOf m.crew) m.since m.args.ta.rem (m.args.ta.base m.mrwin)
def usedB (s : State) (core : Nat) (m : MOp) : Nat → Byte :=
  s.pickByte core (s.ctxOf m.crew) m.since m.args.tb.rem (m.args.tb.base m.mrwin)

theorem getD_map_range {α : Type} (f : Nat → α) (d : α) {k n : Nat} (h : k < n) : ((Array.range n).map f).getD k d = f k := by
  simp [Array.getD, h]

theorem tileAt_mmaTile (s : State) (core : Nat) (m : MOp) (tile : Map Lane) (lo hi : Nat) {r n : Nat} (hr : r < 128) (hn : n < 128) :
    tileAt (s.mmaTile core m tile lo hi) r n = mmaElement m (usedA s core m) (usedB s core m) lo hi r n (tileAt tile r n) := by
  rw [State.mmaTile, tileAt_mkTile _ hr hn, getD_map_range _ _ hr, getD_map_range _ _ hn, List.zip_map', List.foldl_map]
  rfl

/-- The bytes that can be read are those that the engine uses. -/
theorem used_of_operandBytes {s : State} {core : Nat} {m : MOp} {lo hi : Nat} {bA bB : Nat → Byte} (h : OperandBytes s core m lo hi bA bB)
    (b : Nat) (hlo : lo ≤ b) (hhi : b < hi) :
    (∀ k ∈ m.args.offsA b, usedA s core m k = bA k) ∧ ∀ k ∈ m.args.offsB b, usedB s core m k = bB k := by
  obtain ⟨hA, hB⟩ := h b hlo hhi
  exact ⟨fun k hk => by rw [usedA, State.pickByte, hA k hk], fun k hk => by rw [usedB, State.pickByte, hB k hk]⟩

/-- No block meets a byte that cannot be read. -/
theorem blockFault_none {s : State} {core : Nat} {m : MOp} {lo hi : Nat} {bA bB : Nat → Byte} (h : OperandBytes s core m lo hi bA bB)
    {b : Nat} (hlo : lo ≤ b) (hhi : b < hi) : s.blockFault core m b = none := by
  obtain ⟨hA, hB⟩ := h b hlo hhi
  unfold State.blockFault
  dsimp only
  rw [List.findSome?_eq_none_iff.2 (fun k hk => by rw [hA k hk])]
  exact List.findSome?_eq_none_iff.2 (fun k hk => by rw [hB k hk])

theorem blocksReadable {s : State} {core : Nat} {m : MOp} {lo hi : Nat} {bA bB : Nat → Byte} (h : OperandBytes s core m lo hi bA bB) :
    ((List.range hi).drop lo).any (fun b => (s.blockFault core m b).isSome) = false := by
  rw [List.any_eq_false]
  intro b hb
  obtain ⟨k, hk, rfl⟩ := List.mem_iff_getElem.1 hb
  simp only [List.length_drop, List.length_range] at hk
  rw [List.getElem_drop, List.getElem_range, blockFault_none h (by omega) (by omega)]
  decide

end Sys2Proof.Proofs
end

section
/-! SUPPORT. The end of an `mma` (R145, R149, R154). -/

namespace Sys2Proof.Proofs

open Sys2Proof.Machine Sys2Proof.Laws Sys2Proof.Stmt

/-- The tile that an `mma` makes of its accumulator's. -/
def mmaResult (s : State) (core : Nat) (m : MOp) (v : Acc) : Map Lane := s.mmaTile core m (mmaStart m v) v.prog (m.args.K / m.args.L)

/-- The accumulator that holds it. -/
def withSums (m : MOp) (tile : Map Lane) (v : Acc) : Acc := { v with tile := tile, prog := 0, suspect := v.suspect && !(miwOf m.w0).zro }

/-- The state in which every block has been added. -/
def summed (u : State) (h a : Nat) (m : MOp) (tile : Map Lane) : State :=
  { replaced u h a (withSums m tile) m.pts with fresh := u.fresh + 1 }

/-- The operation leaves its core, or runs again for its check (R154). -/
def mmaDone (u : State) (core h a : Nat) (m : MOp) (tile : Map Lane) : State :=
  if m.checked then (summed u h a m tile).putMop core m { m with stage := .checking } else (summed u h a m tile).dropMop core m

theorem exec_mmaComplete_readable {s : State} {core h a : Nat} {m : MOp} {bA bB : Nat → Byte} (hr : Running s core h a .mma m)
    (hb : OperandBytes s core m (s.accOf h a).prog (m.args.K / m.args.L) bA bB) :
    exec (.mmaComplete core h a) s = .next (mmaDone (s.touchOperands core m).1 core h a m (mmaResult s core m (s.accOf h a))) := by
  have hfresh : (((s.touchOperands core m).1).updAcc h a (withSums m (mmaResult s core m (s.accOf h a)))).fresh = (s.touchOperands core m).1.fresh := by
    rw [State.updAcc, State.updCrew]
    split <;> rfl
  rw [exec_mmaComplete, execMmaComplete, hr.found]
  dsimp only
  rw [blocksReadable hb, mmaDone, summed, ← hfresh]
  rfl

section
variable {u : State} {core h a : Nat} {m : MOp} {tile : Map Lane}

theorem summed_keeps : (summed u h a m tile).cores = u.cores ∧ (summed u h a m tile).mem = u.mem := replaced_keeps ..

theorem accOf_mmaDone (h0 : h ≠ 0) (hc : crewOf u h ≠ none) (k : Nat) : (mmaDone u core h a m tile).accOf h k =
    if k = a then advanced (withSums m tile (u.accOf h a)) m.pts else u.accOf h k := by
  have hsummed : (summed u h a m tile).accOf h k = if k = a then advanced (withSums m tile (u.accOf h a)) m.pts else u.accOf h k :=
    (State.accOf_congr h0 rfl rfl k).trans (accOf_replaced h0 hc a _ m.pts k)
  rw [mmaDone, ← hsummed]
  split
  · obtain ⟨hcrew, hcrews, -⟩ := State.putMop_keeps (summed u h a m tile) core m { m with stage := .checking }
    exact State.accOf_congr h0 hcrew hcrews k
  · exact State.accOf_dropMop h0 core m k

theorem mmaDone_mem : (mmaDone u core h a m tile).mem = u.mem := by
  rw [mmaDone]
  split
  · rw [(State.putMop_keeps ..).2.2.1, summed_keeps.2]
  · rw [(State.dropMop_keeps ..).2.2.1, summed_keeps.2]

theorem mops_mmaDone_unchecked (hw : NoneWaits (u.coreAt core).mops) (hm : m.checked = false) :
    ((mmaDone u core h a m tile).coreAt core).mops = (u.coreAt core).mops.filter (fun q => q != m) := by
  have hcore : (summed u h a m tile).coreAt core = u.coreAt core := State.coreAt_congr summed_keeps.1 core
  rw [mmaDone, hm, if_neg Bool.false_ne_true, State.coreAt_dropMop (by rw [hcore]; exact hw), hcore]

theorem mops_mmaDone_checked (hm : m.checked = true) : ((mmaDone u core h a m tile).coreAt core).mops =
    (u.coreAt core).mops.map (fun q => if q = m then { m with stage := .checking } else q) := by
  have hcore : (summed u h a m tile).coreAt core = u.coreAt core := State.coreAt_congr summed_keeps.1 core
  rw [mmaDone, if_pos hm, State.coreAt_putMop, hcore]

end

/-- The elements that the first block of an `mma` is added to (R145). -/
theorem tileAt_mmaStart (m : MOp) (v : Acc) (r n : Nat) :
    tileAt (mmaStart m v) r n = if (miwOf m.w0).zro && v.prog == 0 then 0#32 else tileAt v.tile r n := by
  rw [mmaStart]
  split <;> rfl

theorem mmaComplete_ends {s : State} {core h a : Nat} {m : MOp} {bA bB : Nat → Byte} (hr : Running s core h a .mma m)
    (hb : OperandBytes s core m (s.accOf h a).prog (m.args.K / m.args.L) bA bB) :
    ∃ t, exec (.mmaComplete core h a) s = .next t ∧
      (t.accOf h a).ver = (s.accOf h a).ver + 1#16 ∧ (t.accOf h a).prog = 0 ∧ (t.accOf h a).vacant = (s.accOf h a).vacant ∧
      (t.accOf h a).suspect = ((s.accOf h a).suspect && !(miwOf m.w0).zro) ∧ (∀ k, k ≠ a → t.accOf h k = s.accOf h k) ∧
      (∀ r n, r < 128 → n < 128 → tileAt (t.accOf h a).tile r n =
        mmaElement m bA bB (s.accOf h a).prog (m.args.K / m.args.L) r n
          (if (miwOf m.w0).zro && (s.accOf h a).prog == 0 then 0#32 else tileAt (s.accOf h a).tile r n)) ∧
      (m.args.ta.rem = false → m.args.tb.rem = false → MemoryKept s t) ∧
      (m.checked = false → Leaves s t core m) ∧
      (m.checked = true → (t.coreAt core).mops = (s.coreAt core).mops.map (fun q => if q = m then { m with stage := .checking } else q)) := by
  have hu := State.touchOperands_unwritten s core m
  have hr' := hr.of_unwritten hu
  have hacc (k : Nat) : (mmaDone (s.touchOperands core m).1 core h a m (mmaResult s core m (s.accOf h a))).accOf h k =
      if k = a then advanced (withSums m (mmaResult s core m (s.accOf h a)) (s.accOf h a)) m.pts else s.accOf h k := by
    rw [accOf_mmaDone hr'.crew hr'.present, accOf_of_unwritten hr.crew hu k, accOf_of_unwritten hr.crew hu a]
  refine ⟨_, exec_mmaComplete_readable hr hb, ?ver, ?prog, ?vacant, ?suspect, fun k hk => ?others, fun r n hrow hcol => ?tile,
    fun ha hb => ?mem, fun hm => ?unchecked, fun hm => ?checked⟩
  case ver => simp [hacc, advanced, withSums]
  case prog => simp [hacc, advanced, withSums]
  case vacant => simp [hacc, advanced, withSums]
  case suspect => simp [hacc, advanced, withSums]
  case others => rw [hacc, if_neg hk]
  case tile =>
    have htile : ((mmaDone (s.touchOperands core m).1 core h a m (mmaResult s core m (s.accOf h a))).accOf h a).tile =
        mmaResult s core m (s.accOf h a) := by simp [hacc, advanced, withSums]
    rw [htile, mmaResult, tileAt_mmaTile _ _ _ _ _ _ hrow hcol, mmaElement_congr (used_of_operandBytes hb) hrow hcol, tileAt_mmaStart]
  case mem => exact memoryKept_of_mem (mmaDone_mem.trans (State.touchOperands_mem s core ha hb))
  case unchecked => exact (mops_mmaDone_unchecked hr'.noneWaits hm).trans (by rw [coreAt_of_unwritten hu])
  case checked => exact (mops_mmaDone_checked hm).trans (by rw [coreAt_of_unwritten hu])

end Sys2Proof.Proofs
end

section
/-! SUPPORT. Bytes of LM that have been written and have not expired (R210, R211): what a write leaves of those outside its span. -/

namespace Sys2Proof.Proofs

open Sys2Proof.Machine Sys2Proof.Laws Sys2Proof.Stmt

/-! ## Expiry (R210) -/

/-- An LM byte holds a value, and its line has not expired. -/
def LmHolds (s : State) (k : Nat) (v : Byte) : Prop := lmAt s k = v ∧ s.lmExpired (k / 256) = false

/-- The ages and marks of the lines of LM. -/
def lmAges (s : State) : Map Nat × Map Bool := (s.lmStamp, s.lmMark)

theorem lmExpired_congr {s t : State} (h : noLm t = noLm s) (hages : lmAges t = lmAges s) (l : Nat) : t.lmExpired l = s.lmExpired l := by
  have hcrew : t.crew = s.crew := (congrArg State.crew h :)
  have hcrews : t.crews = s.crews := (congrArg State.crews h :)
  have hps : t.ps = s.ps := (congrArg State.ps h :)
  have hretn : t.lmretn = s.lmretn := (congrArg State.lmretn h :)
  have hstamp : t.lmStamp = s.lmStamp := (congrArg Prod.fst hages :)
  have hmark : t.lmMark = s.lmMark := (congrArg Prod.snd hages :)
  rw [State.lmExpired, State.lmExpired, State.heldLine, State.heldLine, State.lmAge, State.lmAge, State.lmStampOf, State.lmStampOf,
    State.micros, State.micros, hcrew, hcrews, hps, hretn, hstamp, hmark]

theorem lmHolds_congr {s t : State} (h : noLm t = noLm s) (hages : lmAges t = lmAges s) (hlm : t.lm = s.lm) (k : Nat) (v : Byte) :
    LmHolds t k v ↔ LmHolds s k v := by
  rw [LmHolds, LmHolds, lmExpired_congr h hages, lmAt, lmAt, hlm]

/-- A line that is stamped has not expired. -/
theorem lmExpired_lmStampLine {s : State} (hguard : lmGuard < s.lmretn) (line l : Nat) :
    (s.lmStampLine line).lmExpired l = if l = line then false else s.lmExpired l := by
  have hstamp : (s.lmStampLine line).lmStampOf l = if l = line then s.micros else s.lmStampOf l := Map.find_put ..
  have hmark : Map.find noPoison (s.lmStampLine line).lmMark l = if l = line then false else Map.find noPoison s.lmMark l :=
    Map.find_put noPoison s.lmMark l line false
  have hrest : (s.lmStampLine line).heldLine l = s.heldLine l ∧ (s.lmStampLine line).micros = s.micros ∧
      (s.lmStampLine line).lmretn = s.lmretn := ⟨rfl, rfl, rfl⟩
  obtain ⟨hheld, hmicros, hretn⟩ := hrest
  rw [State.lmExpired, State.lmAge, hstamp, hmark, hheld, hmicros, hretn]
  split
  · have hage : ¬ s.lmretn - lmGuard ≤ s.micros - s.micros := by omega
    rw [decide_eq_false hage, Bool.or_false, Bool.and_false]
  · rfl

/-! ## One line -/

theorem lmAges_lmPut (s : State) (core off : Nat) (bs : List Byte) : lmAges (s.lmPut core off bs) = lmAges s := by
  induction bs generalizing s off with
  | nil => rfl
  | cons b rest ih => rw [State.lmPut, ih]; rfl

theorem lmAges_lmLog (s : State) (core off : Nat) (bs : List Byte) : lmAges (s.lmLog core off bs) = lmAges s := by
  unfold State.lmLog
  split
  · rfl
  · refine foldl_keeps lmAges _ (fun s e => ?_) _ s
    split
    · rfl
    · unfold State.logByte
      split <;> rfl

section
variable {s : State} {core off : Nat} {bs : List Byte} (hguard : lmGuard < s.lmretn)
include hguard

/-- The expiry of lines after a write within one of them. -/
theorem lmExpired_lmWriteLine (l : Nat) : (s.lmWriteLine core off bs).lmExpired l = if l = lmLineOf core off then false else s.lmExpired l := by
  have hkept : ∀ u : State, noLm u = noLm s → lmAges u = lmAges s → ((u.lmPut core off bs).lmStampLine (lmLineOf core off)).lmExpired l =
      if l = lmLineOf core off then false else s.lmExpired l := by
    intro u hu hages
    have hput : noLm (u.lmPut core off bs) = noLm s := (State.lmPut_noLm ..).trans hu
    have hretn : (u.lmPut core off bs).lmretn = s.lmretn := (congrArg State.lmretn hput :)
    rw [lmExpired_lmStampLine (by rw [hretn]; exact hguard), lmExpired_congr hput ((lmAges_lmPut ..).trans hages)]
  rw [State.lmWriteLine]
  split
  · exact hkept _ (State.lmPut_noLm ..) (lmAges_lmPut ..)
  · exact hkept _ (State.lmLog_noLm ..) (lmAges_lmLog ..)

theorem lmHolds_lmWriteLine_inside (hline : off % 256 + bs.length ≤ 256) {k : Nat} (h : k < bs.length) :
    LmHolds (s.lmWriteLine core off bs) (lmKey core off + k) bs[k] := by
  have hoff := lmKey_line core off
  have hmod := lmKey_mod core off
  refine ⟨lmAt_lmWriteLine_inside s core off bs h, ?_⟩
  rw [lmExpired_lmWriteLine hguard, if_pos (by unfold lmLineOf; omega)]

/-- A byte outside the span holds its value also in the line that is written. -/
theorem lmHolds_lmWriteLine_outside (hline : off % 256 + bs.length ≤ 256) {k : Nat} {v : Byte}
    (h : k < lmKey core off ∨ lmKey core off + bs.length ≤ k) (hk : LmHolds s k v) : LmHolds (s.lmWriteLine core off bs) k v := by
  obtain ⟨hat, hlive⟩ := hk
  rw [LmHolds, lmExpired_lmWriteLine hguard]
  by_cases hl : k / 256 = lmLineOf core off
  · rw [hl] at hlive
    have hstamp (t : State) (l : Nat) : lmAt (t.lmStampLine l) k = lmAt t k := rfl
    have hlog : lmAt (s.lmLog core off bs) k = v := by rw [← hat, lmAt, lmAt, State.lmLog_lm]
    rw [State.lmWriteLine, hlive, hstamp]
    refine ⟨?_, if_pos hl⟩
    rw [if_neg Bool.false_ne_true, lmAt_lmPut_outside _ _ _ _ h, hlog]
  · rw [lmAt_lmWriteLine_outside s core off bs hline (fun e => hl e.symm), if_neg hl]
    exact ⟨hat, hlive⟩

end

/-! ## Any span -/

theorem lmretn_of_noLm {s t : State} (h : noLm t = noLm s) : t.lmretn = s.lmretn := (congrArg State.lmretn h :)

theorem lmHolds_lmWriteFuel_outside {s : State} {core : Nat} {v : Byte} (hguard : lmGuard < s.lmretn) (fuel : Nat) {off : Nat} {bs : List Byte} {k : Nat}
    (h : k < lmKey core off ∨ lmKey core off + bs.length ≤ k) (hk : LmHolds s k v) : LmHolds (s.lmWriteFuel fuel core off bs) k v := by
  induction fuel generalizing s off bs with
  | zero => exact hk
  | succ fuel ih =>
    rw [State.lmWriteFuel]
    split
    · exact hk
    · have hfirst : off % 256 + (bs.take (256 - off % 256)).length ≤ 256 := by rw [List.length_take]; omega
      have hretn := lmretn_of_noLm (State.lmWriteLine_noLm s core off (bs.take (256 - off % 256)))
      refine ih (by rw [hretn]; exact hguard) (by rw [lmKey_add, List.length_drop]; omega)
        (lmHolds_lmWriteLine_outside hguard hfirst (by rw [List.length_take]; omega) hk)

theorem lmHolds_lmWriteFuel_inside {s : State} {core : Nat} (hguard : lmGuard < s.lmretn) (fuel : Nat) {off : Nat} {bs : List Byte} {k : Nat}
    (h : k < bs.length) (hfuel : off % 256 + bs.length ≤ 256 * fuel) : LmHolds (s.lmWriteFuel fuel core off bs) (lmKey core off + k) bs[k] := by
  induction fuel generalizing s off bs k with
  | zero => omega
  | succ fuel ih =>
    have hne : ¬ (bs.isEmpty = true) := by rw [List.isEmpty_iff]; rintro rfl; simp at h
    have hretn := lmretn_of_noLm (State.lmWriteLine_noLm s core off (bs.take (256 - off % 256)))
    rw [State.lmWriteFuel, if_neg hne]
    by_cases hk : k < 256 - off % 256
    · have hin : k < (bs.take (256 - off % 256)).length := by rw [List.length_take]; omega
      have hfirst := lmHolds_lmWriteLine_inside (core := core) (off := off) hguard (by rw [List.length_take]; omega) hin
      rw [List.getElem_take] at hfirst
      exact lmHolds_lmWriteFuel_outside (by rw [hretn]; exact hguard) fuel (.inl (by rw [lmKey_add]; omega)) hfirst
    · have hin : k - (256 - off % 256) < (bs.drop (256 - off % 256)).length := by rw [List.length_drop]; omega
      have hrest := ih (s := s.lmWriteLine core off (bs.take (256 - off % 256))) (by rw [hretn]; exact hguard)
        (off := off + (256 - off % 256)) hin (by rw [List.length_drop]; omega)
      simp only [lmKey_add, List.getElem_drop, Nat.add_assoc, Nat.add_sub_cancel' (Nat.le_of_not_lt hk)] at hrest
      exact hrest

/-- Clearing the poison of sectors leaves every byte and its age. -/
theorem lmHolds_clearPoison (s : State) (core off n : Nat) (l : List Nat) (k : Nat) (v : Byte) :
    LmHolds (l.foldl (fun s x => if off ≤ x ∧ x + 32 ≤ off + n then s.lmSetPoison core x false else s) s) k v ↔ LmHolds s k v := by
  refine iff_of_eq (foldl_keeps (fun s => LmHolds s k v) _ (fun s x => ?_) l s)
  split <;> rfl

section
variable {s : State} {core off : Nat} {bs : List Byte} (hguard : lmGuard < s.lmretn)
include hguard

theorem lmHolds_lmWrite_inside {k : Nat} (h : k < bs.length) : LmHolds (s.lmWrite core off bs) (lmKey core off + k) bs[k] :=
  (lmHolds_clearPoison ..).2 (lmHolds_lmWriteFuel_inside hguard _ h (by omega))

theorem lmHolds_lmWrite_outside {k : Nat} {v : Byte} (h : k < lmKey core off ∨ lmKey core off + bs.length ≤ k) (hk : LmHolds s k v) :
    LmHolds (s.lmWrite core off bs) k v :=
  (lmHolds_clearPoison ..).2 (lmHolds_lmWriteFuel_outside hguard _ h hk)

end

theorem lmHolds_lmTouch (s : State) (core off n : Nat) (write : Bool) (k : Nat) (v : Byte) :
    LmHolds (s.lmTouch core off n write) k v ↔ LmHolds s k v := by
  have h := State.lmTouch_noRegions s core off n write
  exact lmHolds_congr (State.noLm_of_noRegions h) (congrArg lmAges h :) (State.lmTouch_lm ..) k v

end Sys2Proof.Proofs
end

section
/-! SUPPORT. The rows of an `mst` to LM (R163): where their words lie, and that each row keeps its bytes while the next ones are stored. -/

namespace Sys2Proof.Proofs

open Sys2Proof.Machine Sys2Proof.Laws Sys2Proof.Stmt

/-! ## A span of LM that is written -/

/-- A span of LM holds its bytes, and bytes outside it stand. -/
structure LmWrites (s t : State) (core off : Nat) (bs : List Byte) : Prop where
  rest : unwritten t = unwritten s
  mem : t.mem = s.mem
  inside : ∀ k (h : k < bs.length), LmHolds t (lmKey core off + k) bs[k]
  outside : ∀ k v, (k < lmKey core off ∨ lmKey core off + bs.length ≤ k) → LmHolds s k v → LmHolds t k v

theorem lmretn_of_unwritten {s t : State} (h : unwritten t = unwritten s) : t.lmretn = s.lmretn := (congrArg State.lmretn h :)

theorem LmWrites.nil (s : State) (core off : Nat) : LmWrites s s core off [] :=
  ⟨rfl, rfl, fun _ h => absurd h (Nat.not_lt_zero _), fun _ _ _ hk => hk⟩

/-- Two spans that lie one behind the other. -/
theorem LmWrites.append {s t u : State} {core off : Nat} {xs ys : List Byte} (hx : LmWrites s t core off xs)
    (hy : LmWrites t u core (off + xs.length) ys) : LmWrites s u core off (xs ++ ys) := by
  have hkey := lmKey_add core off xs.length
  refine ⟨hy.rest.trans hx.rest, hy.mem.trans hx.mem, fun k h => ?inside, fun k v h hk => ?outside⟩
  case inside =>
    rw [List.length_append] at h
    rw [List.getElem_append]
    split
    · next hk => exact hy.outside _ _ (.inl (by omega)) (hx.inside k hk)
    · next hk =>
      have hlast := hy.inside (k - xs.length) (by omega)
      rwa [hkey, Nat.add_assoc, Nat.add_sub_cancel' (Nat.le_of_not_lt hk)] at hlast
  case outside =>
    rw [List.length_append] at h
    exact hy.outside k v (by omega) (hx.outside k v (by omega) hk)

theorem lmWrites_engWrite {s : State} (hguard : lmGuard < s.lmretn) (core id p off : Nat) (bs : List Byte) :
    LmWrites s (s.engWrite core id p (.lm off) bs).1 core off bs := by
  have hu : unwritten ((s.lmTouch core off bs.length true).lmWrite core off bs) = unwritten s :=
    (State.unwritten_of_noLm (State.lmWrite_noLm ..)).trans (State.lmTouch_unwritten ..)
  have hguard' : lmGuard < (s.lmTouch core off bs.length true).lmretn := by rwa [lmretn_of_unwritten (State.lmTouch_unwritten ..)]
  refine ⟨hu, ?mem, fun k h => ?inside, fun k v h hk => ?outside⟩
  case mem => exact (State.lmWrite_mem ..).trans (State.lmTouch_mem ..)
  case inside => exact lmHolds_lmWrite_inside hguard' h
  case outside => exact lmHolds_lmWrite_outside hguard' h ((lmHolds_lmTouch ..).2 hk)

/-- Poison leaves the bytes of LM (R156). -/
theorem LmWrites.placePoison {s t : State} {core off : Nat} {bs : List Byte} (h : LmWrites s t core off bs) (o : Nat) :
    LmWrites s (t.placePoison core (.lm o)) core off bs :=
  ⟨h.rest, h.mem, h.inside, h.outside⟩

/-! ## Words one after the other -/

/-- The words of a row lie one after the other in LM. -/
def PlacedFrom (off : Nat) : List (Option Place × List Byte) → Prop
  | [] => True
  | w :: ws => w.1 = some (.lm off) ∧ w.2.length = 4 ∧ PlacedFrom (off + 4) ws

/-- The bytes of words. -/
def wordBytes (ws : List (Option Place × List Byte)) : List Byte := ws.flatMap Prod.snd

theorem PlacedFrom.length_bytes {off : Nat} {ws : List (Option Place × List Byte)} (h : PlacedFrom off ws) :
    (wordBytes ws).length = 4 * ws.length := by
  induction ws generalizing off with
  | nil => rfl
  | cons w ws ih =>
    obtain ⟨-, hlen, hrest⟩ := h
    have htail := ih hrest
    simp only [wordBytes] at htail
    rw [wordBytes, List.flatMap_cons, List.length_append, hlen, htail, List.length_cons]
    omega

theorem PlacedFrom.take {off : Nat} {ws : List (Option Place × List Byte)} (h : PlacedFrom off ws) (n : Nat) : PlacedFrom off (ws.take n) := by
  induction ws generalizing off n with
  | nil => rw [List.take_nil]; trivial
  | cons w ws ih =>
    cases n with
    | zero => trivial
    | succ n =>
      obtain ⟨hplace, hlen, hrest⟩ := h
      exact ⟨hplace, hlen, ih hrest n⟩

theorem PlacedFrom.drop {off : Nat} {ws : List (Option Place × List Byte)} (h : PlacedFrom off ws) (n : Nat) :
    PlacedFrom (off + 4 * n) (ws.drop n) := by
  induction ws generalizing off n with
  | nil => rw [List.drop_nil]; trivial
  | cons w ws ih =>
    cases n with
    | zero => exact h
    | succ n =>
      have hrest := ih h.2.2 n
      rwa [Nat.add_assoc, show 4 + 4 * n = 4 * (n + 1) by omega] at hrest

/-- A run of words is the first of them, and its bytes are theirs. -/
theorem flatMap_run (rest : List (Option Place × List Byte)) (p : (Option Place × List Byte) × Nat → Bool) :
    (rest.zipIdx.takeWhile p).flatMap (fun e => e.1.2) = wordBytes (rest.take (rest.zipIdx.takeWhile p).length) ∧
      (rest.zipIdx.takeWhile p).length ≤ rest.length := by
  have hprefix := List.takeWhile_prefix (l := rest.zipIdx) p
  have hfst : (rest.zipIdx.takeWhile p).map Prod.fst = rest.take (rest.zipIdx.takeWhile p).length := by
    conv_lhs => rw [List.prefix_iff_eq_take.1 hprefix]
    rw [List.map_take, List.zipIdx_map_fst]
  refine ⟨?_, by simpa using hprefix.length_le⟩
  rw [← hfst, wordBytes, List.flatMap_map]

/-- A word goes on with the run that begins at a place. -/
def joinsRun (p : Place) (e : (Option Place × List Byte) × Nat) : Bool :=
  match e.1.1 with | some q => p.follows q (4 * (e.2 + 1)) | none => false

/-- How many words behind the first belong to its run. -/
def runLength (p : Place) (rest : List (Option Place × List Byte)) : Nat := (rest.zipIdx.takeWhile (joinsRun p)).length

theorem runLength_le (p : Place) (rest : List (Option Place × List Byte)) : runLength p rest ≤ rest.length := (flatMap_run rest _).2

/-- The write of the first run, and of those behind it. -/
theorem storeRuns_cons (s : State) (core id pts fuel : Nat) (p : Place) (b : List Byte) (rest : List (Option Place × List Byte)) :
    s.storeRuns core id pts (fuel + 1) ((some p, b) :: rest) =
      let r := s.engWrite core id pts p (b ++ wordBytes (rest.take (runLength p rest)))
      let next := r.1.storeRuns core id pts fuel (rest.drop (runLength p rest))
      (next.1, max r.2 next.2) := by
  rw [runLength, ← (flatMap_run rest (joinsRun p)).1]
  rfl

theorem storeRuns_placed {s : State} (hguard : lmGuard < s.lmretn) (core id pts fuel : Nat) {off : Nat} {ws : List (Option Place × List Byte)}
    (hws : PlacedFrom off ws) (hfuel : ws.length ≤ fuel) :
    LmWrites s (s.storeRuns core id pts fuel ws).1 core off (wordBytes ws) ∧ (s.storeRuns core id pts fuel ws).2 = 0 := by
  induction fuel generalizing s off ws with
  | zero =>
    rw [List.length_eq_zero_iff.1 (Nat.le_zero.1 hfuel)]
    exact ⟨LmWrites.nil s core off, rfl⟩
  | succ fuel ih =>
    cases ws with
    | nil => exact ⟨LmWrites.nil s core off, rfl⟩
    | cons w rest =>
      obtain ⟨p, b⟩ := w
      obtain ⟨hplace, hlen, hrest⟩ := hws
      dsimp only at hplace hlen
      subst hplace
      rw [storeRuns_cons]
      have hshort := runLength_le (.lm off) rest
      dsimp only
      have hfirst := lmWrites_engWrite hguard core id pts off (b ++ wordBytes (rest.take (runLength (.lm off) rest)))
      have hspan : off + (b ++ wordBytes (rest.take (runLength (.lm off) rest))).length = off + 4 + 4 * (runLength (.lm off) rest) := by
        rw [List.length_append, (hrest.take _).length_bytes, List.length_take, hlen]
        omega
      have hnext := ih (s := (s.engWrite core id pts (.lm off) (b ++ wordBytes (rest.take (runLength (.lm off) rest)))).1)
        (by rwa [lmretn_of_unwritten hfirst.rest]) (hrest.drop (runLength (.lm off) rest)) (by rw [List.length_drop]; simp only [List.length_cons] at hfuel; omega)
      rw [← hspan] at hnext
      have hall : wordBytes ((some (.lm off), b) :: rest) = (b ++ wordBytes (rest.take (runLength (.lm off) rest))) ++ wordBytes (rest.drop (runLength (.lm off) rest)) := by
        rw [List.append_assoc, wordBytes, wordBytes, wordBytes, ← List.flatMap_append, List.take_append_drop, List.flatMap_cons]
      rw [hall]
      exact ⟨hfirst.append hnext.1, by rw [hnext.2]; rfl⟩

/-! ## A row (R163) -/

/-- The words of a row of bytes from an offset up. -/
def rowWords (base : Nat) (bs : List Byte) (n : Nat) : List (Option Place × List Byte) :=
  (List.range n).map (fun j => (some (.lm (base + 4 * j)), (bs.drop (4 * j)).take 4))

theorem rowWords_succ (base : Nat) (bs : List Byte) (n : Nat) :
    rowWords base bs (n + 1) = (some (.lm base), bs.take 4) :: rowWords (base + 4) (bs.drop 4) n := by
  rw [rowWords, List.range_succ_eq_map, List.map_cons, List.map_map, rowWords]
  refine congrArg₂ List.cons rfl (List.map_congr_left (fun j _ => ?_))
  rw [Function.comp_apply, List.drop_drop, show base + 4 * (j + 1) = base + 4 + 4 * j by omega, show 4 * (j + 1) = 4 + 4 * j by omega]

theorem placedFrom_rowWords {base n : Nat} {bs : List Byte} (h : bs.length = 4 * n) :
    PlacedFrom base (rowWords base bs n) ∧ wordBytes (rowWords base bs n) = bs := by
  induction n generalizing base bs with
  | zero => exact ⟨trivial, (List.length_eq_zero_iff.1 h).symm⟩
  | succ n ih =>
    obtain ⟨hplaced, hbytes⟩ := ih (base := base + 4) (bs := bs.drop 4) (by rw [List.length_drop]; omega)
    rw [rowWords_succ]
    refine ⟨⟨rfl, by rw [List.length_take]; omega, hplaced⟩, ?_⟩
    rw [wordBytes] at hbytes ⊢
    rw [List.flatMap_cons, hbytes, List.take_append_drop]

theorem length_packRow (width per : Nat) (codes : List Nat) : (packRow width per codes).length = 4 * ((codes.length + per - 1) / per) := by
  rw [packRow, List.length_flatMap]
  simp [Nat.mul_comm]

/-- A row has the bytes of a packed output row. -/
theorem length_mstRow (m : MOp) (tile : Map Lane) (r : Nat) :
    (mstRow m tile r).length = outRowBytes (outWidth (epwOf m.w1).ofmt ((epwOf m.w1).nf m.nf)) := by
  rw [mstRow, length_packRow, List.length_map, List.length_range]
  rfl

end Sys2Proof.Proofs
end

section
/-! SUPPORT. An `mst` to LM from its first row to its last (R163, R164). -/

namespace Sys2Proof.Proofs

open Sys2Proof.Machine Sys2Proof.Laws Sys2Proof.Stmt

/-! ## One row -/

/-- Where a row of an `mst` to LM lies. -/
def rowBase (m : MOp) (r : Nat) : Nat := m.w2.toNat + r * (epwOf m.w1).rowStride m.nf

theorem mstPlaces_lm {m : MOp} (hlm : (epwOf m.w1).dest = false) (s : State) (core r n : Nat) :
    s.mstPlaces core m r n = (List.range n).map (fun j => .ok (.lm (rowBase m r + 4 * j))) := by
  simp only [State.mstPlaces, hlm, Bool.false_eq_true, if_false]
  rfl

theorem spansOf_none {ws : List (Nat × Option Cause × List Byte)} (h : ∀ e ∈ ws, e.2.1 = none) (fuel : Nat) : spansOf fuel ws = [] := by
  cases fuel with
  | zero => rfl
  | succ fuel =>
    have hnone : ws.dropWhile (fun e => e.2.1.isNone) = [] := List.dropWhile_eq_nil_iff.2 (fun e he => by rw [h e he]; rfl)
    rw [spansOf, hnone]
    rfl

theorem State.sfrRoom_zero (s : State) (h : Nat) : s.sfrRoom h 0 = true := by
  unfold State.sfrRoom
  split <;> simp

theorem perWord_pos (w : Nat) : 0 < perWord w := by
  unfold perWord perLane
  split
  · decide
  · split
    · decide
    · split
      · decide
      · split <;> decide

/-- The state with the words of a row stored, and its poison where the accumulator is SUSPECT. -/
def rowStored (s : State) (core : Nat) (m : MOp) (r : Nat) : State :=
  let bs := mstRow m (s.accOf m.crew m.acc).tile r
  let t := (s.storeRuns core m.id m.pts 200 (rowWords (rowBase m r) bs (bs.length / 4))).1
  if (s.accOf m.crew m.acc).suspect then t.poisonRow core ((List.range (bs.length / 4)).map (fun j => some (.lm (rowBase m r + 4 * j)))) else t

/-- A row of an `mst` to LM waits for nothing and makes no record. -/
theorem mstStoreRow_lm {m : MOp} (hlm : (epwOf m.w1).dest = false) (s : State) (core r : Nat) : s.mstStoreRow core m r =
    some (rowStored s core m r, (s.storeRuns core m.id m.pts 200 (rowWords (rowBase m r) (mstRow m (s.accOf m.crew m.acc).tile r)
      ((mstRow m (s.accOf m.crew m.acc).tile r).length / 4))).2) := by
  unfold State.mstStoreRow
  dsimp only
  rw [mstPlaces_lm hlm, spansOf_none, if_neg, if_neg]
  case h =>
    intro e he
    obtain ⟨p, hp, hnone⟩ := List.mem_map.1 (List.of_mem_zip (List.of_mem_zip he).2).1
    obtain ⟨j, -, rfl⟩ := List.mem_map.1 hp
    exact hnone.symm
  · rw [List.filterMap_nil, List.foldl_nil, List.zipIdx_map, List.foldl_map, List.foldl_fixed' (fun _ => by rfl), List.map_map, List.zip_map',
      rowStored]
    rfl
  · rw [List.filterMap_nil, List.length_nil, State.sfrRoom_zero, State.placesDue, List.all_eq_true.2]
    · decide
    · intro p hp
      rw [List.map_map] at hp
      obtain ⟨j, -, rfl⟩ := List.mem_map.1 hp
      rfl
  · rw [Bool.not_eq_true, List.any_eq_false]
    intro p hp
    obtain ⟨j, -, rfl⟩ := List.mem_map.1 hp
    exact Bool.false_ne_true

/-- Poison leaves the bytes of a row. -/
theorem LmWrites.poisonRow {s t : State} {core off : Nat} {bs : List Byte} (h : LmWrites s t core off bs) (os : List Nat) (f : Nat → Nat) :
    LmWrites s (t.poisonRow core (os.map (fun j => some (.lm (f j))))) core off bs := by
  rw [State.poisonRow, List.foldl_map]
  exact foldl_invariant (fun u => LmWrites s u core off bs) _ (fun u j hu => hu.placePoison (f j)) os t h

theorem length_mstRow_eq_words (m : MOp) (tile : Map Lane) (r : Nat) : (mstRow m tile r).length = 4 * ((mstRow m tile r).length / 4) := by
  rw [length_mstRow, outRowBytes]
  omega

/-- A row holds at most 128 words. -/
theorem length_mstRow_le (m : MOp) (tile : Map Lane) (r : Nat) : (mstRow m tile r).length ≤ 512 := by
  have hper : 0 < perWord (outWidth (epwOf m.w1).ofmt ((epwOf m.w1).nf m.nf)) := perWord_pos _
  have hwords : (128 + perWord (outWidth (epwOf m.w1).ofmt ((epwOf m.w1).nf m.nf)) - 1) / perWord (outWidth (epwOf m.w1).ofmt ((epwOf m.w1).nf m.nf)) ≤ 128 := by
    rw [Nat.div_le_iff_le_mul_add_pred hper]
    have hle := Nat.le_mul_of_pos_left 128 hper
    omega
  rw [length_mstRow, outRowBytes]
  omega

theorem lmWrites_row {m : MOp} {s : State} (hguard : lmGuard < s.lmretn) (core r : Nat) :
    LmWrites s (rowStored s core m r) core (rowBase m r) (mstRow m (s.accOf m.crew m.acc).tile r) ∧
      (s.storeRuns core m.id m.pts 200 (rowWords (rowBase m r) (mstRow m (s.accOf m.crew m.acc).tile r)
        ((mstRow m (s.accOf m.crew m.acc).tile r).length / 4))).2 = 0 := by
  obtain ⟨hplaced, hbytes⟩ := placedFrom_rowWords (base := rowBase m r) (length_mstRow_eq_words m (s.accOf m.crew m.acc).tile r)
  have hlen := length_mstRow_le m (s.accOf m.crew m.acc).tile r
  obtain ⟨hwrites, hclock⟩ := storeRuns_placed hguard core m.id m.pts 200 hplaced (by rw [rowWords, List.length_map, List.length_range]; omega)
  rw [hbytes] at hwrites
  refine ⟨?_, hclock⟩
  rw [rowStored]
  split
  · exact hwrites.poisonRow _ _
  · exact hwrites

/-! ## All rows -/

/-- The operation with its next row stored. -/
def rowDone (s : State) (core : Nat) (m : MOp) (n : Nat) : MOp :=
  { m with rows := m.rows + 1, stored := m.stored ++ (s.mstPlaces core m m.rows n).filterMap Except.toOption }

/-- No place of a row to LM lies in memory. -/
theorem filterMap_mstPlaces_lm {α : Type} {m : MOp} (hlm : (epwOf m.w1).dest = false) {g : Place → Option α} (hg : ∀ o, g (.lm o) = none)
    (s : State) (core r n : Nat) : ((s.mstPlaces core m r n).filterMap Except.toOption).filterMap g = [] := by
  rw [mstPlaces_lm hlm, List.filterMap_eq_nil_iff]
  intro p hp
  obtain ⟨e, he, hpe⟩ := List.mem_filterMap.1 hp
  obtain ⟨j, -, rfl⟩ := List.mem_map.1 he
  rw [← Option.some.inj hpe]
  exact hg _

/-- A row is stored, and no line is given up. -/
theorem mstRows_step {m : MOp} (hlm : (epwOf m.w1).dest = false) {s : State} (hguard : lmGuard < s.lmretn) (core fuel : Nat) (hrow : m.rows < 128) :
    s.mstRows core (fuel + 1) m 0 = (rowStored s core m m.rows).mstRows core fuel
      (rowDone s core m (outRowBytes (outWidth (epwOf m.w1).ofmt ((epwOf m.w1).nf m.nf)) / 4)) 0 := by
  have hclock := (lmWrites_row (m := m) hguard core m.rows).2
  rw [State.mstRows, if_neg (by omega), mstStoreRow_lm hlm, hclock]
  dsimp only
  rw [filterMap_mstPlaces_lm hlm]
  · rfl
  · exact fun _ => rfl

/-- The tile that an `mst` stores. -/
def storedTile (s : State) (m : MOp) : Map Lane := (s.accOf m.crew m.acc).tile

/-- The rows of an `mst` from row `lo` on stand in LM. -/
structure RowsStored (s u : State) (core : Nat) (m : MOp) (tile : Map Lane) (lo : Nat) : Prop where
  rest : unwritten u = unwritten s
  mem : u.mem = s.mem
  rows : ∀ r k, lo ≤ r → r < 128 → ∀ h : k < (mstRow m tile r).length, LmHolds u (lmKey core (rowBase m r) + k) (mstRow m tile r)[k]
  outside : ∀ k v, k < lmKey core (rowBase m lo) → LmHolds s k v → LmHolds u k v

/-- Each row ends before the next one begins (R56). -/
theorem rowBase_lt {m : MOp} {tile : Map Lane} {r q k : Nat} (hok : (epwOf m.w1).okMst m.nf = true) (hr : r < q)
    (hk : k < (mstRow m tile r).length) (core : Nat) : lmKey core (rowBase m r) + k < lmKey core (rowBase m q) := by
  have hstride : (mstRow m tile r).length ≤ (epwOf m.w1).rowStride m.nf := by
    simp only [Epw.okMst, Bool.and_eq_true, decide_eq_true_eq] at hok
    rw [length_mstRow]
    exact hok.2
  have hnext := Nat.mul_le_mul_right ((epwOf m.w1).rowStride m.nf) (show r + 1 ≤ q from hr)
  rw [Nat.add_mul, Nat.one_mul] at hnext
  rw [rowBase, rowBase, lmKey_add, lmKey_add]
  omega

/-- A first row, and those behind it. -/
theorem RowsStored.cons {s t u : State} {core : Nat} {m : MOp} {tile : Map Lane} {lo : Nat} (hok : (epwOf m.w1).okMst m.nf = true)
    (hfirst : LmWrites s t core (rowBase m lo) (mstRow m tile lo)) (hrest : RowsStored t u core m tile (lo + 1)) : RowsStored s u core m tile lo := by
  refine ⟨hrest.rest.trans hfirst.rest, hrest.mem.trans hfirst.mem, fun r k hlo hr hk => ?rows, fun k v hk hv => ?outside⟩
  case rows =>
    by_cases he : lo = r
    · subst he
      exact hrest.outside _ _ (rowBase_lt hok (Nat.lt_succ_self lo) hk core) (hfirst.inside k hk)
    · exact hrest.rows r k (by omega) hr hk
  case outside =>
    have hbase : lmKey core (rowBase m lo) ≤ lmKey core (rowBase m (lo + 1)) := by
      have hmul := Nat.mul_le_mul_right ((epwOf m.w1).rowStride m.nf) (Nat.le_add_right lo 1)
      rw [rowBase, rowBase, lmKey_add, lmKey_add]
      omega
    exact hrest.outside k v (by omega) (hfirst.outside k v (.inl hk) hv)

/-- Every row that is left is stored. -/
theorem mstRows_lm (core fuel : Nat) {m : MOp} (h0 : m.crew ≠ 0) (hlm : (epwOf m.w1).dest = false) (hok : (epwOf m.w1).okMst m.nf = true)
    (hfuel : m.rows + fuel = 128) {s : State} (hguard : lmGuard < s.lmretn) :
    ∃ u n, s.mstRows core fuel m 0 = (u, n, 0) ∧ n.rows = 128 ∧ n.stage = m.stage ∧ RowsStored s u core m (storedTile s m) m.rows := by
  induction fuel generalizing s m with
  | zero =>
    exact ⟨s, m, rfl, by omega, rfl, rfl, rfl, fun r k hlo hr => by omega, fun k v _ hv => hv⟩
  | succ fuel ih =>
    have hrow := (lmWrites_row (m := m) hguard core m.rows).1
    obtain ⟨u, n, hu, hrows, hstage, hstored⟩ := ih
      (m := rowDone s core m (outRowBytes (outWidth (epwOf m.w1).ofmt ((epwOf m.w1).nf m.nf)) / 4)) h0 hlm hok
      (by rw [rowDone]; dsimp only; omega) (s := rowStored s core m m.rows) (by rwa [lmretn_of_unwritten hrow.rest])
    have htile : storedTile (rowStored s core m m.rows) (rowDone s core m (outRowBytes (outWidth (epwOf m.w1).ofmt ((epwOf m.w1).nf m.nf)) / 4)) =
        storedTile s m := congrArg Acc.tile (accOf_of_unwritten h0 hrow.rest m.acc)
    rw [htile] at hstored
    have hstored' : RowsStored (rowStored s core m m.rows) u core m (storedTile s m) (m.rows + 1) :=
      ⟨hstored.rest, hstored.mem, hstored.rows, hstored.outside⟩
    exact ⟨u, n, by rw [mstRows_step hlm hguard core fuel (by omega), hu], hrows, hstage, hstored'.cons hok hrow⟩

/-! ## The end of an `mst` to LM -/

theorem lmAt_row {s u : State} {core : Nat} {m : MOp} {tile : Map Lane} (h : RowsStored s u core m tile 0) {r k : Nat} (hr : r < 128)
    (hk : k < (mstRow m tile r).length) : lmAt u (lmKey core (rowBase m r) + k) = (mstRow m tile r).getD k 0#8 := by
  rw [List.getD_eq_getElem _ _ hk]
  exact (h.rows r k (Nat.zero_le r) hr hk).1

/-- Lanes of one element each are packed as they stand. -/
theorem packRow_lanes (f : Nat → Lane) (n : Nat) :
    packRow 32 1 ((List.range n).map (fun k => (f k).toNat)) = (List.range n).flatMap (fun k => bytesLE 4 (f k).toNat) := by
  rw [packRow, List.length_map, List.length_range, Nat.add_sub_cancel, Nat.div_one]
  refine List.flatMap_congr (fun w hw => ?_)
  have hw' : w < ((List.range n).map (fun k => (f k).toNat)).length := by simpa using hw
  have hone : (((List.range n).map (fun k => (f k).toNat)).drop (w * 1)).take 1 = [(f w).toNat] := by
    rw [Nat.mul_one, List.drop_eq_getElem_cons hw', List.take_succ_cons, List.take_zero, List.getElem_map, List.getElem_range]
  rw [hone, List.foldr_cons, List.foldr_nil, Nat.mul_zero, Nat.add_zero, Nat.mod_eq_of_lt (f w).isLt]

/-- OFMT 0 with neither vectors nor an activation stores the lanes of the tile (R163, R164). -/
theorem mstRow_plain {m : MOp} (hofmt : (epwOf m.w1).ofmt = 0) (hact : (epwOf m.w1).act = 0) (hvecs : (epwOf m.w1).vecBytes = 0)
    (tile : Map Lane) (r : Nat) : mstRow m tile r = (List.range 128).flatMap (fun n => bytesLE 4 (tileAt tile r n).toNat) := by
  have hflags := (Nat.mul_eq_zero.1 hvecs).resolve_left (by decide)
  simp only [Nat.add_eq_zero_iff, ite_eq_right_iff, Nat.one_ne_zero, imp_false, Bool.not_eq_true] at hflags
  obtain ⟨⟨hrows, hcols⟩, hbias⟩ := hflags
  rw [← packRow_lanes (tileAt tile r), mstRow]
  simp only [hofmt, hact, hrows, hcols, hbias]
  rfl

theorem mstComplete_lm {s : State} {core h a : Nat} {m : MOp} (hr : Running s core h a .mst m) (hrows : m.rows = 0) (hlm : (epwOf m.w1).dest = false)
    (hok : (epwOf m.w1).okMst m.nf = true) (hguard : lmGuard < s.lmretn) (hc : (s.coreAt core).checkPending h a = false) :
    ∃ t, exec (.mstComplete core h a) s = .next t ∧ (t.accOf h a).ver = (s.accOf h a).ver + 1#16 ∧ (∀ b, t.byteAt b = s.byteAt b) ∧
      (∀ r k, r < 128 → k < (mstRow m (s.accOf h a).tile r).length →
        lmAt t (lmKey core (m.w2.toNat + r * (epwOf m.w1).rowStride m.nf) + k) = (mstRow m (s.accOf h a).tile r).getD k 0#8) ∧
      ((epwOf m.w1).ofmt = 0 → (epwOf m.w1).act = 0 → (epwOf m.w1).vecBytes = 0 → ∀ r, r < 128 →
        mstRow m (s.accOf h a).tile r = (List.range 128).flatMap (fun n => bytesLE 4 (tileAt (s.accOf h a).tile r n).toNat)) := by
  obtain ⟨u, n, hu, hn, hstage, hstored⟩ := mstRows_lm core 128 (m := m) (by rw [hr.crew_eq]; exact hr.crew) hlm hok (by omega) hguard
  have htile : storedTile s m = (s.accOf h a).tile := by rw [storedTile, hr.crew_eq, hr.acc_eq]
  rw [htile, hrows] at hstored
  have hr' := hr.of_unwritten hstored.rest
  have hacc := accOf_mstDone (core := core) (a := a) (m := m) (n := n) (w := 0) hr'.crew hr'.present a
  refine ⟨_, exec_mstComplete_stored hr hu hn (checkPending_storedRows (hstage.trans hr.stage_eq) 0 (by rwa [coreAt_of_unwritten hstored.rest])),
    ?ver, memoryKept_of_mem (mstDone_mem.trans hstored.mem), fun r k hrow hk => ?row, fun hofmt hact hvecs r _ => mstRow_plain hofmt hact hvecs _ r⟩
  case ver => rw [hacc, if_pos rfl, accOf_of_unwritten hr.crew hstored.rest]; rfl
  case row =>
    rw [lmAt, mstDone_lm]
    exact lmAt_row hstored hrow hk

end Sys2Proof.Proofs
end

section
/-! PROOF. O47: how accumulator operations end. -/

namespace Sys2Proof.Proofs

open Sys2Proof.Machine Sys2Proof.Laws Sys2Proof.Stmt

/-- Settles O47: each step is taken apart by its operation. What it reads is only touched, so the accumulator and the queue change as the
completion says; a cause enters the wave in focus; the rows of an `mst` lie apart, so each keeps its bytes. -/
theorem accumulatorSteps : Obligations.AccumulatorSteps := by
  refine ⟨?mma, ?suspend, ?mzero, ?mld, ?discard, ?mst, ?rows⟩
  case mma => exact fun s core h a m bA bB hr hb => mmaComplete_ends (running_of_runs hr) hb
  case suspend =>
    exact fun s core h a m c role addr hr hears hblocks hlive hfault hhalt hstale =>
      mmaSuspend_ends (running_of_runs hr) hears hblocks hlive hfault hhalt hstale
  case mzero => exact fun s core h a m hr => mzeroComplete_ends (running_of_runs hr)
  case mld => exact fun s core h a m b hr hb => mldComplete_ends (running_of_runs hr) hb
  case discard =>
    exact fun s core h a m c addr hr hears hfault hhalt hstale => mldDiscard_ends (running_of_runs hr) hears hfault hhalt hstale
  case mst => exact fun s core h a m hr hrows hc => mstComplete_ends (running_of_runs hr) hrows hc
  case rows =>
    exact fun s core h a m hr hrows hlm hok _ _ hguard hc => mstComplete_lm (running_of_runs hr) hrows hlm hok hguard hc

end Sys2Proof.Proofs
end

section
/-! PROOF. O16: the scalar loads, stores and atomics and `cbload` as they issue (R170, R200, R204). -/

namespace Sys2Proof.Proofs

open Sys2Proof.Machine Sys2Proof.Laws Sys2Proof.Stmt

/-- The access of one address as its word issues: ALIGN, or the access is queued and the wave goes on (R198). -/
def scalarAccess (s : State) (y : Bool) (size : Nat) (op : AccOp) (addr data : Word) : State :=
  if addr.toNat % size ≠ 0 then s.trap .align addr else (s.pushAccess op [request 0 addr data 0#32] false).advance y

section
variable {i : Instr} {s : State} {y : Bool} {op : AccOp}

/-- Queuing an access changes nothing else but the pc and what the end of a word sets (R177, R198). -/
theorem queuesAccess_of_exec {lanes : List LaneReq} {stream : Bool} (h : exec i s = .next ((s.pushAccess op lanes stream).advance y)) :
    QueuesAccess i s y op lanes stream :=
  ⟨_, h, rfl, rfl, fun _ => rfl, ⟨rfl, rfl⟩, rfl, goesOn_advanceTo (w := (s.pushAccess op lanes stream).wave) rfl, rfl,
    restKept_advanceTo (w := (s.pushAccess op lanes stream).wave)⟩

variable {size : Nat} {addr data : Word} (h : exec i s = .next (scalarAccess s y size op addr data))
include h

theorem queuesAccess_of_aligned (ha : addr.toNat % size = 0) : QueuesAccess i s y op [request 0 addr data 0#32] false :=
  queuesAccess_of_exec (by rw [h, scalarAccess, if_neg (not_not_intro ha)])

theorem exec_of_misaligned (ha : addr.toNat % size ≠ 0) : exec i s = .next (s.trap .align addr) := by
  rw [h, scalarAccess, if_pos ha]

end

/-! ## The words of the tables -/

theorem loadTable_exec : ∀ e ∈ loadTable, ∀ y d a i s, exec (e.1 y d a i) s = s.loadWord y d a i e.2.1 e.2.2 := by
  intro e he y d a i s
  fin_cases he
  all_goals rfl

theorem storeTable_exec : ∀ e ∈ storeTable, ∀ y d a i s, exec (e.1 y d a i) s = s.storeWord y d a i e.2 := by
  intro e he y d a i s
  fin_cases he
  all_goals rfl

theorem atomicTable_exec : ∀ e ∈ atomicTable, ∀ y d a b s, exec (e.1 y d a b) s = s.atomicWord y d a b (fun _ => e.2.1) e.2.2 := by
  intro e he y d a b s
  fin_cases he
  all_goals rfl

/-! ## Each word is a scalar access -/

section
variable {s : State} (hs : Live s) (y : Bool) (d a : Reg)
include hs

/-- A scalar load or store is at S[A] plus the offset times the size (R200). -/
theorem State.loadWord_live (i : BitVec 9) (size : Nat) (signed : Bool) : s.loadWord y d a i size signed =
    .next (scalarAccess s y size (.ld d size signed) (s.getS a + i.signExtend 64 * BitVec.ofNat 64 size) 0#64) :=
  State.onWave_live s _ hs

theorem State.storeWord_live (i : BitVec 9) (size : Nat) : s.storeWord y d a i size =
    .next (scalarAccess s y size (.st 0 0#32 size) (s.getS a + i.signExtend 64 * BitVec.ofNat 64 size) (s.getS d)) :=
  State.onWave_live s _ hs

/-- A scalar atomic is at S[A], with S[B] as its operand (R204). -/
theorem State.atomicWord_live (b : Reg) (op : State → AtomOp) (size : Nat) : s.atomicWord y d a b op size =
    .next (scalarAccess s y size (.atomic (op s) d) (s.getS a) (s.getS b)) :=
  State.onWave_live s _ hs

theorem exec_load {e : (Bool → Reg → Reg → BitVec 9 → Instr) × Nat × Bool} (he : e ∈ loadTable) (i : BitVec 9) : exec (e.1 y d a i) s =
    .next (scalarAccess s y e.2.1 (.ld d e.2.1 e.2.2) (s.getS a + i.signExtend 64 * BitVec.ofNat 64 e.2.1) 0#64) :=
  (loadTable_exec e he y d a i s).trans (State.loadWord_live hs y d a i e.2.1 e.2.2)

theorem exec_store {e : (Bool → Reg → Reg → BitVec 9 → Instr) × Nat} (he : e ∈ storeTable) (i : BitVec 9) : exec (e.1 y d a i) s =
    .next (scalarAccess s y e.2 (.st 0 0#32 e.2) (s.getS a + i.signExtend 64 * BitVec.ofNat 64 e.2) (s.getS d)) :=
  (storeTable_exec e he y d a i s).trans (State.storeWord_live hs y d a i e.2)

theorem exec_atomic {e : (Bool → Reg → Reg → Reg → Instr) × AtomOp × Nat} (he : e ∈ atomicTable) (b : Reg) : exec (e.1 y d a b) s =
    .next (scalarAccess s y e.2.2 (.atomic e.2.1 d) (s.getS a) (s.getS b)) :=
  (atomicTable_exec e he y d a b s).trans (State.atomicWord_live hs y d a b (fun _ => e.2.1) e.2.2)

variable {d}

/-- `cbload` of one of the four codebooks: 32 bytes at S[A] (R170). -/
theorem exec_cbload_listed (hd : d ≤ 3#7) : exec (.cbload y d a) s = .next (scalarAccess s y 32 (.cb d.toNat) (s.getS a) 0#64) := by
  rw [exec_cbload, execCbload, State.onWave_live s _ hs]
  simp only [if_neg (Nat.not_lt.2 (BitVec.le_def.1 hd) : ¬ 3 < d.toNat)]
  rfl

theorem exec_cbload_unlisted (hd : 3#7 < d) : exec (.cbload y d a) s = .next (s.trap .operand 0#64) := by
  have h3 : 3 < d.toNat := BitVec.lt_def.1 hd
  rw [exec_cbload, execCbload, State.onWave_live s _ hs]
  simp only [h3, if_true]

end

/-- Settles O16: each word is a scalar access, which is queued where its address is aligned and raises ALIGN where it is not. -/
theorem scalarMemoryWords : Obligations.ScalarMemoryWords := by
  refine ⟨?load, ?loadAlign, ?store, ?storeAlign, ?atomic, ?atomicAlign, ?acas, ?cbload, ?cbloadOperand, ?cbloadAlign⟩
  case load => exact fun e he y d a i s hs ha => queuesAccess_of_aligned (exec_load hs y d a he i) ha
  case loadAlign => exact fun e he y d a i s hs ha => exec_of_misaligned (exec_load hs y d a he i) ha
  case store => exact fun e he y d a i s hs ha => queuesAccess_of_aligned (exec_store hs y d a he i) ha
  case storeAlign => exact fun e he y d a i s hs ha => exec_of_misaligned (exec_store hs y d a he i) ha
  case atomic => exact fun e he y d a b s hs ha => queuesAccess_of_aligned (exec_atomic hs y d a he b) ha
  case atomicAlign => exact fun e he y d a b s hs ha => exec_of_misaligned (exec_atomic hs y d a he b) ha
  case acas => exact fun y d a b s hs ha => queuesAccess_of_aligned (State.atomicWord_live hs y d a b (fun s => .cas (s.getS d)) 8) ha
  case cbload => exact fun y d a s hs hd ha => queuesAccess_of_aligned (exec_cbload_listed hs y a hd) ha
  case cbloadOperand => exact fun y d a s hs hd => exec_cbload_unlisted hs y a hd
  case cbloadAlign => exact fun y d a s hs hd ha => exec_of_misaligned (exec_cbload_listed hs y a hd) ha

end Sys2Proof.Proofs
end
